-- ==== Sys2Proof/Word.lean ====
section
/-! DEFINITION. Words, tagged vector values, sparse tables, and the operand shapes of the RISC-V base rows. -/

namespace Sys2Proof

abbrev Byte := BitVec 8
abbrev Word := BitVec 64

/-- A 1,024-bit value with its five-bit format tag (R161, R201). A 64-bit value stands in bits [63:0]
with the other bits zero and tag 0x00 (R158). -/
structure TVal where
  bits : BitVec 1024
  tag  : BitVec 5
  deriving DecidableEq, Repr, Inhabited

/-- A 64-bit value as R158 and R279 widen it. -/
def TVal.ofWord (w : Word) : TVal := ⟨w.setWidth 1024, 0⟩

/-- Bits [63:0] of a wide value (R161). -/
def TVal.word (v : TVal) : Word := v.bits.setWidth 64

/-- A sparse table: pairs of key and value, keys rising. What a missing key reads as is the reader's
argument. -/
abbrev Tab (α : Type) := List (Nat × α)

/-- The entry of a key, if it is listed. -/
def Tab.find {α : Type} : Tab α → Nat → Option α
  | [], _ => none
  | (k, v) :: t, n => if k = n then some v else Tab.find t n

/-- The value of a key, `d` where the key is not listed. -/
def Tab.get {α : Type} (d : α) (t : Tab α) (n : Nat) : α := (Tab.find t n).getD d

/-- Put a value at a key, keeping the keys rising. -/
def Tab.put {α : Type} : Tab α → Nat → α → Tab α
  | [], n, a => [(n, a)]
  | (k, v) :: t, n, a =>
    if n < k then (n, a) :: (k, v) :: t
    else if n = k then (n, a) :: t
    else (k, v) :: Tab.put t n a

/-- Remove a key. -/
def Tab.del {α : Type} : Tab α → Nat → Tab α
  | [], _ => []
  | (k, v) :: t, n => if k = n then t else (k, v) :: Tab.del t n

/-- A register file whose unlisted registers read either as the value named for reset (`unk` none) or,
after a group switch (R171), as free values numbered from the given count. -/
structure File (α : Type) where
  tab : Tab α
  unk : Option Nat
  deriving DecidableEq, Repr

def File.empty {α : Type} : File α := ⟨[], none⟩
def File.lost {α : Type} (n : Nat) : File α := ⟨[], some n⟩

/-- Read a file: `d` is the reset value, `free` the free values after a loss. -/
def File.get {α : Type} (d : α) (free : Nat → Nat → α) (f : File α) (n : Nat) : α :=
  match Tab.find f.tab n with
  | some v => v
  | none => match f.unk with
    | none => d
    | some e => free e n

def File.put {α : Type} (f : File α) (n : Nat) (a : α) : File α := { f with tab := Tab.put f.tab n a }

/-- Operands of the row PORTABLE_BRANCH_JUMP (R384): JAL, JALR and the conditional branches of RV64I. The
immediates are the encoded fields, in units of two bytes for `jal` and `branch`. -/
inductive JumpOp where
  | jal (rd : BitVec 5) (imm : BitVec 20)
  | jalr (rd rs1 : BitVec 5) (imm : BitVec 12)
  | branch (f3 : BitVec 3) (rs1 rs2 : BitVec 5) (imm : BitVec 12)
  deriving DecidableEq, Repr

/-- Operands of the row PORTABLE_INTEGER_OP (R384): the computational instructions of RV64I and M other
than the divides. -/
inductive IntOp where
  | lui (rd : BitVec 5) (imm : BitVec 20)
  | auipc (rd : BitVec 5) (imm : BitVec 20)
  | opImm (f3 : BitVec 3) (rd rs1 : BitVec 5) (imm : BitVec 12)
  | opImm32 (f3 : BitVec 3) (rd rs1 : BitVec 5) (imm : BitVec 12)
  | op (f7 : BitVec 7) (f3 : BitVec 3) (rd rs1 rs2 : BitVec 5)
  | op32 (f7 : BitVec 7) (f3 : BitVec 3) (rd rs1 rs2 : BitVec 5)
  deriving DecidableEq, Repr

/-- The kind of one translated access (R79). -/
inductive Acc where
  | read | write | code
  deriving DecidableEq, Repr

/-- A host PCIe atomic (R45). -/
inductive HostAtom where
  | fetchAdd | swap | cas
  deriving DecidableEq, Repr

/-- What a load request and the loader choose for one buffer of a code object (R259, R261): where it lies, the placement that the request
overrides the record's with, and, per segment, the S-die and first flash page of its copy (R114), and the VA of its segment map. -/
structure Placement where
  va     : Nat
  plc    : Option (BitVec 3)
  segMap : Nat
  segs   : List (Nat × Nat)
  deriving DecidableEq, Repr

/-- How the loader maps a code object (R261): the stores that write its page tables, and per die the address in the bundle cache from
which its native sections lie. -/
structure Mapping where
  stores : List (Nat × BitVec 64)
  caches : List Nat
  deriving DecidableEq, Repr

/-- Where a portable register lives (R402): its class (0 `x`, 1 `q`, 2 `m`) and number, and there the native file (0 `g`, 1 `o`, 2 `v`,
3 a bank, 4 the scratchpad) and the number or offset in it. -/
structure RegHome where
  cls  : Nat
  num  : Nat
  file : Nat
  at_  : Nat
  deriving DecidableEq, Repr

/-- The loader's record of a bundle (R402): the bundle, the offset in the portable list of the instruction that it stands for, and where
the portable registers live. -/
structure BunRec where
  bun   : Nat
  off   : Nat
  homes : List RegHome
  deriving DecidableEq, Repr

/-- A management core's translation of an entry (R262): its address in the bundle cache, its bundles, its marks, and the loader's record
(R402). A mark is a bundle, a slot and a value: the hint of an instruction that keeps its trap there (R267), or 8 at a `qpost`
(R398). -/
structure Translation where
  pa    : Nat
  words : List (BitVec 256)
  marks : List (Nat × Nat × Nat)
  recs  : List BunRec
  deriving DecidableEq, Repr

end Sys2Proof
end

