-- ==== Sys2Proof/Config.lean ====
section
/-! DEFINITION. What the spec leaves open: free values (no bodies, so nothing can be proved of them) and the functions
that the spec names and does not define. -/

namespace Sys2Proof.Config

/-- Contents of a 64-bit register, latch or port that a group switch has lost (R171), by loss and register (log 3). -/
opaque freeWord : Nat → Nat → BitVec 64
/-- Contents of a 1,024-bit register, latch or port that a group switch has lost (R171) (log 3). -/
opaque freeWide : Nat → Nat → BitVec 1024
/-- Its format tag, one of the nineteen codes of R201 that a register can hold (log 3). -/
opaque freeTag : Nat → Nat → Fin 19
/-- A predicate that a group switch has lost (R171) (log 3). -/
opaque freeBit : Nat → Nat → Bool
/-- An element of a bank before its first `me.clr` or `me.cls` (R186): FP32 bits and count (log 3). -/
opaque freeElem : Nat → Nat → BitVec 48

/-- A byte of a scratchpad or local buffer whose contents a hand-over has ended or a dispatch leaves unknown (R130, R386), by loss and
offset (log 3). -/
opaque freeByte : Nat → Nat → BitVec 8

/-- Which entry a full cache or TLB gives up (R80, R82, R88), by the count of free values (log 70). -/
opaque victim : Nat → Nat

/-- Does the RSA-3072 signature of a firmware image verify over it, and does its SLH-DSA-SHA2-192s signature (R41, log 9)? -/
opaque rsaVerifies : List (BitVec 8) → Bool
opaque slhVerifies : List (BitVec 8) → Bool
/-- The two public keys of an image's header, and its security version: the spec gives the header no layout (R41, log 9). -/
opaque imageRsaKey : List (BitVec 8) → List (BitVec 8)
opaque imageSlhKey : List (BitVec 8) → List (BitVec 8)
opaque imageVersion : List (BitVec 8) → Nat
/-- The identity keys that step 0x70 derives, from the boot number (R44, log 9). -/
opaque identityRsa : Nat → List (BitVec 8)
opaque identitySlh : Nat → List (BitVec 8)
/-- What the identity certificate says of them (R44, log 9). -/
opaque certificate : Nat → List (BitVec 8)
/-- The signatures of a body with a key (R44, log 9). -/
opaque signRsa : List (BitVec 8) → List (BitVec 8) → List (BitVec 8)
opaque signSlh : List (BitVec 8) → List (BitVec 8) → List (BitVec 8)

/-- Is this a translation of a portable list for a stepping, its marks and records with it (R262, R263, R402)? `Faithful` says what R263
asks of it (log 72). -/
opaque translates : List (BitVec 32) → Nat → Translation → Bool

/-- Where the MSI-X table of a function lies in its BAR0 (R46), and by engine and counter (0 `k.lreq`, 1 `k.rreq`) where PF0 reads the
counters of R87: the spec gives no offset (log 73). -/
opaque msixAt : Nat → Nat
opaque countAt : Nat → Nat → Nat

/-- The bytes of an entry of a recorded stream, of which R253 gives no form, by the count of free values (log 56). -/
opaque streamBytes : Nat → List (BitVec 8)

/-- TIME and DETAIL of a journal record (R38), which the spec does not fix, by the count of records (log 3). -/
opaque journalTime : Nat → BitVec 32
opaque journalDetail : Nat → BitVec 32

end Sys2Proof.Config
end

