-- ==== Sys2Proof/Syntax.lean ====
section
/-! DEFINITION. The abstract instructions: one constructor per row of spec/opcode_table.json, in its order.
Native moves carry the fields of R271 (g guard, s source, u unit of a pair, d destination, p port, k the K bit);
Xpol instructions the fields of R389 (h hint, a rs1, b rs2, d rd, t tag, o offset); the rows without bits carry the
agent they concern and the inputs that come from outside it. -/

namespace Sys2Proof

inductive Instr where
  /-- IA_ADD (R297). Integer unit adds port a and the trigger value modulo 2^64. -/
  | iaAdd (g : BitVec 3) (s : BitVec 10) (u : BitVec 1) (k : BitVec 1)
  /-- IA_SUB (R297). Integer unit subtracts the trigger value from port a. -/
  | iaSub (g : BitVec 3) (s : BitVec 10) (u : BitVec 1) (k : BitVec 1)
  /-- IA_AND (R297). Bitwise AND of port a and the trigger value. -/
  | iaAnd (g : BitVec 3) (s : BitVec 10) (u : BitVec 1) (k : BitVec 1)
  /-- IA_OR (R297). Bitwise OR of port a and the trigger value. -/
  | iaOr (g : BitVec 3) (s : BitVec 10) (u : BitVec 1) (k : BitVec 1)
  /-- IA_XOR (R297). Bitwise XOR of port a and the trigger value. -/
  | iaXor (g : BitVec 3) (s : BitVec 10) (u : BitVec 1) (k : BitVec 1)
  /-- IA_ANDN (R297). Port a AND NOT the trigger value. -/
  | iaAndn (g : BitVec 3) (s : BitVec 10) (u : BitVec 1) (k : BitVec 1)
  /-- IA_SHL (R297). Shifts port a left by the trigger value's low six bits. -/
  | iaShl (g : BitVec 3) (s : BitVec 10) (u : BitVec 1) (k : BitVec 1)
  /-- IA_SHR (R297). Logical right shift of port a. -/
  | iaShr (g : BitVec 3) (s : BitVec 10) (u : BitVec 1) (k : BitVec 1)
  /-- IA_SRA (R297). Arithmetic right shift of port a. -/
  | iaSra (g : BitVec 3) (s : BitVec 10) (u : BitVec 1) (k : BitVec 1)
  /-- IA_ROL (R297). Rotates port a left. -/
  | iaRol (g : BitVec 3) (s : BitVec 10) (u : BitVec 1) (k : BitVec 1)
  /-- IA_MIN (R297). Signed minimum of port a and the trigger value. -/
  | iaMin (g : BitVec 3) (s : BitVec 10) (u : BitVec 1) (k : BitVec 1)
  /-- IA_MAX (R297). Signed maximum of port a and the trigger value. -/
  | iaMax (g : BitVec 3) (s : BitVec 10) (u : BitVec 1) (k : BitVec 1)
  /-- IA_MINN (R297). Unsigned minimum. -/
  | iaMinn (g : BitVec 3) (s : BitVec 10) (u : BitVec 1) (k : BitVec 1)
  /-- IA_MAXN (R297). Unsigned maximum. -/
  | iaMaxn (g : BitVec 3) (s : BitVec 10) (u : BitVec 1) (k : BitVec 1)
  /-- IA_MUL (R298). Low 64 bits of the product, latency 3. -/
  | iaMul (g : BitVec 3) (s : BitVec 10) (u : BitVec 1) (k : BitVec 1)
  /-- IA_MULH (R298). High 64 bits of the signed product. -/
  | iaMulh (g : BitVec 3) (s : BitVec 10) (u : BitVec 1) (k : BitVec 1)
  /-- IA_MULHN (R298). High 64 bits of the unsigned product. -/
  | iaMulhn (g : BitVec 3) (s : BitVec 10) (u : BitVec 1) (k : BitVec 1)
  /-- IA_DIV (R299). Signed quotient over 20 cycles, IDZ on division by zero. -/
  | iaDiv (g : BitVec 3) (s : BitVec 10) (u : BitVec 1) (k : BitVec 1)
  /-- IA_DIVN (R299). Unsigned quotient. -/
  | iaDivn (g : BitVec 3) (s : BitVec 10) (u : BitVec 1) (k : BitVec 1)
  /-- IA_REM (R299). Signed remainder. -/
  | iaRem (g : BitVec 3) (s : BitVec 10) (u : BitVec 1) (k : BitVec 1)
  /-- IA_REMN (R299). Unsigned remainder. -/
  | iaRemn (g : BitVec 3) (s : BitVec 10) (u : BitVec 1) (k : BitVec 1)
  /-- IA_CMPEQ (R300). 1 when port a equals the trigger value. -/
  | iaCmpeq (g : BitVec 3) (s : BitVec 10) (u : BitVec 1) (k : BitVec 1)
  /-- IA_CMPNE (R300). 1 when port a differs from the trigger value. -/
  | iaCmpne (g : BitVec 3) (s : BitVec 10) (u : BitVec 1) (k : BitVec 1)
  /-- IA_CMPLT (R300). Signed less-than compare. -/
  | iaCmplt (g : BitVec 3) (s : BitVec 10) (u : BitVec 1) (k : BitVec 1)
  /-- IA_CMPLTN (R300). Unsigned less-than compare. -/
  | iaCmpltn (g : BitVec 3) (s : BitVec 10) (u : BitVec 1) (k : BitVec 1)
  /-- IA_CMPLE (R300). Signed less-or-equal compare. -/
  | iaCmple (g : BitVec 3) (s : BitVec 10) (u : BitVec 1) (k : BitVec 1)
  /-- IA_CMPLEN (R300). Unsigned less-or-equal compare. -/
  | iaCmplen (g : BitVec 3) (s : BitVec 10) (u : BitVec 1) (k : BitVec 1)
  /-- IA_SEL (R301). Selects port a or b by predicate p4-p7. -/
  | iaSel (g : BitVec 3) (s : BitVec 10) (u : BitVec 1) (k : BitVec 1)
  /-- IA_LEA (R302). Forms a + b shifted by the trigger value. -/
  | iaLea (g : BitVec 3) (s : BitVec 10) (u : BitVec 1) (k : BitVec 1)
  /-- IA_BFX (R302). Extracts a bit field of port a. -/
  | iaBfx (g : BitVec 3) (s : BitVec 10) (u : BitVec 1) (k : BitVec 1)
  /-- IA_BFI (R302). Inserts port b into a bit field of port a. -/
  | iaBfi (g : BitVec 3) (s : BitVec 10) (u : BitVec 1) (k : BitVec 1)
  /-- IA_CLZ (R297). Counts leading zeros of the trigger value. -/
  | iaClz (g : BitVec 3) (s : BitVec 10) (u : BitVec 1) (k : BitVec 1)
  /-- IA_CTZ (R297). Counts trailing zeros of the trigger value. -/
  | iaCtz (g : BitVec 3) (s : BitVec 10) (u : BitVec 1) (k : BitVec 1)
  /-- IA_POPC (R297). Counts one bits of the trigger value. -/
  | iaPopc (g : BitVec 3) (s : BitVec 10) (u : BitVec 1) (k : BitVec 1)
  /-- IA_MOV (R297). Returns the trigger value as a result. -/
  | iaMov (g : BitVec 3) (s : BitVec 10) (u : BitVec 1) (k : BitVec 1)
  /-- IA_SEXT (R302). Sign-extends port a from a bit position. -/
  | iaSext (g : BitVec 3) (s : BitVec 10) (u : BitVec 1) (k : BitVec 1)
  /-- IA_ZEXT (R302). Clears port a above a bit position. -/
  | iaZext (g : BitVec 3) (s : BitVec 10) (u : BitVec 1) (k : BitVec 1)
  /-- VADD (R325). Lane-wise vector addition. -/
  | vadd (g : BitVec 3) (s : BitVec 10) (u : BitVec 1) (k : BitVec 1)
  /-- VSUB (R325). Lane-wise vector subtraction. -/
  | vsub (g : BitVec 3) (s : BitVec 10) (u : BitVec 1) (k : BitVec 1)
  /-- VMUL (R325). Lane-wise vector multiplication. -/
  | vmul (g : BitVec 3) (s : BitVec 10) (u : BitVec 1) (k : BitVec 1)
  /-- VFMA (R325). Lane-wise fused multiply-add with one rounding. -/
  | vfma (g : BitVec 3) (s : BitVec 10) (u : BitVec 1) (k : BitVec 1)
  /-- VMAX (R326). Lane-wise maximum. -/
  | vmax (g : BitVec 3) (s : BitVec 10) (u : BitVec 1) (k : BitVec 1)
  /-- VMIN (R326). Lane-wise minimum. -/
  | vmin (g : BitVec 3) (s : BitVec 10) (u : BitVec 1) (k : BitVec 1)
  /-- VABS (R326). Lane-wise absolute value. -/
  | vabs (g : BitVec 3) (s : BitVec 10) (u : BitVec 1) (k : BitVec 1)
  /-- VNEG (R326). Lane-wise negation. -/
  | vneg (g : BitVec 3) (s : BitVec 10) (u : BitVec 1) (k : BitVec 1)
  /-- VCMPEQ (R327). Lane-wise equality into a Mask. -/
  | vcmpeq (g : BitVec 3) (s : BitVec 10) (u : BitVec 1) (k : BitVec 1)
  /-- VCMPLT (R327). Lane-wise less-than into a Mask. -/
  | vcmplt (g : BitVec 3) (s : BitVec 10) (u : BitVec 1) (k : BitVec 1)
  /-- VCMPLE (R327). Lane-wise less-or-equal into a Mask. -/
  | vcmple (g : BitVec 3) (s : BitVec 10) (u : BitVec 1) (k : BitVec 1)
  /-- VSEL (R328). Selects lanes of a or b by a Mask. -/
  | vsel (g : BitVec 3) (s : BitVec 10) (u : BitVec 1) (k : BitVec 1)
  /-- VCVT (R339). Converts elements to the destination format. -/
  | vcvt (g : BitVec 3) (s : BitVec 10) (u : BitVec 1) (k : BitVec 1)
  /-- VSPLAT (R330). Fills every lane with one bit pattern. -/
  | vsplat (g : BitVec 3) (s : BitVec 10) (u : BitVec 1) (k : BitVec 1)
  /-- VPERM (R332). Permutes bytes by selectors in port a. -/
  | vperm (g : BitVec 3) (s : BitVec 10) (u : BitVec 1) (k : BitVec 1)
  /-- VSHUF (R333). Rotates, reverses, deals, weaves or broadcasts lanes. -/
  | vshuf (g : BitVec 3) (s : BitVec 10) (u : BitVec 1) (k : BitVec 1)
  /-- VREDADD (R334). Sums all lanes by a fixed pairwise tree. -/
  | vredadd (g : BitVec 3) (s : BitVec 10) (u : BitVec 1) (k : BitVec 1)
  /-- VREDMAX (R334). Reduces all lanes to their maximum. -/
  | vredmax (g : BitVec 3) (s : BitVec 10) (u : BitVec 1) (k : BitVec 1)
  /-- VEXP2 (R335). Correctly rounded 2^x per lane. -/
  | vexp2 (g : BitVec 3) (s : BitVec 10) (u : BitVec 1) (k : BitVec 1)
  /-- VLOG2 (R335). Correctly rounded log2 per lane. -/
  | vlog2 (g : BitVec 3) (s : BitVec 10) (u : BitVec 1) (k : BitVec 1)
  /-- VRCP (R335). Correctly rounded reciprocal per lane. -/
  | vrcp (g : BitVec 3) (s : BitVec 10) (u : BitVec 1) (k : BitVec 1)
  /-- VRSQ (R335). Correctly rounded reciprocal square root per lane. -/
  | vrsq (g : BitVec 3) (s : BitVec 10) (u : BitVec 1) (k : BitVec 1)
  /-- VDOT2 (R336). Adds two 16-bit products to an FP32 addend per lane. -/
  | vdot2 (g : BitVec 3) (s : BitVec 10) (u : BitVec 1) (k : BitVec 1)
  /-- VSCL (R337). Applies a scale with one rounding. -/
  | vscl (g : BitVec 3) (s : BitVec 10) (u : BitVec 1) (k : BitVec 1)
  /-- VPLN (R338). Packs a plane-storage block into slice layout. -/
  | vpln (g : BitVec 3) (s : BitVec 10) (u : BitVec 1) (k : BitVec 1)
  /-- VUPL (R338). Unpacks slice layout into plane storage. -/
  | vupl (g : BitVec 3) (s : BitVec 10) (u : BitVec 1) (k : BitVec 1)
  /-- VAND (R329). Bitwise AND of 1,024 bits. -/
  | vand (g : BitVec 3) (s : BitVec 10) (u : BitVec 1) (k : BitVec 1)
  /-- VOR (R329). Bitwise OR of 1,024 bits. -/
  | vor (g : BitVec 3) (s : BitVec 10) (u : BitVec 1) (k : BitVec 1)
  /-- VXOR (R329). Bitwise XOR of 1,024 bits. -/
  | vxor (g : BitVec 3) (s : BitVec 10) (u : BitVec 1) (k : BitVec 1)
  /-- VSHL (R329). Shifts each lane left. -/
  | vshl (g : BitVec 3) (s : BitVec 10) (u : BitVec 1) (k : BitVec 1)
  /-- VSHR (R329). Shifts each lane right. -/
  | vshr (g : BitVec 3) (s : BitVec 10) (u : BitVec 1) (k : BitVec 1)
  /-- VIDX (R330). Forms an Index vector BASE + i·STEP. -/
  | vidx (g : BitVec 3) (s : BitVec 10) (u : BitVec 1) (k : BitVec 1)
  /-- VEXT (R331). Extracts one lane into lane 0. -/
  | vext (g : BitVec 3) (s : BitVec 10) (u : BitVec 1) (k : BitVec 1)
  /-- VINS (R331). Replaces one lane with a scalar. -/
  | vins (g : BitVec 3) (s : BitVec 10) (u : BitVec 1) (k : BitVec 1)
  /-- VCLMP (R326). Clamps each lane between ports a and b. -/
  | vclmp (g : BitVec 3) (s : BitVec 10) (u : BitVec 1) (k : BitVec 1)
  /-- VTAG (R340). Retags a value without changing its bits. -/
  | vtag (g : BitVec 3) (s : BitVec 10) (u : BitVec 1) (k : BitVec 1)
  /-- ME_PA (R181). Issues a command that stages an A slice into the engine FIFO. -/
  | mePa (g : BitVec 3) (s : BitVec 10) (k : BitVec 1)
  /-- ME_PB (R181). Issues a command that stages a B slice. -/
  | mePb (g : BitVec 3) (s : BitVec 10) (k : BitVec 1)
  /-- ME_ACC (R184). Issues a beat that accumulates the staged slices into a bank. -/
  | meAcc (g : BitVec 3) (s : BitVec 10) (k : BitVec 1)
  /-- ME_SH (R186). Issues a rotation of the staged slices. -/
  | meSh (g : BitVec 3) (s : BitVec 10) (k : BitVec 1)
  /-- ME_DR (R192). Issues a drain of one bank row group, returning a token. -/
  | meDr (g : BitVec 3) (s : BitVec 10) (k : BitVec 1)
  /-- ME_CLR (R186). Issues a clear of a bank. -/
  | meClr (g : BitVec 3) (s : BitVec 10) (k : BitVec 1)
  /-- ME_CLS (R186). Issues a class change and clear of a bank pair. -/
  | meCls (g : BitVec 3) (s : BitVec 10) (k : BitVec 1)
  /-- ME_THR (R191). Issues a write of the engine thresholds. -/
  | meThr (g : BitVec 3) (s : BitVec 10) (k : BitVec 1)
  /-- ME_SEQ (R193). Issues a macro-operation sequence of pushes, beats and drains. -/
  | meSeq (g : BitVec 3) (s : BitVec 10) (k : BitVec 1)
  /-- ME_SQS (R194). Signals the sequencer to stop, bypassing the FIFO. -/
  | meSqs (g : BitVec 3) (s : BitVec 10) (k : BitVec 1)
  /-- LS_LD (R351). Loads 8 bytes from the core scratchpad or window. -/
  | lsLd (g : BitVec 3) (s : BitVec 10) (k : BitVec 1)
  /-- LS_ST (R351). Stores 8 bytes at the address in port a. -/
  | lsSt (g : BitVec 3) (s : BitVec 10) (k : BitVec 1)
  /-- LS_VLD (R351). Loads 128 bytes, tag Raw. -/
  | lsVld (g : BitVec 3) (s : BitVec 10) (k : BitVec 1)
  /-- LS_VST (R351). Stores 128 bytes. -/
  | lsVst (g : BitVec 3) (s : BitVec 10) (k : BitVec 1)
  /-- LS_VLDS (R352). Loads lanes at a stride. -/
  | lsVlds (g : BitVec 3) (s : BitVec 10) (k : BitVec 1)
  /-- LS_VGAT (R353). Gathers elements through an Index vector. -/
  | lsVgat (g : BitVec 3) (s : BitVec 10) (k : BitVec 1)
  /-- LS_VSCA (R353). Scatters elements through an Index vector. -/
  | lsVsca (g : BitVec 3) (s : BitVec 10) (k : BitVec 1)
  /-- LS_CLD (R356). Loads 128 bytes of the cluster scratchpad through staging. -/
  | lsCld (g : BitVec 3) (s : BitVec 10) (k : BitVec 1)
  /-- LS_CST (R356). Stores 128 bytes into cluster-scratchpad write staging. -/
  | lsCst (g : BitVec 3) (s : BitVec 10) (k : BitVec 1)
  /-- LS_MST (R354). Stores lanes selected by a Mask. -/
  | lsMst (g : BitVec 3) (s : BitVec 10) (k : BitVec 1)
  /-- LS_PLD (R355). Reads plane storage into slice layout. -/
  | lsPld (g : BitVec 3) (s : BitVec 10) (k : BitVec 1)
  /-- LS_TLD (R351). Loads 128 bytes with a tag from port a. -/
  | lsTld (g : BitVec 3) (s : BitVec 10) (k : BitVec 1)
  /-- LS_ALD (R357). Loads one row group of an accumulator bank after its commands. -/
  | lsAld (g : BitVec 3) (s : BitVec 10) (k : BitVec 1)
  /-- LS_AST (R357). Stores one row group into an accumulator bank. -/
  | lsAst (g : BitVec 3) (s : BitVec 10) (k : BitVec 1)
  /-- CT_BR (R303). Relative control transfer. -/
  | ctBr (g : BitVec 3) (s : BitVec 10) (k : BitVec 1)
  /-- CT_BRC (R304). Conditional relative transfer on a predicate. -/
  | ctBrc (g : BitVec 3) (s : BitVec 10) (k : BitVec 1)
  /-- CT_CALL (R303). Relative transfer that lands the return address. -/
  | ctCall (g : BitVec 3) (s : BitVec 10) (k : BitVec 1)
  /-- CT_RET (R303). Transfer to an absolute address, as a return. -/
  | ctRet (g : BitVec 3) (s : BitVec 10) (k : BitVec 1)
  /-- CT_JR (R303). Transfer to an absolute address, as a computed jump. -/
  | ctJr (g : BitVec 3) (s : BitVec 10) (k : BitVec 1)
  /-- CT_LOOP (R306). Starts a modulo-scheduled hardware loop. -/
  | ctLoop (g : BitVec 3) (s : BitVec 10) (k : BitVec 1)
  /-- CT_LBRK (R307). Ends the active loop early at the end of the pass. -/
  | ctLbrk (g : BitVec 3) (s : BitVec 10) (k : BitVec 1)
  /-- CT_LEND (R308). Rebinds a vector bank to a slot. -/
  | ctLend (g : BitVec 3) (s : BitVec 10) (k : BitVec 1)
  /-- CT_FUSE (R309). Fuses the core into a tandem, system privilege only. -/
  | ctFuse (g : BitVec 3) (s : BitVec 10) (k : BitVec 1)
  /-- CT_DECOUPLE (R310). Lets tandem members fetch independently. -/
  | ctDecouple (g : BitVec 3) (s : BitVec 10) (k : BitVec 1)
  /-- CT_REJOIN (R310). Holds until every tandem member is present. -/
  | ctRejoin (g : BitVec 3) (s : BitVec 10) (k : BitVec 1)
  /-- CT_SUSP (R312). Retires or writes back the continuation. -/
  | ctSusp (g : BitVec 3) (s : BitVec 10) (k : BitVec 1)
  /-- CT_YIELD (R313). Suspension point in straight-line code when a request is pending. -/
  | ctYield (g : BitVec 3) (s : BitVec 10) (k : BitVec 1)
  /-- CT_TRAP (R314). Stops precisely with cause 0x0D. -/
  | ctTrap (g : BitVec 3) (s : BitVec 10) (k : BitVec 1)
  /-- CT_BRK (R314). Stops precisely with cause 0x0C. -/
  | ctBrk (g : BitVec 3) (s : BitVec 10) (k : BitVec 1)
  /-- CT_KR (R316). Reads a k-register. -/
  | ctKr (g : BitVec 3) (s : BitVec 10) (k : BitVec 1)
  /-- CT_KW (R317). Writes a k-register. -/
  | ctKw (g : BitVec 3) (s : BitVec 10) (k : BitVec 1)
  /-- CT_ERET (R315). Returns from a user-level interrupt handler. -/
  | ctEret (g : BitVec 3) (s : BitVec 10) (k : BitVec 1)
  /-- CT_PAND (R318). Predicate AND. -/
  | ctPand (g : BitVec 3) (s : BitVec 10) (k : BitVec 1)
  /-- CT_POR (R318). Predicate OR. -/
  | ctPor (g : BitVec 3) (s : BitVec 10) (k : BitVec 1)
  /-- CT_PXOR (R318). Predicate XOR. -/
  | ctPxor (g : BitVec 3) (s : BitVec 10) (k : BitVec 1)
  /-- CT_PNOT (R318). Predicate NOT. -/
  | ctPnot (g : BitVec 3) (s : BitVec 10) (k : BitVec 1)
  /-- CT_TOKW (R319). Holds slot 6 until n matrix tokens have returned. -/
  | ctTokw (g : BitVec 3) (s : BitVec 10) (k : BitVec 1)
  /-- AS_POST (R363). Hands a staged packet to a copy engine's queue. -/
  | asPost (g : BitVec 3) (s : BitVec 10) (k : BitVec 1)
  /-- AS_TWAIT (R364). Waits on a channel's timeline and acquires. -/
  | asTwait (g : BitVec 3) (s : BitVec 10) (k : BitVec 1)
  /-- AS_TSTAT (R365). Reads a channel's timeline without waiting. -/
  | asTstat (g : BitVec 3) (s : BitVec 10) (k : BitVec 1)
  /-- AS_BALLOC (R367). Allocates a barrier from the die's pool. -/
  | asBalloc (g : BitVec 3) (s : BitVec 10) (k : BitVec 1)
  /-- AS_BARR (R368). Counts one arrival once prior writes are performed. -/
  | asBarr (g : BitVec 3) (s : BitVec 10) (k : BitVec 1)
  /-- AS_BWAIT (R368). Waits for a barrier generation. -/
  | asBwait (g : BitVec 3) (s : BitVec 10) (k : BitVec 1)
  /-- AS_BFREE (R368). Frees a barrier. -/
  | asBfree (g : BitVec 3) (s : BitVec 10) (k : BitVec 1)
  /-- AS_HBIND (R370). Binds a region to a hasp. -/
  | asHbind (g : BitVec 3) (s : BitVec 10) (k : BitVec 1)
  /-- AS_HACQ (R371). Acquires a hasp under a condition and scope. -/
  | asHacq (g : BitVec 3) (s : BitVec 10) (k : BitVec 1)
  /-- AS_HREL (R372). Releases a hasp at a scope. -/
  | asHrel (g : BitVec 3) (s : BitVec 10) (k : BitVec 1)
  /-- AS_HPUB (R373). Publishes all prior writes at a scope. -/
  | asHpub (g : BitVec 3) (s : BitVec 10) (k : BitVec 1)
  /-- AS_HOBS (R373). Discards stale copies at a scope. -/
  | asHobs (g : BitVec 3) (s : BitVec 10) (k : BitVec 1)
  /-- AS_SAE (R374). Enqueues scatter-accumulate operations on the cluster SAE. -/
  | asSae (g : BitVec 3) (s : BitVec 10) (k : BitVec 1)
  /-- AS_SAER (R377). Reads the continuation's next SAE result entry. -/
  | asSaer (g : BitVec 3) (s : BitVec 10) (k : BitVec 1)
  /-- AS_TPOST (R378). Posts a continuation record to the task queue. -/
  | asTpost (g : BitVec 3) (s : BitVec 10) (k : BitVec 1)
  /-- AS_NOTIFY (R379). Sends a user-level interrupt to a core or an MSI-X to the host. -/
  | asNotify (g : BitVec 3) (s : BitVec 10) (k : BitVec 1)
  /-- AS_SORTX (R216). One compare-exchange stage of a sorting network over score pairs. -/
  | asSortx (g : BitVec 3) (s : BitVec 10) (k : BitVec 1)
  /-- AS_RND (R380). Draws 64 random bits from the entropy pool. -/
  | asRnd (g : BitVec 3) (s : BitVec 10) (k : BitVec 1)
  /-- AS_PMARK (R381). Writes a trace record of kind 2. -/
  | asPmark (g : BitVec 3) (s : BitVec 10) (k : BitVec 1)
  /-- AS_ICINV (R382). Discards cached code on the core's own die. -/
  | asIcinv (g : BitVec 3) (s : BitVec 10) (k : BitVec 1)
  /-- MOVE_TO_REGISTER (R279). A move writes a g, o, v or p register. -/
  | moveToRegister (g : BitVec 3) (s : BitVec 10) (d : BitVec 10)
  /-- MOVE_TO_PORT (R279). A move stores a value in a unit's operand port. -/
  | moveToPort (g : BitVec 3) (s : BitVec 10) (u : BitVec 4) (p : BitVec 2)
  /-- MOVE_TO_NULL_SINK (R279). A move to the null sink, including the no-op move. -/
  | moveToNullSink (g : BitVec 3) (s : BitVec 10)
  /-- QADD (R390). Portable vector add. -/
  | qadd (h : BitVec 3) (b : BitVec 5) (a : BitVec 5) (d : BitVec 5)
  /-- QSUB (R390). Portable vector subtract. -/
  | qsub (h : BitVec 3) (b : BitVec 5) (a : BitVec 5) (d : BitVec 5)
  /-- QMUL (R390). Portable vector multiply. -/
  | qmul (h : BitVec 3) (b : BitVec 5) (a : BitVec 5) (d : BitVec 5)
  /-- QFMA (R390). Portable fused multiply-add into qd. -/
  | qfma (h : BitVec 3) (b : BitVec 5) (a : BitVec 5) (d : BitVec 5)
  /-- QMAX (R390). Portable lane maximum. -/
  | qmax (h : BitVec 3) (b : BitVec 5) (a : BitVec 5) (d : BitVec 5)
  /-- QMIN (R390). Portable lane minimum. -/
  | qmin (h : BitVec 3) (b : BitVec 5) (a : BitVec 5) (d : BitVec 5)
  /-- QABS (R390). Portable lane absolute value. -/
  | qabs (h : BitVec 3) (a : BitVec 5) (d : BitVec 5)
  /-- QNEG (R390). Portable lane negation. -/
  | qneg (h : BitVec 3) (a : BitVec 5) (d : BitVec 5)
  /-- QCLMP (R390). Portable clamp. -/
  | qclmp (h : BitVec 3) (b : BitVec 5) (a : BitVec 5) (d : BitVec 5)
  /-- QCMPEQ (R390). Portable equality compare into a Mask. -/
  | qcmpeq (h : BitVec 3) (b : BitVec 5) (a : BitVec 5) (d : BitVec 5)
  /-- QCMPLT (R390). Portable less-than compare into a Mask. -/
  | qcmplt (h : BitVec 3) (b : BitVec 5) (a : BitVec 5) (d : BitVec 5)
  /-- QCMPLE (R390). Portable less-or-equal compare into a Mask. -/
  | qcmple (h : BitVec 3) (b : BitVec 5) (a : BitVec 5) (d : BitVec 5)
  /-- QSEL (R390). Portable lane select by the Mask in qd. -/
  | qsel (h : BitVec 3) (b : BitVec 5) (a : BitVec 5) (d : BitVec 5)
  /-- QAND (R390). Portable bitwise AND. -/
  | qand (h : BitVec 3) (b : BitVec 5) (a : BitVec 5) (d : BitVec 5)
  /-- QOR (R390). Portable bitwise OR. -/
  | qor (h : BitVec 3) (b : BitVec 5) (a : BitVec 5) (d : BitVec 5)
  /-- QXOR (R390). Portable bitwise XOR. -/
  | qxor (h : BitVec 3) (b : BitVec 5) (a : BitVec 5) (d : BitVec 5)
  /-- QSHL (R390). Portable lane shift left by a scalar. -/
  | qshl (h : BitVec 3) (b : BitVec 5) (a : BitVec 5) (d : BitVec 5)
  /-- QSHR (R390). Portable lane shift right by a scalar. -/
  | qshr (h : BitVec 3) (b : BitVec 5) (a : BitVec 5) (d : BitVec 5)
  /-- QIDX (R390). Portable Index vector from BASE and STEP. -/
  | qidx (h : BitVec 3) (b : BitVec 5) (a : BitVec 5) (d : BitVec 5)
  /-- QEXT (R390). Portable lane extraction into an x register. -/
  | qext (h : BitVec 3) (b : BitVec 5) (a : BitVec 5) (d : BitVec 5)
  /-- QINS (R390). Portable lane insertion. -/
  | qins (h : BitVec 3) (b : BitVec 5) (a : BitVec 5) (d : BitVec 5)
  /-- QPERM (R390). Portable byte permutation. -/
  | qperm (h : BitVec 3) (b : BitVec 5) (a : BitVec 5) (d : BitVec 5)
  /-- QSHUF (R390). Portable lane shuffle. -/
  | qshuf (h : BitVec 3) (b : BitVec 5) (a : BitVec 5) (d : BitVec 5)
  /-- QREDADD (R390). Portable sum reduction, tree or ascending with hint 4. -/
  | qredadd (h : BitVec 3) (a : BitVec 5) (d : BitVec 5)
  /-- QREDMAX (R390). Portable maximum reduction. -/
  | qredmax (h : BitVec 3) (a : BitVec 5) (d : BitVec 5)
  /-- QEXP2 (R390). Portable 2^x. -/
  | qexp2 (h : BitVec 3) (a : BitVec 5) (d : BitVec 5)
  /-- QLOG2 (R390). Portable log2. -/
  | qlog2 (h : BitVec 3) (a : BitVec 5) (d : BitVec 5)
  /-- QRCP (R390). Portable reciprocal. -/
  | qrcp (h : BitVec 3) (a : BitVec 5) (d : BitVec 5)
  /-- QRSQ (R390). Portable reciprocal square root. -/
  | qrsq (h : BitVec 3) (a : BitVec 5) (d : BitVec 5)
  /-- QDOT2 (R390). Portable pair dot product into an FP32 addend. -/
  | qdot2 (h : BitVec 3) (b : BitVec 5) (a : BitVec 5) (d : BitVec 5)
  /-- QSCL (R390). Portable scaling. -/
  | qscl (h : BitVec 3) (b : BitVec 5) (a : BitVec 5) (d : BitVec 5)
  /-- QPLN (R390). Portable plane packing. -/
  | qpln (h : BitVec 3) (b : BitVec 5) (a : BitVec 5) (d : BitVec 5)
  /-- QUPL (R390). Portable plane unpacking. -/
  | qupl (h : BitVec 3) (b : BitVec 5) (a : BitVec 5) (d : BitVec 5)
  /-- QCVTX (R390). Portable conversion with a descriptor. -/
  | qcvtx (h : BitVec 3) (b : BitVec 5) (a : BitVec 5) (d : BitVec 5)
  /-- QSORTX (R390). Portable compare-exchange sort stage. -/
  | qsortx (h : BitVec 3) (b : BitVec 5) (a : BitVec 5) (d : BitVec 5)
  /-- QSPLAT (R392). Portable saturating splat with a format tag. -/
  | qsplat (h : BitVec 3) (t : BitVec 5) (a : BitVec 5) (d : BitVec 5)
  /-- QCVT (R390). Portable conversion to the suffix format. -/
  | qcvt (h : BitVec 3) (t : BitVec 5) (a : BitVec 5) (d : BitVec 5)
  /-- QTAG (R390). Portable retag to the suffix format. -/
  | qtag (h : BitVec 3) (t : BitVec 5) (a : BitVec 5) (d : BitVec 5)
  /-- QLD (R393). Portable 128-byte tagged load. -/
  | qld (h : BitVec 3) (t : BitVec 5) (o : BitVec 4) (a : BitVec 5) (d : BitVec 5)
  /-- QST (R393). Portable 128-byte store. -/
  | qst (h : BitVec 3) (o : BitVec 4) (a : BitVec 5) (d : BitVec 5)
  /-- QLDS (R393). Portable strided load. -/
  | qlds (h : BitVec 3) (b : BitVec 5) (a : BitVec 5) (d : BitVec 5)
  /-- QGAT (R393). Portable gather. -/
  | qgat (h : BitVec 3) (b : BitVec 5) (a : BitVec 5) (d : BitVec 5)
  /-- QSCA (R393). Portable scatter. -/
  | qsca (h : BitVec 3) (b : BitVec 5) (a : BitVec 5) (d : BitVec 5)
  /-- QMST (R393). Portable masked store. -/
  | qmst (h : BitVec 3) (b : BitVec 5) (a : BitVec 5) (d : BitVec 5)
  /-- MCLR (R394). Clears a tile. -/
  | mclr (h : BitVec 3) (d : BitVec 5)
  /-- MCLS (R394). Sets a tile pair's class and clears it. -/
  | mcls (h : BitVec 3) (b : BitVec 5) (d : BitVec 5)
  /-- MTHR (R394). Sets the tile thresholds. -/
  | mthr (h : BitVec 3) (b : BitVec 5) (a : BitVec 5)
  /-- MMAC (R395). Multiplies slices from the local buffer into a tile. -/
  | mmac (h : BitVec 3) (b : BitVec 5) (a : BitVec 5) (d : BitVec 5)
  /-- MDR (R394). Drains a tile row group into a q register. -/
  | mdr (h : BitVec 3) (b : BitVec 5) (a : BitVec 5) (d : BitVec 5)
  /-- MRD (R394). Reads a tile row group into a q register. -/
  | mrd (h : BitVec 3) (b : BitVec 5) (a : BitVec 5) (d : BitVec 5)
  /-- MWR (R394). Writes a q register into a tile row group. -/
  | mwr (h : BitVec 3) (b : BitVec 5) (a : BitVec 5) (d : BitVec 5)
  /-- QPOST (R396). Portable packet post. -/
  | qpost (h : BitVec 3) (a : BitVec 5) (d : BitVec 5)
  /-- TWAIT (R396). Portable timeline wait. -/
  | twait (h : BitVec 3) (b : BitVec 5) (a : BitVec 5)
  /-- TSTAT (R396). Portable timeline read. -/
  | tstat (h : BitVec 3) (a : BitVec 5) (d : BitVec 5)
  /-- HBIND (R396). Portable hasp binding. -/
  | hbind (h : BitVec 3) (b : BitVec 5) (a : BitVec 5) (d : BitVec 5)
  /-- HACQ (R396). Portable hasp acquire. -/
  | hacq (h : BitVec 3) (b : BitVec 5) (a : BitVec 5) (c : BitVec 2) (s : BitVec 3)
  /-- HREL (R396). Portable hasp release. -/
  | hrel (h : BitVec 3) (b : BitVec 5) (a : BitVec 5) (s : BitVec 3)
  /-- HPUB (R396). Portable publish at a scope. -/
  | hpub (h : BitVec 3) (s : BitVec 3)
  /-- HOBS (R396). Portable observe at a scope. -/
  | hobs (h : BitVec 3) (s : BitVec 3)
  /-- TPOST (R396). Portable record post. -/
  | tpost (h : BitVec 3) (a : BitVec 5) (d : BitVec 5)
  /-- CEND (R396). Retires the continuation. -/
  | cend (h : BitVec 3)
  /-- CSUSP (R396). Writes the continuation back from an image. -/
  | csusp (h : BitVec 3) (a : BitVec 5)
  /-- CYIELD (R396). Portable suspension point with a resume index. -/
  | cyield (h : BitVec 3) (a : BitVec 5)
  /-- NOTIFY (R396). Portable notification. -/
  | notify (h : BitVec 3) (a : BitVec 5)
  /-- PMARK (R396). Portable trace mark. -/
  | pmark (h : BitVec 3) (a : BitVec 5)
  /-- QRND (R396). Portable entropy draw. -/
  | qrnd (h : BitVec 3) (d : BitVec 5)
  /-- PORTABLE_LOAD (R384). RV64I load from the local buffer. -/
  | portableLoad (f3 : BitVec 3) (rd rs1 : BitVec 5) (imm : BitVec 12)
  /-- PORTABLE_STORE (R384). RV64I store to the local buffer. -/
  | portableStore (f3 : BitVec 3) (rs1 rs2 : BitVec 5) (imm : BitVec 12)
  /-- FENCE (R384). Acts as hpub then hobs at group scope. -/
  | fence (fm pred succ : BitVec 4) (rs1 rd : BitVec 5)
  /-- FENCE_I (R384). No operation. -/
  | fenceI (imm : BitVec 12) (rs1 rd : BitVec 5)
  /-- ECALL (R384). Stops with cause 0x0D. -/
  | ecall
  /-- EBREAK (R384). Stops with cause 0x0C. -/
  | ebreak
  /-- PORTABLE_DIVIDE (R384). Ratified division, setting IDZ in xflg on zero divisor. -/
  | portableDivide (w : BitVec 1) (f3 : BitVec 3) (rd rs1 rs2 : BitVec 5)
  /-- PORTABLE_BRANCH_JUMP (R384). Ratified branch or jump with target alignment check. -/
  | portableBranchJump (j : JumpOp)
  /-- CSR_ACCESS (R387). Zicsr access to the portable CSRs. -/
  | csrAccess (csr : BitVec 12) (f3 : BitVec 3) (rd src : BitVec 5)
  /-- PORTABLE_INTEGER_OP (R384). Any other RV64I or M computational instruction. -/
  | portableIntegerOp (op : IntOp)
  /-- BUNDLE_DISPATCH (R281). Dispatch meets a bundle, checks it and splits it into slot queues. -/
  | bundleDispatch (g : Nat)
  /-- RESULT_LAND (R158). A unit result lands in its latch pair after its latency. -/
  | resultLand (g : Nat)
  /-- LOOP_PASS_END (R166). The loop engine ends a pass and starts the next or completes. -/
  | loopPassEnd (g : Nat)
  /-- ENGINE_CONSUME (R178). The matrix engine consumes the command at the FIFO head. -/
  | engineConsume (g : Nat)
  /-- SEQUENCER_STEP (R193). The sequencer generates its next beat or drain group. -/
  | sequencerStep (g : Nat)
  /-- TOKEN_RETURN (R187). A completed command returns its token and lands its result. -/
  | tokenReturn (g : Nat)
  /-- ENGINE_WAKE_ADMIT (R36). The di/dt limiter admits a waiting engine out of idle. -/
  | engineWakeAdmit (g : Nat)
  /-- CLUSTER_GRANT (R169). A cluster-scratchpad bank grants a held access. -/
  | clusterGrant (g : Nat)
  /-- WRITE_STAGING_DRAIN (R140). Write staging performs a line at group scope. -/
  | writeStagingDrain (g : Nat)
  /-- READ_STAGING_EXPIRE (R140). A read-staging line is discarded after 4 µs. -/
  | readStagingExpire (g line : Nat)
  /-- USER_INTERRUPT_TAKE (R176). A pending user-level interrupt is taken before a SYN 0xFF bundle. -/
  | userInterruptTake (g : Nat)
  /-- TWAIT_RELEASE (R149). A held timeline wait finds its condition met and acquires. -/
  | twaitRelease (g : Nat)
  /-- HACQ_RELEASE (R143). A held acquire reads a satisfying hasp value and discards stale copies. -/
  | hacqRelease (g : Nat)
  /-- HREL_DONE (R142). A release's covered writes are performed and the hasp word is written. -/
  | hrelDone (g : Nat)
  /-- HPUB_DONE (R146). A publication or observation completes and releases slot 7. -/
  | hpubDone (g : Nat)
  /-- HBIND_DONE (R370). A binding is performed at device scope and its status lands. -/
  | hbindDone (g : Nat) (sram : Bool)
  /-- BWAIT_RELEASE (R368). A barrier generation passes the target and the wait releases. -/
  | bwaitRelease (g : Nat)
  /-- BALLOC_DONE (R367). The barrier pool answers an allocation. -/
  | ballocDone (g : Nat)
  /-- POST_CLAIM (R363). The front-end claims an index for a posted packet. -/
  | postClaim (g : Nat)
  /-- TPOST_DONE (R378). A posted record is inserted or refused. -/
  | tpostDone (g : Nat)
  /-- REJOIN_RELEASE (R310). The rejoin line shows all members and lock-step resumes. -/
  | rejoinRelease (g : Nat)
  /-- FUSE_RELEASE (R309). The aligned group is reserved and the tandem starts. -/
  | fuseRelease (g : Nat)
  /-- ENTROPY_READY (R380). An entropy draw becomes available to a held rnd. -/
  | entropyReady (d : Nat) (draw : BitVec 64)
  /-- SAE_APPLY (R375). The SAE applies a window of queued operations. -/
  | saeApply (c n : Nat)
  /-- STOP (R173). The core stops on a precise trap or hard stop. -/
  | stop (g : Nat)
  /-- RESUME (R174). A saved context resumes with its slip and snapshots. -/
  | resume (p g : Nat)
  /-- WATCHDOG (R229). The trailing slot issued nothing for WDT ms; cause 0x22. -/
  | watchdog (g : Nat)
  /-- PREEMPTION_DEADLINE (R230). No honouring point within DL; hard stop with cause 0x30. -/
  | preemptionDeadline (g : Nat)
  /-- SOFT_PREEMPTION (R230). A soft pre-emption is requested of a running continuation. -/
  | softPreemption (g : Nat)
  /-- TEARDOWN (R236). A fatal cause tears down all work of the ASID. -/
  | teardown (asid pa : Nat)
  /-- SRAM_ERROR (R228). An SRAM error is corrected or handled by its structure. -/
  | sramError (structure_ idx g : Nat) (correctable : Bool)
  /-- HAND_OVER (R129). At a loop boundary or suspension point the continuation writes back to change gear. -/
  | handOver (g : Nat)
  /-- SHIFT_REQUEST (R126). A running continuation is asked to change gear. -/
  | shiftRequest (g : Nat)
  /-- DERAILLEUR_REEVALUATE (R99). A waiting record's gear is re-evaluated and it may move partition. -/
  | derailleurReevaluate (t : Nat)
  /-- RECORD_WAKE (R92). A waiting record's timeline condition holds and it becomes runnable. -/
  | recordWake (t : Nat)
  /-- DISPATCH (R106). A partition picks a record for a free core and dispatches it. -/
  | dispatch (p g : Nat)
  /-- LEVEL7_PREEMPT (R109). A level-7 record waits 20 µs and causes a soft pre-emption. -/
  | level7Preempt (p : Nat)
  /-- GATHER_START (R111). A tandem record eligible for 64 µs starts gathering its quad. -/
  | gatherStart (p : Nat)
  /-- GATHER_PREEMPT (R111). After 1 ms of gathering, soft pre-emption is issued to a group. -/
  | gatherPreempt (p : Nat)
  /-- TASK_SLOT_GRANTED (R100). A LAUNCH waiting for a partition slot is granted one. -/
  | taskSlotGranted (ch : Nat)
  /-- LAUNCH_GROUP_COMPLETE (R102). A launch group completes and its completion word is written. -/
  | launchGroupComplete (grp : Nat)
  /-- QUEUE_CREATE (R47). A descriptor write sets VALID and creates a queue. -/
  | queueCreate (fn i : Nat)
  /-- QUEUE_CLOSE (R50). A descriptor write clears VALID and closes the queue. -/
  | queueClose (fn i : Nat)
  /-- QUEUE_ABORT (R54). A PF0 control write aborts a queue's unfinished packets. -/
  | queueAbort (ch : Nat)
  /-- CHANNEL_BIND (R437). The driver binds a channel to a VF descriptor. -/
  | channelBind (vf i : Nat) (w : BitVec 64)
  /-- TAKE_PACKET (R53). The front-end takes the next index into the engine. -/
  | takePacket (ch : Nat)
  /-- PACKET_CRC_TIMEOUT (R53). A CRC still failing 100 µs after phase match makes the packet malformed. -/
  | packetCrcTimeout (ch : Nat)
  /-- NULL (R57). Packet that does nothing. -/
  | nullPacket (ch n : Nat)
  /-- COPY (R57). Copies rows between spaces, converting if asked. -/
  | copy (ch n : Nat)
  /-- FILL (R57). Fills rows with an 8-byte pattern. -/
  | fill (ch n : Nat)
  /-- GATHER (R57). Copies rows selected by an index list. -/
  | gather (ch n : Nat)
  /-- SCATTER (R57). Copies rows to destinations selected by an index list. -/
  | scatter (ch n : Nat)
  /-- ATOM (R60). Atomic read-modify-write at the home controller. -/
  | atom (ch n : Nat)
  /-- SEND (R57). Copies rows to a peer in flits. -/
  | send (ch n : Nat)
  /-- PROMOTE (R119). Moves a segment from flash to HBM. -/
  | promote (ch n : Nat) (frames : List Nat)
  /-- DEMOTE (R120). Moves a segment from HBM to flash. -/
  | demote (ch n : Nat)
  /-- LAUNCH (R100). Posts continuation records as one launch group. -/
  | launch (ch n : Nat)
  /-- SIGNAL (R57). Writes an 8-byte value. -/
  | signal (ch n : Nat)
  /-- WAITTL (R63). Waits on another channel's timeline. -/
  | waittl (ch n : Nat)
  /-- ICINV (R264). Invalidates instruction caches for a range on named dies. -/
  | icinv (ch n : Nat)
  /-- SEND_ACKNOWLEDGED (R62). The peer acknowledges a reliable SEND's last flit. -/
  | sendAcknowledged (ch n : Nat)
  /-- SEND_ACK_TIMEOUT (R64). A reliable SEND unacknowledged for 10 ms fails with 0x03. -/
  | sendAckTimeout (ch n : Nat)
  /-- PACKET_COMPLETE (R62). A packet completes in packet-number order. -/
  | packetComplete (ch : Nat)
  /-- PAGE_WALK (R82). The walker resolves a TLB miss through the tables. -/
  | pageWalk (e asid va : Nat) (acc : Acc)
  /-- FAULT_RESOLVED (R226). Firmware declares a parked fault resolved and the row retries. -/
  | faultResolved (ch n : Nat)
  /-- FAULT_UNRECOVERABLE (R226). Firmware declares a parked fault unrecoverable. -/
  | faultUnrecoverable (ch n : Nat)
  /-- FAULT_TIMEOUT (R226). A fault unresolved for 100 ms is declared unrecoverable. -/
  | faultTimeout (ch n : Nat)
  /-- INVALIDATE_VA (R84). Invalidates leaves of an ASID covering INVVA. -/
  | invalidateVa (w : BitVec 64)
  /-- INVALIDATE_ASID (R84). Invalidates all non-global translations of an ASID. -/
  | invalidateAsid (w : BitVec 64)
  /-- INVALIDATE_VM (R84). Invalidates all translations of a VM. -/
  | invalidateVm (w : BitVec 64)
  /-- INVALIDATE_ALL (R84). Invalidates every translation. -/
  | invalidateAll (w : BitVec 64)
  /-- INVALIDATE_COMPLETE (R86). Pinned users drain, entries are removed, DONE advances and retired lookups retry. -/
  | invalidateComplete
  /-- HOME_MAP_CHANGE (R72). Firmware changes a home-map entry on all dies. -/
  | homeMapChange (chunk : Nat) (ent : BitVec 4)
  /-- HOST_BAR2_WRITE (R155). A host write through BAR2 is performed at its home. -/
  | hostBar2Write (fn addr : Nat) (data : List (BitVec 8))
  /-- HOST_BAR2_READ (R46). A host read through BAR2 is served at the home. -/
  | hostBar2Read (fn addr n : Nat)
  /-- HOST_ATOMIC (R46). A PCIe atomic on BAR2 is performed at the home controller. -/
  | hostAtomic (fn addr width : Nat) (op : HostAtom) (val cmp : BitVec 64)
  /-- REGISTER_WRITE (R46). A write to a BAR0 register with no row of its own. -/
  | registerWrite (fn off : Nat) (val : BitVec 64)
  /-- FLIT_RECEIVE (R28). A peer flit arrives and is delivered in SEQ order. -/
  | flitReceive (port : Nat) (hdr : BitVec 64) (payload : List (BitVec 8)) (good : Bool)
  /-- FLIT_REPLAY (R27). After 8 µs without ACKSEQ progress the sender replays. -/
  | flitReplay (port : Nat)
  /-- PORT_RETRAIN (R27). After 16 replays of one flit the port retrains. -/
  | portRetrain (port outcome : Nat)
  /-- FREQUENCY_CHANGE (R31). An island changes frequency between bundles. -/
  | frequencyChange (i mhz : Nat)
  /-- THERMAL_SAMPLE (R33). Island sensors are sampled every 100 µs. -/
  | thermalSample (i : Nat) (temps : List Nat)
  /-- THROTTLE_STEP (R33). Every 1 ms the throttled island steps frequency by 100 MHz. -/
  | throttleStep (i : Nat)
  /-- FATAL_THERMAL_FAULT (R33). 105 °C for over 10 ms at 1.2 GHz dumps contexts and removes power. -/
  | fatalThermalFault (i pa : Nat)
  /-- POWER_LIMIT (R34). The driver sets the module power limit. -/
  | powerLimit (w : Nat)
  /-- BRING_UP (R37). At power-up the module runs its bring-up steps in order. -/
  | bringUp
  /-- JOURNAL_CLEAR (R39). A driver command clears the boot journal. -/
  | journalClear
  /-- DRIVER_MEASUREMENT_EXTEND (R42). The driver extends measurement register 6 or 7 before sealing. -/
  | driverMeasurementExtend (d reg : Nat) (image : List (BitVec 8))
  /-- DUMP_SLOT_RELEASE (R235). The driver writes ST 0 to free an ASID's dump slot. -/
  | dumpSlotRelease (asid : Nat)
  /-- RELEASE_HELD (R239). REL clears HELD in every held record of the ASID. -/
  | releaseHeld (asid : Nat)
  /-- DEBUGGER_DETACH (R239). Clearing ATT clears HOLDP and all breakpoints. -/
  | debuggerDetach (asid : Nat)
  /-- HALT (R241). Hard stop with cause 0x31, context kept resident. -/
  | halt (g : Nat)
  /-- RUN (R241). Resumes a halted context. -/
  | runHalted (g : Nat)
  /-- STEP (R243). Runs the halted context up to and including E. -/
  | stepHalted (g : Nat)
  /-- SHUT (R246). Closes the shutter on the core's scratchpad. -/
  | shut (g : Nat)
  /-- SHUTTER_ACK (R246). In-progress clamped packets finish and SHACK is set. -/
  | shutterAck (g : Nat)
  /-- OPEN (R241). Releases held packets and opens the shutter. -/
  | openShutter (g : Nat)
  /-- IMGOUT (R241). Writes the resident context image at DPA. -/
  | imgout (g : Nat)
  /-- IMGIN (R241). Reads the context image back from DPA. -/
  | imgin (g : Nat)
  /-- EVICT (R241). Saves the resident context to its save area. -/
  | evict (g : Nat)
  /-- BREAKPOINT (R244). A bundle address matches an enabled breakpoint word. -/
  | breakpoint (g : Nat)
  /-- CADENCE_BREAKPOINT (R240). k.cad reaches CADV and the core stops. -/
  | cadenceBreakpoint (g : Nat)
  /-- PROFILE_SESSION_WRITE (R248). The driver opens or moves a profiling session. -/
  | profileSessionWrite (asid i : Nat) (w : BitVec 64)
  /-- BUNDLE_SAMPLE (R252). Every PER cadence cycles a bundle sample is written. -/
  | bundleSample (g : Nat)
  /-- ENGINE_SAMPLE (R252). Every PER cadence cycles an engine sample is written. -/
  | engineSample (g : Nat)
  /-- REPLAY_DIVERGENCE (R254). A forced winner is not a requester; every core stops. -/
  | replayDivergence (g : Nat)
  /-- RECORD_BUFFER_FULL (R255). A die's record buffer fills and its cores pause. -/
  | recordBufferFull (d : Nat)
  /-- RECORD_REGION_FULL (R255). The record region fills and recording ends. -/
  | recordRegionFull
  /-- LOAD_CODE_OBJECT (R261). The loader checks, maps and registers a code object. -/
  | loadCodeObject (asid image len handle : Nat) (places : List Placement) (stores : Mapping) (tableVa codeVa : Nat)
  /-- UNLOAD_CODE_OBJECT (R261). A code object with no records is unloaded. -/
  | unloadCodeObject (asid handle : Nat)
  /-- BUNDLE_PUBLISH (R262). A management core translates an entry and publishes it for its die. -/
  | bundlePublish (d asid handle ent va : Nat) (bundles : Translation)
  /-- ATTESTATION_REPORT (R44). The device produces an attestation report over the sealed measurement registers, boot number and a verifier nonce, signed with both keys. -/
  | attestationReport (nonce : BitVec 256)
  /-- ADDRESS_SPACE_CREATE (R77). Firmware sets V in an ASID descriptor when the driver creates an address space, making the ASID live and taking its 64-slot reserves. -/
  | addressSpaceCreate (asid : Nat) (words : List (BitVec 64))
  /-- ADDRESS_SPACE_DELETE (R77). Firmware clears V in an ASID descriptor when the driver deletes an address space, so the ASID is no longer live. -/
  | addressSpaceDelete (asid : Nat)
  /-- MODULE_POWER_DOWN (R30). The external management controller removes the uncore supply and powers the module down. -/
  | modulePowerDown
  /-- COMMAND_IN_FLIGHT_COMPLETE (R197). A self-timed matrix command without a token finishes, leaving the FIFO empty and nothing in flight. -/
  | commandInFlightComplete (g : Nat)
  /-- ICACHE_DISCARD_DONE (R382). The discard of an icinv finishes and slot 7 is released, after which dispatch fetches afresh. -/
  | icacheDiscardDone (g : Nat)
  /-- RECORD_BUFFER_DRAINED (R255). A die's full record buffer drains to flash and its paused cores resume with k.cad thawed. -/
  | recordBufferDrained (d : Nat)
  deriving DecidableEq, Repr

end Sys2Proof
end

