-- ==== Sys2Proof/Decode.lean ====
section
/-! DEFINITION. The decoder (R268 to R278, R389) and, after it, the encoder, both written from the encoding tables of
the spec; the reading of a bundle's header and slots (R269, R275). -/

namespace Sys2Proof

/-- Why bits are no instruction. -/
inductive DecodeErr where
  /-- A source code that R273 or R274 calls illegal. -/
  | illegalSource
  /-- A destination code that R276 calls illegal, or a port or trigger that R286 to R294 leave unassigned. -/
  | illegalDestination
  /-- K = 1 on a destination that is not a trigger (R278). -/
  | strayK
  /-- A 32-bit word that is no portable instruction (R384, R387, R389). -/
  | illegalInstruction
  deriving DecidableEq, Repr

/-- Legal source codes (R273, R274): registers and latches, predicates, the six fixed sources, immediates. -/
def sourceLegal (s : BitVec 10) : Bool := decide (s.toNat < 0x8E ∨ 0x200 ≤ s.toNat)

/-- Register destinations (R276): g, o, v and p1 to p7. -/
def regDestLegal (d : BitVec 10) : Bool :=
  decide (d.toNat < 0x50 ∨ (0x60 ≤ d.toNat ∧ d.toNat < 0x80) ∨ (0x81 ≤ d.toNat ∧ d.toNat < 0x88))

/-- Assigned operand ports (R286); `u` is the destination's bits [9:6], unit + 4. -/
def portAssigned (u : BitVec 4) (p : BitVec 2) : Bool :=
  match u.toNat with
  | 4 | 5 | 10 => decide (p.toNat < 2)
  | 6 | 7 | 9 | 11 => decide (p.toNat < 3)
  | 8 => true
  | _ => false

/-- Trigger codes of ia (R288). -/
def decodeIa (c : BitVec 6) (g : BitVec 3) (s : BitVec 10) (u : BitVec 1) (k : BitVec 1) : Option Instr :=
  match c.toNat with
  | 0x04 => some (.iaAdd g s u k)
  | 0x05 => some (.iaSub g s u k)
  | 0x06 => some (.iaAnd g s u k)
  | 0x07 => some (.iaOr g s u k)
  | 0x08 => some (.iaXor g s u k)
  | 0x09 => some (.iaAndn g s u k)
  | 0x0A => some (.iaShl g s u k)
  | 0x0B => some (.iaShr g s u k)
  | 0x0C => some (.iaSra g s u k)
  | 0x0D => some (.iaRol g s u k)
  | 0x0E => some (.iaMin g s u k)
  | 0x0F => some (.iaMax g s u k)
  | 0x10 => some (.iaMinn g s u k)
  | 0x11 => some (.iaMaxn g s u k)
  | 0x12 => some (.iaMul g s u k)
  | 0x13 => some (.iaMulh g s u k)
  | 0x14 => some (.iaMulhn g s u k)
  | 0x15 => some (.iaDiv g s u k)
  | 0x16 => some (.iaDivn g s u k)
  | 0x17 => some (.iaRem g s u k)
  | 0x18 => some (.iaRemn g s u k)
  | 0x19 => some (.iaCmpeq g s u k)
  | 0x1A => some (.iaCmpne g s u k)
  | 0x1B => some (.iaCmplt g s u k)
  | 0x1C => some (.iaCmpltn g s u k)
  | 0x1D => some (.iaCmple g s u k)
  | 0x1E => some (.iaCmplen g s u k)
  | 0x1F => some (.iaSel g s u k)
  | 0x20 => some (.iaLea g s u k)
  | 0x21 => some (.iaBfx g s u k)
  | 0x22 => some (.iaBfi g s u k)
  | 0x23 => some (.iaClz g s u k)
  | 0x24 => some (.iaCtz g s u k)
  | 0x25 => some (.iaPopc g s u k)
  | 0x26 => some (.iaMov g s u k)
  | 0x27 => some (.iaSext g s u k)
  | 0x28 => some (.iaZext g s u k)
  | _ => none

/-- Trigger codes of va (R289). -/
def decodeVa (c : BitVec 6) (g : BitVec 3) (s : BitVec 10) (u : BitVec 1) (k : BitVec 1) : Option Instr :=
  match c.toNat with
  | 0x04 => some (.vadd g s u k)
  | 0x05 => some (.vsub g s u k)
  | 0x06 => some (.vmul g s u k)
  | 0x07 => some (.vfma g s u k)
  | 0x08 => some (.vmax g s u k)
  | 0x09 => some (.vmin g s u k)
  | 0x0A => some (.vabs g s u k)
  | 0x0B => some (.vneg g s u k)
  | 0x0C => some (.vcmpeq g s u k)
  | 0x0D => some (.vcmplt g s u k)
  | 0x0E => some (.vcmple g s u k)
  | 0x0F => some (.vsel g s u k)
  | 0x10 => some (.vcvt g s u k)
  | 0x11 => some (.vsplat g s u k)
  | 0x12 => some (.vperm g s u k)
  | 0x13 => some (.vshuf g s u k)
  | 0x14 => some (.vredadd g s u k)
  | 0x15 => some (.vredmax g s u k)
  | 0x16 => some (.vexp2 g s u k)
  | 0x17 => some (.vlog2 g s u k)
  | 0x18 => some (.vrcp g s u k)
  | 0x19 => some (.vrsq g s u k)
  | 0x1A => some (.vdot2 g s u k)
  | 0x1B => some (.vscl g s u k)
  | 0x1C => some (.vpln g s u k)
  | 0x1D => some (.vupl g s u k)
  | 0x1E => some (.vand g s u k)
  | 0x1F => some (.vor g s u k)
  | 0x20 => some (.vxor g s u k)
  | 0x21 => some (.vshl g s u k)
  | 0x22 => some (.vshr g s u k)
  | 0x23 => some (.vidx g s u k)
  | 0x24 => some (.vext g s u k)
  | 0x25 => some (.vins g s u k)
  | 0x26 => some (.vclmp g s u k)
  | 0x27 => some (.vtag g s u k)
  | _ => none

/-- Trigger codes of me (R290). -/
def decodeMe (c : BitVec 6) (g : BitVec 3) (s : BitVec 10) (k : BitVec 1) : Option Instr :=
  match c.toNat with
  | 0x04 => some (.mePa g s k)
  | 0x05 => some (.mePb g s k)
  | 0x06 => some (.meAcc g s k)
  | 0x07 => some (.meSh g s k)
  | 0x08 => some (.meDr g s k)
  | 0x09 => some (.meClr g s k)
  | 0x0A => some (.meCls g s k)
  | 0x0B => some (.meThr g s k)
  | 0x0C => some (.meSeq g s k)
  | 0x0D => some (.meSqs g s k)
  | _ => none

/-- Trigger codes of ls (R291). -/
def decodeLs (c : BitVec 6) (g : BitVec 3) (s : BitVec 10) (k : BitVec 1) : Option Instr :=
  match c.toNat with
  | 0x04 => some (.lsLd g s k)
  | 0x05 => some (.lsSt g s k)
  | 0x06 => some (.lsVld g s k)
  | 0x07 => some (.lsVst g s k)
  | 0x08 => some (.lsVlds g s k)
  | 0x09 => some (.lsVgat g s k)
  | 0x0A => some (.lsVsca g s k)
  | 0x0B => some (.lsCld g s k)
  | 0x0C => some (.lsCst g s k)
  | 0x0D => some (.lsMst g s k)
  | 0x0E => some (.lsPld g s k)
  | 0x0F => some (.lsTld g s k)
  | 0x10 => some (.lsAld g s k)
  | 0x11 => some (.lsAst g s k)
  | _ => none

/-- Trigger codes of ct (R292). -/
def decodeCt (c : BitVec 6) (g : BitVec 3) (s : BitVec 10) (k : BitVec 1) : Option Instr :=
  match c.toNat with
  | 0x04 => some (.ctBr g s k)
  | 0x05 => some (.ctBrc g s k)
  | 0x06 => some (.ctCall g s k)
  | 0x07 => some (.ctRet g s k)
  | 0x08 => some (.ctJr g s k)
  | 0x09 => some (.ctLoop g s k)
  | 0x0A => some (.ctLbrk g s k)
  | 0x0B => some (.ctLend g s k)
  | 0x0C => some (.ctFuse g s k)
  | 0x0D => some (.ctDecouple g s k)
  | 0x0E => some (.ctRejoin g s k)
  | 0x0F => some (.ctSusp g s k)
  | 0x10 => some (.ctYield g s k)
  | 0x11 => some (.ctTrap g s k)
  | 0x12 => some (.ctBrk g s k)
  | 0x13 => some (.ctKr g s k)
  | 0x14 => some (.ctKw g s k)
  | 0x15 => some (.ctEret g s k)
  | 0x16 => some (.ctPand g s k)
  | 0x17 => some (.ctPor g s k)
  | 0x18 => some (.ctPxor g s k)
  | 0x19 => some (.ctPnot g s k)
  | 0x1A => some (.ctTokw g s k)
  | _ => none

/-- Trigger codes of as (R293). -/
def decodeAs (c : BitVec 6) (g : BitVec 3) (s : BitVec 10) (k : BitVec 1) : Option Instr :=
  match c.toNat with
  | 0x04 => some (.asPost g s k)
  | 0x05 => some (.asTwait g s k)
  | 0x06 => some (.asTstat g s k)
  | 0x07 => some (.asBalloc g s k)
  | 0x08 => some (.asBarr g s k)
  | 0x09 => some (.asBwait g s k)
  | 0x0A => some (.asBfree g s k)
  | 0x0B => some (.asHbind g s k)
  | 0x0C => some (.asHacq g s k)
  | 0x0D => some (.asHrel g s k)
  | 0x0E => some (.asHpub g s k)
  | 0x0F => some (.asHobs g s k)
  | 0x10 => some (.asSae g s k)
  | 0x11 => some (.asSaer g s k)
  | 0x12 => some (.asTpost g s k)
  | 0x13 => some (.asNotify g s k)
  | 0x14 => some (.asSortx g s k)
  | 0x15 => some (.asRnd g s k)
  | 0x16 => some (.asPmark g s k)
  | 0x17 => some (.asIcinv g s k)
  | _ => none

/-- A trigger by the destination's bits [9:7], [6] and [5:0] (R277). -/
def decodeTrigger (u3 : BitVec 3) (u : BitVec 1) (c : BitVec 6) (g : BitVec 3) (s : BitVec 10) (k : BitVec 1) : Option Instr :=
  match u3.toNat with
  | 2 => decodeIa c g s u k
  | 3 => decodeVa c g s u k
  | 4 => if u = 0 then decodeMe c g s k else decodeLs c g s k
  | 5 => if u = 0 then decodeCt c g s k else decodeAs c g s k
  | _ => none

/-- Decode one 24-bit move (R271, R276, R277, R278). -/
def decodeMove (w : BitVec 24) : Except DecodeErr Instr :=
  let g := w.extractLsb' 21 3
  let s := w.extractLsb' 11 10
  let d := w.extractLsb' 1 10
  let k := w.extractLsb' 0 1
  if sourceLegal s = false then .error .illegalSource
  else match decodeTrigger (w.extractLsb' 8 3) (w.extractLsb' 7 1) (w.extractLsb' 1 6) g s k with
  | some i => .ok i
  | none =>
    if k = 1 then .error .strayK
    else if d = 0x0FF then .ok (.moveToNullSink g s)
    else if regDestLegal d then .ok (.moveToRegister g s d)
    else if w.extractLsb' 3 4 = 0 ∧ portAssigned (w.extractLsb' 7 4) (w.extractLsb' 1 2) then
      .ok (.moveToPort g s (w.extractLsb' 7 4) (w.extractLsb' 1 2))
    else .error .illegalDestination

/-- Major opcode 0x0B, by the function code F = 8·funct4 + funct3 (R389). A field that the form does not use must be zero. -/
def decodeVec (F : Nat) (h : BitVec 3) (b a d : BitVec 5) : Option Instr :=
  match F with
  | 0 => some (.qadd h b a d)
  | 1 => some (.qsub h b a d)
  | 2 => some (.qmul h b a d)
  | 3 => some (.qfma h b a d)
  | 4 => some (.qmax h b a d)
  | 5 => some (.qmin h b a d)
  | 6 => if b = 0 then some (.qabs h a d) else none
  | 7 => if b = 0 then some (.qneg h a d) else none
  | 8 => some (.qclmp h b a d)
  | 9 => some (.qcmpeq h b a d)
  | 10 => some (.qcmplt h b a d)
  | 11 => some (.qcmple h b a d)
  | 12 => some (.qsel h b a d)
  | 13 => some (.qand h b a d)
  | 14 => some (.qor h b a d)
  | 15 => some (.qxor h b a d)
  | 16 => some (.qshl h b a d)
  | 17 => some (.qshr h b a d)
  | 18 => some (.qidx h b a d)
  | 19 => some (.qext h b a d)
  | 20 => some (.qins h b a d)
  | 21 => some (.qperm h b a d)
  | 22 => some (.qshuf h b a d)
  | 23 => if b = 0 then some (.qredadd h a d) else none
  | 24 => if b = 0 then some (.qredmax h a d) else none
  | 25 => if b = 0 then some (.qexp2 h a d) else none
  | 26 => if b = 0 then some (.qlog2 h a d) else none
  | 27 => if b = 0 then some (.qrcp h a d) else none
  | 28 => if b = 0 then some (.qrsq h a d) else none
  | 29 => some (.qdot2 h b a d)
  | 30 => some (.qscl h b a d)
  | 31 => some (.qpln h b a d)
  | 32 => some (.qupl h b a d)
  | 33 => some (.qcvtx h b a d)
  | 34 => some (.qsortx h b a d)
  | 40 => some (.qsplat h b a d)
  | 41 => some (.qcvt h b a d)
  | 42 => some (.qtag h b a d)
  | _ => none

/-- Major opcode 0x5B, by the function code F = 8·funct4 + funct3 (R389). A field that the form does not use must be zero. -/
def decodeTile (F : Nat) (h : BitVec 3) (b a d : BitVec 5) : Option Instr :=
  match F with
  | 0 => if b = 0 ∧ a = 0 ∧ d.toNat ≤ 3 then some (.mclr h d) else none
  | 1 => if a = 0 ∧ (d = 0 ∨ d = 2) ∧ b.toNat ≤ 1 then some (.mcls h b d) else none
  | 2 => if d = 0 then some (.mthr h b a) else none
  | 3 => if d.toNat ≤ 3 then some (.mmac h b a d) else none
  | 4 => if a.toNat ≤ 3 then some (.mdr h b a d) else none
  | 5 => if a.toNat ≤ 3 then some (.mrd h b a d) else none
  | 6 => if d.toNat ≤ 3 then some (.mwr h b a d) else none
  | _ => none

/-- Major opcode 0x7B, by the function code F = 8·funct4 + funct3 (R389). A field that the form does not use must be zero. -/
def decodeSys (F : Nat) (h : BitVec 3) (b a d : BitVec 5) (c : BitVec 2) (s : BitVec 3) : Option Instr :=
  match F with
  | 0 => if b = 0 then some (.qpost h a d) else none
  | 1 => if d = 0 then some (.twait h b a) else none
  | 2 => if b = 0 then some (.tstat h a d) else none
  | 3 => some (.hbind h b a d)
  | 4 => if s.toNat ≤ 4 ∧ c.toNat ≤ 2 then some (.hacq h b a c s) else none
  | 5 => if c = 0 ∧ s.toNat ≤ 4 then some (.hrel h b a s) else none
  | 6 => if b = 0 ∧ a = 0 ∧ c = 0 ∧ s.toNat ≤ 4 then some (.hpub h s) else none
  | 7 => if b = 0 ∧ a = 0 ∧ c = 0 ∧ s.toNat ≤ 4 then some (.hobs h s) else none
  | 8 => if b = 0 then some (.tpost h a d) else none
  | 9 => if b = 0 ∧ a = 0 ∧ d = 0 then some (.cend h) else none
  | 10 => if b = 0 ∧ d = 0 then some (.csusp h a) else none
  | 11 => if b = 0 ∧ d = 0 then some (.cyield h a) else none
  | 12 => if b = 0 ∧ d = 0 then some (.notify h a) else none
  | 13 => if b = 0 ∧ d = 0 then some (.pmark h a) else none
  | 14 => if b = 0 ∧ a = 0 then some (.qrnd h d) else none
  | _ => none

/-- funct3 2 of major opcode 0x2B, by funct4 (R393). -/
def decodeMemQ (f4 : Nat) (h : BitVec 3) (b a d : BitVec 5) : Option Instr :=
  match f4 with
  | 0 => some (.qlds h b a d)
  | 1 => some (.qgat h b a d)
  | 2 => some (.qsca h b a d)
  | 3 => some (.qmst h b a d)
  | _ => none

/-- The portable CSRs of R387. -/
def csrKnown (n : BitVec 12) : Bool :=
  decide (n.toNat ∈ [0x800, 0x801, 0x802, 0x803, 0xCC0, 0xCC1, 0xCC2, 0xCC3, 0xCC4, 0xCC5, 0xCC6])

/-- Zicsr: funct3 1 to 3 and 5 to 7; a write to a read-only CSR is illegal, and CSRRS, CSRRC (and their immediate
forms) with a zero source write nothing (R387). -/
def csrLegal (n : BitVec 12) (f3 : BitVec 3) (src : BitVec 5) : Bool :=
  csrKnown n && decide (f3 ≠ 0 ∧ f3 ≠ 4) && (decide (n.toNat < 0xC00) || (decide (f3 ≠ 1 ∧ f3 ≠ 5) && decide (src = 0)))

/-- FENCE.TSO (R384): fm 1000, pred and succ 0011. -/
def fenceTso (fm pred succ : BitVec 4) : Bool := decide (fm = 8 ∧ pred = 3 ∧ succ = 3)

/-- The computational forms of RV64I and M, divides apart (R384). -/
def intOpLegal : IntOp → Bool
  | .lui _ _ => true
  | .auipc _ _ => true
  | .opImm f3 _ _ imm =>
    match f3.toNat with
    | 1 => decide (imm.extractLsb' 6 6 = 0)
    | 5 => decide (imm.extractLsb' 6 6 = 0 ∨ imm.extractLsb' 6 6 = 0x10)
    | _ => true
  | .opImm32 f3 _ _ imm =>
    match f3.toNat with
    | 0 => true
    | 1 => decide (imm.extractLsb' 5 7 = 0)
    | 5 => decide (imm.extractLsb' 5 7 = 0 ∨ imm.extractLsb' 5 7 = 0x20)
    | _ => false
  | .op f7 f3 _ _ _ =>
    decide (f7 = 0 ∨ (f7 = 0x20 ∧ (f3 = 0 ∨ f3 = 5)) ∨ (f7 = 1 ∧ f3.toNat < 4))
  | .op32 f7 f3 _ _ _ =>
    decide ((f7 = 0 ∧ (f3 = 0 ∨ f3 = 1 ∨ f3 = 5)) ∨ (f7 = 0x20 ∧ (f3 = 0 ∨ f3 = 5)) ∨ (f7 = 1 ∧ f3 = 0))

def jumpLegal : JumpOp → Bool
  | .branch f3 _ _ _ => decide (f3 ≠ 2 ∧ f3 ≠ 3)
  | _ => true

/-- SYSTEM: ECALL, EBREAK and Zicsr (R384, R387). -/
def decodeSystem (f3 : BitVec 3) (imm : BitVec 12) (a d : BitVec 5) : Option Instr :=
  if f3 = 0 then
    if a = 0 ∧ d = 0 then
      if imm = 0 then some .ecall else if imm = 1 then some .ebreak else none
    else none
  else if csrLegal imm f3 a then some (.csrAccess imm f3 d a) else none

/-- The R-type operations: the M divides are a row of their own. -/
def decodeOp (word : Bool) (f7 : BitVec 7) (f3 : BitVec 3) (d a b : BitVec 5) : Option Instr :=
  if f7 = 1 ∧ 4 ≤ f3.toNat then some (.portableDivide (if word then 1 else 0) f3 d a b)
  else
    let op := if word then IntOp.op32 f7 f3 d a b else IntOp.op f7 f3 d a b
    if intOpLegal op then some (.portableIntegerOp op) else none

/-- Decode one 32-bit portable instruction (R384, R387, R389 to R396). -/
def decodeWord (w : BitVec 32) : Except DecodeErr Instr :=
  let d := w.extractLsb' 7 5
  let f3 := w.extractLsb' 12 3
  let a := w.extractLsb' 15 5
  let b := w.extractLsb' 20 5
  let h := w.extractLsb' 29 3
  let f4 := w.extractLsb' 25 4
  let imm := w.extractLsb' 20 12
  let f7 := w.extractLsb' 25 7
  let F := 8 * f4.toNat + f3.toNat
  let r : Option Instr :=
    match (w.extractLsb' 0 7).toNat with
    | 0x0B => decodeVec F h b a d
    | 0x2B =>
      match f3.toNat with
      | 0 => some (.qld h (w.extractLsb' 24 5) (w.extractLsb' 20 4) a d)
      | 1 => if w.extractLsb' 24 5 = 0 then some (.qst h (w.extractLsb' 20 4) a d) else none
      | 2 => decodeMemQ f4.toNat h b a d
      | _ => none
    | 0x5B => decodeTile F h b a d
    | 0x7B => decodeSys F h b a d (w.extractLsb' 10 2) (w.extractLsb' 7 3)
    | 0x03 => if f3 ≠ 7 then some (.portableLoad f3 d a imm) else none
    | 0x23 => if f3.toNat ≤ 3 then some (.portableStore f3 a b (f7 ++ d)) else none
    | 0x0F =>
      match f3.toNat with
      | 0 =>
        if fenceTso (w.extractLsb' 28 4) (w.extractLsb' 24 4) (w.extractLsb' 20 4) then none
        else some (.fence (w.extractLsb' 28 4) (w.extractLsb' 24 4) (w.extractLsb' 20 4) a d)
      | 1 => some (.fenceI imm a d)
      | _ => none
    | 0x73 => decodeSystem f3 imm a d
    | 0x13 => if intOpLegal (.opImm f3 d a imm) then some (.portableIntegerOp (.opImm f3 d a imm)) else none
    | 0x1B => if intOpLegal (.opImm32 f3 d a imm) then some (.portableIntegerOp (.opImm32 f3 d a imm)) else none
    | 0x33 => decodeOp false f7 f3 d a b
    | 0x3B => decodeOp true f7 f3 d a b
    | 0x37 => some (.portableIntegerOp (.lui d (w.extractLsb' 12 20)))
    | 0x17 => some (.portableIntegerOp (.auipc d (w.extractLsb' 12 20)))
    | 0x6F => some (.portableBranchJump (.jal d
        (w.extractLsb' 31 1 ++ w.extractLsb' 12 8 ++ w.extractLsb' 20 1 ++ w.extractLsb' 21 10)))
    | 0x67 => if f3 = 0 then some (.portableBranchJump (.jalr d a imm)) else none
    | 0x63 =>
      if f3 ≠ 2 ∧ f3 ≠ 3 then some (.portableBranchJump (.branch f3 a b
        (w.extractLsb' 31 1 ++ w.extractLsb' 7 1 ++ w.extractLsb' 25 6 ++ w.extractLsb' 8 4))) else none
    | _ => none
  match r with
  | some i => .ok i
  | none => .error .illegalInstruction

/-- The instruction that the decoder reads from a table row's bits: 24 bits are one native move, 32 bits one
portable instruction. -/
def decodeTableWord (nbits w : Nat) : Option Instr :=
  if nbits = 24 then (decodeMove (BitVec.ofNat 24 w)).toOption
  else if nbits = 32 then (decodeWord (BitVec.ofNat 32 w)).toOption
  else none

/-! ### The encoder -/

/-- A move's 24 bits (R271). -/
def moveBits (g : BitVec 3) (s d : BitVec 10) (k : BitVec 1) : BitVec 24 := g ++ s ++ d ++ k

/-- Q and T forms (R389). -/
def qBits (h : BitVec 3) (f4 : BitVec 4) (b a : BitVec 5) (f3 : BitVec 3) (d : BitVec 5) (op : BitVec 7) : BitVec 32 :=
  h ++ f4 ++ b ++ a ++ f3 ++ d ++ op

/-- M form (R389). -/
def mBits (h : BitVec 3) (t : BitVec 5) (o : BitVec 4) (a : BitVec 5) (f3 : BitVec 3) (d : BitVec 5) (op : BitVec 7) : BitVec 32 :=
  h ++ t ++ o ++ a ++ f3 ++ d ++ op

/-- Register-immediate words of the base. -/
def iBits (imm : BitVec 12) (a : BitVec 5) (f3 : BitVec 3) (d : BitVec 5) (op : BitVec 7) : BitVec 32 :=
  imm ++ a ++ f3 ++ d ++ op

/-- Register-register words of the base. -/
def rBits (f7 : BitVec 7) (b a : BitVec 5) (f3 : BitVec 3) (d : BitVec 5) (op : BitVec 7) : BitVec 32 :=
  f7 ++ b ++ a ++ f3 ++ d ++ op

def encodeJump : JumpOp → BitVec 32
  | .jal rd imm =>
    imm.extractLsb' 19 1 ++ imm.extractLsb' 0 10 ++ imm.extractLsb' 10 1 ++ imm.extractLsb' 11 8 ++ rd ++ 0x6F#7
  | .jalr rd rs1 imm => iBits imm rs1 0 rd 0x67
  | .branch f3 rs1 rs2 imm =>
    imm.extractLsb' 11 1 ++ imm.extractLsb' 4 6 ++ rs2 ++ rs1 ++ f3 ++ imm.extractLsb' 0 4 ++ imm.extractLsb' 10 1 ++ 0x63#7

def encodeInt : IntOp → BitVec 32
  | .lui rd imm => imm ++ rd ++ 0x37#7
  | .auipc rd imm => imm ++ rd ++ 0x17#7
  | .opImm f3 rd rs1 imm => iBits imm rs1 f3 rd 0x13
  | .opImm32 f3 rd rs1 imm => iBits imm rs1 f3 rd 0x1B
  | .op f7 f3 rd rs1 rs2 => rBits f7 rs2 rs1 f3 rd 0x33
  | .op32 f7 f3 rd rs1 rs2 => rBits f7 rs2 rs1 f3 rd 0x3B

/-- The 24 bits of a native move. -/
def encodeMove (i : Instr) : Option (BitVec 24) :=
  match i with
  | .iaAdd g s u k => some (moveBits g s (2#3 ++ u ++ 4#6) k)
  | .iaSub g s u k => some (moveBits g s (2#3 ++ u ++ 5#6) k)
  | .iaAnd g s u k => some (moveBits g s (2#3 ++ u ++ 6#6) k)
  | .iaOr g s u k => some (moveBits g s (2#3 ++ u ++ 7#6) k)
  | .iaXor g s u k => some (moveBits g s (2#3 ++ u ++ 8#6) k)
  | .iaAndn g s u k => some (moveBits g s (2#3 ++ u ++ 9#6) k)
  | .iaShl g s u k => some (moveBits g s (2#3 ++ u ++ 10#6) k)
  | .iaShr g s u k => some (moveBits g s (2#3 ++ u ++ 11#6) k)
  | .iaSra g s u k => some (moveBits g s (2#3 ++ u ++ 12#6) k)
  | .iaRol g s u k => some (moveBits g s (2#3 ++ u ++ 13#6) k)
  | .iaMin g s u k => some (moveBits g s (2#3 ++ u ++ 14#6) k)
  | .iaMax g s u k => some (moveBits g s (2#3 ++ u ++ 15#6) k)
  | .iaMinn g s u k => some (moveBits g s (2#3 ++ u ++ 16#6) k)
  | .iaMaxn g s u k => some (moveBits g s (2#3 ++ u ++ 17#6) k)
  | .iaMul g s u k => some (moveBits g s (2#3 ++ u ++ 18#6) k)
  | .iaMulh g s u k => some (moveBits g s (2#3 ++ u ++ 19#6) k)
  | .iaMulhn g s u k => some (moveBits g s (2#3 ++ u ++ 20#6) k)
  | .iaDiv g s u k => some (moveBits g s (2#3 ++ u ++ 21#6) k)
  | .iaDivn g s u k => some (moveBits g s (2#3 ++ u ++ 22#6) k)
  | .iaRem g s u k => some (moveBits g s (2#3 ++ u ++ 23#6) k)
  | .iaRemn g s u k => some (moveBits g s (2#3 ++ u ++ 24#6) k)
  | .iaCmpeq g s u k => some (moveBits g s (2#3 ++ u ++ 25#6) k)
  | .iaCmpne g s u k => some (moveBits g s (2#3 ++ u ++ 26#6) k)
  | .iaCmplt g s u k => some (moveBits g s (2#3 ++ u ++ 27#6) k)
  | .iaCmpltn g s u k => some (moveBits g s (2#3 ++ u ++ 28#6) k)
  | .iaCmple g s u k => some (moveBits g s (2#3 ++ u ++ 29#6) k)
  | .iaCmplen g s u k => some (moveBits g s (2#3 ++ u ++ 30#6) k)
  | .iaSel g s u k => some (moveBits g s (2#3 ++ u ++ 31#6) k)
  | .iaLea g s u k => some (moveBits g s (2#3 ++ u ++ 32#6) k)
  | .iaBfx g s u k => some (moveBits g s (2#3 ++ u ++ 33#6) k)
  | .iaBfi g s u k => some (moveBits g s (2#3 ++ u ++ 34#6) k)
  | .iaClz g s u k => some (moveBits g s (2#3 ++ u ++ 35#6) k)
  | .iaCtz g s u k => some (moveBits g s (2#3 ++ u ++ 36#6) k)
  | .iaPopc g s u k => some (moveBits g s (2#3 ++ u ++ 37#6) k)
  | .iaMov g s u k => some (moveBits g s (2#3 ++ u ++ 38#6) k)
  | .iaSext g s u k => some (moveBits g s (2#3 ++ u ++ 39#6) k)
  | .iaZext g s u k => some (moveBits g s (2#3 ++ u ++ 40#6) k)
  | .vadd g s u k => some (moveBits g s (3#3 ++ u ++ 4#6) k)
  | .vsub g s u k => some (moveBits g s (3#3 ++ u ++ 5#6) k)
  | .vmul g s u k => some (moveBits g s (3#3 ++ u ++ 6#6) k)
  | .vfma g s u k => some (moveBits g s (3#3 ++ u ++ 7#6) k)
  | .vmax g s u k => some (moveBits g s (3#3 ++ u ++ 8#6) k)
  | .vmin g s u k => some (moveBits g s (3#3 ++ u ++ 9#6) k)
  | .vabs g s u k => some (moveBits g s (3#3 ++ u ++ 10#6) k)
  | .vneg g s u k => some (moveBits g s (3#3 ++ u ++ 11#6) k)
  | .vcmpeq g s u k => some (moveBits g s (3#3 ++ u ++ 12#6) k)
  | .vcmplt g s u k => some (moveBits g s (3#3 ++ u ++ 13#6) k)
  | .vcmple g s u k => some (moveBits g s (3#3 ++ u ++ 14#6) k)
  | .vsel g s u k => some (moveBits g s (3#3 ++ u ++ 15#6) k)
  | .vcvt g s u k => some (moveBits g s (3#3 ++ u ++ 16#6) k)
  | .vsplat g s u k => some (moveBits g s (3#3 ++ u ++ 17#6) k)
  | .vperm g s u k => some (moveBits g s (3#3 ++ u ++ 18#6) k)
  | .vshuf g s u k => some (moveBits g s (3#3 ++ u ++ 19#6) k)
  | .vredadd g s u k => some (moveBits g s (3#3 ++ u ++ 20#6) k)
  | .vredmax g s u k => some (moveBits g s (3#3 ++ u ++ 21#6) k)
  | .vexp2 g s u k => some (moveBits g s (3#3 ++ u ++ 22#6) k)
  | .vlog2 g s u k => some (moveBits g s (3#3 ++ u ++ 23#6) k)
  | .vrcp g s u k => some (moveBits g s (3#3 ++ u ++ 24#6) k)
  | .vrsq g s u k => some (moveBits g s (3#3 ++ u ++ 25#6) k)
  | .vdot2 g s u k => some (moveBits g s (3#3 ++ u ++ 26#6) k)
  | .vscl g s u k => some (moveBits g s (3#3 ++ u ++ 27#6) k)
  | .vpln g s u k => some (moveBits g s (3#3 ++ u ++ 28#6) k)
  | .vupl g s u k => some (moveBits g s (3#3 ++ u ++ 29#6) k)
  | .vand g s u k => some (moveBits g s (3#3 ++ u ++ 30#6) k)
  | .vor g s u k => some (moveBits g s (3#3 ++ u ++ 31#6) k)
  | .vxor g s u k => some (moveBits g s (3#3 ++ u ++ 32#6) k)
  | .vshl g s u k => some (moveBits g s (3#3 ++ u ++ 33#6) k)
  | .vshr g s u k => some (moveBits g s (3#3 ++ u ++ 34#6) k)
  | .vidx g s u k => some (moveBits g s (3#3 ++ u ++ 35#6) k)
  | .vext g s u k => some (moveBits g s (3#3 ++ u ++ 36#6) k)
  | .vins g s u k => some (moveBits g s (3#3 ++ u ++ 37#6) k)
  | .vclmp g s u k => some (moveBits g s (3#3 ++ u ++ 38#6) k)
  | .vtag g s u k => some (moveBits g s (3#3 ++ u ++ 39#6) k)
  | .mePa g s k => some (moveBits g s (4#3 ++ 0#1 ++ 4#6) k)
  | .mePb g s k => some (moveBits g s (4#3 ++ 0#1 ++ 5#6) k)
  | .meAcc g s k => some (moveBits g s (4#3 ++ 0#1 ++ 6#6) k)
  | .meSh g s k => some (moveBits g s (4#3 ++ 0#1 ++ 7#6) k)
  | .meDr g s k => some (moveBits g s (4#3 ++ 0#1 ++ 8#6) k)
  | .meClr g s k => some (moveBits g s (4#3 ++ 0#1 ++ 9#6) k)
  | .meCls g s k => some (moveBits g s (4#3 ++ 0#1 ++ 10#6) k)
  | .meThr g s k => some (moveBits g s (4#3 ++ 0#1 ++ 11#6) k)
  | .meSeq g s k => some (moveBits g s (4#3 ++ 0#1 ++ 12#6) k)
  | .meSqs g s k => some (moveBits g s (4#3 ++ 0#1 ++ 13#6) k)
  | .lsLd g s k => some (moveBits g s (4#3 ++ 1#1 ++ 4#6) k)
  | .lsSt g s k => some (moveBits g s (4#3 ++ 1#1 ++ 5#6) k)
  | .lsVld g s k => some (moveBits g s (4#3 ++ 1#1 ++ 6#6) k)
  | .lsVst g s k => some (moveBits g s (4#3 ++ 1#1 ++ 7#6) k)
  | .lsVlds g s k => some (moveBits g s (4#3 ++ 1#1 ++ 8#6) k)
  | .lsVgat g s k => some (moveBits g s (4#3 ++ 1#1 ++ 9#6) k)
  | .lsVsca g s k => some (moveBits g s (4#3 ++ 1#1 ++ 10#6) k)
  | .lsCld g s k => some (moveBits g s (4#3 ++ 1#1 ++ 11#6) k)
  | .lsCst g s k => some (moveBits g s (4#3 ++ 1#1 ++ 12#6) k)
  | .lsMst g s k => some (moveBits g s (4#3 ++ 1#1 ++ 13#6) k)
  | .lsPld g s k => some (moveBits g s (4#3 ++ 1#1 ++ 14#6) k)
  | .lsTld g s k => some (moveBits g s (4#3 ++ 1#1 ++ 15#6) k)
  | .lsAld g s k => some (moveBits g s (4#3 ++ 1#1 ++ 16#6) k)
  | .lsAst g s k => some (moveBits g s (4#3 ++ 1#1 ++ 17#6) k)
  | .ctBr g s k => some (moveBits g s (5#3 ++ 0#1 ++ 4#6) k)
  | .ctBrc g s k => some (moveBits g s (5#3 ++ 0#1 ++ 5#6) k)
  | .ctCall g s k => some (moveBits g s (5#3 ++ 0#1 ++ 6#6) k)
  | .ctRet g s k => some (moveBits g s (5#3 ++ 0#1 ++ 7#6) k)
  | .ctJr g s k => some (moveBits g s (5#3 ++ 0#1 ++ 8#6) k)
  | .ctLoop g s k => some (moveBits g s (5#3 ++ 0#1 ++ 9#6) k)
  | .ctLbrk g s k => some (moveBits g s (5#3 ++ 0#1 ++ 10#6) k)
  | .ctLend g s k => some (moveBits g s (5#3 ++ 0#1 ++ 11#6) k)
  | .ctFuse g s k => some (moveBits g s (5#3 ++ 0#1 ++ 12#6) k)
  | .ctDecouple g s k => some (moveBits g s (5#3 ++ 0#1 ++ 13#6) k)
  | .ctRejoin g s k => some (moveBits g s (5#3 ++ 0#1 ++ 14#6) k)
  | .ctSusp g s k => some (moveBits g s (5#3 ++ 0#1 ++ 15#6) k)
  | .ctYield g s k => some (moveBits g s (5#3 ++ 0#1 ++ 16#6) k)
  | .ctTrap g s k => some (moveBits g s (5#3 ++ 0#1 ++ 17#6) k)
  | .ctBrk g s k => some (moveBits g s (5#3 ++ 0#1 ++ 18#6) k)
  | .ctKr g s k => some (moveBits g s (5#3 ++ 0#1 ++ 19#6) k)
  | .ctKw g s k => some (moveBits g s (5#3 ++ 0#1 ++ 20#6) k)
  | .ctEret g s k => some (moveBits g s (5#3 ++ 0#1 ++ 21#6) k)
  | .ctPand g s k => some (moveBits g s (5#3 ++ 0#1 ++ 22#6) k)
  | .ctPor g s k => some (moveBits g s (5#3 ++ 0#1 ++ 23#6) k)
  | .ctPxor g s k => some (moveBits g s (5#3 ++ 0#1 ++ 24#6) k)
  | .ctPnot g s k => some (moveBits g s (5#3 ++ 0#1 ++ 25#6) k)
  | .ctTokw g s k => some (moveBits g s (5#3 ++ 0#1 ++ 26#6) k)
  | .asPost g s k => some (moveBits g s (5#3 ++ 1#1 ++ 4#6) k)
  | .asTwait g s k => some (moveBits g s (5#3 ++ 1#1 ++ 5#6) k)
  | .asTstat g s k => some (moveBits g s (5#3 ++ 1#1 ++ 6#6) k)
  | .asBalloc g s k => some (moveBits g s (5#3 ++ 1#1 ++ 7#6) k)
  | .asBarr g s k => some (moveBits g s (5#3 ++ 1#1 ++ 8#6) k)
  | .asBwait g s k => some (moveBits g s (5#3 ++ 1#1 ++ 9#6) k)
  | .asBfree g s k => some (moveBits g s (5#3 ++ 1#1 ++ 10#6) k)
  | .asHbind g s k => some (moveBits g s (5#3 ++ 1#1 ++ 11#6) k)
  | .asHacq g s k => some (moveBits g s (5#3 ++ 1#1 ++ 12#6) k)
  | .asHrel g s k => some (moveBits g s (5#3 ++ 1#1 ++ 13#6) k)
  | .asHpub g s k => some (moveBits g s (5#3 ++ 1#1 ++ 14#6) k)
  | .asHobs g s k => some (moveBits g s (5#3 ++ 1#1 ++ 15#6) k)
  | .asSae g s k => some (moveBits g s (5#3 ++ 1#1 ++ 16#6) k)
  | .asSaer g s k => some (moveBits g s (5#3 ++ 1#1 ++ 17#6) k)
  | .asTpost g s k => some (moveBits g s (5#3 ++ 1#1 ++ 18#6) k)
  | .asNotify g s k => some (moveBits g s (5#3 ++ 1#1 ++ 19#6) k)
  | .asSortx g s k => some (moveBits g s (5#3 ++ 1#1 ++ 20#6) k)
  | .asRnd g s k => some (moveBits g s (5#3 ++ 1#1 ++ 21#6) k)
  | .asPmark g s k => some (moveBits g s (5#3 ++ 1#1 ++ 22#6) k)
  | .asIcinv g s k => some (moveBits g s (5#3 ++ 1#1 ++ 23#6) k)
  | .moveToRegister g s d => some (moveBits g s d 0)
  | .moveToPort g s u p => some (moveBits g s (u ++ 0#4 ++ p) 0)
  | .moveToNullSink g s => some (moveBits g s 0x0FF 0)
  | _ => none

/-- The 32 bits of a portable instruction. -/
def encodeWord (i : Instr) : Option (BitVec 32) :=
  match i with
  | .qadd h b a d => some (qBits h 0 b a 0 d 0x0B)
  | .qsub h b a d => some (qBits h 0 b a 1 d 0x0B)
  | .qmul h b a d => some (qBits h 0 b a 2 d 0x0B)
  | .qfma h b a d => some (qBits h 0 b a 3 d 0x0B)
  | .qmax h b a d => some (qBits h 0 b a 4 d 0x0B)
  | .qmin h b a d => some (qBits h 0 b a 5 d 0x0B)
  | .qabs h a d => some (qBits h 0 0 a 6 d 0x0B)
  | .qneg h a d => some (qBits h 0 0 a 7 d 0x0B)
  | .qclmp h b a d => some (qBits h 1 b a 0 d 0x0B)
  | .qcmpeq h b a d => some (qBits h 1 b a 1 d 0x0B)
  | .qcmplt h b a d => some (qBits h 1 b a 2 d 0x0B)
  | .qcmple h b a d => some (qBits h 1 b a 3 d 0x0B)
  | .qsel h b a d => some (qBits h 1 b a 4 d 0x0B)
  | .qand h b a d => some (qBits h 1 b a 5 d 0x0B)
  | .qor h b a d => some (qBits h 1 b a 6 d 0x0B)
  | .qxor h b a d => some (qBits h 1 b a 7 d 0x0B)
  | .qshl h b a d => some (qBits h 2 b a 0 d 0x0B)
  | .qshr h b a d => some (qBits h 2 b a 1 d 0x0B)
  | .qidx h b a d => some (qBits h 2 b a 2 d 0x0B)
  | .qext h b a d => some (qBits h 2 b a 3 d 0x0B)
  | .qins h b a d => some (qBits h 2 b a 4 d 0x0B)
  | .qperm h b a d => some (qBits h 2 b a 5 d 0x0B)
  | .qshuf h b a d => some (qBits h 2 b a 6 d 0x0B)
  | .qredadd h a d => some (qBits h 2 0 a 7 d 0x0B)
  | .qredmax h a d => some (qBits h 3 0 a 0 d 0x0B)
  | .qexp2 h a d => some (qBits h 3 0 a 1 d 0x0B)
  | .qlog2 h a d => some (qBits h 3 0 a 2 d 0x0B)
  | .qrcp h a d => some (qBits h 3 0 a 3 d 0x0B)
  | .qrsq h a d => some (qBits h 3 0 a 4 d 0x0B)
  | .qdot2 h b a d => some (qBits h 3 b a 5 d 0x0B)
  | .qscl h b a d => some (qBits h 3 b a 6 d 0x0B)
  | .qpln h b a d => some (qBits h 3 b a 7 d 0x0B)
  | .qupl h b a d => some (qBits h 4 b a 0 d 0x0B)
  | .qcvtx h b a d => some (qBits h 4 b a 1 d 0x0B)
  | .qsortx h b a d => some (qBits h 4 b a 2 d 0x0B)
  | .qsplat h t a d => some (qBits h 5 t a 0 d 0x0B)
  | .qcvt h t a d => some (qBits h 5 t a 1 d 0x0B)
  | .qtag h t a d => some (qBits h 5 t a 2 d 0x0B)
  | .qld h t o a d => some (mBits h t o a 0 d 0x2B)
  | .qst h o a d => some (mBits h 0 o a 1 d 0x2B)
  | .qlds h b a d => some (qBits h 0 b a 2 d 0x2B)
  | .qgat h b a d => some (qBits h 1 b a 2 d 0x2B)
  | .qsca h b a d => some (qBits h 2 b a 2 d 0x2B)
  | .qmst h b a d => some (qBits h 3 b a 2 d 0x2B)
  | .mclr h d => some (qBits h 0 0 0 0 d 0x5B)
  | .mcls h b d => some (qBits h 0 b 0 1 d 0x5B)
  | .mthr h b a => some (qBits h 0 b a 2 0 0x5B)
  | .mmac h b a d => some (qBits h 0 b a 3 d 0x5B)
  | .mdr h b a d => some (qBits h 0 b a 4 d 0x5B)
  | .mrd h b a d => some (qBits h 0 b a 5 d 0x5B)
  | .mwr h b a d => some (qBits h 0 b a 6 d 0x5B)
  | .qpost h a d => some (qBits h 0 0 a 0 d 0x7B)
  | .twait h b a => some (qBits h 0 b a 1 0 0x7B)
  | .tstat h a d => some (qBits h 0 0 a 2 d 0x7B)
  | .hbind h b a d => some (qBits h 0 b a 3 d 0x7B)
  | .hacq h b a c s => some (qBits h 0 b a 4 (c ++ s) 0x7B)
  | .hrel h b a s => some (qBits h 0 b a 5 (0#2 ++ s) 0x7B)
  | .hpub h s => some (qBits h 0 0 0 6 (0#2 ++ s) 0x7B)
  | .hobs h s => some (qBits h 0 0 0 7 (0#2 ++ s) 0x7B)
  | .tpost h a d => some (qBits h 1 0 a 0 d 0x7B)
  | .cend h => some (qBits h 1 0 0 1 0 0x7B)
  | .csusp h a => some (qBits h 1 0 a 2 0 0x7B)
  | .cyield h a => some (qBits h 1 0 a 3 0 0x7B)
  | .notify h a => some (qBits h 1 0 a 4 0 0x7B)
  | .pmark h a => some (qBits h 1 0 a 5 0 0x7B)
  | .qrnd h d => some (qBits h 1 0 0 6 d 0x7B)
  | .portableLoad f3 rd rs1 imm => some (iBits imm rs1 f3 rd 0x03)
  | .portableStore f3 rs1 rs2 imm => some (rBits (imm.extractLsb' 5 7) rs2 rs1 f3 (imm.extractLsb' 0 5) 0x23)
  | .fence fm pred succ rs1 rd => some (iBits (fm ++ pred ++ succ) rs1 0 rd 0x0F)
  | .fenceI imm rs1 rd => some (iBits imm rs1 1 rd 0x0F)
  | .ecall => some (iBits 0 0 0 0 0x73)
  | .ebreak => some (iBits 1 0 0 0 0x73)
  | .portableDivide w f3 rd rs1 rs2 => some (rBits 1 rs2 rs1 f3 rd (if w = 1 then 0x3B else 0x33))
  | .portableBranchJump j => some (encodeJump j)
  | .csrAccess csr f3 rd src => some (iBits csr src f3 rd 0x73)
  | .portableIntegerOp op => some (encodeInt op)
  | _ => none

/-- The words of an instruction: how many bits, and the bits as a number. An agent's step has none. -/
def encode (i : Instr) : Option (Nat × Nat) :=
  match encodeMove i with
  | some w => some (24, w.toNat)
  | none => match encodeWord i with
    | some w => some (32, w.toNat)
    | none => none

/-! ### The bundle (R268, R269, R275) -/

/-- The 24 bits of slot k. -/
def slotBits (b : BitVec 256) (k : Nat) : BitVec 24 := b.extractLsb' (64 + 24 * k) 24
def bunSur (b : BitVec 256) : BitVec 8 := b.extractLsb' 56 8
def bunSyn (b : BitVec 256) : BitVec 8 := b.extractLsb' 48 8
def bunStg (b : BitVec 256) : BitVec 8 := b.extractLsb' 40 8
def bunIdl (b : BitVec 256) : Nat := (b.extractLsb' 24 8).toNat
def bunStp (b : BitVec 256) : BitVec 8 := b.extractLsb' 16 8

/-- How many surrendered slots follow slot k in one run (R275). -/
def surRun (b : BitVec 256) (k : Nat) : Nat :=
  if (bunSur b).getLsbD (k + 1) then
    if (bunSur b).getLsbD (k + 2) then
      if (bunSur b).getLsbD (k + 3) then 3 else 2
    else 1
  else 0

/-- The value of a long immediate in slot k with source code s (R275). -/
def longImm (b : BitVec 256) (k : Nat) (s : BitVec 10) : BitVec 64 :=
  if surRun b k = 1 then (s.extractLsb' 0 8 ++ slotBits b (k + 1)).signExtend 64
  else (s.extractLsb' 0 8 ++ slotBits b (k + 1) ++ slotBits b (k + 2)).signExtend 64

/-- The no-op move (R271). -/
def noopMove : BitVec 24 := 0x0001FE#24

/-- A bundle of stepping low bits `stp` that holds one move in slot k and no-op moves elsewhere (R10, R269). -/
def oneMoveBundle (stp : BitVec 8) (k : Nat) (m : BitVec 24) : BitVec 256 :=
  let at_ := fun j => if j = k then m else noopMove
  at_ 7 ++ at_ 6 ++ at_ 5 ++ at_ 4 ++ at_ 3 ++ at_ 2 ++ at_ 1 ++ at_ 0 ++ (0#40 ++ stp ++ 0#16)

end Sys2Proof
end

