-- ==== Sys2Proof/Machine/CoreState.lean ====
section
/-! DEFINITION. The state of one core as plain data: records, slot sequencing, results in flight, holds, the matrix
engine (R158 to R200, R173, R231 to R234, R384 to R388). -/

namespace Sys2Proof.Machine

/-- A continuation record: eight words (R90). -/
structure Rec where
  w0 : Word
  w1 : Word
  w2 : Word
  w3 : Word
  arg0 : Word
  arg1 : Word
  arg2 : Word
  arg3 : Word
  deriving DecidableEq, Repr

/-- What a core is doing (R92, R173, R237). -/
inductive Run where
  | idle | running | stopped
  deriving DecidableEq, Repr

/-- Held operations (R163, R287, R361, R397). -/
inductive HoldOp where
  | tokw | kw | fuse | rejoin | susp
  | cld | cst | ald | ast
  | post | twait | balloc | bwait | hbind | hacq | hrel | hpub | hobs | sae | saer | tpost | rnd | icinv | fence
  deriving DecidableEq, Repr

/-- A held operation: its captured operands, its bundle's number, whether K is 1, the portable destination register,
and how far it has come. -/
structure Hold where
  op  : HoldOp
  t   : TVal
  a   : TVal
  b   : TVal
  c   : TVal
  k   : Bool
  idx : Nat
  rd  : Nat
  st  : Nat
  val : Word
  img : List Word
  deriving DecidableEq, Repr

/-- A result in flight (R158): it lands at the end of cycle `land` of its unit's slot. -/
structure Infl where
  unit : Nat
  land : Nat
  idx  : Nat
  val  : TVal
  fl   : BitVec 7
  wr   : Bool
  /-- Issued inside a user-interrupt handler: the result goes to the second latch bank (R176). -/
  hb   : Bool
  deriving DecidableEq, Repr

/-- Destinations written at the end of the cycle (R280, R162, R317). -/
inductive Dst where
  | g (n : Nat) | o (n : Nat) | v (n : Nat) | p (n : Nat) | h (n : Nat) | kreg (n : Nat) | bank (b : Nat)
  deriving DecidableEq, Repr

structure PendW where
  dst : Dst
  val : TVal
  idx : Nat
  deriving DecidableEq, Repr

/-- A snapshot register (R173): REM, UNIT, TAG and VAL of a result that a stop drained, and whether it belongs to the
second latch bank (R174, R176). -/
structure Snap where
  rem  : Nat
  unit : Nat
  val  : TVal
  hb   : Bool
  deriving DecidableEq, Repr

/-- The loop engine (R166, R167, R306, R307): the fields of `k.loop` and `k.lcnt`, the loop's index, and an `lbrk`
seen in the current pass. -/
structure LoopSt where
  act   : Bool
  drn   : Bool
  susp  : Bool
  nst   : Nat
  len   : Nat
  lidx  : Nat
  start : Nat
  n     : Nat
  pass  : Nat
  brk   : Bool
  deriving DecidableEq, Repr

/-- A dispatched bundle (R163, R268): its number in dispatch order, address, bits, the earliest cycle IDL counts from
(R305), and the loop engine as it stood for it. -/
structure Bun where
  idx  : Nat
  addr : Nat
  bits : BitVec 256
  base : Nat
  loop : LoopSt
  deriving DecidableEq, Repr

/-- Sequencing of one slot: the number of its next bundle, the first cycle its IDL counts from, the end of a divide's
occupancy (R158), a hold, the cycle at which a stop froze it (R173), and an abandoned operation that is issued again with the operands it
had captured (R174, R295). -/
structure SlotSeq where
  next  : Nat
  avail : Nat
  div   : Nat
  hold  : Option Hold
  frz   : Option Nat
  kept  : Option Hold
  deriving DecidableEq, Repr

/-- Phases of one core clock: begin (release holds, fetch, choose), issue the chosen moves, end. -/
inductive Phase where
  | start | issue | finish
  deriving DecidableEq, Repr

/-- A stop that has been fixed at bundle number `idx` (R173): its cause, the member that raised it (none: every member
of the group has the cause), and a fatal asynchronous cause entered beside a precise one (R225). -/
structure StopReq where
  idx   : Nat
  addr  : Nat
  cause : Word
  who   : Option Nat
  also  : Option Word
  deriving DecidableEq, Repr

/-! ### The matrix engine -/

inductive MeOp where
  | pa | pb | acc | sh | dr | clr | cls | thr | seq
  deriving DecidableEq, Repr

/-- A staged or captured slice (R181 to R183): format tag, row words, scales. -/
structure Slice where
  tag    : BitVec 5
  rows   : List (BitVec 16)
  scales : List (BitVec 16)
  deriving DecidableEq, Repr

/-- A command with what it captured at issue (R178): trigger value, ports a to d, a register-mode slice, its bundle's
address and cadence for the accounting and the names of R198 and R238, and whether it was issued in a user-interrupt handler,
whose latch bank its result goes to (R176). -/
structure Cmd where
  op   : MeOp
  t    : Word
  pa   : Word
  pb   : Word
  pc   : Word
  pd   : Word
  regs : Option Slice
  bank : Option Nat
  k    : Bool
  tok  : Bool
  addr : Nat
  cad  : Word
  hb   : Bool
  deriving DecidableEq, Repr

/-- One element of a bank: FP32 code, count, and its part of an open block (R184, R185, R189). -/
structure Elem where
  v    : BitVec 32
  cnt  : BitVec 16
  part : Int
  pos  : Nat
  neg  : Nat
  cp   : Nat
  cn   : Nat
  deriving DecidableEq, Repr

/-- A bank of 96 × 160 elements. Rows not listed are +0 with count 0 when `unk` is none, else free values (R186).
`n` and `fmt` belong to the open block (R185). -/
structure Bank where
  rows : Tab (Tab Elem)
  unk  : Option Nat
  n    : Nat
  fmt  : Option (BitVec 5)
  deriving DecidableEq, Repr

/-- The four banks of an engine or the four tiles of a portable core, with the pairs' classes and the thresholds and
status of R191. -/
structure Tiles where
  banks  : List Bank
  split0 : Bool
  split1 : Bool
  agv    : BitVec 32
  agc    : BitVec 16
  mst    : BitVec 8
  deriving DecidableEq, Repr

/-- Where a running sequence stands (R193): next slice, next drain row and group, whether it is draining, whether it has been
told to stop (R194), and which generated command of the beat is in flight: 0 `me.pa`, 1 `me.pb`, 2 `me.acc` (R198). -/
structure SeqPos where
  j     : Nat
  row   : Nat
  cg    : Nat
  drain : Bool
  quit  : Bool
  ph    : Nat
  deriving DecidableEq, Repr

/-- A pending `me.sqs` (R187, R194): commands issued before it that have still to complete, its progress word when known, K,
and whether it was issued in a handler (R176). -/
structure Sqs where
  left : Nat
  run  : Bool
  word : Option Word
  k    : Bool
  hb   : Bool
  deriving DecidableEq, Repr

structure Engine where
  fifo  : List Cmd
  cur   : Option Cmd
  seq   : Option SeqPos
  sqs   : List Sqs
  a     : Option Slice
  b     : Option Slice
  tiles : Tiles
  iss   : Nat
  ret   : Nat
  /-- The drain result of the command in flight, which lands with its token (R187). -/
  out   : Option TVal
  /-- The engine refuses commands: at quiescence (R195). -/
  quiet : Bool
  /-- The di/dt limiter has admitted the engine out of idle (R36); since when it has had no command; when the first command
  after that came; whether it has accepted no beat since a gap of 10 µs. -/
  woken : Bool
  idle  : Nat
  since : Nat
  asleep : Bool
  deriving DecidableEq, Repr

/-- A staged line of 64 bytes (R140): address, bytes, which bytes a store wrote, and when it was allocated. -/
structure StLine where
  addr : Nat
  data : BitVec 512
  mask : BitVec 64
  at_  : Nat
  deriving DecidableEq, Repr

/-! ### Gear C core -/

/-- What an s6 move asks of the bundle stream, applied at the end of its cycle once every member of a lock-step group
has shown the same (R303, R306, R307, R310, R311). -/
inductive Ctl where
  | jump (target : Nat)
  | loop (n : Nat) (desc : Word)
  | lbrk
  | susp
  | decouple
  | eret
  deriving DecidableEq, Repr

structure CoreC where
  run   : Run
  cont  : Option Rec
  task  : Option Nat
  lead  : Nat
  group : List Nat
  tw    : Nat
  lane  : Nat
  dec   : Bool
  sys   : Bool
  g     : File Word
  o     : File Word
  v     : File TVal
  p     : File Bool
  l     : File TVal
  l2    : File TVal
  h     : File Word
  ports : File TVal
  psave : File TVal
  inH   : Bool
  flg   : BitVec 7
  col   : BitVec 9
  uivec : Word
  uicause : Word
  uiepc : Word
  drawn : BitVec 16
  prof  : Tab Word
  bank  : BitVec 8
  slip  : Word
  epc   : Word
  cause : Word
  loop  : LoopSt
  clk   : Nat
  cad   : Word
  fetch : Nat
  fidx  : Nat
  fbase : Nat
  win   : List Bun
  slots : List SlotSeq
  phase : Phase
  todo  : List (Nat × Nat)
  cur   : Option (Nat × Bun)
  ctl   : Option Ctl
  infl  : List Infl
  pend  : List PendW
  snaps : List Snap
  stop  : Option StopReq
  /-- This member's own cause of the stop that is being fixed: bundle number and cause (R223, R310, R314). -/
  mine  : Option (Nat × Word)
  /-- Moves of a lock-step group that this member has made although the slot stands at the bundle again: slot and bundle
  number (R170, R295). -/
  made  : List (Nat × Nat)
  /-- A `decouple` that s6 has issued, which the other slots have still to reach: its bundle number (R310). -/
  split : Option Nat
  issAt : Nat
  /-- How long the trailing slot had issued nothing when the core stopped (R229). -/
  stall : Nat
  uq    : List Word
  uovf  : Bool
  wst   : List StLine
  rst   : List StLine
  eng   : Engine
  /-- Class of the running tick, taken at its start, and whether the limiter holds the engine in it (R198, R36). -/
  tick  : Nat × Bool
  /-- Cadence and address of the bundle that the running tick is charged to, where a command was known at its start (R198). -/
  tickOf : Option (Word × Nat)
  /-- Cadence at which a sample was last taken, and engine samples that wait for the next command, whose bundle they name (R252). -/
  sampled : Option Word
  unnamed : Nat
  /-- The clock that runs began with no stop fixed, so that an asynchronous stop fixed in it leaves it counted (R165, R174). -/
  began : Bool
  /-- Where the trailing slot has come to that event 0x0101 counts: a bundle whose move a stop abandons counts once (R247). -/
  counted : Nat
  /-- The trailing slot has issued a bundle in this cycle that the event has not counted (R247). -/
  adv   : Bool
  l1    : Tab (BitVec 512)
  soft  : Option Nat
  shift : Bool
  /-- A hand-over that has been reached (LOOP and ITER of the carry image), and one that a draining loop leads to. -/
  honour : Option (Nat × Nat)
  drainFor : Option (Nat × Nat)
  /-- Barrier arrivals that wait for the writes before them (R368). -/
  arr   : List Word
  /-- Window stores on their way (R152): the cycle of the tandem's shared clock at whose end they land, LANE, core offset,
  bytes, value. -/
  wnd   : List (Nat × Nat × Nat × Nat × Nat)
  bpSkip : Bool
  step1 : Bool
  deriving DecidableEq, Repr

/-! ### Gear S and gear M core -/

/-- An interrupted `mmac` (R234, R401): its tile, its next slice, its slice count. -/
structure MmacPos where
  tile : Nat
  next : Nat
  nk   : Nat
  deriving DecidableEq, Repr

structure CoreP where
  run   : Run
  cont  : Option Rec
  task  : Option Nat
  pc    : Nat
  x     : File Word
  q     : File TVal
  flg   : BitVec 7
  tiles : Tiles
  retired : Word
  cause : Word
  drawn : BitVec 16
  hold  : Option Hold
  mmac  : Option MmacPos
  /-- A stop has abandoned the hold of the instruction at pc, which is reissued (R234, R397). -/
  again : Bool
  /-- Arrival counts of the active `.suspend` loops (R438). -/
  loops : Tab Nat
  lines : Tab (BitVec 512)
  stop  : Option (Word × Option Word)
  soft  : Option Nat
  shift : Bool
  /-- Control has arrived at pc: a hard stop ends the arrival, so that a resumed context honours a request only at the
  next boundary that it reaches (R127, R133, R438). -/
  arrived : Bool
  issAt : Nat
  stall : Nat
  prof  : Tab Word
  sampled : Option Word
  bpSkip : Bool
  step1 : Bool
  deriving DecidableEq, Repr

end Sys2Proof.Machine
end

