-- ==== Sys2Proof/Machine/State.lean ====
section
/-! DEFINITION. The whole machine's state, as plain data, and the machine right after reset. -/

namespace Sys2Proof.Machine

/-- Why the machine stops. -/
inductive Fault where
  /-- The module has no power (R30, R33): raised by `step`; safe, nothing runs in a module without power. -/
  | moduleOff
  /-- Bring-up has failed (R40): raised by `step`; safe, the module then serves nothing but the journal. -/
  | bringUpFailed
  deriving DecidableEq, Repr

/-- Why an instruction has no meaning. -/
inductive Refusal where
  /-- Raised by a dispatch arm that has no meaning yet; safe, nothing runs. -/
  | notModelled (mnemonic : String)
  deriving DecidableEq, Repr

/-- One turn of the schedule (log 1): an event of the table at a time in nanoseconds, a step of a core, or a copy of memory that leaves
a cache; and what the table has no row for (log 73): the host's read of a register of BAR0 (R46), its choice of BAR2's size (R45), a
record that management firmware posts for its own use (R175), the debugger's HELD on a runnable record (R113). -/
inductive Turn where
  | event (at_ : Nat) (i : Instr)
  | core (g : Nat)
  | evictL1 (g line : Nat)
  | evictL2 (d line : Nat)
  | evictRlc (d line : Nat)
  | evictTlb (t key : Nat)
  | evictWalk (d key : Nat)
  | hostRead (at_ fn off : Nat)
  | resizeBar (at_ size : Nat)
  | firmware (at_ d : Nat) (words : List Word)
  | hold (at_ t : Nat)
  deriving DecidableEq, Repr

/-- Memory by location (see `Machine/Ops.lean`): rising locations, no entry equal to zero, which an unlisted location
reads as (log 2). -/
abbrev Memory := List Host.Cell

def Memory.wfFrom (lo : Nat) : Memory → Bool
  | [] => true
  | (a, b) :: t => decide (lo ≤ a) && decide (b ≠ 0) && Memory.wfFrom (a + 1) t

/-- The canonical form. -/
def Memory.wf (m : Memory) : Bool := Memory.wfFrom 0 m

/-- A barrier (R366): expected arrivals, arrivals, generation, scope code, owner. -/
structure Barrier where
  n    : Nat
  arr  : Nat
  gen  : BitVec 32
  sc   : Nat
  asid : Nat
  deriving DecidableEq, Repr

/-- An entry of the hasp binding table (R141, R370): the ASID, the hasp's name (SPACE and address; for a core or
cluster scratchpad the owning core or cluster), its location, and the regions bound to it: name, bytes, and the core that bound it, whose
local buffer a portable name of SPACE 0x01 is (R396). -/
structure HaspEnt where
  asid    : Nat
  name    : Word
  owner   : Nat
  loc     : Nat
  regions : List (Word × Nat × Nat)
  deriving DecidableEq, Repr

/-- One SAE trigger in the queue (R374): who enqueued it and its operations (address, value, compare). -/
structure SaeTrig where
  core   : Nat
  op     : Nat
  ret    : Bool
  strict : Bool
  /-- When it was enqueued: lines stored until then are performed first (R376). -/
  at_    : Nat
  ops    : List (Nat × Nat × Nat)
  deriving DecidableEq, Repr

/-- A cluster (R169, R375): SAE queue, result entries (the core its continuation runs on, or the mark of its saved
context; the value when filled), and by bank of its scratchpad the source that last won it: 0 to 3 the `ls` units, 4 to 7 the
operand readers, 8 the SAE, 9 the copy engine. -/
structure Cluster where
  queue   : List SaeTrig
  results : List (Nat × Option Word)
  last    : Tab Nat
  deriving DecidableEq, Repr

/-- A C-die. -/
structure Die where
  step     : BitVec 16
  barriers : Tab Barrier
  tags     : Tab Nat
  hasps    : Tab HaspEnt
  rlc      : Tab (BitVec 512)
  l2       : Tab (BitVec 512)
  draws    : List Word
  /-- ASIDTAB (R77). -/
  asidtab  : Word
  /-- Descriptors that the die's walker has loaded (R77). -/
  descs    : Tab (List Word)
  /-- Walk cache (R82): first-stage pointers and second-stage entries, by VM, ASID and PA. -/
  wc       : Tab Word
  /-- Pages of published bundles (R262, R263): location in the die's bundle cache by ASID and code page. -/
  bcache   : Tab Nat
  /-- Slots of published bundles that stand for an instruction with an undeclared must-understand hint (R267, R420): the hint, by
  8·(ASID and address) + slot. -/
  marks    : Tab Nat
  /-- Measurement registers (R42). -/
  meas     : Tab (BitVec 384)
  /-- Trace ring words 0 to 4 (R251). -/
  trace    : Tab Word
  /-- The record buffer is full, and the die's cores pause (R255). -/
  recFull  : Bool
  deriving DecidableEq, Repr

/-- A TLB entry (R80, R81, R86): one leaf translation, by its VM, ASID, page base and size in bits; its frame as the leaf names it,
the leaf as it was last read or set, and the leaf's location. -/
structure TlbEnt where
  vm      : Nat
  asid    : Nat
  base    : Nat
  size    : Nat
  frame   : Nat
  leaf    : Word
  pte     : Nat
  d       : Bool
  /-- Second-stage entries of the chunks of the page that were used: by guest chunk the host address, W and X (R78). -/
  host    : Tab (Nat × Bool × Bool)
  /-- One of the 1,024 pinned translations that packets keep in the TLB (R80). -/
  kept    : Bool
  retired : Bool
  /-- Packets that hold the pinned translation: channel and number. -/
  holders : List (Nat × Nat)
  /-- The descriptor that the walk took: a packet that holds a retired entry goes on against it (R77, R86). -/
  desc    : List Word
  deriving DecidableEq, Repr

/-- A copy engine (R77, R80, R87): counters, the context registers, loaded descriptors by ASID, the TLB, and translations that have
left it while packets hold them. -/
structure CopyEng where
  lreq   : Word
  rreq   : Word
  root   : Word
  s2base : Word
  s2lim  : Word
  descs  : Tab (List Word)
  tlb    : Tab TlbEnt
  gone   : List TlbEnt
  deriving DecidableEq, Repr

/-! ### Queues and packets (R47 to R67) -/

/-- A packet that the front-end has taken (R54): its number, words, poster (R399), the group that the poster's
continuation belongs to (R102), whether it is malformed or was never taken, how far it has come. -/
structure Pkt where
  n      : Nat
  words  : List Word
  poster : Option Nat
  grp    : Option Nat
  bad    : Bool
  /-- Next row; for LAUNCH the records posted. -/
  row    : Nat
  /-- Its own operation has finished, with its status code (R64). -/
  done   : Bool
  code   : Nat
  /-- A parked fault (R226): fault code and time. -/
  fault  : Option (Nat × Nat)
  /-- It took the pin-retired fault, which the engine retries by itself (R86). -/
  retry  : Bool
  /-- A reliable SEND: the time its last flit left, and whether the peer has acknowledged it (R62). -/
  sent   : Option Nat
  acked  : Bool
  /-- 0 not started, 1 started; 3 a move that has set MOV, 2 one that has begun its retag (R119, R122). -/
  phase  : Nat
  /-- The group that a LAUNCH has formed (R102). -/
  group  : Option Nat
  /-- A clamped packet that wrote rows into this shut core's scratchpad before the shutter closed (R246). -/
  into   : List Nat
  /-- Lines of HBM and of cluster scratchpads that it wrote, whose copies a covering acquire discards (R149). -/
  lines  : List Nat
  /-- The index list of a GATHER or SCATTER, as the front-end read it (R59), or the records of a LAUNCH as numbers (R100). -/
  list   : List Int
  deriving DecidableEq, Repr

/-- A claimed index whose packet the front-end has yet to write into its slot (R363). -/
structure Claim where
  idx    : Nat
  words  : List Word
  poster : Nat
  grp    : Option Nat
  deriving DecidableEq, Repr

/-- A channel (R47, R48): the function and descriptor of its queue, its captured descriptor, read index, timeline,
packets taken and not completed, claims, posters of written indices, the pending-fault bit and the packets that faulted
(R226, R227), the write index at which a close began (R50), when the slot's phase first matched (R53), a parked
front-end access (R47), and the lines that completed packets wrote (R149). -/
structure Chan where
  owner  : Option (Nat × Nat)
  ring   : Nat
  widx   : Nat
  stat   : Nat
  vec    : Nat
  asid   : Nat
  log    : Nat
  ridx   : Nat
  tl     : Nat
  pkts   : List Pkt
  claims : List Claim
  posters : Tab (Nat × Option Nat)
  pending : Bool
  faulted : List (Nat × Nat)
  closing : Option Nat
  matched : Option Nat
  parked : Option (Nat × Nat)
  halted : Bool
  /-- A queue abort ends the queue (R47, R54). -/
  aborted : Bool
  /-- The close has yet to read the write index (R50). -/
  unread : Bool
  wrote  : List (Nat × Nat × Nat)
  deriving DecidableEq, Repr

/-! ### Records, groups, contexts (R90 to R113, R231 to R234) -/

inductive TState where
  | waiting | runnable | running
  deriving DecidableEq, Repr

/-- A saved context (R231 to R234): its cores in LANE order with their scratchpad bytes by offset, or one portable core,
the stepping of its die, its cluster where SAE entries tie it to one (R375), its save area: PA and bytes (R231). -/
structure Ctx where
  cores : List CoreC
  pcore : Option CoreP
  pads  : List Memory
  step  : BitVec 16
  clus  : Option Nat
  area  : Nat × Nat
  deriving DecidableEq, Repr

/-- A record in the task queue (R90 to R105): partition, die it is placed by, tier of its KEY, whether admitted (R124),
when it became runnable and unheld, its age in that partition's order, group, placement hint, whether its slot comes
from the reserve, its saved context, effective priority while it runs, since when it runs. -/
structure Task where
  r     : Rec
  st    : TState
  part  : Nat
  pdie  : Nat
  tier  : Nat
  adm   : Bool
  since : Nat
  order : Nat
  grp   : Nat
  hint  : Nat
  res   : Bool
  ctx   : Option Ctx
  prio  : Nat
  /-- Since when its running time counts (R107), and the rank of its last dispatch or resumption: a later one has a greater (R109). -/
  start : Nat
  disp  : Nat
  /-- The timeline value that satisfied its wait (R93). -/
  acq   : Option Nat
  /-- Management firmware posted it for its own use (R175). -/
  fw    : Bool
  /-- Since when HELD keeps it from aging (R105, R113); since when its context stands halted on its cores (R107). -/
  pause : Nat
  halted : Option Nat
  /-- Its KEY did not translate at its last placement, which is made again (R97, log 33). -/
  late  : Bool
  /-- Its segment changed tier, or bundles were published for it, while it ran: a shift request is due (R126). -/
  asked : Bool
  deriving DecidableEq, Repr

/-- A partition (R106, R109, R111): deficits by ASID, the ring of each level head first, the gathering record and since when, whether
its pre-emption has been sent; by record since when one of level 7 has been eligible with no idle core, and since when a tandem has
lacked only idle cores; when the partition last looked at its records. -/
structure Part where
  deficit : Tab Int
  rings   : Tab (List Nat)
  gather  : Option (Nat × Nat × Bool)
  full    : Tab Nat
  lack    : Tab Nat
  seen    : Nat
  deriving DecidableEq, Repr

/-- A launch group (R102): its LAUNCH's channel and packet number. -/
structure Group where
  asid : Nat
  ch   : Nat
  n    : Nat
  deriving DecidableEq, Repr

/-! ### Code objects (R257 to R262) -/

/-- A buffer of an object: where it lies, its page size and placement, its segment size, the locations of its segment map's pages
(R115). -/
structure Buf where
  va    : Nat
  size  : Nat
  page  : Nat
  plc   : Nat
  seg   : Nat
  maps  : List Nat
  deriving DecidableEq, Repr

/-- An entry: carry size, live ranges, its portable list's address and words, the spans of its `.suspend` loops (LOOP, first and last
address), the address of its bundles by die where published, and the loader's records of them where they are a translation (R402). -/
structure Entry where
  carry : Nat
  live  : List (Nat × Nat)
  code  : Nat
  list  : List (BitVec 32)
  spans : List (Nat × Nat × Nat)
  pub   : Tab Nat
  /-- Dies whose bundle cache had no room for it: it stays unpublished there (R262). -/
  tried : List Nat
  recs  : Tab (List BunRec)
  deriving DecidableEq, Repr

/-- A name of section type 7 (R260): its bytes, the 32-bit scratchpad address it stands for, a window's length. -/
structure PadName where
  name : List Byte
  addr : Nat
  len  : Nat
  deriving DecidableEq, Repr

structure CodeObj where
  ents  : List Entry
  bufs  : List Buf
  mask  : Nat
  /-- Names of hasps of FORM 0 (R260). -/
  names : List PadName
  /-- Frames it holds under its VM's quota (R118), and its flash copies: address and bytes (R114). -/
  frames : Nat
  copies : List (Nat × Nat)
  /-- Keys of the code pages that its published bundles lie in. -/
  pages : List Nat
  /-- Names of windows (R260); its published bundles: die, address, bytes. -/
  wins  : List PadName
  spans : List (Nat × Nat × Nat)
  deriving DecidableEq, Repr

/-! ### Soft errors, debug, dumps, ports, power, bring-up -/

/-- An uncorrectable word that no access has met yet (R228): the structure's code (1, 2 or 4), its core or cluster, the index of
the 8-byte word or of the element, and when an access first met it. -/
structure BadWord where
  code : Nat
  unit : Nat
  idx  : Nat
  met  : Option Nat
  deriving DecidableEq, Repr

/-- A core's debug block (R240). -/
structure Block where
  busy   : Bool
  err    : Bool
  halted : Bool
  shut   : Bool
  shack  : Bool
  ended  : Bool
  dpa    : Nat
  cen    : Bool
  cadv   : Nat
  deriving DecidableEq, Repr

/-- A dump (R235): where it lies and how long it is, its chain of causes as four-word entries, the count beyond 64, the contexts, the
ASID's channels and hasp entries. -/
structure Dump where
  pa    : Nat
  bytes : Nat
  boot  : Nat
  chain : List (List Word)
  more  : Nat
  ctxs  : List Ctx
  chans : List (Nat × Chan)
  hasps : List HaspEnt
  deriving DecidableEq, Repr

structure Flit where
  hdr     : Word
  payload : List Byte
  deriving DecidableEq, Repr

/-- A row of a SEND on its way to a peer: the flits up to its last one that are not acknowledged (none: it is delivered), its aperture
offset, its bytes and their number, and the reliable SEND that it belongs to, by channel and packet (R62, R218, R222). -/
structure WireRow where
  left  : Nat
  off   : Nat
  len   : Nat
  data  : Nat
  owner : Option (Nat × Nat)
  deriving DecidableEq, Repr

/-- A peer port (R25 to R29): lanes in use (0 down), the SEQ last sent, unacknowledged flits, when ACKSEQ last moved,
replays of the first flit; the SEQ last received in order, whether flits are discarded until a replay, messages being received
and messages delivered, by 65,536·VC + MTAG, credits received, reliable SENDs (flits up to their last, channel, packet), rows on their
way to the peer (flits up to their last, aperture offset, bytes, value), and the header of the flit last sent. -/
structure Port where
  lanes  : Nat
  seq    : Nat
  unack  : List Flit
  /-- Flits that wait for a place among the 2,048 kept ones. -/
  outq   : List Flit
  /-- Flits received since the last one sent (CRED). -/
  owed   : Nat
  moved  : Nat
  replay : Nat
  got    : Nat
  drop   : Bool
  parts  : Tab (List Byte)
  inbox  : List (Nat × List Byte)
  cred   : Nat
  sends  : List (Nat × Nat × Nat)
  /-- Rows of SENDs on their way, oldest first. -/
  wire   : List WireRow
  out    : Word
  deriving DecidableEq, Repr

/-- A V/F island (R30 to R33): commanded and running frequency in MHz, its cap, the hottest reading in degrees, since
when it stands at 105 or more at 1.2 GHz, whether it is throttled. -/
structure Island where
  want : Nat
  mhz  : Nat
  cap  : Nat
  hot  : Nat
  fatal : Option Nat
  slow : Bool
  deriving DecidableEq, Repr

/-- A journal record (R38), with its CHK. -/
structure JRec where
  boot   : Nat
  step   : Nat
  inst   : Nat
  out    : Nat
  meth   : Nat
  time   : Nat
  detail : Nat
  chk    : BitVec 32
  deriving DecidableEq, Repr

/-- Bring-up (R37 to R43): boot number, position in the list of step instances, journal, failed step, sealed mark, boot
mode (R253: 0 normal, 1 record, 2 replay), and the inputs (log 7): by step and instance the first method that passes, the
firmware images, the cluster of a die that fails its self-test, the measurements that a replay must meet; the clusters
disabled, what the journal holds beside step records, and that the driver has cleared it. Each record stands in both copies of the
journal (R38). Further inputs: the fuses with the hashes of the two public keys and the least security version (R41), and the flash
channels of an S-die that fail their scan; the channels retired (R37), and the identity keys and certificate (R44); the flash range that
the mode word names, as start and bytes, and no ASID's flash extent holds (R253). -/
structure Boot where
  no      : Nat
  pos     : Nat
  journal : List JRec
  copy    : List JRec
  failed  : Option (Nat × Nat)
  sealed  : Bool
  mode    : Nat
  region  : Nat × Nat
  health  : Tab Nat
  images  : Tab (List Byte)
  broken  : Tab Nat
  want    : List (BitVec 384)
  off     : List Nat
  events  : List (Nat × Nat)
  cleared : Bool
  fuseRsa : BitVec 384
  fuseSlh : BitVec 384
  fuseVer : Nat
  badChan : Tab (List Nat)
  retired : List (Nat × Nat)
  keys    : Option (List Byte × List Byte)
  cert    : Option (List Byte × List Byte × List Byte)
  deriving DecidableEq, Repr

/-- What the host receives (R45, R46): read data or an atomic's old value, a Completer Abort, an Unsupported Request, a
completion without data, that the function is not ready (R40); an attestation report with its two signatures (R44); a handle or
refusal of the loader. -/
inductive HostMsg where
  | data (x n : Nat)
  | abort
  | unsupported
  | done
  | notReady
  | report (body rsa slh : List Byte)
  | handle (asid h : Nat)
  | refused (code : Nat)
  | note (what detail : Nat)
  deriving DecidableEq, Repr

/-- An entry of a recorded stream (R253): a boot outcome, a measured image, a sealed measurement register, an entropy value with its
bundle name, a host arrival with the cadence of each die's first running core, what the host answers to device reads, a peer arrival with
its time, a winner, a release of a held slot with its core's cadence. -/
inductive Stream where
  | boot (step inst out meth : Nat)
  | image (inst : Nat) (bytes : List Byte)
  | measured (reg : Nat) (v : BitVec 384)
  | entropy (name : List Word) (v : Word)
  | host (t : Turn) (cads : List Word)
  | completions (m : Memory)
  | peer (port vc at_ : Nat)
  | winner (t : Turn)
  | release (g slot : Nat) (cad : Word)
  deriving DecidableEq, Repr

/-- A turn of a record (R253): the cadence of the core it concerns, the record that won a dispatch or a resumption in it, and what the
host answers to the device reads that it makes. -/
structure Recorded where
  turn : Turn
  cad  : Word
  won  : Option Nat
  host : Memory
  deriving DecidableEq, Repr

structure State where
  focus  : Nat
  now    : Nat
  fresh  : Nat
  agenda : List Turn
  power  : Bool
  mem    : Memory
  cores  : Tab CoreC
  pcores : Tab CoreP
  dies   : Tab Die
  clus   : Tab Cluster
  ces    : Tab CopyEng
  /-- The home map (R70), by chunk; every die holds the same. -/
  home   : Tab (BitVec 4)
  /-- Peer ports that are trained and assigned to a function, with its VM number (R68). -/
  portVm : Tab Nat
  /-- Profiling blocks (R248): 16 words per ASID, by 16·ASID + word. -/
  prof   : Tab Word
  /-- Times at which engines were admitted out of idle in the last 2 µs (R36). -/
  wakes  : List Nat
  /-- Queue descriptors as written, by 4,096·function + number (R48); word 6 holds ERR and VALID. -/
  qdesc  : Tab (List Word)
  /-- Binding words, by 16·VF + number (R437). -/
  binds  : Tab Word
  chans  : Tab Chan
  /-- The task queue by record number, the next number, partitions, groups and the next group's number. -/
  tasks  : Tab Task
  ntask  : Nat
  parts  : Tab Part
  grps   : Tab Group
  ngrp   : Nat
  /-- ASIDs whose descriptor has V = 1 (R77). -/
  live   : List Nat
  /-- Code objects by 2^20·ASID + handle. -/
  objs   : Tab CodeObj
  /-- HBM frames that objects hold, those of promoted segments among them (R118): object, PA, bytes. -/
  frames : List (Nat × Nat × Nat)
  /-- Stage map (R95), weight table (R108), quota LIMIT and USED by VM (R118), VM limits (R229). -/
  stagemap : Tab (BitVec 32)
  weights : Tab (BitVec 8)
  qlimit : Tab Nat
  qused  : Tab Nat
  limits : Tab Word
  /-- Debug words (R239), blocks (R240), breakpoints by 8·ASID + n (R244). -/
  dbg    : Tab Word
  blocks : Tab Block
  bps    : Tab Word
  /-- Dump slots (R235), dumps, and the chain of causes of the teardowns in progress. -/
  dslots : Tab Word
  dumps  : Tab Dump
  chains : Tab (List (List Word))
  /-- ASIDs whose teardown has passed its dump and waits for their queues (R236). -/
  torn   : List Nat
  /-- INVCMD and INVVA as written, INVSTAT, the command in progress (R84). -/
  invcmd : Word
  invva  : Word
  invstat : Word
  invnow : Option (Nat × Nat × Nat × Nat)
  bar2   : Nat
  /-- The MSI-X tables (R46): by function and word, 8,192 words a function. -/
  msix   : Tab Word
  /-- MSI-X messages (function, vector) and what the host has received, oldest first. -/
  irqs   : List (Nat × Nat)
  host   : List HostMsg
  peers  : Tab Port
  islands : Tab Island
  plimit : Nat
  boot   : Boot
  /-- Recording is on (R253, R255), and the turns as recorded. -/
  recording : Bool
  record : List Recorded
  /-- What the streams of the record region hold (R253), and the bytes written there; the cores that the debugger's commands have changed
  in a replay, and 65,536 where another agent's state was (R255). -/
  streams : List Stream
  recAt  : Nat
  altered : List Nat
  /-- Flash codewords (1 KiB) that the ECC cannot correct (R405): an input (log 7). -/
  flashBad : List Nat
  /-- Uncorrectable words of SRAM that stand in their structures (R228). -/
  bad    : List BadWord
  deriving DecidableEq, Repr

/-! ### Reset -/

def Rec.zero : Rec := ⟨0, 0, 0, 0, 0, 0, 0, 0⟩
def LoopSt.none : LoopSt := ⟨false, false, false, 0, 0, 0, 0, 0, 0, false⟩
def Bank.clear : Bank := ⟨[], none, 0, none⟩
def Tiles.reset : Tiles := ⟨[Bank.clear, Bank.clear, Bank.clear, Bank.clear], false, false, 0, 0, 0⟩
def Engine.reset : Engine :=
  { fifo := [], cur := none, seq := none, sqs := [], a := none, b := none, tiles := Tiles.reset, iss := 0, ret := 0,
    out := none, quiet := false, woken := false, idle := 0, since := 0, asleep := false }
def SlotSeq.reset : SlotSeq := ⟨0, 0, 0, none, none, none⟩

/-- A gear C core after reset: idle, its registers zero (log 4) but for `k.bank` (R162). -/
def CoreC.reset : CoreC :=
  { run := .idle, cont := none, task := none, lead := 0, group := [], tw := 0, lane := 0, dec := false, sys := false
    g := File.empty, o := File.empty, v := File.empty, p := File.empty, l := File.empty, l2 := File.empty
    h := File.empty, ports := File.empty, psave := File.empty, inH := false
    flg := 0, col := 0, uivec := 0, uicause := 0, uiepc := 0, drawn := 0, prof := [], bank := 0xFF
    slip := 0, epc := 0, cause := 0, loop := LoopSt.none, clk := 0, cad := 0, fetch := 0, fidx := 0, fbase := 0
    win := [], slots := List.replicate 8 SlotSeq.reset, phase := .start, todo := [], cur := none, ctl := none
    infl := [], pend := [], snaps := [], stop := none, mine := none, made := [], split := none, issAt := 0, stall := 0
    uq := [], uovf := false, wst := [], rst := []
    eng := Engine.reset, tick := (4, false), tickOf := none, sampled := none, unnamed := 0, began := false, counted := 0, adv := false, l1 := [], soft := none, shift := false, honour := none, drainFor := none, arr := [], wnd := []
    bpSkip := false, step1 := false }

/-- A gear S or gear M core after reset (log 4). -/
def CoreP.reset : CoreP :=
  { run := .idle, cont := none, task := none, pc := 0, x := File.empty, q := File.empty, flg := 0
    tiles := Tiles.reset, retired := 0, cause := 0, drawn := 0, hold := none, mmac := none, again := false, loops := [], lines := []
    stop := none, soft := none, shift := false, arrived := false, issAt := 0, stall := 0, prof := []
    sampled := none, bpSkip := false, step1 := false }

/-- A C-die after reset; its stepping is 0x0021 (log 5). -/
def Die.reset : Die := ⟨0x0021, [], [], [], [], [], [], 0, [], [], [], [], [], [], false⟩
def Cluster.reset : Cluster := ⟨[], [], []⟩

def CopyEng.reset : CopyEng := ⟨0, 0, 0, 0, 0, [], [], []⟩

def Chan.reset : Chan :=
  { owner := none, ring := 0, widx := 0, stat := 0, vec := 0, asid := 0, log := 0, ridx := 0, tl := 0, pkts := []
    claims := [], posters := [], pending := false, faulted := [], closing := none, matched := none, parked := none
    halted := false, aborted := false, unread := false, wrote := [] }
def Part.reset : Part := ⟨[], [], none, [], [], 0⟩
def Block.reset : Block := ⟨false, false, false, false, false, false, 0, false, 0⟩
def Port.reset : Port := ⟨0, 0, [], [], 0, 0, 0, 0, false, [], [], 0, [], [], 0⟩
/-- An island before its first command: 2,000 MHz (log 6). -/
def Island.reset : Island := ⟨2000, 2000, 2400, 0, none, false⟩
/-- Before the first boot (log 7). -/
def Boot.reset : Boot := ⟨1, 0, [], [], none, false, 0, (0, 0), [], [], [], [], [], [], false, 0, 0, 0, [], [], none, none⟩

def State.reset : State :=
  { focus := 0, now := 0, fresh := 0, agenda := [], power := true, mem := [], cores := [], pcores := [], dies := []
    clus := [], ces := [], home := [], portVm := [], prof := [], wakes := []
    qdesc := [], binds := [], chans := [], tasks := [], ntask := 0, parts := [], grps := [], ngrp := 0, live := []
    objs := [], frames := [], stagemap := [], weights := [], qlimit := [], qused := [], limits := [], dbg := [], blocks := [], bps := []
    dslots := [], dumps := [], chains := [], torn := [], invcmd := 0, invva := 0, invstat := 0, invnow := none
    bar2 := 2 ^ 36, msix := [], irqs := [], host := [], peers := [], islands := [], plimit := 3000, boot := Boot.reset, recording := false, record := [], streams := [], recAt := 0, altered := [], flashBad := [], bad := [] }

end Sys2Proof.Machine
end

