-- ==== Sys2Proof/Machine/Numeric.lean ====
section
/-! DEFINITION. Number formats and arithmetic (R201 to R213): tags, lanes, exact values rounded once, conversions and
the transcendental functions. Everything here is a fixed function of bits (R211, R342). -/

namespace Sys2Proof.Machine

/-! ### Tags (R201) -/

def isF (t : BitVec 5) : Bool := t = 1 || t = 2 || t = 3
def isI (t : BitVec 5) : Bool := t = 4 || t = 5 || t = 6
def isN (t : BitVec 5) : Bool := t = 7 || t = 8 || t = 9
def isX (t : BitVec 5) : Bool := t = 0x12
def isBni (t : BitVec 5) : Bool := decide (0x0A ≤ t.toNat ∧ t.toNat ≤ 0x10)
def isFINX (t : BitVec 5) : Bool := isF t || isI t || isN t || isX t
/-- Tags that R201 reserves or keeps in the banks: 0x11 and 0x14 to 0x1F. -/
def badTag (t : BitVec 5) : Bool := decide (t = 0x11 ∨ 0x14 ≤ t.toNat)

/-- Planes of a BNI tag (R201). -/
def bniP (t : BitVec 5) : Nat := t.toNat - 0x0A + 2

/-- Lane width of a tag (R201; R324 for BNI, Mask and Raw). -/
def laneW (t : BitVec 5) : Nat :=
  match t.toNat with
  | 0x00 => 64
  | 0x01 | 0x04 | 0x07 | 0x12 => 32
  | 0x02 | 0x03 | 0x05 | 0x08 => 16
  | 0x06 | 0x09 => 8
  | 0x13 => 1
  | _ => 16

def laneN (t : BitVec 5) : Nat := 1024 / laneW t

/-- Lane `i` of width `w` of a value held as a number (R201). -/
def lane (w : Nat) (x : Nat) (i : Nat) : Nat := (x >>> (w * i)) % 2 ^ w

def vlane (v : TVal) (w i : Nat) : Nat := lane w v.bits.toNat i

/-- Lanes 0 to `n - 1` of width `w` put together. -/
def packLanes (w : Nat) (f : Nat → Nat) : Nat → Nat
  | 0 => 0
  | n + 1 => packLanes w f n + (f n % 2 ^ w) <<< (w * n)

/-! ### Flags (R208) -/

abbrev Flags := BitVec 7
def fNX : Flags := 0x01
def fUF : Flags := 0x02
def fOF : Flags := 0x04
def fDZ : Flags := 0x08
def fIV : Flags := 0x10
def fSAT : Flags := 0x20
def fIDZ : Flags := 0x40

/-- Lanes that also raise flags: the packed lanes and the OR of the flags. -/
def packLanesF (w : Nat) (f : Nat → Nat × Flags) : Nat → Nat × Flags
  | 0 => (0, 0)
  | n + 1 =>
    let r := packLanesF w f n
    let x := f n
    (r.1 + (x.1 % 2 ^ w) <<< (w * n), r.2 ||| x.2)

/-! ### Floating-point formats (R203) -/

/-- A format by its exponent and fraction widths. -/
structure Fmt where
  eb : Nat
  mb : Nat
  deriving DecidableEq, Repr

def fp32 : Fmt := ⟨8, 23⟩
def bf16 : Fmt := ⟨8, 7⟩
def fp16 : Fmt := ⟨5, 10⟩

def fmtOf (t : BitVec 5) : Fmt := if t = 2 then bf16 else if t = 3 then fp16 else fp32

def Fmt.bias (f : Fmt) : Int := 2 ^ (f.eb - 1) - 1
/-- Exponent of the least bit of a subnormal. -/
def Fmt.qmin (f : Fmt) : Int := 1 - f.bias - f.mb
def Fmt.infCode (f : Fmt) : Nat := (2 ^ f.eb - 1) * 2 ^ f.mb
def Fmt.nan (f : Fmt) : Nat := f.infCode + 2 ^ (f.mb - 1)
def Fmt.signBit (f : Fmt) : Nat := 2 ^ (f.eb + f.mb)
def Fmt.withSign (f : Fmt) (neg : Bool) (mag : Nat) : Nat := if neg then f.signBit + mag else mag

/-- A decoded number: NaN, a signed infinity, or (−1)^neg · m · 2^e. -/
inductive Fl where
  | nan
  | inf (neg : Bool)
  | fin (neg : Bool) (m : Nat) (e : Int)
  deriving DecidableEq, Repr

def Fl.isNan : Fl → Bool
  | .nan => true
  | _ => false

/-- Read a code of a format (R203). -/
def decodeFl (f : Fmt) (c : Nat) : Fl :=
  let neg := decide ((c / f.signBit) % 2 = 1)
  let mag := c % f.signBit
  let ex := mag / 2 ^ f.mb
  let fr := mag % 2 ^ f.mb
  if ex = 2 ^ f.eb - 1 then (if fr = 0 then .inf neg else .nan)
  else if ex = 0 then .fin neg fr f.qmin
  else .fin neg (2 ^ f.mb + fr) (f.qmin + (ex - 1 : Nat))

/-- n·2^z over d·2^z' with both powers natural: the fraction n/d · 2^e as a pair of naturals. -/
def scaleQ (n d : Nat) (e : Int) : Nat × Nat :=
  if 0 ≤ e then (n <<< e.toNat, d) else (n, d <<< (-e).toNat)

/-- The exponent k with 2^k ≤ n/d · 2^e < 2^(k+1), for n and d not zero. -/
def ilogQ (n d : Nat) (e : Int) : Int :=
  let k : Int := (n.log2 : Int) - d.log2
  let s := scaleQ n d (-k)
  (if s.2 ≤ s.1 then k else k - 1) + e

/-- Nearest integer of n/d, ties to even, or away from zero when `rna`; and whether it differs from n/d (R206). -/
def roundNat (rna : Bool) (n d : Nat) : Nat × Bool :=
  let q := n / d
  let r := n % d
  let up := decide (d < 2 * r) || (decide (2 * r = d) && (rna || decide (q % 2 = 1)))
  (if up then q + 1 else q, decide (r ≠ 0))

/-- The exact value (−1)^neg · n/d · 2^e rounded once to a float format with RNE, with the flags of R206: overflow to
infinity, tininess detected after rounding. -/
def roundFl (f : Fmt) (neg : Bool) (n d : Nat) (e : Int) : Nat × Flags :=
  if n = 0 then (f.withSign neg 0, 0)
  else
    let k := ilogQ n d e
    let q := max (k - f.mb) f.qmin
    let s := scaleQ n d (e - q)
    let m := roundNat false s.1 s.2
    let code := (q - f.qmin).toNat * 2 ^ f.mb + m.1
    if f.infCode ≤ code then (f.withSign neg f.infCode, fOF ||| fNX)
    else
      let emin := f.qmin + f.mb
      let u := scaleQ n d (e - (k - f.mb))
      let tiny := decide (k < emin) && decide (k < emin - 1 ∨ (roundNat false u.1 u.2).1 < 2 ^ (f.mb + 1))
      (f.withSign neg code, if m.2 then (if tiny then fUF ||| fNX else fNX) else 0)

/-- Signed dyadic to a rounded float: `z` the integer, `e` the exponent, `zneg` the sign of a zero. -/
def roundDy (f : Fmt) (z : Int) (e : Int) (zneg : Bool) : Nat × Flags :=
  if z = 0 then (f.withSign zneg 0, 0) else roundFl f (decide (z < 0)) z.natAbs 1 e

def sgn (neg : Bool) (m : Nat) : Int := if neg then -(m : Int) else m

/-- Sum of two finite dyadics as (integer, exponent). -/
def addDy (n1 : Bool) (m1 : Nat) (e1 : Int) (n2 : Bool) (m2 : Nat) (e2 : Int) : Int × Int :=
  let e := min e1 e2
  (sgn n1 (m1 <<< (e1 - e).toNat) + sgn n2 (m2 <<< (e2 - e).toNat), e)

/-- x + y of decoded numbers, rounded once (R203, R206, R325). -/
def addFl (f : Fmt) (x y : Fl) : Nat × Flags :=
  match x, y with
  | .nan, _ => (f.nan, 0)
  | _, .nan => (f.nan, 0)
  | .inf a, .inf b => if a = b then (f.withSign a f.infCode, 0) else (f.nan, fIV)
  | .inf a, .fin _ _ _ => (f.withSign a f.infCode, 0)
  | .fin _ _ _, .inf b => (f.withSign b f.infCode, 0)
  | .fin a m e, .fin b m' e' =>
    let s := addDy a m e b m' e'
    roundDy f s.1 s.2 (decide (m = 0 ∧ m' = 0) && a && b)

def negFl : Fl → Fl
  | .nan => .nan
  | .inf a => .inf !a
  | .fin a m e => .fin (!a) m e

/-- The exact product of decoded numbers and its flag (0·∞ is invalid, R206). -/
def mulExact (x y : Fl) : Fl × Flags :=
  match x, y with
  | .nan, _ => (.nan, 0)
  | _, .nan => (.nan, 0)
  | .inf a, .inf b => (.inf (a != b), 0)
  | .inf a, .fin b m _ => if m = 0 then (.nan, fIV) else (.inf (a != b), 0)
  | .fin a m _, .inf b => if m = 0 then (.nan, fIV) else (.inf (a != b), 0)
  | .fin a m e, .fin b m' e' => (.fin (a != b) (m * m') (e + e'), 0)

/-- A decoded number rounded to a format. -/
def toFl (f : Fmt) (x : Fl) : Nat × Flags :=
  match x with
  | .nan => (f.nan, 0)
  | .inf a => (f.withSign a f.infCode, 0)
  | .fin a m e => roundFl f a m 1 e

def mulFl (f : Fmt) (x y : Fl) : Nat × Flags :=
  let p := mulExact x y
  let r := toFl f p.1
  (r.1, p.2 ||| r.2)

/-- x·y + z with an exact product and one rounding; 0·∞ raises IV even where z is a NaN (R325). -/
def fmaFl (f : Fmt) (x y z : Fl) : Nat × Flags :=
  let p := mulExact x y
  let r := addFl f p.1 z
  (r.1, p.2 ||| r.2)

/-- x / y rounded once (R206): 0/0 and ∞/∞ are invalid, a finite nonzero number over zero divides by zero. -/
def divFl (f : Fmt) (x y : Fl) : Nat × Flags :=
  match x, y with
  | .nan, _ => (f.nan, 0)
  | _, .nan => (f.nan, 0)
  | .inf _, .inf _ => (f.nan, fIV)
  | .inf a, .fin b _ _ => (f.withSign (a != b) f.infCode, 0)
  | .fin a _ _, .inf b => (f.withSign (a != b) 0, 0)
  | .fin a m e, .fin b m' e' =>
    if m' = 0 then (if m = 0 then (f.nan, fIV) else (f.withSign (a != b) f.infCode, fDZ))
    else roundFl f (a != b) m m' (e - e')

/-- Key that orders non-NaN numbers by value with −0 below +0 (R203, R326): the code's sign-magnitude order. -/
def orderKey (f : Fmt) (c : Nat) : Int :=
  if (c / f.signBit) % 2 = 1 then -((c % f.signBit : Nat) : Int) - 1 else (c % f.signBit : Nat)

/-- Key that orders non-NaN numbers by value with −0 equal to +0 (R327). -/
def valueKey (f : Fmt) (c : Nat) : Int := sgn (decide ((c / f.signBit) % 2 = 1)) (c % f.signBit)

def codeNan (f : Fmt) (c : Nat) : Bool := decide (f.infCode < c % f.signBit)

/-! ### Integers (R207) -/

/-- Two's complement reading of a w-bit code. -/
def toSigned (w c : Nat) : Int :=
  let c := c % 2 ^ w
  if 2 * c < 2 ^ w then c else (c : Int) - 2 ^ w

/-- The w-bit code of an integer, modulo 2^w. -/
def ofInt (w : Nat) (z : Int) : Nat := (z % (2 ^ w : Int)).toNat

/-- Range of an integer, NAT, Index or BNI tag (R207; the BNI range is symmetric). -/
def satLo (t : BitVec 5) : Int :=
  if isI t then -(2 ^ (laneW t - 1)) else if isBni t then -(2 ^ (bniP t - 1) - 1) else 0
def satHi (t : BitVec 5) : Int :=
  if isI t then 2 ^ (laneW t - 1) - 1 else if isBni t then 2 ^ (bniP t - 1) - 1 else 2 ^ laneW t - 1

def satTo (t : BitVec 5) (z : Int) : Int × Flags :=
  if z < satLo t then (satLo t, fSAT) else if satHi t < z then (satHi t, fSAT) else (z, 0)

/-- Bits of one element of a tag: the lane, or the p-bit prefix. -/
def elemW (t : BitVec 5) : Nat := if isBni t then bniP t else laneW t

/-- Destinations that round ties away from zero (R206). -/
def roundsAway (t : BitVec 5) : Bool := t = 6 || t = 9 || isBni t

/-- A decoded number to an integer tag: round, then saturate (R206, R207); the element's code. -/
def flToInt (t : BitVec 5) (x : Fl) : Nat × Flags :=
  match x with
  | .nan => (0, fIV)
  | .inf a => (ofInt (elemW t) (if a then satLo t else satHi t), fSAT)
  | .fin a m e =>
    let s := scaleQ m 1 e
    let r := roundNat (roundsAway t) s.1 s.2
    let z := satTo t (sgn a r.1)
    (ofInt (elemW t) z.1, (if r.2 then fNX else 0) ||| z.2)

/-- Does R209 give the pair of tags a conversion? -/
def convOk (s d : BitVec 5) : Bool :=
  if isX d then isX s || s = 4 || s = 7
  else if isX s then d = 4 || d = 7
  else (isF s || isI s || isN s || isBni s) && (isF d || isI d || isN d || isBni d)

/-- The integer that an element of an INT, NAT, Index or BNI tag stands for (R204, R205). -/
def elemInt (s : BitVec 5) (c : Nat) : Int :=
  if isI s || isBni s then toSigned (elemW s) c else (c % 2 ^ elemW s : Nat)

/-- One element's conversion (R209), for a pair that `convOk` accepts: the code of the result and its flags. -/
def convElem (s d : BitVec 5) (c : Nat) : Nat × Flags :=
  if isF s then
    if isF d then
      if s = d then (if codeNan (fmtOf s) c then ((fmtOf s).nan, 0) else (c % 2 ^ laneW s, 0))
      else toFl (fmtOf d) (decodeFl (fmtOf s) c)
    else flToInt d (decodeFl (fmtOf s) c)
  else
    let v := elemInt s c
    if isF d then roundDy (fmtOf d) v 0 false
    else if isBni s && isBni d then
      if bniP d ≤ bniP s then (ofInt (bniP d) (v / 2 ^ (bniP s - bniP d)), 0)
      else (ofInt (bniP d) (v * 2 ^ (bniP d - bniP s)), 0)
    else
      let z := satTo d v
      (ofInt (elemW d) z.1, z.2)

/-- Conversion of a BNI prefix with a scale to a float format (R210): one rounding of the exact v·2^(8−q)·s. -/
def bniScaled (q : Nat) (d : BitVec 5) (v : Int) (scale : Nat) : Nat × Flags :=
  mulFl (fmtOf d) (.fin (decide (v < 0)) v.natAbs (8 - q)) (decodeFl bf16 scale)

/-- Conversion of a float element to a BNI prefix with a scale (R210): sat(rna(x / s)); a scale that is zero, infinite
or NaN gives 0. -/
def floatToBniScaled (s d : BitVec 5) (c scale : Nat) : Nat :=
  match decodeFl bf16 scale, decodeFl (fmtOf s) c with
  | .fin b m' e', .fin a m e =>
    if m' = 0 then 0
    else
      let u := scaleQ m m' (e - e')
      let r := roundNat true u.1 u.2
      ofInt (bniP d) (satTo d (sgn (a != b) r.1)).1
  | .fin b m' _, .inf a => if m' = 0 then 0 else ofInt (bniP d) (if a != b then satLo d else satHi d)
  | _, _ => 0

/-! ### BNI layouts (R204) -/

/-- Elements of one slice word. -/
def bniK (p : Nat) : Nat := 16 / p

/-- Elements a tag has in 1,024 bits (R339). -/
def elemN (t : BitVec 5) : Nat := if isBni t then 64 * bniK (bniP t) else laneN t

/-- Bit of a 1,024-bit value that holds plane `q` of element `e` in slice layout: bit 15 − (q·k + e) of its word. -/
def sliceBit (p e q : Nat) : Nat := 16 * (e / bniK p) + 15 - (q * bniK p + e % bniK p)

/-- Planes 0 to p−1, plane 0 first, gathered into a p-bit code. -/
def gatherPlanes (bit : Nat → Bool) : Nat → Nat
  | 0 => 0
  | p + 1 => 2 * gatherPlanes bit p + (bit p).toNat

/-- Element `e` of a value of a tag. -/
def elemAt (t : BitVec 5) (x : Nat) (e : Nat) : Nat :=
  if isBni t then gatherPlanes (fun q => x.testBit (sliceBit (bniP t) e q)) (bniP t) else lane (laneW t) x e

/-- The bits of planes 0 to `i`−1 of an element's p-bit code, in slice layout. -/
def scatterPlanes (p e c : Nat) : Nat → Nat
  | 0 => 0
  | i + 1 => scatterPlanes p e c i + (if c.testBit (p - 1 - i) then 1 <<< sliceBit p e i else 0)

/-- One element's code at its place in a value of a tag. -/
def elemBits (t : BitVec 5) (e c : Nat) : Nat :=
  if isBni t then scatterPlanes (bniP t) e c (bniP t) else (c % 2 ^ laneW t) <<< (laneW t * e)

/-- The bits of a value of tag BNI-p that elements use: the k·p leading bits of each slice word. -/
def bniUsedWord (p : Nat) : Nat := (2 ^ (p * bniK p) - 1) <<< (16 - p * bniK p)

/-! ### Roots, powers and logarithms (R211, R212) -/

/-- Floor of the square root, bit by bit from bit `b`−1 of the answer. -/
def isqrtBits (n : Nat) : Nat → Nat → Nat
  | 0, r => r
  | b + 1, r =>
    let r' := r + 2 ^ b
    isqrtBits n b (if r' * r' ≤ n then r' else r)

def isqrt (n : Nat) : Nat := isqrtBits n (n.log2 / 2 + 1) 0

/-- Fractional bits of the fixed-point values below. Their error is below 2^−290, far finer than the distance of any
value of exp2 or log2 at a 32-bit or 16-bit input from a rounding boundary. -/
def fixBits : Nat := 320

/-- 2·Σ z^(2i+1)/(2i+1), the series of ln((1+z)/(1−z)), for z = zn/zd in fixed point; `i` terms. -/
def lnSeries (zz : Nat) : Nat → Nat → Nat → Nat
  | 0, _, _ => 0
  | i + 1, pow, odd => 2 * pow / odd + lnSeries zz i ((pow * zz) >>> fixBits) (odd + 2)

/-- ln(n/d) for 1 ≤ n/d ≤ 2, in fixed point. -/
def lnFix (n d : Nat) : Nat :=
  let z := ((n - d) <<< fixBits) / (n + d)
  lnSeries ((z * z) >>> fixBits) 110 z 1

def ln2Fix : Nat := lnFix 2 1

/-- Σ y^i/i! in fixed point. -/
def expSeries (y : Nat) : Nat → Nat → Nat → Nat
  | 0, _, _ => 0
  | i + 1, term, j => term + expSeries y i (((term * y) >>> fixBits) / j) (j + 1)

/-- 2^(m/2^k) for m < 2^k, in fixed point. -/
def exp2Fix (m k : Nat) : Nat := expSeries ((m * ln2Fix) >>> k) 80 (1 <<< fixBits) 1

/-- A fixed-point value known to lie strictly between v and v+1 units, rounded to a format. -/
def roundFix (f : Fmt) (neg : Bool) (v : Nat) (e : Int) : Nat × Flags :=
  roundFl f neg (2 * v + 1) 1 (e - fixBits - 1)

/-- 2^x, correctly rounded (R211, R212). -/
def exp2Fl (f : Fmt) (x : Fl) : Nat × Flags :=
  match x with
  | .nan => (f.nan, 0)
  | .inf false => (f.infCode, 0)
  | .inf true => (0, 0)
  | .fin neg m e =>
    let s := scaleQ m 1 e
    if neg = false && decide (128 * s.2 ≤ s.1) then (f.infCode, fOF ||| fNX)
    else if neg && decide (150 * s.2 < s.1) then (0, fUF ||| fNX)
    else
      -- x = z / s.2 with s.2 a power of two
      let z := sgn neg s.1
      let n := z / s.2
      let r := (z % s.2).toNat
      if r = 0 then roundFl f false 1 1 n
      else roundFix f false (exp2Fix r s.2.log2) n

/-- log2 x, correctly rounded (R211, R212). -/
def log2Fl (f : Fmt) (x : Fl) : Nat × Flags :=
  match x with
  | .nan => (f.nan, 0)
  | .inf false => (f.infCode, 0)
  | .inf true => (f.nan, fIV)
  | .fin neg m e =>
    if m = 0 then (f.withSign true f.infCode, fDZ)
    else if neg then (f.nan, fIV)
    else
      let b := m.log2
      let n : Int := b + e
      if m = 2 ^ b then roundDy f n 0 false
      else
        let v : Int := n * 2 ^ fixBits + ((lnFix m (2 ^ b)) <<< fixBits) / ln2Fix
        if 0 ≤ v then roundFix f false v.toNat 0 else roundFix f true ((-v).toNat - 1) 0

/-- 1/x, correctly rounded (R211, R212). -/
def rcpFl (f : Fmt) (x : Fl) : Nat × Flags :=
  match x with
  | .nan => (f.nan, 0)
  | .inf a => (f.withSign a 0, 0)
  | .fin a m e => if m = 0 then (f.withSign a f.infCode, fDZ) else roundFl f a 1 m (-e)

/-- 1/√x, correctly rounded (R211, R212): the floor of 2^64/√m with its remainder kept as a lowest bit. -/
def rsqFl (f : Fmt) (x : Fl) : Nat × Flags :=
  match x with
  | .nan => (f.nan, 0)
  | .inf false => (0, 0)
  | .inf true => (f.nan, fIV)
  | .fin a m e =>
    if m = 0 then (f.withSign a f.infCode, fDZ)
    else if a then (f.nan, fIV)
    else
      let odd := decide (e % 2 = 1)
      let m' := if odd then 2 * m else m
      let h := (if odd then e - 1 else e) / 2
      let r := isqrt (2 ^ 128 / m')
      let low := if r * r * m' = 2 ^ 128 then 0 else 1
      roundFl f false (2 * r + low) 1 (-h - 65)

end Sys2Proof.Machine
end

