-- ==== Sys2Proof/Machine/VecFun.lean ====
section
/-! DEFINITION. The vector operations of R325 to R340 as functions of their operands. The native units and the portable
vector instructions share them (R342). -/

namespace Sys2Proof.Machine

/-- What a vector operation gives: a tagged result with flags, or a precise trap with its cause and DETAIL. -/
inductive VRes where
  | ok (v : TVal) (fl : Flags)
  | trap (cause detail : Nat)
  deriving DecidableEq, Repr

def VRes.mk (tag : BitVec 5) (r : Nat × Flags) : VRes := .ok ⟨BitVec.ofNat 1024 r.1, tag⟩ r.2
def VRes.plain (tag : BitVec 5) (r : Nat) : VRes := .ok ⟨BitVec.ofNat 1024 r, tag⟩ 0

/-- "format-tag mismatch" with the tag found (R202, R323). -/
def VRes.tagTrap (t : BitVec 5) : VRes := .trap 0x06 t.toNat
/-- A descriptor field that must be zero, or out of range (R323, R282). -/
def VRes.badField : VRes := .trap 0x01 0

/-- Continue only where the operand's tag is accepted (R324). -/
def needTag (ok : BitVec 5 → Bool) (x : TVal) (k : VRes) : VRes := if ok x.tag then k else .tagTrap x.tag
/-- Continue only where `x` has the tag of `t` (R202). -/
def sameTag (t x : TVal) (k : VRes) : VRes := if x.tag = t.tag then k else .tagTrap x.tag


/-- A lane-by-lane operation of one, two or three operands on the lanes of `tag`. -/
def lanes1 (tag : BitVec 5) (f : Nat → Nat × Flags) (t : TVal) : VRes :=
  .mk tag (packLanesF (laneW tag) (fun i => f (vlane t (laneW tag) i)) (laneN tag))
def lanes2 (tag : BitVec 5) (f : Nat → Nat → Nat × Flags) (a t : TVal) : VRes :=
  .mk tag (packLanesF (laneW tag) (fun i => f (vlane a (laneW tag) i) (vlane t (laneW tag) i)) (laneN tag))
def lanes3 (tag : BitVec 5) (f : Nat → Nat → Nat → Nat × Flags) (a b t : TVal) : VRes :=
  .mk tag (packLanesF (laneW tag)
    (fun i => f (vlane a (laneW tag) i) (vlane b (laneW tag) i) (vlane t (laneW tag) i)) (laneN tag))

/-! ### Element-wise arithmetic (R325) -/

def addElem (tag : BitVec 5) (x y : Nat) : Nat × Flags :=
  if isF tag then let f := fmtOf tag; addFl f (decodeFl f x) (decodeFl f y) else (x + y, 0)
def subElem (tag : BitVec 5) (x y : Nat) : Nat × Flags :=
  if isF tag then let f := fmtOf tag; addFl f (decodeFl f x) (negFl (decodeFl f y))
  else (x + (2 ^ laneW tag - y % 2 ^ laneW tag), 0)
def mulElem (tag : BitVec 5) (x y : Nat) : Nat × Flags :=
  if isF tag then let f := fmtOf tag; mulFl f (decodeFl f x) (decodeFl f y) else (x * y, 0)
def fmaElem (tag : BitVec 5) (x y z : Nat) : Nat × Flags :=
  if isF tag then let f := fmtOf tag; fmaFl f (decodeFl f x) (decodeFl f y) (decodeFl f z) else (x * y + z, 0)

def isFIN (t : BitVec 5) : Bool := isF t || isI t || isN t
def isFI (t : BitVec 5) : Bool := isF t || isI t

def opVadd (t a : TVal) : VRes := needTag isFINX t (sameTag t a (lanes2 t.tag (addElem t.tag) a t))
def opVsub (t a : TVal) : VRes := needTag isFINX t (sameTag t a (lanes2 t.tag (subElem t.tag) a t))
def opVmul (t a : TVal) : VRes := needTag isFIN t (sameTag t a (lanes2 t.tag (mulElem t.tag) a t))
def opVfma (t a b : TVal) : VRes :=
  needTag isFIN t (sameTag t a (sameTag t b (lanes3 t.tag (fmaElem t.tag) a b t)))

/-! ### Order (R326, R327) -/

/-- `x` below `y` in the order of R326. -/
def lessElem (tag : BitVec 5) (x y : Nat) : Bool :=
  if isF tag then decide (orderKey (fmtOf tag) x < orderKey (fmtOf tag) y)
  else if isI tag then decide (toSigned (laneW tag) x < toSigned (laneW tag) y)
  else decide (x < y)

/-- A pick between two lanes; a float lane with a NaN gives the canonical NaN. -/
def pickElem (tag : BitVec 5) (first : Bool) (x y : Nat) : Nat :=
  if isF tag && (codeNan (fmtOf tag) x || codeNan (fmtOf tag) y) then (fmtOf tag).nan else if first then x else y

def maxElem (tag : BitVec 5) (x y : Nat) : Nat := pickElem tag (lessElem tag y x) x y
def minElem (tag : BitVec 5) (x y : Nat) : Nat := pickElem tag (lessElem tag x y) x y

def opVmax (t a : TVal) : VRes := needTag isFINX t (sameTag t a (lanes2 t.tag (fun x y => (maxElem t.tag x y, 0)) a t))
def opVmin (t a : TVal) : VRes := needTag isFINX t (sameTag t a (lanes2 t.tag (fun x y => (minElem t.tag x y, 0)) a t))
/-- min(max(t, a), b), in that order (R326). -/
def opVclmp (t a b : TVal) : VRes :=
  needTag isFINX t (sameTag t a (sameTag t b
    (lanes3 t.tag (fun x y z => (minElem t.tag (maxElem t.tag z x) y, 0)) a b t)))

def absElem (tag : BitVec 5) (x : Nat) : Nat :=
  if isF tag then (if codeNan (fmtOf tag) x then (fmtOf tag).nan else x % (fmtOf tag).signBit)
  else (toSigned (laneW tag) x).natAbs
def negElem (tag : BitVec 5) (x : Nat) : Nat :=
  if isF tag then
    (if codeNan (fmtOf tag) x then (fmtOf tag).nan else (x + (fmtOf tag).signBit) % (2 * (fmtOf tag).signBit))
  else 2 ^ laneW tag - x
def opVabs (t : TVal) : VRes := needTag isFI t (lanes1 t.tag (fun x => (absElem t.tag x, 0)) t)
def opVneg (t : TVal) : VRes := needTag isFI t (lanes1 t.tag (fun x => (negElem t.tag x, 0)) t)

/-- A comparison of lanes (R327): by value with −0 equal to +0, any relation with a NaN false. -/
def cmpElem (tag : BitVec 5) (rel : Int → Int → Bool) (x y : Nat) : Nat :=
  if isF tag then
    (!codeNan (fmtOf tag) x && !codeNan (fmtOf tag) y && rel (valueKey (fmtOf tag) x) (valueKey (fmtOf tag) y)).toNat
  else if isI tag then (rel (toSigned (laneW tag) x) (toSigned (laneW tag) y)).toNat
  else (rel x y).toNat

def opVcmp (rel : Int → Int → Bool) (t a : TVal) : VRes :=
  needTag isFINX t (sameTag t a (.plain 0x13
    (packLanes 1 (fun i => cmpElem t.tag rel (vlane a (laneW t.tag) i) (vlane t (laneW t.tag) i)) (laneN t.tag))))
def opVcmpeq (t a : TVal) : VRes := opVcmp (fun x y => decide (x = y)) t a
def opVcmplt (t a : TVal) : VRes := opVcmp (fun x y => decide (x < y)) t a
def opVcmple (t a : TVal) : VRes := opVcmp (fun x y => decide (x ≤ y)) t a

/-- R328. -/
def opVsel (t a b : TVal) : VRes :=
  needTag (fun g => g = 0x13) t (needTag isFINX a (sameTag a b (.plain a.tag
    (packLanes (laneW a.tag) (fun i => vlane (if t.bits.toNat.testBit i then a else b) (laneW a.tag) i) (laneN a.tag)))))

/-! ### Bits, shifts and lane moves (R329 to R333) -/

def anyTag (t : BitVec 5) : Bool := !badTag t

def opBits (f : BitVec 1024 → BitVec 1024 → BitVec 1024) (t a : TVal) : VRes :=
  needTag anyTag t (if a.tag = t.tag ∨ a.tag = 0 ∨ t.tag = 0 then .ok ⟨f a.bits t.bits, a.tag⟩ 0 else .tagTrap a.tag)
def opVand (t a : TVal) : VRes := opBits (· &&& ·) t a
def opVor (t a : TVal) : VRes := opBits (· ||| ·) t a
def opVxor (t a : TVal) : VRes := opBits (· ^^^ ·) t a

def isINX (t : BitVec 5) : Bool := isI t || isN t || isX t

def shlElem (w s x : Nat) : Nat := if s < w then x <<< s else 0
def shrElem (tag : BitVec 5) (s x : Nat) : Nat :=
  let w := laneW tag
  if isI tag then ofInt w (toSigned w x / 2 ^ min s w) else if s < w then x >>> s else 0
def opVshl (t a : TVal) : VRes := needTag isINX t (lanes1 t.tag (fun x => (shlElem (laneW t.tag) a.word.toNat x, 0)) t)
def opVshr (t a : TVal) : VRes := needTag isINX t (lanes1 t.tag (fun x => (shrElem t.tag a.word.toNat x, 0)) t)

/-- Every lane of a tag filled with the pattern (R330). -/
def splatBits (tag : BitVec 5) (x : Nat) : Nat :=
  if isBni tag then packLanes 16 (fun _ => x &&& bniUsedWord (bniP tag)) 64
  else packLanes (laneW tag) (fun _ => x) (laneN tag)
def opVsplat (t a : TVal) : VRes :=
  if (a.word >>> 5) ≠ 0 then .badField
  else
    let d := a.word.setWidth 5
    if badTag d then .tagTrap d else .plain d (splatBits d t.bits.toNat)

/-- BASE + i·STEP (R330). -/
def opVidx (t : TVal) : VRes :=
  let base := t.word.toNat % 2 ^ 32
  let step := t.word.toNat / 2 ^ 32
  .plain 0x12 (packLanes 32 (fun i => base + i * step) 32)

/-- R331. -/
def opVext (t a : TVal) : VRes :=
  let j := a.word.toNat
  needTag anyTag t (if j < laneN t.tag then .plain t.tag (vlane t (laneW t.tag) j) else .badField)
def opVins (t a b : TVal) : VRes :=
  let j := a.word.toNat
  let w := laneW t.tag
  needTag anyTag t (if j < laneN t.tag then
    .plain t.tag (packLanes w (fun i => if i = j then b.bits.toNat else vlane t w i) (laneN t.tag)) else .badField)

/-- R332. -/
def opVperm (t a : TVal) : VRes :=
  needTag anyTag t (needTag (fun g => g = 0 || g = 9) a (.plain t.tag
    (packLanes 8 (fun m =>
      let s := vlane a 8 m
      if 128 ≤ s then 0 else vlane t 8 s) 128)))

/-- The source lane of R333. -/
def shufLane (op n amt i : Nat) : Nat :=
  match op with
  | 0 => (i + amt) % n
  | 1 => n - 1 - i
  | 2 => if i < n / 2 then 2 * i else 2 * (i - n / 2) + 1
  | 3 => if i % 2 = 0 then i / 2 else n / 2 + (i - 1) / 2
  | _ => amt

/-- The shuffle descriptor's checks (R333). -/
def shufOk (d : Word) : Bool :=
  let n := 1024 / (8 <<< (d.toNat % 4))
  let op := (d.toNat >>> 8) % 8
  let amt := (d.toNat >>> 16) % 128
  decide (d &&& 0xFFFFFFFFFF80F8FC = 0) && decide (op ≤ 4) &&
    (if op = 0 ∨ op = 4 then decide (amt < n) else decide (amt = 0))

def opVshuf (t a : TVal) : VRes :=
  let d := a.word
  let w := 8 <<< (d.toNat % 4)
  let n := 1024 / w
  needTag anyTag t (if shufOk d then
    .plain t.tag (packLanes w (fun i => vlane t w (shufLane ((d.toNat >>> 8) % 8) n ((d.toNat >>> 16) % 128) i)) n)
    else .badField)

/-! ### Reductions (R334) -/

/-- One level of the pairwise tree; the flags gather. -/
def redLevel (op : Nat → Nat → Nat × Flags) : List Nat → List Nat × Flags
  | x :: y :: r =>
    let z := op x y
    let k := redLevel op r
    (z.1 :: k.1, z.2 ||| k.2)
  | l => (l, 0)

/-- `k` levels of the tree. -/
def redTree (op : Nat → Nat → Nat × Flags) : Nat → List Nat → Nat × Flags
  | 0, l => (l.headD 0, 0)
  | k + 1, l =>
    let r := redLevel op l
    let s := redTree op k r.1
    (s.1, r.2 ||| s.2)

def laneList (tag : BitVec 5) (t : TVal) : List Nat := (List.range (laneN tag)).map (vlane t (laneW tag))

/-- A 16-bit float lane as its exact FP32 code. -/
def widenFl (tag : BitVec 5) (c : Nat) : Nat := if tag = 1 then c else (toFl fp32 (decodeFl (fmtOf tag) c)).1

def redAdd (t : TVal) : Nat × Flags :=
  let l := laneList t.tag t
  let k := (laneN t.tag).log2
  if isF t.tag then
    let r := redTree (fun p q => addFl fp32 (decodeFl fp32 p) (decodeFl fp32 q)) k (l.map (widenFl t.tag))
    if t.tag = 1 then r
    else
      let z := toFl (fmtOf t.tag) (decodeFl fp32 r.1)
      (z.1, r.2 ||| z.2)
  else redTree (fun p q => ((p + q) % 2 ^ laneW t.tag, 0)) k l

/-- A sum that starts at its first term and adds the later ones in order: the value and the flags of every step (R131). -/
def sumUp (op : Nat → Nat → Nat × Flags) (l : List Nat) : Nat × Flags :=
  (l.drop 1).foldl (fun (m : Nat × Flags) x => let z := op m.1 x; (z.1, m.2 ||| z.2)) (l.headD 0, 0)

def add32 (x y : Nat) : Nat × Flags := addFl fp32 (decodeFl fp32 x) (decodeFl fp32 y)

/-- What a segmented reduction gives (R131): FP32 terms by segment, both ascending. Each segment that holds terms gives a partial, and the
partials are added in segment order. Programs and the loader's translation form it from the sums of single instructions. -/
def segSum (segs : List (List Nat)) : Nat × Flags :=
  let parts := (segs.filter (fun l => l ≠ [])).map (sumUp add32)
  let t := sumUp add32 (parts.map Prod.fst)
  (t.1, parts.foldl (fun f p => f ||| p.2) t.2)

/-- The segment of a term: that of its element's first byte in the buffer (R131). -/
def termSeg (seg off : Nat) : Nat := off / seg
/-- First byte of plane 0 of block b of row r in plane storage of rows of k elements: the byte whose segment is the block's (R132, R204). -/
def blockOff (k r b : Nat) : Nat := r * k + 16 * b
/-- The terms of a reduction, each at its offset in the buffer in ascending order, by their segments. -/
def segTerms (seg : Nat) (l : List (Nat × Nat)) : List (List Nat) :=
  (List.range ((l.map (fun x => termSeg seg x.1)).foldl max 0 + 1)).map (fun j =>
    (l.filter (fun x => decide (termSeg seg x.1 = j))).map Prod.snd)
/-- The result of a reduction over an operand in a segmented buffer (R131): terms with the offsets of their elements, or of a BNI block's
first byte of plane 0. -/
def segReduce (seg : Nat) (l : List (Nat × Nat)) : Nat × Flags := segSum (segTerms seg l)

/-- The sum in ascending lane order (R391). -/
def redAddUp (t : TVal) : Nat × Flags :=
  let op := fun (x y : Nat) => if isF t.tag then add32 x y else ((x + y) % 2 ^ laneW t.tag, (0 : Flags))
  let l := (laneList t.tag t).map (fun x => if isF t.tag then widenFl t.tag x else x)
  let r := sumUp op l
  if isF t.tag && decide (t.tag ≠ 1) then
    let z := toFl (fmtOf t.tag) (decodeFl fp32 r.1)
    (z.1, r.2 ||| z.2)
  else r

def redMax (t : TVal) : Nat × Flags :=
  redTree (fun p q => (maxElem t.tag p q, 0)) (laneN t.tag).log2 (laneList t.tag t)

def opVredadd (t : TVal) : VRes := needTag isFINX t (.mk t.tag (redAdd t))
def opQredaddUp (t : TVal) : VRes := needTag isFINX t (.mk t.tag (redAddUp t))
def opVredmax (t : TVal) : VRes := needTag isFINX t (.mk t.tag (redMax t))

/-! ### Transcendental operations (R335) -/

def opTrans (fn : Fmt → Fl → Nat × Flags) (t : TVal) : VRes :=
  needTag isF t (lanes1 t.tag (fun x => fn (fmtOf t.tag) (decodeFl (fmtOf t.tag) x)) t)
def opVexp2 (t : TVal) : VRes := opTrans exp2Fl t
def opVlog2 (t : TVal) : VRes := opTrans log2Fl t
def opVrcp (t : TVal) : VRes := opTrans rcpFl t
def opVrsq (t : TVal) : VRes := opTrans rsqFl t

/-! ### Pair dot product and scaling (R336, R337) -/

def isH (t : BitVec 5) : Bool := t = 2 || t = 3

def dot2Elem (f : Fmt) (b a0 t0 a1 t1 : Nat) : Nat × Flags :=
  let r := fmaFl fp32 (decodeFl f a0) (decodeFl f t0) (decodeFl fp32 b)
  let s := fmaFl fp32 (decodeFl f a1) (decodeFl f t1) (decodeFl fp32 r.1)
  (s.1, r.2 ||| s.2)

def opVdot2 (t a b : TVal) : VRes :=
  needTag isH t (sameTag t a (needTag (fun g => g = 1) b (.mk 1
    (packLanesF 32 (fun i => dot2Elem (fmtOf t.tag) (vlane b 32 i) (vlane a 16 (2 * i)) (vlane t 16 (2 * i))
      (vlane a 16 (2 * i + 1)) (vlane t 16 (2 * i + 1))) 32))))

def sclElem (tt at' : BitVec 5) (x y : Nat) : Nat × Flags :=
  mulFl fp32 (if tt = 1 then decodeFl fp32 x else .fin (decide (toSigned 32 x < 0)) (toSigned 32 x).natAbs 0)
    (decodeFl (fmtOf at') y)

def opVscl (t a : TVal) : VRes :=
  needTag (fun g => g = 4 || g = 1) t (needTag (fun g => g = 1 || g = 2) a (.mk 1
    (packLanesF 32 (fun i => sclElem t.tag a.tag (vlane t 32 i) (vlane a (laneW a.tag) i)) 32)))

/-! ### Plane packing (R338) -/

/-- Bit of plane `q` of element `e` in plane storage of one 128-element block. -/
def planeBit (e q : Nat) : Nat := 8 * (16 * q + e / 8) + e % 8

/-- Sum of the elements 0 to n−1 of `f`. -/
def sumBits (f : Nat → Nat) : Nat → Nat
  | 0 => 0
  | n + 1 => sumBits f n + f n

/-- The bits of planes 0 to i−1 of element `e` in plane storage, from its p-bit prefix. -/
def planeScatter (p e c : Nat) : Nat → Nat
  | 0 => 0
  | i + 1 => planeScatter p e c i + (if c.testBit (p - 1 - i) then 1 <<< planeBit e i else 0)

def plnBits (d : BitVec 5) (blk x : Nat) : Nat :=
  sumBits (fun e => elemBits d (128 * blk + e) (gatherPlanes (fun q => x.testBit (planeBit e q)) (bniP d))) 128
def uplBits (s : BitVec 5) (blk x : Nat) : Nat :=
  sumBits (fun e => planeScatter (bniP s) e (elemAt s x (128 * blk + e)) (bniP s)) 128

/-- The block number's check: 128·(BLK + 1) ≤ E (R338). -/
def blkOk (tag : BitVec 5) (blk : Nat) : Bool := decide (128 * (blk + 1) ≤ elemN tag)

def opVpln (t a : TVal) : VRes :=
  let d := a.word.setWidth 5
  let blk := (a.word.toNat >>> 8) % 4
  if a.word &&& 0xFFFFFFFFFFFFFCE0 ≠ 0 then .badField
  else needTag (fun g => g = 9) t (if isBni d = false then .tagTrap d
    else if blkOk d blk then .plain d (plnBits d blk t.bits.toNat) else .badField)
def opVupl (t a : TVal) : VRes :=
  let d := a.word.setWidth 5
  let blk := (a.word.toNat >>> 8) % 4
  if a.word &&& 0xFFFFFFFFFFFFFCE0 ≠ 0 then .badField
  else needTag isBni t (if d ≠ 9 then .tagTrap d
    else if blkOk t.tag blk then .plain 9 (uplBits t.tag blk t.bits.toNat) else .badField)

/-! ### Conversion and retagging (R339, R340) -/

/-- `m` elements converted from element `so` of `x` to element `d0`. -/
def convRun (s d : BitVec 5) (so d0 : Nat) (x : Nat) : Nat → Nat × Flags
  | 0 => (0, 0)
  | m + 1 =>
    let r := convRun s d so d0 x m
    let z := convElem s d (elemAt s x (so + m))
    (r.1 + elemBits d (d0 + m) z.1, r.2 ||| z.2)

/-- Tags that R209 gives no conversion from: Raw, Mask, Split-class tile. -/
def noConvTag (t : BitVec 5) : Bool := badTag t || t = 0 || t = 0x13

/-- A conversion with element offsets (R339). The tag of t is checked before DTAG and the offsets last, the order that
R338 states for its operations: DEDUCED, the entry of `vcvt` states none. -/
def convOp (t : TVal) (d : BitVec 5) (so d0 : Nat) : VRes :=
  if noConvTag t.tag then .tagTrap t.tag
  else if noConvTag d then .tagTrap d
  else if convOk t.tag d = false then .tagTrap t.tag
  else if elemN t.tag ≤ so ∨ elemN d ≤ d0 then .badField
  else .mk d (convRun t.tag d so d0 t.bits.toNat (min (elemN t.tag - so) (elemN d - d0)))

def opVcvt (t a : TVal) : VRes :=
  if a.word &&& 0xFFFFFFFFC00003E0 ≠ 0 then .badField
  else convOp t (a.word.setWidth 5) ((a.word.toNat >>> 10) % 1024) ((a.word.toNat >>> 20) % 1024)

def opVtag (t a : TVal) : VRes :=
  if (a.word >>> 5) ≠ 0 then .badField
  else
    let d := a.word.setWidth 5
    if badTag d then .tagTrap d else .ok ⟨t.bits, d⟩ 0

/-- The saturating splat of portable code (R392). -/
def opQsplat (tag : BitVec 5) (v : Word) : VRes :=
  if badTag tag then .tagTrap tag
  else if isF tag then .plain tag (splatBits tag v.toNat)
  else if tag = 0 then .plain 0 (splatBits 0 v.toNat)
  else if tag = 0x13 then .plain 0x13 (if v.getLsbD 0 then 2 ^ 1024 - 1 else 0)
  else
    let r := satTo (if tag = 0x12 then 0x07 else tag) v.toInt
    let c := (r.1.emod (2 ^ 64)).toNat
    if isBni tag then .mk tag (sumBits (fun i => elemBits tag i (c % 2 ^ bniP tag)) (64 * bniK (bniP tag)), r.2)
    else .mk tag (splatBits tag (c % 2 ^ laneW tag), r.2)

/-! ### Score pairs and the sort stage (R215, R216) -/

/-- Rank of a score: nothing for a NaN, else its value with −0 equal to +0. -/
def scoreRank (x : Nat) : Option Int :=
  if codeNan bf16 (x >>> 16) then none else some (valueKey bf16 (x >>> 16))

/-- key(x) > key(y) under R215. -/
def pairAbove (x y : Nat) : Bool :=
  let byIndex := decide (x % 2 ^ 16 < y % 2 ^ 16)
  match scoreRank x, scoreRank y with
  | none, none => byIndex
  | none, some _ => false
  | some _, none => true
  | some a, some b => decide (b < a) || (decide (a = b) && byIndex)

/-- Is the pair (a, b) to be exchanged? -/
def sortSwap (desc : Bool) (a b : Nat) : Bool := if desc then pairAbove b a else pairAbove a b

/-- Lane `i` of one compare-exchange stage. -/
def sortLane (ctl : Nat) (x y : Nat → Nat) (i : Nat) : Nat :=
  let dist := ctl % 8
  let half := (ctl >>> 3) % 2
  let dirb := (ctl >>> 4) % 8
  let dinv := (ctl >>> 7) % 2
  let desc := fun i => decide (((i >>> dirb) % 2 + dinv) % 2 = 0)
  if dist = 0 then
    let sw := sortSwap (desc i) (x i) (y i)
    if (half = 0) = (sw = false) then x i else y i
  else
    let j := i ^^^ 2 ^ (dist - 1)
    let sw := sortSwap (desc (min i j)) (x (min i j)) (x (max i j))
    if sw then x j else x i

def sortCtlOk (ctl : Word) : Bool :=
  decide (ctl.toNat < 256) && decide (ctl.toNat % 8 ≤ 5) && decide ((ctl.toNat >>> 4) % 8 ≤ 5) &&
    (decide ((ctl.toNat >>> 3) % 2 = 0) || decide (ctl.toNat % 8 = 0))

def opSortx (ctl : Word) (x y : TVal) : VRes :=
  if sortCtlOk ctl = false then .badField
  else needTag isX x
    (let r := VRes.plain 0x12 (packLanes 32 (sortLane ctl.toNat (vlane x 32) (vlane y 32)) 32)
     if ctl.toNat % 8 = 0 then needTag isX y r else r)

end Sys2Proof.Machine
end

