-- ==== Sys2Proof/Machine/Ops.lean ====
section
/-! DEFINITION. The named operations over memory, cores and results, and the one operation by which a core stops:
taking a trap (R173, R223 to R225). -/

namespace Sys2Proof.Machine

/-! ### Sorting -/

/-- Put `x` before the first entry that it does not follow. -/
def insertBy {α : Type} (le : α → α → Bool) (x : α) : List α → List α
  | [] => [x]
  | y :: t => if le x y then x :: y :: t else y :: insertBy le x t

/-- Sort by `le`; entries that `le` does not tell apart keep their order. -/
def sortBy {α : Type} (le : α → α → Bool) : List α → List α
  | [] => []
  | x :: t => insertBy le x (sortBy le t)

/-! ### Memory -/

/-- The byte at a location: zero where nothing is listed (log 2). -/
def memGet (m : Memory) (a : Nat) : Byte := Tab.get 0 m a

/-- Write one byte, keeping the canonical form. -/
def memPut (m : Memory) (a : Nat) (b : Byte) : Memory := if b = 0 then Tab.del m a else Tab.put m a b

/-- `n` bytes, little-endian (R19). -/
def memRead (m : Memory) (a : Nat) : Nat → Nat
  | 0 => 0
  | n + 1 => (memGet m a).toNat + 256 * memRead m (a + 1) n

/-- Write `n` bytes of a number, little-endian. -/
def memWrite (m : Memory) (a : Nat) (x : Nat) : Nat → Memory
  | 0 => m
  | n + 1 => memWrite (memPut m a (BitVec.ofNat 8 x)) (a + 1) (x / 256) n

/-- Locations of the spaces (R56, R69, R168): HBM by physical address, flash, host memory, peer apertures, the
scratchpad or local buffer of a core, a cluster scratchpad. -/
def locFlash (a : Nat) : Nat := (1 <<< 64) + a
def locHost (a : Nat) : Nat := (2 <<< 64) + a
def locPeer (port a : Nat) : Nat := (3 <<< 64) + (port <<< 56) + a
def locCore (g o : Nat) : Nat := (4 <<< 64) + (g <<< 32) + o
def locClus (c o : Nat) : Nat := (5 <<< 64) + (c <<< 32) + o

/-- The one write to memory. A replay discards writes to the host and to peers (R254). -/
def State.write (s : State) (a x n : Nat) : State :=
  if s.boot.mode = 2 ∧ locHost 0 ≤ a ∧ a < locCore 0 0 then s else { s with mem := memWrite s.mem a x n }
def State.read (s : State) (a n : Nat) : Nat := memRead s.mem a n

/-- A write by die `d` to HBM: performed at the home, and in the copies that the die's own remote-line cache holds (R89). -/
def State.devWrite (s : State) (d pa x n : Nat) : State :=
  let patch := fun (t : Tab (BitVec 512)) => t.map (fun e =>
    let lo := max pa e.1
    let hi := min (pa + n) (e.1 + 64)
    if lo < hi then
      let part := (x >>> (8 * (lo - pa))) % 2 ^ (8 * (hi - lo))
      let sh := 8 * (lo - e.1)
      let old := (e.2.toNat >>> sh) % 2 ^ (8 * (hi - lo))
      (e.1, BitVec.ofNat 512 (e.2.toNat - old <<< sh + part <<< sh))
    else e)
  let s := s.write pa x n
  let y := Tab.get Die.reset s.dies d
  { s with dies := Tab.put s.dies d { y with rlc := patch y.rlc } }

/-! ### Cores -/

def State.coreC (s : State) (g : Nat) : CoreC := Tab.get CoreC.reset s.cores g
def State.setC (s : State) (g : Nat) (c : CoreC) : State := { s with cores := Tab.put s.cores g c }
def State.modC (s : State) (g : Nat) (f : CoreC → CoreC) : State := s.setC g (f (s.coreC g))
def State.coreP (s : State) (g : Nat) : CoreP := Tab.get CoreP.reset s.pcores g
def State.setP (s : State) (g : Nat) (c : CoreP) : State := { s with pcores := Tab.put s.pcores g c }
def State.modP (s : State) (g : Nat) (f : CoreP → CoreP) : State := s.setP g (f (s.coreP g))
def State.die (s : State) (d : Nat) : Die := Tab.get Die.reset s.dies d
def State.setDie (s : State) (d : Nat) (x : Die) : State := { s with dies := Tab.put s.dies d x }
def State.cluster (s : State) (c : Nat) : Cluster := Tab.get Cluster.reset s.clus c
def State.setCluster (s : State) (c : Nat) (x : Cluster) : State := { s with clus := Tab.put s.clus c x }
def State.ce (s : State) (e : Nat) : CopyEng := Tab.get CopyEng.reset s.ces e
def State.setCe (s : State) (e : Nat) (x : CopyEng) : State := { s with ces := Tab.put s.ces e x }

/-- Numbers (R94, R240): 512 gear C cores, then gear M by eights, then gear S by sixteens. -/
def isGearC (g : Nat) : Bool := decide (g < 512)
def dieOf (g : Nat) : Nat := if g < 512 then g / 128 else if g < 576 then (g - 512) / 16 else (g - 576) / 16
def clusterOf (g : Nat) : Nat := g / 4
/-- The copy engine of a gear C core's quad (R47, R94). -/
def quadOf (g : Nat) : Nat := g / 16

/-- `k.coord` (R94). -/
def coordOf (g : Nat) : Word :=
  if g < 512 then BitVec.ofNat 64 (((g / 128) <<< 13) + (((g / 4) % 32) <<< 8) + g % 4)
  else if g < 576 then BitVec.ofNat 64 ((1 <<< 16) + (((g - 512) / 8) <<< 13) + (g - 512) % 8)
  else BitVec.ofNat 64 ((2 <<< 16) + (((g - 576) / 16) <<< 13) + (g - 576) % 16)

/-- The core runs at system privilege: its record is firmware's own, and no user-interrupt handler runs (R66, R175). -/
def CoreC.priv (c : CoreC) : Bool := c.sys && !c.inH
/-- Is the core in a tandem in lock-step (R170)? -/
def CoreC.locked (c : CoreC) : Bool := !c.group.isEmpty && !c.dec
/-- The core whose sequencing state drives core `g`. -/
def State.leader (s : State) (g : Nat) : Nat := if (s.coreC g).locked then (s.coreC g).lead else g
/-- The cores driven by a leader. -/
def State.members (s : State) (lead : Nat) : List Nat :=
  if (s.coreC lead).locked then (s.coreC lead).group else [lead]

/-- Apply a function to each of a list of cores. -/
def State.modAll (s : State) (f : CoreC → CoreC) : List Nat → State
  | [] => s
  | g :: t => (s.modC g f).modAll f t

/-- n bytes from a location are lost: free values. -/
def State.loseBytes (s : State) (a n : Nat) : State :=
  { s with
    fresh := s.fresh + 1
    mem := (List.range n).foldl (fun m o => memPut m (a + o) (Config.freeByte s.fresh o)) s.mem }

/-- The bytes of the scratchpad or local buffer of core g are lost (R130, R386). -/
def State.losePad (s : State) (g : Nat) : State := s.loseBytes (locCore g 0) 0x80000

/-! ### Fields of records (R90) -/

def bitsOf (w : Word) (lo len : Nat) : Nat := (w.toNat >>> lo) % 2 ^ len
def Rec.cv (r : Rec) : Bool := r.w0.getLsbD 50
def Rec.held (r : Rec) : Bool := r.w0.getLsbD 49
def Rec.pri (r : Rec) : Nat := bitsOf r.w0 46 3
def Rec.stage (r : Rec) : Nat := bitsOf r.w0 38 8
def Rec.tw (r : Rec) : Nat := bitsOf r.w0 35 3
def Rec.gm (r : Rec) : Nat := bitsOf r.w0 32 3
def Rec.ent (r : Rec) : Nat := bitsOf r.w0 20 12
def Rec.code (r : Rec) : Nat := bitsOf r.w0 0 20
def Rec.asid (r : Rec) : Nat := bitsOf r.w1 54 10
def Rec.key (r : Rec) : Nat := bitsOf r.w1 0 54
def Rec.wtgt (r : Rec) : Nat := bitsOf r.w2 16 48
def Rec.wch (r : Rec) : Nat := bitsOf r.w2 0 16
def Rec.carry (r : Rec) : Nat := bitsOf r.w3 0 54
def Rec.words (r : Rec) : List Word := [r.w0, r.w1, r.w2, r.w3, r.arg0, r.arg1, r.arg2, r.arg3]

/-- Replace `len` bits from `lo` of a word. -/
def setBits (w : Word) (lo len x : Nat) : Word :=
  BitVec.ofNat 64 (w.toNat - (bitsOf w lo len <<< lo) + (x % 2 ^ len) <<< lo)

def Rec.ofWords (l : List Word) : Rec :=
  ⟨l.getD 0 0, l.getD 1 0, l.getD 2 0, l.getD 3 0, l.getD 4 0, l.getD 5 0, l.getD 6 0, l.getD 7 0⟩

/-- A number cut into `n` words. -/
def toWords (x : Nat) : Nat → List Word
  | 0 => []
  | n + 1 => BitVec.ofNat 64 x :: toWords (x / 2 ^ 64) n

def ofWords : List Word → Nat
  | [] => 0
  | w :: t => w.toNat + 2 ^ 64 * ofWords t

/-- The ASID a core runs for: that of its record. -/
def CoreC.asid (c : CoreC) : Nat := (c.cont.map Rec.asid).getD 0
def CoreP.asid (c : CoreP) : Nat := (c.cont.map Rec.asid).getD 0
def State.asidOf (s : State) (g : Nat) : Nat := if isGearC g then (s.coreC g).asid else (s.coreP g).asid
def State.runOf (s : State) (g : Nat) : Run := if isGearC g then (s.coreC g).run else (s.coreP g).run

/-- An MSI-X message of a function (R65); a replay discards it (R254). -/
def State.irq (s : State) (fn vec : Nat) : State :=
  if s.boot.mode = 2 then s else { s with irqs := s.irqs ++ [(fn, vec)] }

/-! ### Event counting (R247 to R249) -/

/-- Word i of an ASID's profiling block; a slot is unused until the driver writes it (R248). -/
def State.profWord (s : State) (asid i : Nat) : Word :=
  Tab.get (if 1 ≤ i ∧ i ≤ 8 then 0xC000000000000000 else 0) s.prof (16 * asid + i)

/-- Numbers of the profiling slots of an ASID that count an event. -/
def State.profSlots (s : State) (asid ev : Nat) : List Nat :=
  if bitsOf (s.profWord asid 0) 63 1 = 0 then []
  else (List.range 8).filter (fun n =>
    let w := s.profWord asid (1 + n)
    decide (bitsOf w 62 2 = 0 ∧ bitsOf w 0 16 = ev))

/-- Count `k` occurrences of an event charged to a core (R249). -/
def State.countCore (s : State) (g ev k : Nat) : State :=
  let add := fun (t : Tab Word) => (s.profSlots (s.asidOf g) ev).foldl
    (fun t n => Tab.put t n (Tab.get 0 t n + BitVec.ofNat 64 k)) t
  if s.profSlots (s.asidOf g) ev = [] then s
  else if isGearC g then s.modC g (fun c => { c with prof := add c.prof })
  else s.modP g (fun c => { c with prof := add c.prof })

/-- Add to the totals of a session, at device scope (R249). -/
def State.countTotal (s : State) (asid ev k : Nat) : State :=
  let tot := bitsOf (s.profWord asid 0) 6 42 * 64
  (s.profSlots asid ev).foldl
    (fun s n => s.write (tot + 8 * n) (s.read (tot + 8 * n) 8 + k) 8) s

/-! ### Stopping (R173, R223, R225) -/

/-- `k.cause` (R223). -/
def causeWord (async : Bool) (slot code detail : Nat) : Word :=
  BitVec.ofNat 64 ((if async then 1 <<< 63 else 0) + ((slot % 8) <<< 56) + ((code % 256) <<< 48) + detail % 2 ^ 48)

def causeAsync (w : Word) : Bool := w.getLsbD 63
def causeSlot (w : Word) : Nat := bitsOf w 56 3
def causeCode (w : Word) : Nat := bitsOf w 48 8
/-- Resumable causes (R224, R231). -/
def causeResumable (w : Word) : Bool := decide (causeCode w = 0x30 ∨ causeCode w = 0x31)

/-- A fatal asynchronous cause (R224). -/
def causeFatal (w : Word) : Bool := causeAsync w && !causeResumable w

/-- Two stops meet (R173, R225, R236, R283). Of two precise causes the earlier bundle decides, and in one bundle the lower
slot. A precise cause decides over an asynchronous one, and a fatal asynchronous one is kept beside it. Of two asynchronous
causes the first fixes E, and a fatal one decides over a resumable one. -/
def StopReq.merge (old new : StopReq) : StopReq :=
  let beside := fun (w l : StopReq) => { w with also := w.also.or (if causeFatal l.cause then some l.cause else l.also) }
  match causeAsync old.cause, causeAsync new.cause with
  | false, false =>
    if new.idx < old.idx ∨ (new.idx = old.idx ∧ causeSlot new.cause < causeSlot old.cause) then beside new old
    else beside old new
  | false, true => beside old new
  | true, false => beside new old
  | true, true =>
    if causeFatal new.cause && causeResumable old.cause then { old with cause := new.cause, who := new.who } else old

/-- A member's own cause, as two of them meet: the earlier bundle's, at one bundle a precise one, then the lower slot's (R225). -/
def ownCause (old : Option (Nat × Word)) (new : Nat × Word) : Nat × Word :=
  match old with
  | none => new
  | some o =>
    if new.1 < o.1 then new
    else if o.1 < new.1 then o
    else if causeAsync o.2 && !causeAsync new.2 then new
    else if causeAsync o.2 = causeAsync new.2 ∧ causeSlot new.2 < causeSlot o.2 then new
    else o

/-- Fix a stop for the group that `lead` drives; the member that raised it keeps its own cause (R223, R310). -/
def State.requestStop (s : State) (lead : Nat) (r : StopReq) : State :=
  let s := match r.who with
    | some g => s.modC g (fun c => { c with mine := some (ownCause c.mine (r.idx, r.cause)) })
    | none => s
  s.modC lead (fun c => { c with stop := some (match c.stop with | none => r | some o => StopReq.merge o r) })

def CoreC.slot (c : CoreC) (k : Nat) : SlotSeq := c.slots.getD k SlotSeq.reset
def CoreC.modSlot (c : CoreC) (k : Nat) (f : SlotSeq → SlotSeq) : CoreC := { c with slots := c.slots.modify k f }

/-- The number of the bundle that the trailing slot will issue next (R163). -/
def CoreC.trailing (c : CoreC) : Nat := c.slots.foldl (fun m x => min m x.next) c.fidx

def CoreC.findBun (c : CoreC) (idx : Nat) : Option Bun := c.win.find? (fun b => b.idx = idx)
def CoreC.addrOf (c : CoreC) (idx : Nat) : Nat := ((c.findBun idx).map Bun.addr).getD c.fetch

/-- A precise trap of the move that slot `slot` of core `g` issues from `bun`: the stop is fixed at that bundle, and
the trapping slot stands at it (R173, R282). -/
def State.trapMove (s : State) (g slot : Nat) (bun : Bun) (code detail : Nat) : State :=
  let lead := s.leader g
  let s := s.modC lead (fun c => c.modSlot slot (fun x => { x with next := bun.idx }))
  s.requestStop lead ⟨bun.idx, bun.addr, causeWord false slot code detail, some g, none⟩

/-- An asynchronous stop of a running gear C core: at the next bundle of the trailing slot (R173). -/
def State.asyncStopC (s : State) (g : Nat) (code detail : Nat) : State :=
  let lead := s.leader g
  let c := s.coreC lead
  s.requestStop lead ⟨c.trailing, c.addrOf c.trailing, causeWord true 0 code detail, none, none⟩

/-- A stop of a gear S or gear M core, between two instructions (R234); a precise cause decides over an asynchronous one (R225),
and a fatal asynchronous one over a resumable one (R236). -/
def State.stopP (s : State) (g : Nat) (w : Word) : State :=
  s.modP g (fun c => { c with stop := some (match c.stop with
    | none => (w, none)
    | some (o, also) =>
      if causeAsync o && !causeAsync w then (w, if causeResumable o then also else some o)
      else if causeFatal w && causeResumable o then (w, also)
      else if causeFatal w && !causeAsync o && also.isNone then (o, some w) else (o, also)) })

/-- A precise trap on a gear S or gear M core. -/
def State.trapP (s : State) (g code detail : Nat) : State := s.stopP g (causeWord false 0 code detail)

/-- An asynchronous stop of a core of any gear. -/
def State.asyncStop (s : State) (g code detail : Nat) : State :=
  if isGearC g then s.asyncStopC g code detail else s.stopP g (causeWord true 0 code detail)

/-- An asynchronous stop for a cause of core g alone; the other members of a lock-step tandem stop with cause 0x32 (R223,
R236). -/
def State.ownStop (s : State) (g code detail : Nat) : State :=
  if isGearC g then
    let lead := s.leader g
    let c := s.coreC lead
    s.requestStop lead ⟨c.trailing, c.addrOf c.trailing, causeWord true 0 code detail, some g, none⟩
  else s.stopP g (causeWord true 0 code detail)

/-! ### The chain of causes (R235) -/

def chainEntry (cad : Word) (addr kind code : Nat) (coord : Word) (chan : Nat) (detail : Word) : List Word :=
  [cad, BitVec.ofNat 64 (addr / 32 * 32 % 2 ^ 48),
   BitVec.ofNat 64 (kind <<< 48 + code <<< 40 + (bitsOf coord 0 18) <<< 18 + chan), detail]

def State.chain (s : State) (asid : Nat) : List (List Word) := Tab.get [] s.chains asid

/-- Index of the entry that began the teardown: the last of the chain's opening packet and core entries. -/
def State.chainHead (s : State) (asid : Nat) : Nat :=
  match (s.chain asid).findIdx? (fun e => decide (bitsOf (e.getD 2 0) 48 8 ≠ 1)) with
  | some i => i
  | none => 0

/-- Add an entry with its PREV: none for the root, else the entry that began the teardown. One beyond the 64th is counted only, by
an entry of no words. -/
def State.enter (s : State) (asid : Nat) (e : List Word) : State :=
  let l := s.chain asid
  let prev := if l.isEmpty then 0xFF else s.chainHead asid
  let e := e.set 2 (setBits (e.getD 2 0) 56 8 prev)
  { s with chains := Tab.put s.chains asid (l ++ [if l.length < 64 then e else []]) }

def State.inTeardown (s : State) (asid : Nat) : Bool := (Tab.find s.chains asid).isSome

/-- Every core that runs or keeps a continuation of an ASID. -/
def State.coresOf (s : State) (asid : Nat) : List Nat :=
  ((s.cores.filter (fun p => decide (p.2.run ≠ .idle) && decide (p.2.asid = asid))).map Prod.fst) ++
    ((s.pcores.filter (fun p => decide (p.2.run ≠ .idle) && decide (p.2.asid = asid))).map Prod.fst)

/-- Step 1 of R236: every other running continuation of the ASID stops with cause 0x32. -/
def State.stopOthers (s : State) (asid : Nat) (but : List Nat) : State :=
  (s.coresOf asid).foldl (fun s g =>
    if but.contains g ∨ s.runOf g ≠ .running ∨ (isGearC g ∧ s.leader g ≠ g) then s else s.asyncStop g 0x32 0) s

/-- A structure error or packet begins the teardown of an ASID (R228, R236). -/
def State.beginTeardown (s : State) (asid : Nat) (e : List Word) : State :=
  let new := !s.inTeardown asid
  let s := s.enter asid e
  if new then s.stopOthers asid [] else s

/-- Chain entry of a stopped core; CHAN is that of packet entries only. -/
def State.coreEntry (s : State) (g : Nat) (w : Word) : List Word :=
  let cad := if isGearC g then (s.coreC g).cad else (s.coreP g).retired
  let addr := if isGearC g then (s.coreC g).epc.toNat else (s.coreP g).pc
  chainEntry cad addr 0 (causeCode w) (coordOf g) 0xFFFF (BitVec.ofNat 64 (bitsOf w 0 48))

/-- An asynchronous cause of core g alone, whatever it does: a running core stops (R173); on one whose context stands stopped the cause is
fatal at once, and the teardown of its ASID begins (R228, R236); a core without a continuation takes none. -/
def State.causeOn (s : State) (g code detail : Nat) : State :=
  match s.runOf g with
  | .running => s.ownStop g code detail
  | .stopped =>
    let w := causeWord true 0 code detail
    let s := if isGearC g then s.modC g (fun c => { c with cause := w }) else s.modP g (fun c => { c with cause := w })
    s.beginTeardown (s.asidOf g) (s.coreEntry g w)
  | .idle => s

/-! ### Soft errors (R228) -/

/-- Does an access to n bytes at a location meet the word? -/
def BadWord.hit (b : BadWord) (p : Nat × Nat) : Bool :=
  let a := if b.code = 1 then locCore b.unit (8 * b.idx) else locClus b.unit (8 * b.idx)
  decide (b.code < 4) && decide (p.1 < a + 8) && decide (a < p.1 + p.2)

/-- DETAIL of cause 0x21. -/
def sramDetail (code idx : Nat) : Nat := (code <<< 40) + idx % 2 ^ 40

/-- Words that an access meets: `hit` says which. A word that an access has met is gone at the next time; until then another
access meets it too. -/
def State.badMet (s : State) (hit : BadWord → Bool) : List BadWord :=
  s.bad.filter (fun b => (b.met.isNone || decide (b.met = some s.now)) && hit b)

/-- An access meets uncorrectable words: cause 0x21 on the core of a core's own structure, else on the core `who` whose access or
channel it is (R228). -/
def State.meetBad (s : State) (who : Option Nat) (hit : BadWord → Bool) : State :=
  match s.badMet hit with
  | [] => s
  | l =>
    let keep := s.bad.filter (fun b => b.met.isNone || decide (b.met = some s.now))
    let s := { s with bad := keep.map (fun b => if hit b then { b with met := some s.now } else b) }
    l.foldl (fun s b => match (if b.code = 2 then who else some b.unit) with
      | some g => s.causeOn g 0x21 (sramDetail b.code b.idx)
      | none => s) s

/-- An access to pieces of memory (location, bytes). -/
def State.meetMem (s : State) (who : Option Nat) (ps : List (Nat × Nat)) : State := s.meetBad who (fun b => ps.any b.hit)

/-- Index of an element of an accumulator bank. -/
def accIdx (bank row col : Nat) : Nat := 15360 * bank + 160 * row + col

/-- A command of core g reads elements of its accumulators: `rd` says which. -/
def State.meetAcc (s : State) (g : Nat) (rd : Nat → Bool) : State :=
  s.meetBad none (fun b => decide (b.code = 4 ∧ b.unit = g) && rd b.idx)

/-! ### The context registers of a copy engine (R77) -/

/-- `k.root`, `k.s2base` and `k.s2lim` hold the fields of descriptor words 0, 2 and 3 in their places, and zero in every other bit:
ROOT, S2 and V; S2BASE; S2LIM (log 80). -/
def ctxRoot (w : Word) : Word := w &&& 0x0000FFFFFFFFFE03
def ctxS2Base (w : Word) : Word := w &&& 0x0000FFFFFFFFF000
def ctxS2Lim (w : Word) : Word := w &&& 0x0000000003FFFFFF

/-! ### Trace records (R238, R251, R252) -/

/-- A bundle name (R238). -/
def bundleName (cad : Word) (coord : Word) (addr : Nat) : List Word :=
  [cad, BitVec.ofNat 64 ((bitsOf coord 0 18 <<< 46) + (addr >>> 2) % 2 ^ 46)]

/-- One record into the ring of die d, by a write of the die (R89, R251). -/
def State.traceRec (s : State) (d : Nat) (name : List Word) (kind cls asid : Nat) (data : Word) : State :=
  let x := s.die d
  let w := fun i => Tab.get 0 x.trace i
  let n := 2 ^ bitsOf (w 0) 0 5
  if (w 0).getLsbD 63 = false then s
  else if n ≤ (w 1 - w 3).toNat then s.setDie d { x with trace := Tab.put x.trace 2 (w 2 + 1) }
  else
    let s := s.devWrite d (bitsOf (w 0) 5 43 * 32 + 32 * ((w 1).toNat % n))
      (ofWords (name ++ [BitVec.ofNat 64 ((kind <<< 56) + (cls <<< 48) + asid), data])) 32
    s.setDie d { s.die d with trace := Tab.put x.trace 1 (w 1 + 1) }

/-- The name of what core g is at: on gear C a bundle's address, else the next instruction. -/
def State.nameAt (s : State) (g addr : Nat) : List Word :=
  if isGearC g then bundleName (s.coreC g).cad (coordOf g) addr
  else bundleName (s.coreP g).retired (coordOf g) addr

/-! ### Copies that leave a cache (R73, R80, R82, R89, R228, R264) -/

/-- Put an entry into a table of at most `cap`: a full one gives up the entry at a place that is left open (log 70). True where it was
full. -/
def putBounded {α : Type} (cap : Nat) (t : Tab α) (k : Nat) (x : α) (v : Nat) : Tab α × Bool :=
  if (Tab.find t k).isNone ∧ cap ≤ t.length then (Tab.put (t.eraseIdx (v % t.length)) k x, true) else (Tab.put t k x, false)

/-- A free value has been used, or none. -/
def State.used (s : State) (b : Bool) : State := { s with fresh := s.fresh + b.toNat }

/-- May a translation leave the TLB: none that a command has retired, and none of the kept ones while a packet holds it (R80, R86)? -/
def TlbEnt.mayLeave (t : TlbEnt) : Bool := !t.retired && (t.holders.isEmpty || !t.kept)

/-- A translation leaves the TLB; packets that hold it keep it (R81). -/
def CopyEng.dropEnt (c : CopyEng) (key : Nat) (t : TlbEnt) : CopyEng :=
  { c with tlb := Tab.del c.tlb key, gone := if t.holders.isEmpty then c.gone else c.gone ++ [t] }

def State.evictTurn (s : State) : Turn → State
  | .evictL1 g line =>
    if isGearC g then s.modC g (fun c => { c with l1 := Tab.del c.l1 line }) else s.modP g (fun c => { c with lines := Tab.del c.lines line })
  | .evictL2 d line => s.setDie d { s.die d with l2 := Tab.del (s.die d).l2 line }
  | .evictRlc d line => s.setDie d { s.die d with rlc := Tab.del (s.die d).rlc line }
  | .evictTlb e key =>
    match Tab.find (s.ce e).tlb key with
    | some t => if t.mayLeave then s.setCe e ((s.ce e).dropEnt key t) else s
    | none => s
  | .evictWalk d key => s.setDie d { s.die d with wc := Tab.del (s.die d).wc key }
  | _ => s

/-! ### Results (R158, R287) -/

/-- Start a result of latency `lat` in the unit's latch pair, counted from the current cycle. -/
def CoreC.start (c : CoreC) (unit lat idx : Nat) (v : TVal) (fl : BitVec 7) (k : BitVec 1) : CoreC :=
  { c with infl := c.infl ++ [⟨unit, c.clk + lat - 1, idx, v, fl, decide (k = 0), c.inH⟩] }

end Sys2Proof.Machine
end

