-- ==== Sys2Proof/Machine/EngineFun.lean ====
section
/-! DEFINITION. The arithmetic of banks and tiles (R183 to R186, R189, R190, R192), shared by the matrix engine and the
portable tile instructions (R388), and the issue-time copy of R179. -/

namespace Sys2Proof.Machine

def Elem.zero : Elem := ⟨0, 0, 0, 0, 0, 0, 0⟩

/-- Element (r, c) of bank `i` (R186). -/
def Bank.elem (i : Nat) (b : Bank) (r c : Nat) : Elem :=
  match (Tab.find b.rows r).bind (fun row => Tab.find row c) with
  | some e => e
  | none => match b.unk with
    | none => Elem.zero
    | some n =>
      let x := Config.freeElem n (20000 * i + 160 * r + c)
      { Elem.zero with v := x.setWidth 32, cnt := x.extractLsb' 32 16 }

/-- A bank's rows from a function of row and column. -/
def mkRows (f : Nat → Nat → Elem) : Tab (Tab Elem) :=
  (List.range 96).map (fun r => (r, (List.range 160).map (fun c => (c, f r c))))

def Tiles.bank (t : Tiles) (i : Nat) : Bank := t.banks.getD i Bank.clear
def Tiles.setBank (t : Tiles) (i : Nat) (b : Bank) : Tiles := { t with banks := t.banks.set i b }
def Tiles.split (t : Tiles) (pair : Nat) : Bool := if pair = 0 then t.split0 else t.split1
def Tiles.elem (t : Tiles) (i r c : Nat) : Elem := (t.bank i).elem i r c

/-- The bank that keeps the open block: its own, or the even bank of a split pair (R189). -/
def Tiles.blockBank (t : Tiles) (i : Nat) : Nat := if t.split (i / 2) then 2 * (i / 2) else i

/-- Elements per row along K (R181). -/
def depth (tag : BitVec 5) : Nat := if isBni tag then bniK (bniP tag) else 1

/-- The integer of element e of a BNI row word (R183). -/
def rowInt (tag : BitVec 5) (w : BitVec 16) (e : Nat) : Int :=
  toSigned (bniP tag) (gatherPlanes (fun q => w.getLsbD (15 - (q * depth tag + e))) (bniP tag))

/-- Σ over the k elements of a row pair (R184). -/
def dotInt (tag : BitVec 5) (a b : BitVec 16) : Nat → Int
  | 0 => 0
  | e + 1 => dotInt tag a b e + rowInt tag a e * rowInt tag b e

/-- pos, neg, cp and cn of a row pair (R189). -/
def dotSplit (tag : BitVec 5) (a b : BitVec 16) : Nat → Nat × Nat × Nat × Nat
  | 0 => (0, 0, 0, 0)
  | e + 1 =>
    let (p, n, cp, cn) := dotSplit tag a b e
    let x := rowInt tag a e * rowInt tag b e
    if 0 < x then (p + x.toNat, n, cp + 1, cn)
    else if x < 0 then (p, n + (-x).toNat, cp, cn + 1)
    else (p, n, cp, cn)

def flOf (c : BitVec 32) : Fl := decodeFl fp32 c.toNat
def code32 (r : Nat × Flags) : BitVec 32 := BitVec.ofNat 32 r.1
def nan32 : BitVec 32 := 0x7FC00000

/-- One float beat on a normal element (R184). -/
def floatBeat (f : Fmt) (e : Elem) (a b : BitVec 16) : Elem :=
  { e with v := code32 (fmaFl fp32 (decodeFl f a.toNat) (decodeFl f b.toNat) (flOf e.v)) }

/-- Add to a count plane (R189). -/
def addCnt (c : BitVec 16) (k : Nat) : BitVec 16 := BitVec.ofNat 16 (min 65535 (c.toNat + k))

/-- One float beat on a split pair: P's element, N's element, and the increments of their counts (R189). -/
def floatSplit (f : Fmt) (p n : Elem) (a b : BitVec 16) : Elem × Elem × Nat × Nat :=
  let prod := (mulExact (decodeFl f a.toNat) (decodeFl f b.toNat)).1
  let up := fun (e : Elem) (x : Fl) => { e with v := code32 (addFl fp32 (flOf e.v) x), cnt := addCnt e.cnt 1 }
  let pos := fun x => (up p x, n, 1, 0)
  let neg := fun x => (p, up n x, 0, 1)
  match prod with
  | .nan => ({ p with v := nan32 }, { n with v := nan32 }, 0, 0)
  | .inf false => pos prod
  | .inf true => neg (negFl prod)
  | .fin s m _ => if m = 0 then (p, n, 0, 0) else if s then neg (negFl prod) else pos prod

/-- The scale of an element's block (R185). -/
def blockScale (sa sb : BitVec 16) : Nat := (mulFl fp32 (decodeFl bf16 sa.toNat) (decodeFl bf16 sb.toNat)).1

/-- `close` on a normal element (R185). -/
def closeElem (e : Elem) (s : Nat) : Elem :=
  let e' := { e with part := 0 }
  if e.part = 0 then e'
  else { e' with v := code32 (fmaFl fp32 (.fin (decide (e.part < 0)) e.part.natAbs 0) (decodeFl fp32 s) (flOf e.v)) }

/-- `close` on a split pair; the open block stands in P's element (R189). -/
def closeSplit (p n : Elem) (s : Nat) : Elem × Elem × Nat × Nat :=
  let p' := { p with pos := 0, neg := 0, cp := 0, cn := 0 }
  match decodeFl fp32 s with
  | .fin _ 0 _ => (p', n, 0, 0)
  | f =>
    let swap := match f with | .inf b => b | .fin b _ _ => b | .nan => false
    let mag := if swap then negFl f else f
    let (pos, neg, cp, cn) := if swap then (p.neg, p.pos, p.cn, p.cp) else (p.pos, p.neg, p.cp, p.cn)
    let up := fun (v : BitVec 32) (x : Nat) => if x = 0 then v else code32 (fmaFl fp32 (.fin false x 0) mag (flOf v))
    ({ p' with v := up p.v pos, cnt := addCnt p.cnt cp }, { n with v := up n.v neg, cnt := addCnt n.cnt cn }, cp, cn)

/-- Does any element meet a condition? -/
def anyElem (f : Nat → Nat → Bool) : Bool := (List.range 96).any (fun r => (List.range 160).any (fun c => f r c))

/-- Replace both banks of a pair by a function of row and column; SAT of a bank is set where a count it added to
stands at 65,535 (R189). -/
def Tiles.mapPair (t : Tiles) (q : Nat) (f : Nat → Nat → Elem × Elem × Nat × Nat) : Tiles :=
  let bp := { t.bank (2 * q) with rows := mkRows (fun r c => (f r c).1), unk := none }
  let bn := { t.bank (2 * q + 1) with rows := mkRows (fun r c => (f r c).2.1), unk := none }
  let satP := anyElem (fun r c => decide (0 < (f r c).2.2.1) && decide ((f r c).1.cnt = 0xFFFF))
  let satN := anyElem (fun r c => decide (0 < (f r c).2.2.2) && decide ((f r c).2.1.cnt = 0xFFFF))
  let m := (if satP then (1 : BitVec 8) <<< (4 + 2 * q) else 0) ||| (if satN then (1 : BitVec 8) <<< (5 + 2 * q) else 0)
  { (t.setBank (2 * q) bp).setBank (2 * q + 1) bn with mst := t.mst ||| m }

/-- Replace one bank by a function of row and column. -/
def Tiles.mapBank (t : Tiles) (i : Nat) (f : Nat → Nat → Elem) : Tiles :=
  t.setBank i { t.bank i with rows := mkRows f, unk := none }

/-- `close` of the open block of a bank (R185, R189). -/
def Tiles.close (t : Tiles) (i : Nat) (a b : Slice) : Tiles :=
  let sc := fun r c => blockScale (a.scales.getD r 0) (b.scales.getD c 0)
  let j := t.blockBank i
  let t' := if t.split (i / 2) then
      t.mapPair (i / 2) (fun r c => closeSplit (t.elem j r c) (t.elem (j + 1) r c) (sc r c))
    else t.mapBank i (fun r c => closeElem (t.elem i r c) (sc r c))
  t'.setBank j { t'.bank j with n := 0, fmt := none }

/-- One beat of the staged slices into a bank (R184, R189); `e` closes a BNI block. A beat that no check has held back adds to an open
block of another format and retags it (DESIGN CHOICE, log 96). -/
def Tiles.beat (t : Tiles) (i : Nat) (a b : Slice) (e : Bool) : Tiles :=
  let ra := fun r => a.rows.getD r 0
  let rb := fun c => b.rows.getD c 0
  let sp := t.split (i / 2)
  let j := t.blockBank i
  if isBni a.tag then
    let k := depth a.tag
    let t' := if sp then
        t.mapPair (i / 2) (fun r c =>
          let d := dotSplit a.tag (ra r) (rb c) k
          let p := t.elem j r c
          ({ p with pos := p.pos + d.1, neg := p.neg + d.2.1, cp := p.cp + d.2.2.1, cn := p.cn + d.2.2.2 },
            t.elem (j + 1) r c, 0, 0))
      else t.mapBank i (fun r c => let x := t.elem i r c; { x with part := x.part + dotInt a.tag (ra r) (rb c) k })
    let n := (t.bank j).n + k
    let t' := t'.setBank j { t'.bank j with n := n, fmt := some a.tag }
    if e || decide (n = 128) then t'.close i a b else t'
  else
    let f := fmtOf a.tag
    if sp then t.mapPair (i / 2) (fun r c => floatSplit f (t.elem j r c) (t.elem (j + 1) r c) (ra r) (rb c))
    else t.mapBank i (fun r c => floatBeat f (t.elem i r c) (ra r) (rb c))

/-- `me.clr` (R186). -/
def Tiles.clear (t : Tiles) (i : Nat) : Tiles :=
  if t.split (i / 2) then (t.setBank (2 * (i / 2)) Bank.clear).setBank (2 * (i / 2) + 1) Bank.clear
  else t.setBank i Bank.clear

/-- `me.cls` (R186). -/
def Tiles.setClass (t : Tiles) (pair : Nat) (sp : Bool) : Tiles :=
  let t := (t.setBank (2 * pair) Bank.clear).setBank (2 * pair + 1) Bank.clear
  if pair = 0 then { t with split0 := sp } else { t with split1 := sp }

/-- The tag of a bank (R186, R201). -/
def Tiles.tag (t : Tiles) (i : Nat) : BitVec 5 := if t.split (i / 2) then 0x11 else 0x01

/-! ### Drains (R190, R192) -/

def isInf32 (v : BitVec 32) : Bool := decide (v.toNat % 2 ^ 31 = 0x7F800000)
def isNan32 (v : BitVec 32) : Bool := decide (0x7F800000 < v.toNat % 2 ^ 31)

def diff32 (p n : BitVec 32) : BitVec 32 := code32 (addFl fp32 (flOf p) (negFl (flOf n)))

/-- min(P, N) / max(P, N) rounded once; 0/0 gives +0; infinities as R190 states. -/
def ratio32 (p n : BitVec 32) : BitVec 32 :=
  if isNan32 p || isNan32 n then nan32
  else if isInf32 p && isInf32 n then 0x3F800000
  else if isInf32 p || isInf32 n then 0
  else
    let lt := decide (valueKey fp32 p.toNat < valueKey fp32 n.toNat)
    let lo := flOf (if lt then p else n)
    let hi := flOf (if lt then n else p)
    match lo, hi with
    | .fin _ 0 _, .fin _ 0 _ => 0
    | _, _ => code32 (divFl fp32 lo hi)

/-- |P − N| / (P + N), from the exact difference and sum, rounded once; 0/0 gives 0 (R190). -/
def gate32 (p n : BitVec 32) : Nat :=
  match flOf p, flOf n with
  | .fin a m e, .fin b m' e' =>
    let d := addDy a m e (!b) m' e'
    let s := addDy a m e b m' e'
    if d.1 = 0 then 0
    else if s.1 = 0 then fp32.infCode
    else (roundFl fp32 (decide (s.1 < 0)) d.1.natAbs s.1.natAbs (d.2 - s.2)).1
  | _, _ => 0

/-- The count test of R190 fails. -/
def countFails (cp cn agc : Nat) : Bool :=
  decide (cp ≠ 65535 ∧ cn ≠ 65535) && decide ((if cp ≤ cn then cn - cp else cp - cn) * 65536 < agc * (cp + cn))

def gated32 (p n : Elem) (agv : BitVec 32) (agc : BitVec 16) : BitVec 32 :=
  if isNan32 p.v || isNan32 n.v then nan32
  else if isInf32 p.v || isInf32 n.v then 0
  else
    -- an AGV that is negative or NaN never fails the g test
    let below := !codeNan fp32 agv.toNat && decide (0 ≤ valueKey fp32 agv.toNat) &&
      decide (valueKey fp32 (gate32 p.v n.v) < valueKey fp32 agv.toNat)
    if below || countFails p.cnt.toNat n.cnt.toNat agc.toNat then 0 else diff32 p.v n.v

/-- Output x of element (r, c) (R190, R192) and whether the drain meets an infinite P or N (R191): a PLANE drain meets its own
plane's element (log 25). -/
def Tiles.drainElem (t : Tiles) (i mode r c : Nat) : BitVec 32 × Bool :=
  if t.split (i / 2) && decide (mode < 3) then
    let p := t.elem (2 * (i / 2)) r c
    let n := t.elem (2 * (i / 2) + 1) r c
    let x := match mode with
      | 0 => if isNan32 p.v || isNan32 n.v then nan32 else diff32 p.v n.v
      | 1 => ratio32 p.v n.v
      | _ => gated32 p n t.agv t.agc
    (x, isInf32 p.v || isInf32 n.v)
  else ((t.elem i r c).v, t.split (i / 2) && isInf32 (t.elem i r c).v)

/-- Columns of a drain group by OFMT (R192). -/
def drainCols (ofmt : Nat) : Nat := if ofmt = 0 then 32 else if ofmt = 1 then 64 else 128
def drainTag (ofmt : Nat) : BitVec 5 := if ofmt = 0 then 0x01 else if ofmt = 1 then 0x02 else 0x10

/-- One output lane: OFMT 0 FP32, with the canonical NaN (R203, R209), 1 BF16, 2 BNI-8 of the exact x·Q. -/
def drainConv (ofmt : Nat) (q : BitVec 32) (x : BitVec 32) : Nat :=
  match ofmt with
  | 0 => if isNan32 x then nan32.toNat else x.toNat
  | 1 => (toFl bf16 (flOf x)).1
  | _ => (flToInt 0x10 (mulExact (flOf x) (flOf q)).1).1

/-- A drained row group: the packed result with its tag, and whether ROV is to be set. -/
def Tiles.drain (t : Tiles) (i mode row cg ofmt : Nat) (q : BitVec 32) : TVal × Bool :=
  let n := drainCols ofmt
  let w := 1024 / n
  let live := fun l => decide (n * cg + l < 160)
  let v := packLanes w (fun l => if live l then drainConv ofmt q (t.drainElem i mode row (n * cg + l)).1 else 0) n
  (⟨BitVec.ofNat 1024 v, drainTag ofmt⟩, (List.range n).any (fun l => live l && (t.drainElem i mode row (n * cg + l)).2))

/-- Set ROV of a pair (R191). -/
def Tiles.setRov (t : Tiles) (i : Nat) (b : Bool) : Tiles :=
  if b then { t with mst := t.mst ||| (1 : BitVec 8) <<< (i / 2) } else t

/-! ### Elements that a command reads (R228) -/

/-- Banks that a command on bank i reads: a split pair is read whole. -/
def Tiles.readsBank (t : Tiles) (i idx : Nat) : Bool :=
  decide (idx / 15360 = i) || (t.split (i / 2) && decide (idx / 30720 = i / 2))
/-- Row `row` of them, columns c0 to c0 + n − 1. -/
def Tiles.readsRow (t : Tiles) (i row c0 n idx : Nat) : Bool :=
  t.readsBank i idx && decide (idx % 15360 / 160 = row) && decide (c0 ≤ idx % 160) && decide (idx % 160 < c0 + n)

/-! ### Rows of banks as memory (R357) -/

def rowDescOk (d : Word) : Bool := decide (d.toNat < 2 ^ 13 ∧ bitsOf d 7 3 ≤ 4 ∧ bitsOf d 0 7 ≤ 95)

def Tiles.loadRow (t : Tiles) (i : Nat) (d : Word) : TVal :=
  let row := bitsOf d 0 7
  let c0 := 32 * bitsOf d 7 3
  if d.getLsbD 12 then ⟨BitVec.ofNat 1024 (packLanes 32 (fun l => (t.elem i row (c0 + l)).cnt.toNat) 32), 0x07⟩
  else ⟨BitVec.ofNat 1024 (packLanes 32 (fun l => (t.elem i row (c0 + l)).v.toNat) 32), 0x01⟩

/-- The row of a table, or an empty one. -/
def rowPut (rows : Tab (Tab Elem)) (r c : Nat) (e : Elem) : Tab (Tab Elem) := Tab.put rows r (Tab.put (Tab.get [] rows r) c e)

def storeRowFrom (t : Tiles) (i : Nat) (d : Word) (v : TVal) : Nat → Tab (Tab Elem)
  | 0 => (t.bank i).rows
  | l + 1 =>
    let row := bitsOf d 0 7
    let c := 32 * bitsOf d 7 3 + l
    let e := t.elem i row c
    let x := vlane v 32 l
    rowPut (storeRowFrom t i d v l) row c
      (if d.getLsbD 12 then { e with cnt := BitVec.ofNat 16 x } else { e with v := BitVec.ofNat 32 x })

def Tiles.storeRow (t : Tiles) (i : Nat) (d : Word) (v : TVal) : Tiles :=
  t.setBank i { t.bank i with rows := storeRowFrom t i d v 32 }

/-! ### The issue-time copy (R179) -/

/-- Classes, open blocks (elements gathered and format, by bank), staged formats. -/
structure EngView where
  split0 : Bool
  split1 : Bool
  open_  : List (Option (BitVec 5 × Nat))
  a      : Option (BitVec 5)
  b      : Option (BitVec 5)
  deriving DecidableEq, Repr

def EngView.split (v : EngView) (pair : Nat) : Bool := if pair = 0 then v.split0 else v.split1
def EngView.blockBank (v : EngView) (i : Nat) : Nat := if v.split (i / 2) then 2 * (i / 2) else i
def EngView.blk (v : EngView) (i : Nat) : Option (BitVec 5 × Nat) := (v.open_.getD (v.blockBank i) none)

/-- Format codes of R182. -/
def fmtTag (code : Nat) : Option (BitVec 5) :=
  match code with
  | 0 => some 0x02
  | 1 => some 0x03
  | 2 => some 0x0A
  | 4 => some 0x0C
  | 8 => some 0x10
  | _ => none

/-- The format a push command stages (R181, R182). -/
def Cmd.fmt (c : Cmd) (desc : Word) : Option (BitVec 5) :=
  match c.regs with
  | some s => some s.tag
  | none => fmtTag (bitsOf desc 36 4)

/-- What one command leaves of the copied state. -/
def EngView.after (v : EngView) (c : Cmd) : EngView :=
  match c.op with
  | .pa => { v with a := c.fmt c.pb }
  | .pb => { v with b := c.fmt c.pd }
  | .acc =>
    let i := bitsOf c.t 0 2
    let j := v.blockBank i
    match v.a with
    | some t =>
      if isBni t then
        let n := ((v.blk i).map Prod.snd).getD 0 + depth t
        { v with open_ := v.open_.set j (if c.t.getLsbD 3 || decide (n = 128) then none else some (t, n)) }
      else v
    | none => v
  | .clr =>
    let q := bitsOf c.t 0 2 / 2
    if v.split q then { v with open_ := (v.open_.set (2 * q) none).set (2 * q + 1) none }
    else { v with open_ := v.open_.set (bitsOf c.t 0 2) none }
  | .cls =>
    let q := bitsOf c.t 0 1
    let v := { v with open_ := (v.open_.set (2 * q) none).set (2 * q + 1) none }
    if q = 0 then { v with split0 := c.t.getLsbD 2 } else { v with split1 := c.t.getLsbD 2 }
  | .seq =>
    -- a BNI sequence closes its bank's block; a float one leaves it
    let f := fmtTag (bitsOf c.pb 36 4)
    { v with a := f, b := fmtTag (bitsOf c.pd 36 4)
             open_ := if isBni (f.getD 0x02) then v.open_.set (v.blockBank (bitsOf c.t 32 2)) none else v.open_ }
  | .sh | .dr | .thr => v

/-- What a sequence that has been told to stop leaves: its next step, and no more (R193, R194). -/
def EngView.afterQuit (v : EngView) (c : Cmd) (q : SeqPos) : EngView :=
  let f := (fmtTag (bitsOf c.pb 36 4)).getD 0x02
  let j := v.blockBank (bitsOf c.t 32 2)
  let n := ((v.blk (bitsOf c.t 32 2)).map Prod.snd).getD 0 + depth f
  let e := decide (q.j + 1 = bitsOf c.t 16 16 + bitsOf c.t 0 16) || decide (((q.j + 1) * depth f) % 128 = 0) || decide (n = 128)
  if q.drain then v
  else { v with a := some f, b := some f
                open_ := if isBni f then v.open_.set j (if e then none else some (f, n)) else v.open_ }

/-- The engine's state as it will stand when a command issued now is consumed (R179), a running sequence taken to its end: a later
`me.sqs` that stops it short brings no new check (DESIGN CHOICE, log 97). -/
def Engine.view (e : Engine) : EngView :=
  let blk := fun i => let b := e.tiles.bank i; b.fmt.map (fun f => (f, b.n))
  let v : EngView :=
    ⟨e.tiles.split0, e.tiles.split1, [blk 0, blk 1, blk 2, blk 3], e.a.map Slice.tag, e.b.map Slice.tag⟩
  match e.seq, e.fifo with
  | some q, c :: t => t.foldl EngView.after (if q.quit then v.afterQuit c q else v.after c)
  | _, l => l.foldl EngView.after v

end Sys2Proof.Machine
end

