-- ==== Sys2Proof/Machine/Flags.lean ====
section
/-! DEFINITION. Guards, stage predicates, predicates and sticky flags (R166, R206 to R208, R272). -/

namespace Sys2Proof.Machine

/-- Predicate n: p0 reads 1 (R161). -/
def CoreC.pred (c : CoreC) (n : Nat) : Bool := if n = 0 then true else c.p.get false Config.freeBit n

/-- sp[s] in the pass that a bundle was dispatched in: 0 ≤ n − s < N (R166). -/
def stagePred (l : LoopSt) (s : Nat) : Bool := decide (s ≤ l.pass ∧ l.pass - s < l.n)

/-- The operation of slot k that a stop abandoned and that its bundle issues again: it runs with the operands that it had captured, as it
would have without the stop (R174, R295). -/
def CoreC.keptAt (c : CoreC) (k idx : Nat) : Option Hold := (c.slot k).kept.filter (fun h => decide (h.idx = idx))

/-- Does a move run (R272, R279)? -/
def CoreC.guard (c : CoreC) (slot : Nat) (b : Bun) (gd : BitVec 3) : Bool :=
  if (c.keptAt slot b.idx).isSome then true
  else if (bunStg b.bits).getLsbD slot then stagePred b.loop gd.toNat
  else match gd.toNat with
    | 0 => true
    | 1 => c.pred 1
    | 2 => c.pred 2
    | 3 => c.pred 3
    | 5 => !c.pred 1
    | 6 => !c.pred 2
    | 7 => !c.pred 3
    | _ => false

/-- Raise sticky flags (R208). -/
def CoreC.raise (c : CoreC) (f : Flags) : CoreC := { c with flg := c.flg ||| f }
def CoreP.raise (c : CoreP) (f : Flags) : CoreP := { c with flg := c.flg ||| f }

/-- A truth value as R300 and R318 give it. -/
def ofBool (b : Bool) : Word := if b then 1 else 0

end Sys2Proof.Machine
end

