-- ==== Sys2Proof/Machine/Operands.lean ====
section
/-! DEFINITION. The operand forms of a native move: sources, bank ownership, ports, destinations (R161, R162, R273 to
R280), and the frame every native move shares. -/

namespace Sys2Proof.Machine

/-- A free tag (R171): one of the codes a register can hold. -/
def freeTagOf (e n : Nat) : BitVec 5 :=
  let t := (Config.freeTag e n).val
  if t < 0x11 then BitVec.ofNat 5 t else BitVec.ofNat 5 (t + 1)
def freeTVal (e n : Nat) : TVal := ⟨Config.freeWide e n, freeTagOf e n⟩

def CoreC.regG (c : CoreC) (n : Nat) : Word := c.g.get 0 Config.freeWord n
def CoreC.regO (c : CoreC) (n : Nat) : Word := c.o.get 0 (fun e n => Config.freeWord e (64 + n)) n
def CoreC.regH (c : CoreC) (n : Nat) : Word := c.h.get 0 (fun e n => Config.freeWord e (80 + n)) n
def CoreC.regV (c : CoreC) (n : Nat) : TVal := c.v.get ⟨0, 0⟩ freeTVal n

/-- Is latch n wide (R158)? -/
def wideLatch (n : Nat) : Bool := decide (n % 8 ≠ 0 ∧ n % 8 ≠ 1 ∧ n % 8 ≠ 6)

/-- A latch of a bank of sixteen; a narrow one holds 64 bits. -/
def readLatch (f : File TVal) (b n : Nat) : TVal :=
  let x := f.get ⟨0, 0⟩ (fun e n => freeTVal e (100 * b + n)) n
  if wideLatch n then x else TVal.ofWord x.word

def CoreC.latch (c : CoreC) (n : Nat) : TVal := if c.inH then readLatch c.l2 2 n else readLatch c.l 1 n

/-- Port p of unit u (R277, R286): 1,024 bits and a tag on va0, va1, ls and as, else 64 bits. A move that is issued again reads what it
had captured. -/
def widePort (u : Nat) : Bool := decide (u = 2 ∨ u = 3 ∨ u = 5 ∨ u = 7)
def CoreC.port (c : CoreC) (u p : Nat) : TVal :=
  let x := match c.cur.bind (fun y => if y.1 = u then c.keptAt u y.2.idx else none) with
    | some h => [h.a, h.b].getD p h.c
    | none => c.ports.get ⟨0, 0⟩ (fun e n => freeTVal e (300 + n)) (4 * u + p)
  if widePort u then x else TVal.ofWord x.word

/-- The slot that owns bank b (R162). -/
def CoreC.owner (c : CoreC) (b : Nat) : Nat :=
  match (c.bank.toNat >>> (2 * b)) % 4 with
  | 0 => 2
  | 1 => 3
  | 2 => 4
  | _ => if b < 2 then 2 else 3

def CoreC.mayRead (c : CoreC) (slot v : Nat) : Bool := decide (slot = 5) || decide (c.owner (v / 8) = slot)
def CoreC.mayWrite (c : CoreC) (slot v : Nat) : Bool := decide (c.owner (v / 8) = slot)

/-- The value a source code selects and whether it is 1,024 bits wide (R273, R274); the register's number where the
slot may not read it (R282). A move that is issued again has the value it had captured. -/
def CoreC.source (c : CoreC) (slot : Nat) (b : Bun) (src : BitVec 10) : Except Nat (TVal × Bool) :=
  let n := src.toNat
  let w := fun x : Word => Except.ok (TVal.ofWord x, false)
  match c.keptAt slot b.idx with
  | some h => .ok (h.t, true)
  | none =>
  if n < 0x40 then w (if c.inH ∧ n < 8 then c.regH n else c.regG n)
  else if n < 0x50 then w (c.regO (n - 0x40))
  else if n < 0x60 then .ok (c.latch (n - 0x50), wideLatch (n - 0x50))
  else if n < 0x80 then (if c.mayRead slot (n - 0x60) then .ok (c.regV (n - 0x60), true) else .error (n - 0x60))
  else if n < 0x88 then w (ofBool (c.pred (n - 0x80)))
  else if n = 0x88 then w 0
  else if n = 0x89 then w (BitVec.allOnes 64)
  else if n = 0x8A then w (BitVec.ofNat 64 c.lane)
  else if n = 0x8B then w (BitVec.ofNat 64 b.addr)
  else if n = 0x8C then .ok (⟨0, 0⟩, true)
  else if n = 0x8D then .ok (⟨BitVec.allOnes 1024, 0x13⟩, true)
  else if n < 0x300 then w ((src.setWidth 8).signExtend 64)
  else w (longImm b.bits slot src)

/-- The bundle and slot of the move that core `g` issues; outside an issue, a bundle of its own with a zero header at
the core's next address. -/
def CoreC.context (c : CoreC) (unit : Nat) : Nat × Bun :=
  c.cur.getD (unit, ⟨c.fidx, c.fetch, 0, 0, c.loop⟩)

/-- What a move that runs has: its core's number and state, slot, bundle, value and width. -/
structure MoveCtx where
  g    : Nat
  c    : CoreC
  slot : Nat
  bun  : Bun
  val  : TVal
  wide : Bool
  deriving DecidableEq, Repr

/-- The frame of every native move (R279, R282): a move that is guarded off does nothing; a source that the slot may
not read traps; otherwise `body` acts. `unit` is the slot outside an issue. -/
def runMove (unit : Nat) (gd : BitVec 3) (src : BitVec 10) (s : State) (body : MoveCtx → State) :
    Host.Outcome State Fault Refusal :=
  let g := s.focus
  let c := s.coreC g
  let x := c.context unit
  if c.guard x.1 x.2 gd = false then .next s
  else match c.source x.1 x.2 src with
    | .error v => .next (s.trapMove g x.1 x.2 0x04 v)
    | .ok (val, wide) => .next (body ⟨g, c, x.1, x.2, val, wide⟩)

/-- Add a write at the end of the cycle (R280). -/
def CoreC.later (c : CoreC) (d : Dst) (v : TVal) (idx : Nat) : CoreC := { c with pend := c.pend ++ [⟨d, v, idx⟩] }

/-- Do what a vector function gives: a result of latency `lat`, or its trap. -/
def MoveCtx.finish (x : MoveCtx) (s : State) (lat : Nat) (k : BitVec 1) : VRes → State
  | .ok v fl => s.modC x.g (fun c => c.start x.slot lat x.bun.idx v fl k)
  | .trap code detail => s.trapMove x.g x.slot x.bun code detail

end Sys2Proof.Machine
end

