-- ==== Sys2Proof/Machine/Scratch.lean ====
section
/-! DEFINITION. Scratchpad addresses, cluster staging, and the ls unit's triggers (R140, R152, R168, R169, R344, R351 to
R357). -/

namespace Sys2Proof.Machine

/-! ### Banks and arbitration (R168, R169) -/

/-- The bank of an offset: of the core scratchpad, of the cluster scratchpad, of the window (R168). -/
def coreBank (o : Nat) : Nat := bitsOf (BitVec.ofNat 64 o) 6 4
def clusBank (o : Nat) : Nat := bitsOf (BitVec.ofNat 64 o) 6 5
def windowBank (o : Nat) : Nat := coreBank (o + 0x70000)

/-- Sources of a cluster's arbitration in ring order (R169): the `ls` units, the operand readers, the SAE, the copy engine. -/
def srcLs (g : Nat) : Nat := g % 4
def srcReader (g : Nat) : Nat := 4 + g % 4
def srcSae : Nat := 8
def srcCopy : Nat := 9

/-- How far a source stands behind the last winner of a bank in the ring; before the first grant the ring begins at its
first source. -/
def Cluster.rank (c : Cluster) (bank src : Nat) : Nat := (src + 9 - Tab.get 9 c.last bank) % 10

/-- The lines, first 0 and second 1, that a held `cld` still waits for: bit i of `st` says that line i is granted (R356). -/
def Hold.cldWants (h : Hold) : List Nat := if h.op = .cld then [0, 1].filter (fun i => !h.st.testBit i) else []

/-- The bank of line i of a held `cld`. -/
def Hold.cldBank (h : Hold) (i : Nat) : Nat := clusBank (bitsOf h.t.word 0 28 + 64 * i)

/-- Banks that core g's held `cld` waits for (R169, R356). -/
def State.cldBanks (s : State) (g : Nat) : List Nat :=
  match ((s.coreC g).slot 5).hold with
  | some h => h.cldWants.map h.cldBank
  | none => []

/-- The cores of a cluster. -/
def clusCores (cl : Nat) : List Nat := (List.range 4).map (fun k => 4 * cl + k)

/-- A source wins the bank of an offset (R169); the other cores whose `cld` waits for that bank have lost a grant (R247). -/
def State.won (s : State) (cl o src : Nat) : State :=
  let lost := (clusCores cl).filter (fun m => decide (srcLs m ≠ src) && (s.cldBanks m).contains (clusBank o))
  lost.foldl (fun s m => s.countCore m 0x0404 1)
    (s.setCluster cl { s.cluster cl with last := Tab.put (s.cluster cl).last (clusBank o) src })

/-- A held `cld` of another core of the cluster comes before a source in the ring at the bank of one of some distinct lines, or waits
for a bank that the source needs for two of them, so that it comes next after the source's first access (R169). -/
def State.cldFirst (s : State) (cl src : Nat) (lines : List Nat) : Bool :=
  (clusCores cl).any (fun m => decide (srcLs m ≠ src) && (s.cldBanks m).any (fun b =>
    let n := (lines.filter (fun l => decide (clusBank l = b))).length
    decide (2 ≤ n) || (decide (n = 1) && decide ((s.cluster cl).rank b (srcLs m) < (s.cluster cl).rank b src))))

/-- Lines of cluster scratchpads that pieces lie in: cluster and offset of the line. -/
def clusLinesOf (ps : List (Nat × Nat)) : List (Nat × Nat) :=
  ps.flatMap (fun q => if locClus 0 0 ≤ q.1 ∧ 0 < q.2 then
    (List.range ((q.1 + q.2 - 1) / 64 + 1 - q.1 / 64)).map (fun i =>
      ((q.1 - locClus 0 0) >>> 32, (q.1 % 2 ^ 32) / 64 * 64 + 64 * i)) else [])

/-- A held `cld` comes before a source at one of the cluster lines that pieces lie in (R169). -/
def State.piecesLose (s : State) (src : Nat) (ps : List (Nat × Nat)) : Bool :=
  let ls := (clusLinesOf ps).dedup
  ((ls.map Prod.fst).dedup).any (fun cl => s.cldFirst cl src ((ls.filter (fun l => decide (l.1 = cl))).map Prod.snd))

/-! ### Staging of cluster traffic (R140, R356) -/

/-- The newest copy of a line that core `g` holds: write staging, then read staging. -/
def CoreC.staged (c : CoreC) (line : Nat) : Option (BitVec 512) :=
  match (c.wst.filter (fun l => l.addr = line)).getLast? with
  | some l => some l.data
  | none => ((c.rst.filter (fun l => l.addr = line)).getLast?).map StLine.data

/-- A line of the core's cluster scratchpad by its offset, as source `src` reads it: from staging, else from the home, whose
bank the source wins and which allocates the line in read staging; a 17th line displaces the first (R140, R169). -/
def State.clusLine (s : State) (g src line : Nat) : BitVec 512 × State :=
  match (s.coreC g).staged line with
  | some d => (d, s)
  | none =>
    let d := BitVec.ofNat 512 (s.read (locClus (clusterOf g) line) 64)
    (d, ((s.meetMem (some g) [(locClus (clusterOf g) line, 64)]).won (clusterOf g) line src).modC g (fun c =>
      let r := c.rst ++ [⟨line, d, BitVec.allOnes 64, s.now⟩]
      { c with rst := if 16 < r.length then r.drop 1 else r }))

/-- A 16-bit word of the cluster scratchpad at an even offset, as the matrix operand reader reads it. -/
def State.clusHalf (s : State) (g o : Nat) : BitVec 16 × State :=
  let r := s.clusLine g (srcReader g) (o / 64 * 64)
  (r.1.extractLsb' (8 * (o % 64)) 16, r.2)

/-- Words at a list of offsets. -/
def State.clusHalves (s : State) (g : Nat) : List Nat → List (BitVec 16) × State
  | [] => ([], s)
  | o :: t =>
    let r := s.clusHalf g o
    let q := r.2.clusHalves g t
    (r.1 :: q.1, q.2)

/-- Arrivals that wait for no write any more are counted (R368). -/
def countArrival (b : Barrier) : Barrier :=
  if b.arr + 1 = b.n then { b with arr := 0, gen := b.gen + 1 } else { b with arr := b.arr + 1 }

/-- The barrier an index names (R366). -/
def State.barrierAt (s : State) (i : Nat) : Option Barrier :=
  let d := (i >>> 12) % 4
  let e := i % 4096
  if i < 2 ^ 32 ∧ (i >>> 14) % 1024 = 0 ∧ Tab.get 0 (s.die d).tags e % 256 = i >>> 24 then Tab.find (s.die d).barriers e
  else none

/-- One arrival at the barrier's home; an index that names no barrier of the ASID is dropped (R62, R366, R368). -/
def State.arrive (s : State) (asid i : Nat) : State :=
  match s.barrierAt i with
  | none => s
  | some b =>
    if b.asid = asid then
      let d := (i >>> 12) % 4
      s.setDie d { s.die d with barriers := Tab.put (s.die d).barriers (i % 4096) (countArrival b) }
    else s

def State.arriveAll (s : State) (asid : Nat) : List Word → State
  | [] => s
  | i :: t => (s.arrive asid i.toNat).arriveAll asid t

/-- Window stores that core g issued and that have not landed in every member's window: core, offset, bytes (R142, R146). -/
def State.windowPending (s : State) (g : Nat) : List (Nat × Nat × Nat) :=
  let c := s.coreC g
  c.group.flatMap (fun m => ((s.coreC m).wnd.filter (fun w => decide (w.2.1 = c.lane))).map (fun w => (m, w.2.2.1, w.2.2.2.1)))

/-- Element size of an SAE operation in bytes (R374). -/
def saeSize (op : Nat) : Nat := if [0, 2, 3, 4, 7, 8, 9].contains op then 4 else 8

/-- Operations that core g has put into an SAE's queue and that are not applied (R375, R376): location and bytes. -/
def State.saePending (s : State) (g : Nat) : List (Nat × Nat) :=
  s.clus.flatMap (fun p => (p.2.queue.filter (fun t => decide (t.core = g))).flatMap (fun t =>
    t.ops.map (fun o => (locClus p.1 o.1, saeSize t.op))))

/-- Window stores of core g that its own loads do not return yet (R152). -/
def State.ownWindow (s : State) (g : Nat) : List (Nat × Nat × Nat) := (s.windowPending g).filter (fun w => decide (w.1 = g))

/-- Is every write of core g performed at a scope code (R146): its SAE operations applied, its window stores in its own window, and at
group scope or wider in every member's, with nothing in write staging (R140, R152)? -/
def State.published (s : State) (g scope : Nat) : Bool :=
  !isGearC g || ((s.saePending g).isEmpty &&
    (if scope = 0 then (s.ownWindow g).isEmpty else (s.coreC g).wst.isEmpty && (s.windowPending g).isEmpty))

/-- Has an arrival of core g on a barrier nothing to wait for: every write of the core is performed at the barrier's scope (R368)? -/
def State.mayArrive (s : State) (g i : Nat) : Bool :=
  match s.barrierAt i with | some b => s.published g b.sc | none => true

/-- The arrivals of core g that wait for no write any more are counted (R368). -/
def State.settle (s : State) (g : Nat) : State :=
  let c := s.coreC g
  let go := fun (i : Word) => s.mayArrive g i.toNat
  (s.modC g (fun c => { c with arr := c.arr.filter (fun i => !go i) })).arriveAll c.asid (c.arr.filter go)

/-- Perform the oldest line of write staging at group scope (R140). -/
def State.drainLine (s : State) (g : Nat) : State :=
  match (s.coreC g).wst with
  | [] => s
  | l :: t =>
    ((((s.meetMem (some g) [(locClus (clusterOf g) l.addr, 64)]).write (locClus (clusterOf g) l.addr) l.data.toNat 64).won
      (clusterOf g) l.addr (srcLs g)).modC g (fun c => { c with wst := t })).settle g

/-- Perform `n` lines. -/
def State.drainLines (s : State) (g : Nat) : Nat → State
  | 0 => s
  | n + 1 => (s.drainLine g).drainLines g n

/-- Perform everything in write staging. -/
def State.drainAll (s : State) (g : Nat) : State := s.drainLines g (s.coreC g).wst.length

/-! ### Addresses (R168, R344) -/

/-- A trap that a check gives: cause and DETAIL. -/
abbrev Trap := Nat × Nat

/-- Location in space 0 or 2 of `n` bytes at an exact offset; the failing address is `addr` mod 2^32. -/
def coreSpace (g : Nat) (space : Nat) (off : Int) (n : Nat) : Except Trap (Nat × Nat) :=
  let bad : Except Trap (Nat × Nat) := .error (0x09, (((space <<< 28 : Nat) : Int) + off).emod (2 ^ 32) |>.toNat)
  if space = 0 then
    if 0 ≤ off ∧ off + n ≤ 0x80000 then .ok (locCore g off.toNat, off.toNat) else bad
  else if space = 2 then
    if 0 ≤ off ∧ off + n ≤ 0x10000 then .ok (locCore g (0x70000 + off.toNat), 0x70000 + off.toNat) else bad
  else bad

/-- An address operand of a plain access: [63:32] zero (0x01), space and range (0x09), alignment (0x0A). -/
def plainAddr (g : Nat) (a : Word) (n : Nat) : Except Trap (Nat × Nat) :=
  if 2 ^ 32 ≤ a.toNat then .error (0x01, 0)
  else match coreSpace g (bitsOf a 28 4) (bitsOf a 0 28) n with
    | .error t => .error t
    | .ok l => if bitsOf a 0 28 % n = 0 then .ok l else .error (0x0A, a.toNat)

/-- A store of the ls unit: into the core's own scratchpad at once, into every member's window at the end of the fifth cycle
after this one (R152, R291). The members of a decoupled tandem count the same clock (log 67). A window store outside a tandem
traps (R152). -/
def State.lsStore (s : State) (g space o x n : Nat) : State :=
  if space = 0 then s.write (locCore g o) x n
  else
    let c := s.coreC g
    s.modAll (fun m => { m with wnd := m.wnd ++ [(c.clk + 5, c.lane, o, n, x)] }) c.group

/-- Window stores of core g that are due before a cycle land, in the order of their cycles, the higher LANE last (R152); arrivals
that waited for them are counted. -/
def State.landBefore (s : State) (g clk : Nat) : State :=
  let c := s.coreC g
  let now := sortBy (fun a b => decide (a.1 < b.1 ∨ (a.1 = b.1 ∧ a.2.1 ≤ b.2.1))) (c.wnd.filter (fun w => decide (w.1 < clk)))
  c.group.foldl State.settle ((now.foldl (fun s w => s.write (locCore g w.2.2.1) w.2.2.2.2 w.2.2.2.1) s).modC g
    (fun c => { c with wnd := c.wnd.filter (fun w => decide (clk ≤ w.1)) }))

/-- The members of core g's tandem that do not run: their clocks stand, and a store into their windows lands by its issuer's (R152). -/
def State.standing (s : State) (g : Nat) : List Nat :=
  (s.coreC g).group.filter (fun m => decide (m ≠ g) && decide ((s.coreC m).run ≠ .running))

/-- Window stores on their way into core g's window, and into those of members that stand, all land (R173: every operation in flight
finishes). -/
def State.finishWindow (s : State) (g : Nat) : State :=
  (g :: s.standing g).foldl (fun s m => s.landBefore m (((s.coreC m).wnd.map Prod.fst).foldl max 0 + 1)) s

/-- Is the store one that R152 refuses? -/
def CoreC.windowBad (c : CoreC) (space : Nat) : Bool := decide (space = 2) && c.group.isEmpty

def MoveCtx.trap (x : MoveCtx) (s : State) (t : Trap) : State := s.trapMove x.g x.slot x.bun t.1 t.2

/-- The frame of an ls trigger. -/
def lsMove (gd : BitVec 3) (src : BitVec 10) (s : State) (body : MoveCtx → State) : Host.Outcome State Fault Refusal :=
  runMove 5 gd src s body

/-- A plain load of `n` bytes (R351). -/
def lsLoad (gd : BitVec 3) (src : BitVec 10) (k : BitVec 1) (s : State) (n : Nat) (tagOf : MoveCtx → Except Trap (BitVec 5)) :
    Host.Outcome State Fault Refusal :=
  lsMove gd src s (fun x =>
    match if 2 ^ 32 ≤ x.val.word.toNat then .error (0x01, 0) else tagOf x with
    | .error t => x.trap s t
    | .ok tag => match plainAddr x.g x.val.word n with
      | .error t => x.trap s t
      | .ok l => x.finish s 4 k (.ok ⟨BitVec.ofNat 1024 (s.read l.1 n), tag⟩ 0))

/-- A plain store of `n` bytes of the trigger value at the address in port a (R351). -/
def lsStoreMove (gd : BitVec 3) (src : BitVec 10) (s : State) (n : Nat) : Host.Outcome State Fault Refusal :=
  lsMove gd src s (fun x =>
    let a := (x.c.port x.slot 0).word
    match if a.toNat < 2 ^ 32 ∧ x.c.windowBad (bitsOf a 28 4) then .error (0x09, a.toNat) else plainAddr x.g a n with
    | .error t => x.trap s t
    | .ok l => s.lsStore x.g (bitsOf a 28 4) l.2 (x.val.bits.toNat % 2 ^ (8 * n)) n)

/-- Element sizes of R352. -/
def szBytes (sz : Nat) : Nat := if sz = 0 then 4 else if sz = 1 then 8 else 2

/-- One element of `size` bytes at an offset from BASE: range, then alignment (R344). -/
def elemLoc (g : Nat) (d : Word) (size : Nat) (off : Int) : Except Trap (Nat × Nat) :=
  let o : Int := (bitsOf d 0 28 : Int) + off
  match coreSpace g (bitsOf d 28 4) o size with
  | .error t => .error t
  | .ok p =>
    if o % (size : Int) = 0 then .ok p
    else .error (0x0A, (((bitsOf d 28 4 <<< 28 : Nat) : Int) + o).emod (2 ^ 32) |>.toNat)

/-- Locations of `n` elements; each is checked in ascending order, and the lowest that fails decides (R344, R352, R353). -/
def elemSet (g : Nat) (d : Word) (size : Nat) (off : Nat → Int) : Nat → Except Trap (List (Nat × Nat))
  | 0 => .ok []
  | n + 1 =>
    match elemSet g d size off n with
    | .error t => .error t
    | .ok l => match elemLoc g d size (off n) with
      | .error t => .error t
      | .ok p => .ok (l ++ [p])

/-- Elements gathered into lanes of their width. -/
def State.gather (s : State) (size : Nat) (l : List (Nat × Nat)) : Nat :=
  packLanes (8 * size) (fun i => s.read (l.getD i (0, 0)).1 size) l.length

/-- Lanes scattered in ascending order. -/
def State.scatter (s : State) (g space size : Nat) (v : TVal) (l : List (Nat × Nat)) : State :=
  (List.range l.length).foldl (fun s i => s.lsStore g space (l.getD i (0, 0)).2 (vlane v (8 * size) i) size) s

/-- A BASE and SZ descriptor (R352, R353): [63:34] zero, SZ not 3. -/
def baseSzOk (d : Word) : Bool := decide (d.toNat < 2 ^ 34 ∧ bitsOf d 32 2 < 3)

/-- Offsets of strided elements. -/
def strideOff (stride : Word) (i : Nat) : Int := (i : Int) * toSigned 32 (bitsOf stride 0 32)
/-- Offsets of indexed elements. -/
def indexOff (v : TVal) (size i : Nat) : Int := (vlane v 32 i * size : Nat)
def indexCount (size : Nat) : Nat := if size = 8 then 16 else 32

/-- Checks and elements of a strided load (R352). -/
def strideSet (g : Nat) (t stride : Word) : Except Trap (List (Nat × Nat)) :=
  if baseSzOk t = false ∨ 2 ^ 32 ≤ stride.toNat then .error (0x01, 0)
  else elemSet g t (szBytes (bitsOf t 32 2)) (strideOff stride) (128 / szBytes (bitsOf t 32 2))

/-- Checks and elements of a gather or scatter (R353); the tag that fails is the Index operand's. -/
def indexSet (g : Nat) (d : Word) (idx : TVal) : Except Trap (List (Nat × Nat)) :=
  if baseSzOk d = false then .error (0x01, 0)
  else if idx.tag ≠ 0x12 then .error (0x06, idx.tag.toNat)
  else
    let size := szBytes (bitsOf d 32 2)
    elemSet g d size (indexOff idx size) (indexCount size)

/-- Lane size of a masked store (R354). -/
def maskSize (a : Word) : Nat := 2 ^ bitsOf a 32 2

/-- Checks of a masked store (R354): its location and offset. -/
def maskAddr (g : Nat) (a : Word) (m : TVal) : Except Trap (Nat × Nat) :=
  if 2 ^ 34 ≤ a.toNat then .error (0x01, 0)
  else if m.tag ≠ 0x13 then .error (0x06, m.tag.toNat)
  else plainAddr g (a &&& 0xFFFFFFFF) 128

/-- Lanes whose mask bit is 1 are written (R354). -/
def State.maskStore (s : State) (g space : Nat) (size : Nat) (o : Nat) (m v : TVal) : State :=
  (List.range (128 / size)).foldl
    (fun s i => if m.bits.getLsbD i then s.lsStore g space (o + size * i) (vlane v (8 * size) i) size else s) s

/-- Field checks of `pld` (R355). -/
def pldOk (a t : Word) : Bool :=
  let p := bitsOf a 52 4
  let pp := bitsOf a 32 16
  decide (bitsOf a 56 8 = 0 ∧ bitsOf a 48 4 = 0 ∧ 2 ≤ p ∧ p ≤ 8 ∧ pp ≠ 0 ∧ pp % 16 = 0) &&
    decide (t.toNat < 2 ^ 20 ∧ t.toNat % 8 = 0 ∧ t.toNat + 64 * bniK p ≤ 8 * pp)

/-- The bits that `pld` gathers (R355): `rd` reads one byte at an offset from BASE. -/
def pldBits (p pp e0 : Nat) (rd : Nat → Nat) : Nat :=
  let k := bniK p
  let tag := BitVec.ofNat 5 (0x0A + (p - 2))
  sumBits (fun i => elemBits tag i
    (gatherPlanes (fun q => (rd (q * pp + (e0 + i) / 8)).testBit ((e0 + i) % 8)) p)) (64 * k)

/-! ### Triggers of ls -/

def rawTag (_ : MoveCtx) : Except Trap (BitVec 5) := .ok 0

/-- `ld` (R351). -/
def execLsLd (gd : BitVec 3) (src : BitVec 10) (k : BitVec 1) (s : State) : Host.Outcome State Fault Refusal :=
  lsLoad gd src k s 8 rawTag

/-- `st` (R351). -/
def execLsSt (gd : BitVec 3) (src : BitVec 10) (_k : BitVec 1) (s : State) : Host.Outcome State Fault Refusal :=
  lsStoreMove gd src s 8

/-- `vld` (R351). -/
def execLsVld (gd : BitVec 3) (src : BitVec 10) (k : BitVec 1) (s : State) : Host.Outcome State Fault Refusal :=
  lsLoad gd src k s 128 rawTag

/-- `vst` (R351). -/
def execLsVst (gd : BitVec 3) (src : BitVec 10) (_k : BitVec 1) (s : State) : Host.Outcome State Fault Refusal :=
  lsStoreMove gd src s 128

/-- `tld` (R351): the tag comes from port a. -/
def execLsTld (gd : BitVec 3) (src : BitVec 10) (k : BitVec 1) (s : State) : Host.Outcome State Fault Refusal :=
  lsLoad gd src k s 128 (fun x =>
    let a := (x.c.port x.slot 0).word
    if (a >>> 5) ≠ 0 then .error (0x01, 0)
    else if badTag (a.setWidth 5) then .error (0x06, bitsOf a 0 5) else .ok (a.setWidth 5))

/-- `vlds` (R352). -/
def execLsVlds (gd : BitVec 3) (src : BitVec 10) (k : BitVec 1) (s : State) : Host.Outcome State Fault Refusal :=
  lsMove gd src s (fun x =>
    match strideSet x.g x.val.word (x.c.port x.slot 0).word with
    | .error t => x.trap s t
    | .ok l => x.finish s 4 k (.plain 0 (s.gather (szBytes (bitsOf x.val.word 32 2)) l)))

/-- `vgat` (R353). -/
def execLsVgat (gd : BitVec 3) (src : BitVec 10) (k : BitVec 1) (s : State) : Host.Outcome State Fault Refusal :=
  lsMove gd src s (fun x =>
    let d := (x.c.port x.slot 0).word
    match indexSet x.g d x.val with
    | .error t => x.trap s t
    | .ok l => x.finish s 8 k (.plain 0 (s.gather (szBytes (bitsOf d 32 2)) l)))

/-- `vsca` (R353). -/
def execLsVsca (gd : BitVec 3) (src : BitVec 10) (_k : BitVec 1) (s : State) : Host.Outcome State Fault Refusal :=
  lsMove gd src s (fun x =>
    let d := (x.c.port x.slot 0).word
    let i := x.c.port x.slot 1
    match if baseSzOk d ∧ i.tag = 0x12 ∧ x.c.windowBad (bitsOf d 28 4) then
        .error (0x09, (bitsOf d 0 32 + (indexOff i (szBytes (bitsOf d 32 2)) 0).toNat) % 2 ^ 32)
      else indexSet x.g d i with
    | .error t => x.trap s t
    | .ok l => s.scatter x.g (bitsOf d 28 4) (szBytes (bitsOf d 32 2)) x.val l)

/-- `mst` (R354). -/
def execLsMst (gd : BitVec 3) (src : BitVec 10) (_k : BitVec 1) (s : State) : Host.Outcome State Fault Refusal :=
  lsMove gd src s (fun x =>
    let a := (x.c.port x.slot 0).word
    let m := x.c.port x.slot 1
    match if a.toNat < 2 ^ 34 ∧ m.tag = 0x13 ∧ x.c.windowBad (bitsOf a 28 4) then .error (0x09, bitsOf a 0 32)
      else maskAddr x.g a m with
    | .error t => x.trap s t
    | .ok l => s.maskStore x.g (bitsOf a 28 4) (maskSize a) l.2 (x.c.port x.slot 1) x.val)

/-- `pld` (R355). -/
def execLsPld (gd : BitVec 3) (src : BitVec 10) (k : BitVec 1) (s : State) : Host.Outcome State Fault Refusal :=
  lsMove gd src s (fun x =>
    let a := (x.c.port x.slot 0).word
    let p := bitsOf a 52 4
    let pp := bitsOf a 32 16
    let e0 := x.val.word.toNat
    if pldOk a x.val.word = false then x.trap s (0x01, 0)
    else match coreSpace x.g (bitsOf a 28 4) (bitsOf a 0 28) ((p - 1) * pp + (e0 + 64 * bniK p - 1) / 8 + 1) with
      | .error t => x.trap s t
      | .ok l =>
        if bitsOf a 0 32 % 16 ≠ 0 then x.trap s (0x0A, bitsOf a 0 32)
        else x.finish s 6 k (.plain (BitVec.ofNat 5 (0x0A + (p - 2))) (pldBits p pp e0 (fun o => s.read (l.1 + o) 1))))

/-! #### Cluster accesses and accumulator rows, which hold (R356, R357) -/

/-- Hold the slot with what the move captured, a state of the operation, and a word and data that it has got. -/
def MoveCtx.holdWith (x : MoveCtx) (s : State) (op : HoldOp) (k : BitVec 1) (st : Nat) (val : Word) (img : List Word) : State :=
  let h := Hold.mk op x.val (x.c.port x.slot 0) (x.c.port x.slot 1) (x.c.port x.slot 2) (decide (k = 1)) x.bun.idx 0 st val img
  s.modC x.g (fun c => c.modSlot x.slot (fun q => { q with hold := some h }))

/-- Hold the slot with what the move captured. -/
def MoveCtx.hold (x : MoveCtx) (s : State) (op : HoldOp) (k : BitVec 1) : State := x.holdWith s op k 0 0 []

/-- A space-1 block of `n` bytes (R356). -/
def clusAddr (a : Word) (n : Nat) : Except Trap Nat :=
  if 2 ^ 32 ≤ a.toNat then .error (0x01, 0)
  else if bitsOf a 28 4 ≠ 1 ∨ 0x400000 < bitsOf a 0 28 + n then .error (0x09, a.toNat)
  else if bitsOf a 0 28 % n ≠ 0 then .error (0x0A, a.toNat) else .ok (bitsOf a 0 28)

/-- The eight words of a line. -/
def lineWords (d : BitVec 512) : List Word := (List.range 8).map (fun j => d.extractLsb' (64 * j) 64)

/-- The result of a `cld` from the words of its two lines: 12 cycles after the later grant (R356). -/
def State.cldDone (s : State) (g slot idx : Nat) (ws : List Word) (k : Bool) : State :=
  s.modC g (fun c => c.start slot 12 idx
    ⟨BitVec.ofNat 1024 (packLanes 64 (fun i => (ws.getD i 0).toNat) 16), 0⟩ 0 (if k then 1 else 0))

/-- Line i of a held `cld` is granted: from staging, or from its bank, whence it enters read staging; the hold keeps what it has got
(R356). -/
def State.cldTake (s : State) (g i : Nat) (h : Hold) : Hold × State :=
  let r := s.clusLine g (srcLs g) (bitsOf h.t.word 0 28 + 64 * i)
  ({ h with st := h.st ||| 2 ^ i, img := if i = 0 then lineWords r.1 ++ h.img else h.img ++ lineWords r.1 }, r.2)

/-- Several lines are granted. -/
def State.cldTakes (s : State) (g : Nat) (h : Hold) : List Nat → Hold × State
  | [] => (h, s)
  | i :: t =>
    let r := s.cldTake g i h
    r.2.cldTakes g r.1 t

/-- `cld` (R356): a line in staging counts as granted at issue; for another, slot 5 holds for the arbitration of R169. -/
def execLsCld (gd : BitVec 3) (src : BitVec 10) (k : BitVec 1) (s : State) : Host.Outcome State Fault Refusal :=
  lsMove gd src s (fun x =>
    match clusAddr x.val.word 128 with
    | .error t => x.trap s t
    | .ok o => match x.c.staged o, x.c.staged (o + 64) with
      | some p, some q => s.cldDone x.g x.slot x.bun.idx (lineWords p ++ lineWords q) (decide (k = 1))
      | some p, none => x.holdWith s .cld k 1 0 (lineWords p)
      | none, some q => x.holdWith s .cld k 2 0 (lineWords q)
      | none, none => x.hold s .cld k)

/-- The two lines from offset `o` leave read staging: the core's own reads return its newest store (R139). -/
def CoreC.forget (c : CoreC) (o : Nat) : CoreC := { c with rst := c.rst.filter (fun l => decide (l.addr ≠ o ∧ l.addr ≠ o + 64)) }

/-- Two lines enter write staging (R356). -/
def State.cstPut (s : State) (g o : Nat) (v : TVal) : State :=
  s.modC g (fun c => { c.forget o with wst := c.wst ++
    [⟨o, v.bits.setWidth 512, BitVec.allOnes 64, s.now⟩, ⟨o + 64, v.bits.extractLsb' 512 512, BitVec.allOnes 64, s.now⟩] })

/-- `cst` (R356): slot 5 holds while write staging lacks room for both lines. -/
def execLsCst (gd : BitVec 3) (src : BitVec 10) (k : BitVec 1) (s : State) : Host.Outcome State Fault Refusal :=
  lsMove gd src s (fun x =>
    match clusAddr (x.c.port x.slot 0).word 128 with
    | .error t => x.trap s t
    | .ok o => if x.c.wst.length + 2 ≤ 16 then s.cstPut x.g o x.val else x.hold s .cst k)

/-- The banks a command names (R186, R345); a pair in split class is named whole (R357). -/
def Cmd.names (t : Tiles) (c : Cmd) (i : Nat) : Bool :=
  let hit := fun j => decide (j = i) || (t.split (i / 2) && decide (j / 2 = i / 2))
  match c.op with
  | .acc | .clr => hit (bitsOf c.t 0 2)
  | .dr => hit (bitsOf c.t 10 2)
  | .cls => decide (bitsOf c.t 0 1 = i / 2)
  | .seq => hit (bitsOf c.t 32 2)
  | _ => false

/-- Does any command in the FIFO or in flight name bank `i` (R186)? -/
def Engine.busyBank (e : Engine) (i : Nat) : Bool :=
  e.fifo.any (fun c => c.names e.tiles i) || (e.cur.map (fun c => c.names e.tiles i)).getD false

/-- `ald` when its bank is free (R357): latency 4 from the release. -/
def State.aldDone (s : State) (g slot idx : Nat) (d : Word) (k : Bool) : State :=
  s.modC g (fun c => c.start slot 4 idx (c.eng.tiles.loadRow (bitsOf d 10 2) d) 0 (if k then 1 else 0))

def State.astDone (s : State) (g : Nat) (d : Word) (v : TVal) : State :=
  s.modC g (fun c => { c with eng := { c.eng with tiles := c.eng.tiles.storeRow (bitsOf d 10 2) d v } })

/-- `ald` (R357). -/
def execLsAld (gd : BitVec 3) (src : BitVec 10) (k : BitVec 1) (s : State) : Host.Outcome State Fault Refusal :=
  lsMove gd src s (fun x =>
    if rowDescOk x.val.word = false then x.trap s (0x01, 0)
    else if x.c.eng.busyBank (bitsOf x.val.word 10 2) then x.hold s .ald k
    else s.aldDone x.g x.slot x.bun.idx x.val.word (decide (k = 1)))

/-- `ast` (R357). -/
def execLsAst (gd : BitVec 3) (src : BitVec 10) (k : BitVec 1) (s : State) : Host.Outcome State Fault Refusal :=
  lsMove gd src s (fun x =>
    let d := (x.c.port x.slot 0).word
    if rowDescOk d = false then x.trap s (0x01, 0)
    else if x.val.tag ≠ (if d.getLsbD 12 then 0x07 else 0x01) then x.trap s (0x06, x.val.tag.toNat)
    else if x.c.eng.busyBank (bitsOf d 10 2) then x.hold s .ast k
    else s.astDone x.g d x.val)

end Sys2Proof.Machine
end

