-- ==== Sys2Proof/Machine/Control.lean ====
section
/-! DEFINITION. The control unit: transfers, loops, lending, tandems, traps, k-registers, predicate logic and token
waits (R303 to R319). Ending and yielding a continuation are in `Machine/Ends.lean`. -/

namespace Sys2Proof.Machine

/-! ### k-registers (R175, R316, R317) -/

/-- `k.loop` and `k.lcnt` (R167). -/
def LoopSt.word (l : LoopSt) : Word :=
  BitVec.ofNat 64 ((l.act.toNat <<< 63) + (l.drn.toNat <<< 62) + (l.susp.toNat <<< 61) + (l.nst <<< 58) +
    (l.len - 1) <<< 50 + l.start)
def LoopSt.count (l : LoopSt) : Word := BitVec.ofNat 64 ((l.n <<< 32) + l.pass)

/-- Numbers without a user view (R175). -/
def kNoView (n : Nat) : Bool := decide (n = 0x13 ∨ n = 0x14 ∨ n = 0x15 ∨ n = 0x22 ∨ n = 0x23 ∨ n = 0x24)

/-- A k-register as it stands, with the loop engine as given; nothing where the number is unassigned. Once a loop has ended, `k.loop` and
`k.lcnt` read as zero whole: R306 says only that ACT clears, the other fields are the model's choice (DESIGN CHOICE, log 87). -/
def State.kreg (s : State) (g : Nat) (lv : LoopSt) (n : Nat) : Option Word :=
  let c := s.coreC g
  let r := (c.cont.getD Rec.zero)
  match n with
  | 0x00 => some (if c.cont.isSome then coordOf g else 0)
  | 0x01 => some (BitVec.ofNat 64 r.stage)
  | 0x02 => some (BitVec.ofNat 64 ((r.tw <<< 4) + c.lane))
  | 0x03 => some (BitVec.ofNat 64 r.asid)
  | 0x04 => some c.cad
  | 0x05 => some ((s.die (dieOf g)).step.setWidth 64)
  | 0x06 => some (BitVec.ofNat 64 ((c.eng.iss <<< 16) + c.eng.ret))
  | 0x07 => some (c.col.setWidth 64)
  | 0x08 => some (c.flg.setWidth 64)
  | 0x09 => some (c.eng.tiles.mst.setWidth 64)
  | 0x0A => some (c.eng.tiles.agv.setWidth 64)
  | 0x0B => some (c.eng.tiles.agc.setWidth 64)
  | 0x0C => some c.uivec
  | 0x0D => some c.uicause
  | 0x0E => some c.uiepc
  | 0x0F => some (BitVec.ofNat 64 ((min 0xFFFF (s.die (dieOf g)).draws.length <<< 16) + c.drawn.toNat))
  | 0x10 => some (if lv.act then lv.word else 0)
  | 0x11 => some (if lv.act then lv.count else 0)
  | 0x12 => some (c.bank.setWidth 64)
  | 0x13 => some c.slip
  | 0x14 => some c.epc
  | 0x15 => some c.cause
  | 0x18 | 0x19 | 0x1A | 0x1B | 0x1C | 0x1D | 0x1E | 0x1F =>
    some (if n - 0x18 ∈ (List.range 8).filter (fun i =>
        bitsOf (s.profWord r.asid (1 + i)) 62 2 = 0) then Tab.get 0 c.prof (n - 0x18) else 0)
  | 0x20 => some (s.ce (quadOf g)).lreq
  | 0x21 => some (s.ce (quadOf g)).rreq
  | 0x22 => some (s.ce (quadOf g)).root
  | 0x23 => some (s.ce (quadOf g)).s2base
  | 0x24 => some (s.ce (quadOf g)).s2lim
  | _ => none

/-- With the view of the privilege applied (R66, R175, R316). -/
def State.kview (s : State) (g : Nat) (lv : LoopSt) (n : Nat) : Option Word :=
  (s.kreg g lv n).map (fun w => if kNoView n && !(s.coreC g).priv then 0 else w)

/-- What a `kw` of a number does (R317): nothing where it writes; its trap where not. -/
def kwCheck (sys : Bool) (n : Nat) : Option Trap :=
  if 0x07 ≤ n ∧ n ≤ 0x0C then none
  else if n = 0x0E ∨ (0x13 ≤ n ∧ n ≤ 0x15) ∨ (0x20 ≤ n ∧ n ≤ 0x24) then (if sys then none else some (0x08, n))
  else if n ≤ 0x06 ∨ n = 0x0D ∨ (0x0F ≤ n ∧ n ≤ 0x12) ∨ (0x18 ≤ n ∧ n ≤ 0x1F) then
    (if sys then some (0x01, 0) else some (0x08, n))
  else some (0x01, 0)

/-- Bits [47:5] of an address register. -/
def addrBits (w : Word) : Word := w &&& 0xFFFFFFFFFFE0

/-- Write a k-register; bits that lie in no field are ignored (R317). -/
def State.kwrite (s : State) (g n : Nat) (w : Word) : State :=
  let ce := s.ce (quadOf g)
  match n with
  | 0x07 => s.modC g (fun c => { c with col := w.setWidth 9 })
  | 0x08 => s.modC g (fun c => { c with flg := w.setWidth 7 })
  | 0x09 => s.modC g (fun c => { c with eng := { c.eng with tiles := { c.eng.tiles with mst := w.setWidth 8 &&& 0xF3 } } })
  | 0x0A => s.modC g (fun c => { c with eng := { c.eng with tiles := { c.eng.tiles with agv := w.setWidth 32 } } })
  | 0x0B => s.modC g (fun c => { c with eng := { c.eng with tiles := { c.eng.tiles with agc := w.setWidth 16 } } })
  | 0x0C => s.modC g (fun c => { c with uivec := addrBits w })
  | 0x0E => s.modC g (fun c => { c with uiepc := addrBits w })
  | 0x13 => s.modC g (fun c => { c with slip := w &&& 0xFFFFFFFFFFFF })
  | 0x14 => s.modC g (fun c => { c with epc := addrBits w })
  | 0x15 => s.modC g (fun c => { c with cause := w &&& 0x87FFFFFFFFFFFFFF })
  | 0x20 => s.setCe (quadOf g) { ce with lreq := w }
  | 0x21 => s.setCe (quadOf g) { ce with rreq := w }
  | 0x22 => s.setCe (quadOf g) { ce with root := ctxRoot w }
  | 0x23 => s.setCe (quadOf g) { ce with s2base := ctxS2Base w }
  | 0x24 => s.setCe (quadOf g) { ce with s2lim := ctxS2Lim w }
  | _ => s

/-! ### The frame of ct -/

/-- A trigger that is checked and then acts. -/
def ctMove (gd : BitVec 3) (src : BitVec 10) (s : State) (check : MoveCtx → Option Trap) (act : MoveCtx → State) :
    Host.Outcome State Fault Refusal :=
  runMove 6 gd src s (fun x => match check x with
    | some t => x.trap s t
    | none => act x)

def illegal : Option Trap := some (0x01, 0)

/-- Ask something of the bundle stream (R311). -/
def MoveCtx.ask (x : MoveCtx) (s : State) (q : Ctl) : State := s.modC x.g (fun c => { c with ctl := some q })

/-- Does the bundle stand in the kernel of the active loop (R166)? -/
def Bun.inKernel (b : Bun) : Bool :=
  b.loop.act && decide (b.loop.start ≤ b.addr ∧ b.addr < b.loop.start + 32 * b.loop.len)

/-! ### Transfers (R303 to R305) -/

/-- Checks on a relative transfer: offset, kernel, target, alignment. -/
def relCheck (x : MoveCtx) : Option Trap :=
  let off := x.val.word.toInt
  let tgt : Int := x.bun.addr + off
  if x.bun.inKernel ∨ off < -(2 ^ 47) ∨ 2 ^ 47 ≤ off ∨ tgt < 0 ∨ 2 ^ 48 ≤ tgt then illegal
  else if tgt % 32 ≠ 0 then some (0x0A, bitsOf x.val.word 0 32) else none

def relTarget (x : MoveCtx) : Nat := ((x.bun.addr : Int) + x.val.word.toInt).toNat

/-- Checks on an absolute transfer. -/
def absCheck (x : MoveCtx) : Option Trap :=
  if x.bun.inKernel ∨ 2 ^ 48 ≤ x.val.word.toNat then illegal
  else if x.val.word.toNat % 32 ≠ 0 then some (0x0A, bitsOf x.val.word 0 32) else none

/-- `br` (R303). -/
def execCtBr (gd : BitVec 3) (src : BitVec 10) (_k : BitVec 1) (s : State) : Host.Outcome State Fault Refusal :=
  ctMove gd src s relCheck (fun x => x.ask s (.jump (relTarget x)))

/-- `brc` (R304): the checks are made whether or not it is taken. -/
def execCtBrc (gd : BitVec 3) (src : BitVec 10) (_k : BitVec 1) (s : State) : Host.Outcome State Fault Refusal :=
  let d := fun x : MoveCtx => (x.c.port x.slot 0).word
  ctMove gd src s (fun x => if 16 ≤ (d x).toNat then illegal else relCheck x)
    (fun x => if x.c.pred (bitsOf (d x) 0 3) != (d x).getLsbD 3 then x.ask s (.jump (relTarget x)) else s)

/-- `call` (R303): the return address lands with latency 1. -/
def execCtCall (gd : BitVec 3) (src : BitVec 10) (k : BitVec 1) (s : State) : Host.Outcome State Fault Refusal :=
  ctMove gd src s relCheck (fun x =>
    x.finish (x.ask s (.jump (relTarget x))) 1 k (.ok (TVal.ofWord (BitVec.ofNat 64 (x.bun.addr + 32))) 0))

/-- `ret` (R303). -/
def execCtRet (gd : BitVec 3) (src : BitVec 10) (_k : BitVec 1) (s : State) : Host.Outcome State Fault Refusal :=
  ctMove gd src s absCheck (fun x => x.ask s (.jump x.val.word.toNat))

/-- `jr` (R303): as `ret`. -/
def execCtJr (gd : BitVec 3) (src : BitVec 10) (_k : BitVec 1) (s : State) : Host.Outcome State Fault Refusal :=
  ctMove gd src s absCheck (fun x => x.ask s (.jump x.val.word.toNat))

/-! ### Loops and lending (R306 to R308) -/

/-- `loop` (R306). -/
def execCtLoop (gd : BitVec 3) (src : BitVec 10) (_k : BitVec 1) (s : State) : Host.Outcome State Fault Refusal :=
  ctMove gd src s (fun x =>
      let t := x.val.word
      if 2 ^ 15 ≤ t.toNat ∨ 2 ^ 32 ≤ (x.c.port x.slot 0).word.toNat ∨ x.bun.loop.act ∨ x.c.inH ∨
          (bitsOf t 12 3 ≠ 0 ∧ t.getLsbD 11 = false) then illegal else none)
    (fun x => x.ask s (.loop (x.c.port x.slot 0).word.toNat x.val.word))

/-- `lbrk` (R307). -/
def execCtLbrk (gd : BitVec 3) (src : BitVec 10) (_k : BitVec 1) (s : State) : Host.Outcome State Fault Refusal :=
  ctMove gd src s (fun x => if x.val.word ≠ 0 ∨ x.bun.loop.act = false then illegal else none) (fun x => x.ask s .lbrk)

/-- Is a vector bank busy (R162): a matrix command that reads it waits or runs, or a move of this cycle writes it? -/
def CoreC.bankBusy (c : CoreC) (b : Nat) : Bool :=
  c.eng.fifo.any (fun m => m.bank = some b) || (c.eng.cur.bind Cmd.bank) = some b ||
    c.pend.any (fun w => match w.dst with | .v n => decide (n / 8 = b) | _ => false)

/-- The slot that a value of TO names for bank b (R308). -/
def lendTo (b to_ : Nat) : Nat := if to_ < 3 then 2 + to_ else if b < 2 then 2 else 3

/-- `lend` (R308): it holds for moves from the next cycle on; one to the current owner changes nothing. -/
def execCtLend (gd : BitVec 3) (src : BitVec 10) (_k : BitVec 1) (s : State) : Host.Outcome State Fault Refusal :=
  ctMove gd src s (fun x =>
      let t := x.val.word
      if 16 ≤ t.toNat ∨ x.c.inH then illegal
      else if x.c.bankBusy (bitsOf t 0 2) then some (0x05, bitsOf t 0 2) else none)
    (fun x =>
      let b := bitsOf x.val.word 0 2
      if x.c.owner b = lendTo b (bitsOf x.val.word 2 2) then s
      else s.modC x.g (fun c => c.later (.bank b) (TVal.ofWord (BitVec.ofNat 64 (bitsOf x.val.word 2 2))) x.bun.idx))

/-! ### Tandems (R309, R310) -/

/-- `fuse` (R309): system privilege only; slot 6 holds until the group is reserved. -/
def execCtFuse (gd : BitVec 3) (src : BitVec 10) (k : BitVec 1) (s : State) : Host.Outcome State Fault Refusal :=
  ctMove gd src s (fun x =>
      let t := x.val.word.toNat
      if x.c.priv = false then some (0x08, 0xFF)
      else if t < 1 ∨ 4 < t ∨ x.c.tw ≠ 0 ∨ x.c.group ≠ [] then illegal else none)
    (fun x => x.hold s .fuse k)

/-- `decouple` (R310). -/
def execCtDecouple (gd : BitVec 3) (src : BitVec 10) (_k : BitVec 1) (s : State) : Host.Outcome State Fault Refusal :=
  ctMove gd src s (fun x => if x.val.word ≠ 0 ∨ x.c.inH ∨ (x.c.group ≠ [] ∧ x.c.dec) then illegal else none)
    (fun x => if x.c.group = [] then s else x.ask s .decouple)

/-- `rejoin` (R310): in a decoupled tandem the member waits for the others. -/
def execCtRejoin (gd : BitVec 3) (src : BitVec 10) (k : BitVec 1) (s : State) : Host.Outcome State Fault Refusal :=
  ctMove gd src s (fun x => if x.val.word ≠ 0 ∨ x.c.inH then illegal else none)
    (fun x => if x.c.group = [] ∨ x.c.dec = false then s else x.hold s .rejoin k)

/-! ### Traps and the interrupt return (R314, R315) -/

/-- The stop of `trap` and `brk`: s6 counts as having issued E (R314). -/
def State.trapDone (s : State) (x : MoveCtx) (code detail : Nat) : State :=
  s.requestStop (s.leader x.g) ⟨x.bun.idx, x.bun.addr, causeWord false 6 code detail, some x.g, none⟩

/-- `trap` (R314). -/
def execCtTrap (gd : BitVec 3) (src : BitVec 10) (_k : BitVec 1) (s : State) : Host.Outcome State Fault Refusal :=
  ctMove gd src s (fun x => if 2 ^ 16 ≤ x.val.word.toNat then illegal else none)
    (fun x => s.trapDone x 0x0D x.val.word.toNat)

/-- `brk` (R314). -/
def execCtBrk (gd : BitVec 3) (src : BitVec 10) (_k : BitVec 1) (s : State) : Host.Outcome State Fault Refusal :=
  ctMove gd src s (fun x => if x.val.word ≠ 0 then illegal else none) (fun x => s.trapDone x 0x0C 0)

/-- `eret` (R315, R176). -/
def execCtEret (gd : BitVec 3) (src : BitVec 10) (_k : BitVec 1) (s : State) : Host.Outcome State Fault Refusal :=
  ctMove gd src s (fun x =>
      if x.val.word ≠ 0 ∨ x.c.inH = false ∨ bunSyn x.bun.bits ≠ 0xFF ∨ x.bun.inKernel then illegal else none)
    (fun x => x.ask s .eret)

/-! ### k-register access (R316, R317) -/

/-- The loop engine that core g runs under, as it stands now: that of its group's sequencing (R167, R170). -/
def State.loopOf (s : State) (g : Nat) : LoopSt := (s.coreC (s.leader g)).loop

/-- `kr` (R316): the register as it stands in the issue cycle. -/
def execCtKr (gd : BitVec 3) (src : BitVec 10) (k : BitVec 1) (s : State) : Host.Outcome State Fault Refusal :=
  ctMove gd src s (fun x =>
      if 256 ≤ x.val.word.toNat ∨ (s.kreg x.g (s.loopOf x.g) x.val.word.toNat).isNone then illegal else none)
    (fun x => x.finish s 1 k (.ok (TVal.ofWord ((s.kview x.g (s.loopOf x.g) x.val.word.toNat).getD 0)) 0))

/-- The engine is empty: no command in the FIFO and none in flight (R191). -/
def Engine.idleNow (e : Engine) : Bool := e.fifo.isEmpty && e.cur.isNone

/-- `kw` (R317): written at the end of the cycle; 0x09 to 0x0B hold slot 6 until the engine is empty. -/
def execCtKw (gd : BitVec 3) (src : BitVec 10) (k : BitVec 1) (s : State) : Host.Outcome State Fault Refusal :=
  ctMove gd src s (fun x => if 256 ≤ x.val.word.toNat then illegal else kwCheck x.c.priv x.val.word.toNat)
    (fun x =>
      let n := x.val.word.toNat
      if 0x09 ≤ n ∧ n ≤ 0x0B ∧ x.c.eng.idleNow = false then x.hold s .kw k
      else s.modC x.g (fun c => c.later (.kreg n) (c.port x.slot 0) x.bun.idx))

/-! ### Predicate logic and token waits (R318, R319) -/

/-- A predicate operation on bits 0 of a and t. -/
def ctBit (gd : BitVec 3) (src : BitVec 10) (k : BitVec 1) (s : State) (f : Bool → Bool → Bool) :
    Host.Outcome State Fault Refusal :=
  runMove 6 gd src s (fun x => x.finish s 1 k
    (.ok (TVal.ofWord (ofBool (f ((x.c.port x.slot 0).word.getLsbD 0) (x.val.word.getLsbD 0)))) 0))

/-- `pand` (R318). -/
def execCtPand (gd : BitVec 3) (src : BitVec 10) (k : BitVec 1) (s : State) : Host.Outcome State Fault Refusal :=
  ctBit gd src k s (fun a t => a && t)
/-- `por` (R318). -/
def execCtPor (gd : BitVec 3) (src : BitVec 10) (k : BitVec 1) (s : State) : Host.Outcome State Fault Refusal :=
  ctBit gd src k s (fun a t => a || t)
/-- `pxor` (R318). -/
def execCtPxor (gd : BitVec 3) (src : BitVec 10) (k : BitVec 1) (s : State) : Host.Outcome State Fault Refusal :=
  ctBit gd src k s (fun a t => a != t)
/-- `pnot` (R318). -/
def execCtPnot (gd : BitVec 3) (src : BitVec 10) (k : BitVec 1) (s : State) : Host.Outcome State Fault Refusal :=
  ctBit gd src k s (fun _ t => !t)

/-- `tokw` (R188, R319): it holds until RET ≥ n and then takes n tokens. -/
def execCtTokw (gd : BitVec 3) (src : BitVec 10) (k : BitVec 1) (s : State) : Host.Outcome State Fault Refusal :=
  ctMove gd src s (fun x =>
      let n := x.val.word.toNat
      if 2 ^ 16 ≤ n then illegal
      else if x.c.eng.iss + x.c.eng.ret < n then some (0x0B, n) else none)
    (fun x =>
      let n := x.val.word.toNat
      if n ≤ x.c.eng.ret then s.modC x.g (fun c => { c with eng := { c.eng with ret := c.eng.ret - n } })
      else x.hold s .tokw k)

end Sys2Proof.Machine
end

