-- ==== Sys2Proof/Machine/Translate.lean ====
section
/-! DEFINITION. Device memory and translation: homes, remote-line caches, walks, TLBs, code fetch (R68 to R89, R264,
R436). -/

namespace Sys2Proof.Machine

/-! ### Homes and the remote-line cache (R70, R71, R88, R89) -/

def paBits (pa lo n : Nat) : Nat := (pa >>> lo) % 2 ^ n

/-- Home die of a PA under a placement code (R70). -/
def homeDie (pa plc : Nat) : Nat :=
  match plc with
  | 0 => paBits pa 12 2 ^^^ paBits pa 20 2 ^^^ paBits pa 28 2 ^^^ paBits pa 36 2
  | 1 => paBits pa 16 2 ^^^ paBits pa 24 2 ^^^ paBits pa 32 2
  | 2 => paBits pa 21 2 ^^^ paBits pa 29 2 ^^^ paBits pa 37 2
  | _ => plc % 4

/-- The home-map entry of the chunk that holds a PA (R70). -/
def State.homeEnt (s : State) (pa : Nat) : BitVec 4 := Tab.get 0 s.home (paBits pa 21 18)

/-- The chunk is present; code 011 counts as absent (R70). -/
def homePresent (e : BitVec 4) : Bool := e.getLsbD 3 && decide (e.toNat % 8 ≠ 3)

def State.homeOf (s : State) (pa : Nat) : Nat := homeDie pa ((s.homeEnt pa).toNat % 8)

/-- The first byte of the chunk that firmware keeps on die d, local to it (R69, log 84). -/
def fwChunk (d : Nat) : Nat := 2 ^ 21 * d

/-- A page lies in a chunk local to die d, past the ASID table of the chunk that firmware keeps there (R69, R77). -/
def State.localPage (s : State) (d a : Nat) : Bool :=
  decide (a % 4096 = 0 ∧ a < 2 ^ 39 ∧ (s.homeEnt a).toNat = 12 + d ∧ (fwChunk d + 65536 ≤ a ∨ a < fwChunk d))

/-- Backing that a die's two stacks provide, in units of 512 KiB (R69). -/
def backingMax : Nat := 4 * 61035

/-- Backing that a chunk takes from a die, in units of 512 KiB (R69). -/
def chunkCharge (chunk : Nat) (e : BitVec 4) (d : Nat) : Nat :=
  if homePresent e = false then 0
  else if e.toNat % 8 < 2 then 1
  else if homeDie (chunk <<< 21) (e.toNat % 8) = d then 4 else 0

/-- Backing that the home map takes from a die. -/
def State.backing (s : State) (d : Nat) : Nat := s.home.foldl (fun n c => n + chunkCharge c.1 c.2 d) 0

/-- One 64-byte line of HBM as die `d` reads it: from its RLC where the line is remote and held, else from the home; a
remote line is then allocated among the 524,288 of the RLC (R88). -/
def State.devLine (s : State) (d line : Nat) : BitVec 512 × State :=
  let fresh := BitVec.ofNat 512 (s.read line 64)
  if s.homeOf line = d then (fresh, s)
  else match Tab.find (s.die d).rlc line with
    | some x => (x, s)
    | none =>
      let r := putBounded 524288 (s.die d).rlc line fresh (Config.victim s.fresh)
      (fresh, (s.setDie d { s.die d with rlc := r.1 }).used r.2)

/-- `n` bytes of HBM as die `d` reads them, with `k` lines of fuel. -/
def State.devReadFuel (s : State) (d pa n : Nat) : Nat → Nat × State
  | 0 => (0, s)
  | k + 1 =>
    if n = 0 then (0, s)
    else
      let line := pa / 64 * 64
      let m := min n (64 - pa % 64)
      let r := s.devLine d line
      let x := (r.1.toNat >>> (8 * (pa % 64))) % 2 ^ (8 * m)
      let q := r.2.devReadFuel d (pa + m) (n - m) k
      (x + q.1 <<< (8 * m), q.2)

def State.devRead (s : State) (d pa n : Nat) : Nat × State := s.devReadFuel d pa n (n / 64 + 2)

/-! ### Entries (R74, R78) -/

def pteV (e : Word) : Bool := e.getLsbD 0
def ptePtr (e : Word) : Bool := e.getLsbD 63
def leafSize (e : Word) : Nat := bitsOf e 48 2
def leafFrame (e : Word) : Nat := bitsOf e 12 36 <<< 12
def leafTier (e : Word) : Nat := bitsOf e 6 2
def leafPlc (e : Word) : Nat := bitsOf e 8 3
def leafG (e : Word) : Bool := e.getLsbD 11
def leafPin (e : Word) : Bool := e.getLsbD 5
def leafD (e : Word) : Bool := e.getLsbD 4
def leafA (e : Word) : Bool := e.getLsbD 3
def leafX (e : Word) : Bool := e.getLsbD 2
def leafW (e : Word) : Bool := e.getLsbD 1
/-- Bits of a page offset by SIZE (R74). -/
def sizeBits (sz : Nat) : Nat := match sz with | 0 => 12 | 1 => 16 | 2 => 21 | _ => 30

/-- Levels of the walk: index shift and width (R73). -/
def levels : List (Nat × Nat × Nat) := [(0, 48, 6), (1, 39, 9), (2, 30, 9), (3, 21, 9), (4, 12, 9)]

/-- Table-format check of a valid entry at a level (R74). -/
def formatOk (level : Nat) (e : Word) : Bool :=
  if ptePtr e then decide (level < 4 ∧ bitsOf e 48 15 = 0 ∧ bitsOf e 1 11 = 0)
  else
    let sz := leafSize e
    decide (bitsOf e 50 13 = 0) &&
      (match level with
       | 2 => decide (sz = 3)
       | 3 => decide (sz = 2)
       | 4 => decide (sz < 2)
       | _ => false) &&
      decide (sz < 2 ∨ leafFrame e % 2 ^ sizeBits sz = 0)

/-- A descriptor of an address space as the table holds it: words 0 to 5 (R77). -/
def State.memDesc (s : State) (d asid : Nat) : List Word :=
  toWords (s.read ((s.die d).asidtab.toNat + 64 * asid) 48) 6

/-- A descriptor as the walker of die d knows it: once loaded, a change takes effect only after an invalidation (R77). -/
def State.readDesc (s : State) (d asid : Nat) : List Word :=
  match Tab.find (s.die d).descs asid with
  | some l => l
  | none => s.memDesc d asid

/-- The walker of die d loads the descriptor when it first serves the ASID. -/
def State.loadDesc (s : State) (d asid : Nat) : State :=
  s.setDie d { s.die d with descs := Tab.put (s.die d).descs asid (s.readDesc d asid) }

def descV (l : List Word) : Bool := (l.getD 0 0).getLsbD 0
def descS2 (l : List Word) : Bool := (l.getD 0 0).getLsbD 1
def descRoot (l : List Word) : Nat := bitsOf (l.getD 0 0) 9 39 <<< 9
def descVm (l : List Word) : Nat := bitsOf (l.getD 1 0) 0 7
def descS2Base (l : List Word) : Nat := bitsOf (l.getD 2 0) 12 36 <<< 12
def descS2Lim (l : List Word) : Nat := bitsOf (l.getD 3 0) 0 26
def descFlBase (l : List Word) : Nat := bitsOf (l.getD 4 0) 0 25
def descFlLim (l : List Word) : Nat := bitsOf (l.getD 5 0) 0 25

/-- Key of the walk cache. -/
def wcKey (vm asid pa : Nat) : Nat := (vm <<< 80) + (asid <<< 64) + pa

/-- A walker's 8-byte read at its home, or the copy of the walk cache's 256 entries (R73, R82); entries that `keep` accepts are
cached. The address is not checked: no rule gives a table address outside the present chunks a fault (log 71). -/
def State.walkRead (s : State) (d vm asid pa : Nat) (keep : Word → Bool) : Word × State :=
  match Tab.find (s.die d).wc (wcKey vm asid pa) with
  | some w => (w, s)
  | none =>
    let w := BitVec.ofNat 64 (s.read pa 8)
    let r := putBounded 256 (s.die d).wc (wcKey vm asid pa) w (Config.victim s.fresh)
    (w, if keep w then (s.setDie d { s.die d with wc := r.1 }).used r.2 else s)

/-- The second stage (R78): the host PA with its W and X, or nothing for a second-stage fault. -/
def State.stage2 (s : State) (d asid : Nat) (desc : List Word) (gpa : Nat) : Option (Nat × Bool × Bool) × State :=
  if descS2 desc = false then (some (gpa, true, true), s)
  else if paBits gpa 46 2 ≠ 0 ∨ descS2Lim desc ≤ paBits gpa 21 25 then (none, s)
  else
    let ok := fun e : Word => e.getLsbD 0 && decide (bitsOf e 48 16 = 0 ∧ bitsOf e 3 18 = 0)
    let r := s.walkRead d (descVm desc) asid (descS2Base desc + 8 * paBits gpa 21 25) ok
    if ok r.1 then (some ((bitsOf r.1 21 27 <<< 21) + gpa % 2 ^ 21, r.1.getLsbD 1, r.1.getLsbD 2), r.2) else (none, r.2)

/-- The leaf entry of a VA and its PA, or a fault, level by level (R73, R79, R436). -/
def State.walkLevels (s : State) (d asid : Nat) (desc : List Word) (va table : Nat) :
    List (Nat × Nat × Nat) → Except Nat (Word × Nat) × State
  | [] => (.error 0x04, s)
  | (level, shift, bits) :: rest =>
    match s.stage2 d asid desc (table + 8 * paBits va shift bits) with
    | (none, s) => (.error 0x07, s)
    | (some (pa, _, _), s) =>
      let r := s.walkRead d (descVm desc) asid pa (fun e => pteV e && ptePtr e && formatOk level e)
      if pteV r.1 = false then (.error 0x01, r.2)
      else if formatOk level r.1 = false then (.error 0x04, r.2)
      else if ptePtr r.1 then r.2.walkLevels d asid desc va (bitsOf r.1 12 36 <<< 12) rest
      else (.ok (r.1, pa), r.2)

/-- Bytes of one S-die's flash (R68). -/
def flashBytes : Nat := 16 * 10 ^ 12

/-- Range check of an access to the page of n bytes at `page` (R68): `frame` is the frame address accessed. The record region is part of
no extent (R253), and a peer's port must be trained: its link has lanes in use. -/
def State.rangeOk (s : State) (desc : List Word) (tier frame page n : Nat) : Bool :=
  match tier with
  | 0 => decide (frame >>> 39 = 0)
  | 1 =>
    decide (frame >>> 46 = 0 ∧ frame % 2 ^ 44 < flashBytes) &&
      decide (descFlBase desc <<< 21 ≤ page ∧ page + n ≤ (descFlBase desc + descFlLim desc) <<< 21) &&
      decide (s.boot.region.1 + s.boot.region.2 ≤ page ∨ page + n ≤ s.boot.region.1)
  | 2 => true
  | _ => decide (Tab.find s.portVm (frame >>> 44) = some (descVm desc)) &&
      (match Tab.find s.peers (frame >>> 44) with | some p => decide (p.lanes ≠ 0) | none => false)

/-- Placement check (R71); no chunk lies outside the HBM aperture (R69). -/
def State.placeOk (s : State) (tier plc frame : Nat) : Bool :=
  if tier = 0 then decide (frame >>> 39 = 0) && homePresent (s.homeEnt frame) && decide ((s.homeEnt frame).toNat % 8 = plc) else decide (plc = 0)

/-- Location of a byte of a tier (R68). -/
def tierLoc (tier frame : Nat) : Nat :=
  match tier with
  | 0 => frame
  | 1 => locFlash frame
  | 2 => locHost frame
  | _ => locPeer (frame >>> 44) (frame % 2 ^ 44)

/-- The checks at a leaf, in the order of R436: permissions, tier write, range, placement. -/
def State.leafCheck (s : State) (desc : List Word) (acc : Acc) (w x : Bool) (tier plc frame page n : Nat) : Option Nat :=
  if acc = .write ∧ w = false then some 0x02
  else if acc = .code ∧ x = false then some 0x03
  else if acc = .write ∧ tier = 1 then some 0x09
  else if s.rangeOk desc tier frame page n = false then some 0x06
  else if s.placeOk tier plc frame = false then some 0x05
  else none

/-- A translation: location, tier, bytes left in the page and, for HBM, in the 2 MiB chunk, whose placement is checked by itself
(R71), for flash on its S-die (R68); the TLB key, whether it is pinned. -/
structure Phys where
  loc  : Nat
  tier : Nat
  left : Nat
  key  : Nat
  pin  : Bool
  deriving DecidableEq, Repr

def tlbKey (asid base : Nat) : Nat := (asid <<< 54) + base

def TlbEnt.tier (t : TlbEnt) : Nat := leafTier t.leaf

/-- The translation of a VA whose frame address is `a`. -/
def TlbEnt.phys (t : TlbEnt) (va a : Nat) : Phys :=
  let left := 2 ^ t.size - (va - t.base)
  let left := if t.tier = 0 then min left (2 ^ 21 - a % 2 ^ 21) else if t.tier = 1 then min left (flashBytes - a % 2 ^ 44) else left
  ⟨tierLoc t.tier a, t.tier, left, tlbKey t.asid t.base, leafPin t.leaf⟩

/-- The frame address of a VA with W and X of its second stage: looked up once for each chunk of the page (R78). Nothing for a
second-stage fault. -/
def State.frameOf (s : State) (d : Nat) (desc : List Word) (t : TlbEnt) (va : Nat) : Option (Nat × Bool × Bool) × TlbEnt × State :=
  let a := t.frame + (va - t.base)
  if t.tier ≠ 0 ∨ descS2 desc = false then (some (a, true, true), t, s)
  else match Tab.find t.host (a / 2 ^ 21) with
    | some h => (some (h.1 + a % 2 ^ 21, h.2.1, h.2.2), t, s)
    | none => match s.stage2 d t.asid desc a with
      | (none, s) => (none, t, s)
      | (some (pa, w, x), s) => (some (pa, w, x), { t with host := Tab.put t.host (a / 2 ^ 21) (pa / 2 ^ 21 * 2 ^ 21, w, x) }, s)

/-- The checks of an access through a leaf translation, made at every access (R71, R79, R436): the frame address, or the fault. -/
def State.access (s : State) (d : Nat) (desc : List Word) (t : TlbEnt) (va : Nat) (acc : Acc) : Except Nat Nat × TlbEnt × State :=
  match s.frameOf d desc t va with
  | (none, t, s) => (.error 0x07, t, s)
  | (some (a, w, x), t, s) =>
    match s.leafCheck desc acc (leafW t.leaf && w) (leafX t.leaf && x) t.tier (leafPlc t.leaf) a t.frame (2 ^ t.size) with
    | some f => (.error f, t, s)
    | none => (.ok a, t, s)

/-- The entry that a walk makes of a leaf: its page, the frame that the leaf names, D, and the descriptor walked (R74, R75, R80). -/
def leafEnt (desc : List Word) (asid va : Nat) (e : Word) (pte : Nat) : TlbEnt :=
  let n := sizeBits (leafSize e)
  ⟨descVm desc, asid, va / 2 ^ n * 2 ^ n, n, leafFrame e / 2 ^ n * 2 ^ n, e, pte, leafD e, [], false, false, [], desc⟩

/-- A walk of the tables as an entry for a TLB, with the address it gives (R75, R79). -/
def State.walk (s : State) (d asid : Nat) (desc : List Word) (va : Nat) (acc : Acc) : Except Nat (TlbEnt × Nat) × State :=
  if descV desc = false then (.error 0x0A, s)
  else match s.walkLevels d asid desc va (descRoot desc) levels with
    | (.error f, s) => (.error f, s)
    | (.ok (e, pte), s) =>
      match s.access d desc (leafEnt desc asid va e pte) va acc with
      | (.error f, _, s) => (.error f, s)
      | (.ok a, t, s) => (.ok (t, a), s)

/-- Set bits of a leaf that the walker of die d read as `t` holds it, by compare-and-swap at its home (R83): nothing where the entry
has changed. It is a write of the die (R89); no update is needed, and none made, where the bits are set (R83). -/
def State.setPte (s : State) (d : Nat) (t : TlbEnt) (bits : Word) : Option (TlbEnt × State) :=
  if s.read t.pte 8 = t.leaf.toNat then
    let leaf := t.leaf ||| bits
    some ({ t with leaf := leaf, d := leafD leaf }, if leaf = t.leaf then s else s.devWrite d t.pte leaf.toNat 8)
  else none

/-- A and, where the access writes, D. -/
def accBits (acc : Acc) : Word := if acc = .write then 0x18 else 0x08

/-- The TLB entry that serves a VA: its VM and ASID match (R80). Of several that cover it, as where the sixteen entries of a 64 KiB page
disagree, the first in the TLB's order serves it (R75 leaves open which does; DESIGN CHOICE, log 93). -/
def findTlb (t : Tab TlbEnt) (vm asid va : Nat) : Option TlbEnt :=
  (t.find? (fun p => decide (p.2.vm = vm) && decide (p.2.asid = asid) && decide (p.2.base ≤ va) && decide (va < p.2.base + 2 ^ p.2.size))).map
    Prod.snd

/-- Load a descriptor into the engine's context when it first serves the ASID: the context registers take its fields (R77, log 80). -/
def State.engDesc (s : State) (e asid : Nat) : List Word × State :=
  match Tab.find (s.ce e).descs asid with
  | some l => (l, s)
  | none =>
    let l := s.memDesc (e / 8) asid
    let c := s.ce e
    (l, s.setCe e { c with
      descs := Tab.put c.descs asid l, root := ctxRoot (l.getD 0 0), s2base := ctxS2Base (l.getD 2 0), s2lim := ctxS2Lim (l.getD 3 0) })

/-- A copy engine's entry `old`, in the TLB or beside it, becomes `t`. -/
def State.keepEnt (s : State) (e : Nat) (old t : TlbEnt) : State :=
  let c := s.ce e
  s.setCe e { c with tlb := c.tlb.map (fun x => if x.2 = old then (x.1, t) else x), gone := c.gone.map (fun x => if x = old then t else x) }

/-- An entry with a packet (channel and number) among its holders, where its leaf is pinned (R81). -/
def TlbEnt.hold (t : TlbEnt) (who : Option (Nat × Nat)) : TlbEnt :=
  match who with
  | none => t
  | some p => if leafPin t.leaf && !t.holders.contains p then { t with holders := p :: t.holders } else t

/-- Packet `who` no longer holds an entry; one that has left the TLB goes with its last holder. -/
def State.unhold (s : State) (e : Nat) (old : TlbEnt) (who : Option (Nat × Nat)) : State :=
  match who with
  | none => s
  | some p =>
    let s := s.keepEnt e old { old with holders := old.holders.filter (fun h => h ≠ p) }
    s.setCe e { s.ce e with gone := (s.ce e).gone.filter (fun x => !x.holders.isEmpty) }

/-- Put a translation into the TLB of an engine: 4,096 entries, of them at most 1,024 pinned ones that packets keep there (R80). An
older entry of the page stays with the packets that hold it, and where it is retired the new one is too, so that new lookups still take
the pin-retired fault (R86). Where none of the 4,096 may leave, the translation is not installed, and a pinned one stays with the
packet that looked it up (log 70). -/
def State.putTlb (s : State) (e : Nat) (t : TlbEnt) : State :=
  let k := tlbKey t.asid t.base
  let old := Tab.find (s.ce e).tlb k
  let c := match old with
    | some o => (s.ce e).dropEnt k o
    | none => s.ce e
  let t := { t with
    kept := leafPin t.leaf && decide ((c.tlb.filter (fun x => x.2.kept)).length < 1024)
    retired := (old.map TlbEnt.retired).getD false }
  if c.tlb.length < 4096 then s.setCe e { c with tlb := Tab.put c.tlb k t }
  else
    let l := c.tlb.filter (fun x => x.2.mayLeave)
    match l[Config.victim s.fresh % l.length]? with
    | some x =>
      let c := c.dropEnt x.1 x.2
      (s.setCe e { c with tlb := Tab.put c.tlb k t }).used true
    | none => s.setCe e { c with gone := if t.holders.isEmpty then c.gone else c.gone ++ [t] }

/-- A miss: the walk's translation is installed with A set in its leaf, and D where the access writes (R82, R83); a packet holds it
where it is pinned (R81). -/
def State.miss (s : State) (e asid : Nat) (desc : List Word) (va : Nat) (acc : Acc) (who : Option (Nat × Nat)) :
    Except Nat Phys × State :=
  match s.walk (e / 8) asid desc va acc with
  | (.error f, s) => (.error f, s)
  | (.ok (t, a), s) => match s.setPte (e / 8) t (accBits acc) with
    | some (t, s) => (.ok (t.phys va a), s.putTlb e (t.hold who))
    | none => (.error 0x01, s)

/-- An access through an entry that an engine or a packet holds; at the first write D is set, and an entry that has changed is
walked anew (R83). A packet holds a pinned entry from its first access through it (R81), and one that has been retired goes on against
the descriptor that it was walked with: a change of descriptor, frame or range that came with the invalidation does not reach it (R86). -/
def State.serve (s : State) (e asid : Nat) (desc : List Word) (t : TlbEnt) (va : Nat) (acc : Acc) (who : Option (Nat × Nat)) :
    Except Nat Phys × State :=
  let own := if t.retired then t.desc else desc
  if descV own = false then (.error 0x0A, s)
  else match s.access (e / 8) own t va acc with
    | (.error f, u, s) => (.error f, s.keepEnt e t u)
    | (.ok a, u, s) =>
      if acc = .write ∧ u.d = false then
        match s.setPte (e / 8) u 0x10 with
        | some (v, s) => (.ok (v.phys va a), s.keepEnt e t (v.hold who))
        | none => (s.unhold e t who).miss e asid desc va acc who
      else (.ok (u.phys va a), s.keepEnt e t (u.hold who))

/-- A copy engine's translation (R79, R80, R81, R83, R86, R436), for packet `who` where one asks. -/
def State.translate (s : State) (e asid va : Nat) (acc : Acc) (who : Option (Nat × Nat)) : Except Nat Phys × State :=
  let q := s.engDesc e asid
  match findTlb (q.2.ce e).tlb (descVm q.1) asid va with
  | none => q.2.miss e asid q.1 va acc who
  | some t => if t.retired then (.error 0x08, q.2) else q.2.serve e asid q.1 t va acc who

/-! ### Code fetch (R264) -/

def codeKey (asid va : Nat) : Nat := (asid <<< 54) + va

/-- Location of a line of code: a published page of the die, else the address space's translation as a code read. -/
def State.codeLoc (s : State) (d asid va : Nat) : Option Nat × State :=
  match Tab.find (s.die d).bcache (codeKey asid (va / 4096 * 4096)) with
  | some b => (some (b + va % 4096), s)
  | none => match (s.loadDesc d asid).walk d asid (s.readDesc d asid) va .code with
    | (.error _, s) => (none, s)
    | (.ok (t, pa), s) => (some (tierLoc t.tier pa), s)

/-- A line through the second-level cache of the die. -/
def State.l2Line (s : State) (d asid line : Nat) : Option (BitVec 512) × State :=
  match Tab.find (s.die d).l2 (codeKey asid line) with
  | some x => (some x, s)
  | none => match s.codeLoc d asid line with
    | (none, s) => (none, s)
    | (some loc, s) =>
      let x := BitVec.ofNat 512 (s.read loc 64)
      (some x, s.setDie d { s.die d with l2 := Tab.put (s.die d).l2 (codeKey asid line) x })

/-- A bundle at an address of core g's continuation, through its L1 cache; nothing where the code translation refuses
it (R303). -/
def State.fetchCode (s : State) (g va : Nat) : Option (BitVec 256) × State :=
  let asid := (s.coreC g).asid
  let line := va / 64 * 64
  let cut := fun (x : BitVec 512) => if va % 64 < 32 then x.setWidth 256 else x.extractLsb' 256 256
  match Tab.find (s.coreC g).l1 (codeKey asid line) with
  | some x => (some (cut x), s)
  | none => match s.l2Line (dieOf g) asid line with
    | (none, s) => (none, s)
    | (some x, s) => (some (cut x), s.modC g (fun c => { c with l1 := Tab.put c.l1 (codeKey asid line) x }))

/-- A portable instruction at an address of a gear S or M core (R401). -/
def State.fetchWord (s : State) (g va : Nat) : Option (BitVec 32) × State :=
  let asid := (s.coreP g).asid
  let line := va / 64 * 64
  let cut := fun (x : BitVec 512) => x.extractLsb' (8 * (va % 64)) 32
  match Tab.find (s.coreP g).lines (codeKey asid line) with
  | some x => (some (cut x), s)
  | none => match s.l2Line (dieOf g) asid line with
    | (none, s) => (none, s)
    | (some x, s) => (some (cut x), s.modP g (fun c => { c with lines := Tab.put c.lines (codeKey asid line) x }))

/-- Discard code lines that overlap a range, for one ASID. -/
def dropLines (t : Tab (BitVec 512)) (asid va n : Nat) : Tab (BitVec 512) :=
  if n = 0 then t
  else t.filter (fun p => !(decide (p.1 >>> 54 = asid) && decide (p.1 % 2 ^ 54 < va + n) && decide (va < p.1 % 2 ^ 54 + 64)))

/-- Discard a range from the second-level cache and every core's first level on a die, the gear S and M cores of the die
included (R264, R382, R401). -/
def State.discardCode (s : State) (d asid va n : Nat) : State :=
  let s := s.setDie d { s.die d with l2 := dropLines (s.die d).l2 asid va n }
  { s with cores := s.cores.map (fun p => if dieOf p.1 = d then (p.1, { p.2 with l1 := dropLines p.2.l1 asid va n }) else p)
           pcores := s.pcores.map (fun p =>
             if dieOf p.1 = d then (p.1, { p.2 with lines := dropLines p.2.lines asid va n }) else p) }

end Sys2Proof.Machine
end

