-- ==== Sys2Proof/Machine/Sched.lean ====
section
/-! DEFINITION. The task queue: checks on records, the derailleur, placement, slots, eligibility, the pick, preemption
and gathering (R90 to R113, R124 to R126). -/

namespace Sys2Proof.Machine

/-! ### Channels and timelines (R48, R92, R149) -/

def State.chan (s : State) (ch : Nat) : Chan := Tab.get Chan.reset s.chans ch
def State.setChan (s : State) (ch : Nat) (c : Chan) : State := { s with chans := Tab.put s.chans ch c }
def State.modChan (s : State) (ch : Nat) (f : Chan → Chan) : State := s.setChan ch (f (s.chan ch))
/-- VALID: a queue is open on the channel, and its close has not begun (R50). -/
def Chan.valid (c : Chan) : Bool := c.owner.isSome && c.closing.isNone
def State.chanOf (s : State) (ch asid : Nat) : Bool :=
  decide (ch < 2048) && (s.chan ch).valid && decide ((s.chan ch).asid = asid)
/-- A privileged queue: a PF0 queue on channel 63 of an engine (R47, R67). -/
def Chan.priv (c : Chan) (ch : Nat) : Bool := decide (ch % 64 = 63) && (match c.owner with | some (0, _) => true | _ => false)

/-- (TL − target) mod 2^48 < 2^47. -/
def reached (tl target : Nat) : Bool := decide ((tl % 2 ^ 48 + 2 ^ 48 - target % 2 ^ 48) % 2 ^ 48 < 2 ^ 47)

/-! ### Translation for agents without a TLB: the walker of a die (R79, R97) -/

/-- A walk that installs in no TLB (a KEY, a CARRY, a VF's BAR2 access, the loader): R83 speaks of an install and of a write, and the
model sets A in the leaf at such a walk too, and D where it writes (log 23). -/
def State.xlate (s : State) (d asid va : Nat) (acc : Acc) : Except Nat Phys × State :=
  match (s.loadDesc d asid).walk d asid (s.readDesc d asid) va acc with
  | (.error f, s) => (.error f, s)
  | (.ok (t, a), s) => match s.setPte d t (accBits acc) with
    | some (t, s) => (.ok (t.phys va a), s)
    | none => (.error 0x01, s)

/-- Locations of `n` bytes at a VA, page by page, or the fault; a VA beyond 54 bits is mapped by no table (log 40). -/
def State.vaLocs (s : State) (d asid va n : Nat) (acc : Acc) : Nat → Except Nat (List (Nat × Nat)) × State
  | 0 => (.ok [], s)
  | k + 1 =>
    if n = 0 then (.ok [], s)
    else if 2 ^ 54 ≤ va then (.error 0x01, s)
    else match s.xlate d asid va acc with
      | (.error f, s) => (.error f, s)
      | (.ok p, s) =>
        let m := min n p.left
        match s.vaLocs d asid (va + m) (n - m) acc k with
        | (.error f, s) => (.error f, s)
        | (.ok l, s) => (.ok ((p.loc, m) :: l), s)

def State.readLocs (s : State) : List (Nat × Nat) → Nat
  | [] => 0
  | (a, n) :: t => s.read a n + (s.readLocs t) <<< (8 * n)

def State.writeLocs (s : State) (x : Nat) : List (Nat × Nat) → State
  | [] => s
  | (a, n) :: t => (s.write a (x % 2 ^ (8 * n)) n).writeLocs (x >>> (8 * n)) t

/-- Write pieces as an agent of die d does: HBM at the home, the die's own copy with it (R89). -/
def State.pieceWrite (s : State) (d x : Nat) : List (Nat × Nat) → State
  | [] => s
  | (a, n) :: t =>
    let v := x % 2 ^ (8 * n)
    (if a < 2 ^ 64 then s.devWrite d a v n else s.write a v n).pieceWrite d (x >>> (8 * n)) t

/-- Read or write `n` bytes at a VA at the home of each line, a write in the die's own copy too (R89); the fault where one arises. -/
def State.vaRead (s : State) (d asid va n : Nat) : Except Nat Nat × State :=
  match s.vaLocs d asid va n .read (n / 4096 + 2) with
  | (.error f, s) => (.error f, s)
  | (.ok l, s) => (.ok (s.readLocs l), s)
def State.vaWrite (s : State) (d asid va x n : Nat) : Except Nat Unit × State :=
  match s.vaLocs d asid va n .write (n / 4096 + 2) with
  | (.error f, s) => (.error f, s)
  | (.ok l, s) => (.ok (), s.pieceWrite d x l)

/-! ### Checks on a record (R91) -/

def objKey (asid handle : Nat) : Nat := (asid <<< 20) + handle
def State.obj (s : State) (asid handle : Nat) : Option CodeObj := Tab.find s.objs (objKey asid handle)
def State.entry (s : State) (r : Rec) : Option Entry := (s.obj r.asid r.code).bind (fun o => o.ents[r.ent]?)

/-- A record is valid: `own` is the ASID it must carry (none: any), `hi` whether the poster may post at priority 7. -/
def State.recOk (s : State) (r : Rec) (own : Option Nat) (hi : Bool) : Bool :=
  decide (r.w0.toNat < 2 ^ 51 ∧ bitsOf r.w3 54 10 = 0) &&
    decide (r.gm ≠ 0 ∧ r.tw < 5 ∧ (r.tw ≠ 0 → r.gm = 4) ∧ r.carry % 64 = 0 ∧ (r.cv = true → r.carry ≠ 0)) &&
    decide ((r.wch < 2048 ∨ r.wch = 0xFFFF) ∧ (r.wch = 0xFFFF → r.wtgt = 0)) &&
    (decide (r.wch = 0xFFFF) || s.chanOf r.wch r.asid) && (s.entry r).isSome &&
    (match own with | some a => decide (r.asid = a) | none => true) && (decide (r.pri ≠ 7) || hi) && !r.held

/-! ### Gears and placement (R97, R98, R124) -/

inductive Gear where
  | c | m | s
  deriving DecidableEq, Repr

def partGear (p : Nat) : Gear := if p < 32 then .c else if p < 40 then .m else .s
def gearOf (g : Nat) : Gear := if g < 512 then .c else if g < 576 then .m else .s
def Gear.bit : Gear → Nat
  | .s => 0 | .m => 1 | .c => 2
def Rec.admits (r : Rec) (g : Gear) : Bool := r.w0.getLsbD (32 + g.bit)
/-- GEAR of `k.coord` (R94). -/
def Gear.code : Gear → Nat
  | .c => 0 | .m => 1 | .s => 2

/-- Are native bundles of the record's entry published for a die (R124)? -/
def State.cOk (s : State) (r : Rec) (d : Nat) : Bool := ((s.entry r).bind (fun e => Tab.find e.pub d)).isSome

/-- The derailleur's choice (R124): gear and whether admitted. -/
def State.derail (s : State) (r : Rec) (tier d : Nat) : Gear × Bool :=
  let flash := decide (tier = 1)
  let want : Gear := if flash then .s else if s.cOk r d then .c else .m
  if r.admits want then (want, true)
  else if !flash && decide (want = .c) && r.admits .m then (.m, true)
  else if !flash && r.admits .s then (.s, true)
  else (if r.admits .c then .c else if r.admits .m then .m else .s, false)

/-- The segmented buffer of an ASID that holds a VA, with the key of its object (R114). -/
def State.bufHere (s : State) (asid va : Nat) : Option (Nat × Buf) :=
  (s.objs.filter (fun o => o.1 >>> 20 = asid)).findSome? (fun o =>
    (o.2.bufs.find? (fun b => decide (b.seg ≠ 0 ∧ b.va ≤ va ∧ va < b.va + b.size))).map (fun b => (o.1, b)))
def State.bufAt (s : State) (asid va : Nat) : Option Buf := (s.bufHere asid va).map Prod.snd

/-- Location of the map entry of segment j, of the segment that holds a VA, and an entry's TIER (R115). -/
def Buf.mapAt (b : Buf) (j : Nat) : Nat := b.maps.getD (j / 256) 0 + 16 * (j % 256)
def Buf.mapEnt (b : Buf) (va : Nat) : Nat := b.mapAt ((va - b.va) / b.seg)
def State.mapTier (s : State) (e : Nat) : Nat := bitsOf (BitVec.ofNat 64 (s.read e 8)) 62 2

/-- Stack within the home die (R70). -/
def stackOf (pa plc : Nat) : Nat :=
  match plc with
  | 0 => paBits pa 14 1 ^^^ paBits pa 22 1
  | 1 => paBits pa 18 1 ^^^ paBits pa 26 1
  | _ => paBits pa 12 1

/-- QMASK of a stage; 0 is read as all ones (R95). -/
def State.qmask (s : State) (stage : Nat) : BitVec 32 :=
  let m := Tab.get 0xFFFFFFFF s.stagemap stage
  if m = 0 then 0xFFFFFFFF else m

/-- First set bit at or above `i`, wrapping past 31. -/
def firstAt (m : BitVec 32) (i : Nat) : Nat := ((List.range 32).map (fun k => (i + k) % 32)).find? (fun b => m.getLsbD b) |>.getD i

structure Place where
  part : Nat
  die  : Nat
  tier : Nat
  adm  : Bool
  deriving DecidableEq, Repr

def keyHash (k : Nat) : Nat := ((k >>> 12) ^^^ (k >>> 21) ^^^ (k >>> 30) ^^^ (k >>> 39)) % 8

/-- Placement of a record posted from die `d0` with a hint (R97). -/
def State.place (s : State) (r : Rec) (d0 hint : Nat) : Except Nat Place × State :=
  let fin := fun (s : State) (t d stk h : Nat) =>
    let t := match s.bufAt r.asid r.key with
      | some b => if r.key = 0 then t else s.mapTier (b.mapEnt r.key)
      | none => t
    let g := s.derail r t d
    let p := match g.1 with
      | .c => firstAt (s.qmask r.stage) ((8 * d + h) % 32)
      | .m => 32 + 2 * d + stk
      | .s => 40 + d
    Place.mk p d t g.2
  if r.key = 0 then (.ok (fin s 0 d0 0 hint), s)
  else match s.xlate d0 r.asid r.key .read with
    | (.error f, s) => (.error f, s)
    | (.ok p, s) =>
      let h := keyHash r.key
      (.ok (match p.tier with
        | 0 => fin s 0 (s.homeOf p.loc) (stackOf p.loc ((s.homeEnt p.loc).toNat % 8)) h
        | 1 => fin s 1 (paBits p.loc 44 2) 0 h
        | 2 => fin s 2 0 0 h
        | _ => fin s 3 (paBits p.loc 56 4 / 4) 0 h), s)

/-- C-die of a poster (R97). -/
def posterDie (g : Nat) : Nat := dieOf g
/-- Hint of a core's `tpost` (R98): its quad within the die. -/
def posterHint (g : Nat) : Nat := if g < 512 then quadOf g % 8 else 0

/-! ### Room (R103) -/

def State.partTasks (s : State) (p : Nat) : List (Nat × Task) := s.tasks.filter (fun t => t.2.part = p)

/-- A slot of partition p for an ASID: from its reserve (true), the pool (false), or none. -/
def State.grant (s : State) (p asid : Nat) : Option Bool :=
  let l := s.partTasks p
  if s.live.contains asid && decide ((l.filter (fun t => t.2.res && decide (t.2.r.asid = asid))).length < 64) then some true
  else if (l.filter (fun t => !t.2.res)).length < 69632 - 64 * s.live.length then some false
  else none

/-! ### Records in the queue -/

def State.task (s : State) (t : Nat) : Option Task := Tab.find s.tasks t
def State.setTask (s : State) (t : Nat) (x : Task) : State := { s with tasks := Tab.put s.tasks t x }
def State.delTask (s : State) (t : Nat) : State := { s with tasks := Tab.del s.tasks t }
def State.nextOrder (s : State) : Nat := s.tasks.foldl (fun m p => max m p.2.order) 0 + 1
/-- The rank of a dispatch or resumption made now (R109). -/
def State.nextDisp (s : State) : Nat := s.tasks.foldl (fun m p => max m p.2.disp) 0 + 1
def State.part (s : State) (p : Nat) : Part := Tab.get Part.reset s.parts p
def State.setPart (s : State) (p : Nat) (x : Part) : State := { s with parts := Tab.put s.parts p x }

/-- State of a record that is inserted or written back (R92). -/
def State.entryState (s : State) (r : Rec) : TState × Option Nat :=
  if r.wch = 0xFFFF then (.runnable, none)
  else if reached (s.chan r.wch).tl r.wtgt then (.runnable, some (s.chan r.wch).tl)
  else (.waiting, none)

/-- Insert a record that has been granted a slot (R92, R101). -/
def State.insertTask (s : State) (r : Rec) (pl : Place) (grp hint : Nat) (res : Bool) : State :=
  let e := s.entryState r
  let t : Task :=
    { r := r, st := e.1, part := pl.part, pdie := pl.die, tier := pl.tier, adm := pl.adm, since := s.now, order := s.nextOrder
      grp := grp, hint := hint, res := res, ctx := none, prio := 0, start := 0, disp := 0, acq := e.2
      fw := false, pause := s.now, halted := none, late := false, asked := false }
  { s.setTask s.ntask t with ntask := s.ntask + 1 }

/-- HOLDP puts HELD into every record that the ASID posts (R239). -/
def State.holdPosts (s : State) (r : Rec) : Rec :=
  if (Tab.get 0 s.dbg r.asid).getLsbD 1 then { r with w0 := setBits r.w0 49 1 1 } else r

/-- Deficits of an ASID that has no record left in P are zero (R106). -/
def State.cleanDeficit (s : State) (p asid : Nat) : State :=
  if (s.partTasks p).any (fun t => t.2.r.asid = asid) then s
  else s.setPart p { s.part p with deficit := Tab.del (s.part p).deficit asid }

/-- A record leaves the queue (R92, R103). -/
def State.removeTask (s : State) (t : Nat) : State :=
  match s.task t with
  | none => s
  | some x => (s.delTask t).cleanDeficit x.part x.r.asid

/-- Move a record to a partition if it grants a slot (R99, R104); without one it stays and runs in its old gear. -/
def State.moveTask (s : State) (t : Nat) (x : Task) (pl : Place) : State :=
  if pl.part = x.part then s.setTask t { x with adm := pl.adm, pdie := pl.die, tier := pl.tier }
  else match s.grant pl.part x.r.asid with
    | none => s.setTask t { x with pdie := pl.die }
    | some res =>
      (s.setTask t { x with part := pl.part, pdie := pl.die, tier := pl.tier, adm := pl.adm, res := res }).cleanDeficit
        x.part x.r.asid

/-- The gear of a waiting or runnable record is evaluated again (R99); a record with a saved context keeps its gear and
partition (R233), and only the die and tier of its placement are found again (R125). The hint and the poster's die of its first placement are used. A KEY that does not translate leaves the record where
it is; one that did not at the write-back is placed now (log 33). -/
def State.reevaluate (s : State) (t : Nat) : State :=
  match s.task t with
  | none => s
  | some x =>
    if x.st = .running then s
    else match s.place x.r x.pdie x.hint with
      | (.error _, s) => s
      | (.ok pl, s) =>
        if x.ctx.isSome then s.setTask t { x with pdie := pl.die, tier := pl.tier }
        else if x.late then s.moveTask t { x with late := false } pl
        else if partGear pl.part = partGear x.part then s.setTask t { x with adm := pl.adm, tier := pl.tier, pdie := pl.die }
        else s.moveTask t x pl

/-- DERAILLEUR_REEVALUATE (R99). -/
def execDerailleurReevaluate (t : Nat) (s : State) : Host.Outcome State Fault Refusal := .next (s.reevaluate t)

/-- RECORD_WAKE (R92, R113): the condition of a waiting record holds. -/
def execRecordWake (t : Nat) (s : State) : Host.Outcome State Fault Refusal :=
  match s.task t with
  | none => .next s
  | some x =>
    let tl := (s.chan x.r.wch).tl
    if x.st = .waiting ∧ reached tl x.r.wtgt then
      .next ((s.setTask t { x with st := .runnable, since := s.now, pause := s.now, order := s.nextOrder, acq := some tl }).reevaluate t)
    else .next s

/-! ### Eligibility and the pick (R105, R106, R110, R111) -/

def Task.eff (t : Task) (now : Nat) : Nat :=
  if 6 ≤ t.r.pri then t.r.pri else min 6 (t.r.pri + (now - t.since) / 2000000)

def widthOf (tw : Nat) : Nat := 2 ^ tw

/-- Cores of a partition (R96). -/
def partCores (p : Nat) : List Nat :=
  if p < 32 then (List.range 16).map (fun i => 16 * p + i)
  else if p < 40 then (List.range 8).map (fun i => 512 + 8 * (p - 32) + i)
  else (List.range 16).map (fun i => 576 + 16 * (p - 40) + i)

/-- Idle, and not in a cluster that bring-up has disabled (R37). -/
def State.vacant (s : State) (g : Nat) : Bool :=
  decide (s.runOf g = .idle) && !(isGearC g && s.boot.off.contains (clusterOf g))

/-- Core g lies in the aligned group of another core that holds at a `fuse`, for which the partition reserves it (R309, R320). -/
def State.reserved (s : State) (g : Nat) : Bool :=
  isGearC g && s.cores.any (fun p => match (p.2.slot 6).hold with
    | some h => decide (h.op = .fuse) && decide (p.1 ≠ g) && decide (g / 2 ^ h.t.word.toNat = p.1 / 2 ^ h.t.word.toNat)
    | none => false)

/-- A core that a dispatch may take. -/
def State.idleCore (s : State) (g : Nat) : Bool := s.vacant g && !s.reserved g

/-- Aligned groups of a width in a quad, lowest first (R110); a partition of gear M or S has none. -/
def alignedGroups (p w : Nat) : List (List Nat) :=
  if 32 ≤ p then [] else (List.range (16 / w)).map (fun i => (List.range w).map (fun j => 16 * p + w * i + j))

/-- The idle aligned group that a dispatch takes; its first cluster is `cl` where a context is tied to that (R375). -/
def State.idleGroup (s : State) (p w : Nat) (cl : Option Nat) : Option (List Nat) :=
  (alignedGroups p w).find? (fun l => l.all s.idleCore &&
    (match cl with | some c => decide (clusterOf (l.headD 0) = c) | none => true))

def State.gatherBars (s : State) (p tid : Nat) (t : Task) : Bool :=
  match (s.part p).gather with
  | some (x, _, _) => decide (x ≠ tid) && (match s.task x with
      | some y => decide (t.r.tw < y.r.tw) && decide (t.eff s.now ≠ 7)
      | none => false)
  | none => false

/-- May the record run in partition p, cores apart (R105, R124, R233)? One whose KEY did not translate at its write-back waits for its
placement (R97, log 33). -/
def State.ready (s : State) (p tid : Nat) (t : Task) : Bool :=
  decide (t.st = .runnable) && decide (t.part = p) && !t.r.held && s.live.contains t.r.asid && t.adm && !t.late &&
    !s.gatherBars p tid t && (Tab.find s.chains t.r.asid).isNone &&
    (match t.ctx with
     | some c => decide (partGear p ≠ .c) || decide (c.step = (s.die (p / 8)).step)
     | none => true)

/-- Cores that the record would take; `g` is the core asked about, which must be a free core of the partition (R106). -/
def State.coresFor (s : State) (p g : Nat) (t : Task) : Option (List Nat) :=
  let cl := t.ctx.bind Ctx.clus
  if (s.idleCore g && (partCores p).contains g) = false then none
  else if t.r.tw ≠ 0 then s.idleGroup p (widthOf t.r.tw) cl
  else if (match cl with | some c => decide (clusterOf g = c) | none => true) then some [g] else none

/-- Is the record eligible in its partition, whichever core is free (R105)? -/
def State.eligibleIn (s : State) (p tid : Nat) (t : Task) : Bool :=
  s.ready p tid t && (decide (t.r.tw = 0) || (s.idleGroup p (widthOf t.r.tw) (t.ctx.bind Ctx.clus)).isSome)

/-- Eligible records of p for a free core g. -/
def State.eligible (s : State) (p g : Nat) : List (Nat × Task) :=
  s.tasks.filter (fun t => s.ready p t.1 t.2 && (s.coresFor p g t.2).isSome)

def State.weight (s : State) (asid : Nat) : Nat :=
  let w := (Tab.get 1 s.weights asid).toNat % 16
  if w = 0 then 1 else w

/-- When a record's age brought it to a level. -/
def Task.reached (t : Task) (lvl : Nat) : Nat := t.since + 2000000 * (lvl - t.r.pri)

/-- The ring of a level: ASIDs without an eligible record have left, new ones stand just before the head, in the order in which they
became eligible there, those of one time in ascending order (R106). A record that had the level's age when the partition last looked
(`seen`) became eligible there now, by another of R105's conditions, and so did a tandem that lacked idle cores then (`lack`). -/
def joinRing (lvl seen now : Nat) (lack : Tab Nat) (old : List Nat) (el : List (Nat × Task)) : List Nat :=
  let asids := (el.map (fun t => t.2.r.asid)).dedup
  let age := fun a => (el.filter (fun t => t.2.r.asid = a)).foldl (fun m t =>
    min m (if t.2.reached lvl ≤ seen ∨ (Tab.find lack t.1).isSome then now else t.2.reached lvl)) (2 ^ 64)
  let new := sortBy (fun a b => decide (age a < age b ∨ (age a = age b ∧ a ≤ b))) (asids.filter (fun a => !old.contains a))
  old.filter (fun a => asids.contains a) ++ new

/-- The deficit walk (R106): the ASID that is served, the ring and the deficits after it. -/
def walkRing (weight : Nat → Nat) : Nat → List Nat → Tab Int → Option Nat × List Nat × Tab Int
  | 0, l, d => (none, l, d)
  | _, [], d => (none, [], d)
  | k + 1, a :: t, d =>
    let x := Tab.get 0 d a
    if 0 < x then (some a, a :: t, d)
    else walkRing weight k (t ++ [a]) (Tab.put d a (x + 25000 * weight a))

/-- The record of a list that entered the runnable state first. -/
def oldest (l : List (Nat × Task)) : Option (Nat × Task) :=
  l.foldl (fun m t => match m with
    | none => some t
    | some x => if t.2.order < x.2.order then some t else some x) none

/-- The record that partition p picks for a free core g (R106). -/
def State.pick (s : State) (p g : Nat) : Option (Nat × Task) × State :=
  let el := s.eligible p g
  let lvl := el.foldl (fun m t => max m (t.2.eff s.now)) 0
  let at_ := el.filter (fun t => t.2.eff s.now = lvl)
  let P := s.part p
  let ring := joinRing lvl P.seen s.now P.lack (Tab.get [] P.rings lvl) at_
  let low := ring.foldl (fun m a => max m (Int.toNat (-(Tab.get 0 P.deficit a)) / 25000)) 0
  let w := walkRing s.weight ((ring.length + 1) * (low + 3)) ring P.deficit
  let s' := s.setPart p { P with deficit := w.2.2, rings := Tab.put P.rings lvl w.2.1 }
  match w.1 with
  | none => (none, s)
  | some a => (oldest (at_.filter (fun t => t.2.r.asid = a)), s')

/-- Gathering ends when its record starts, or is held, moved or no longer eligible (R111). -/
def State.endGather (s : State) (p : Nat) : State :=
  match (s.part p).gather with
  | none => s
  | some (tid, _, _) => match s.task tid with
    | some t => if s.ready p tid t then s else s.setPart p { s.part p with gather := none }
    | none => s.setPart p { s.part p with gather := none }

/-- Since when each record of a list has stood there, where the last step knew it, else since now. -/
def State.sinceWhen (s : State) (old : Tab Nat) (l : List (Nat × Task)) : Tab Nat :=
  l.map (fun t => (t.1, Tab.get s.now old t.1))

/-- What a partition notices after every step (R106, R109, R111): rings lose and gain ASIDs, gathering ends, and the times run that
a level-7 record has had no idle core and a tandem only no idle group. -/
def State.settlePart (s : State) (p : Nat) : State :=
  let s := s.endGather p
  let P := s.part p
  let el := s.tasks.filter (fun t => s.eligibleIn p t.1 t.2)
  let at_ := fun (n : Nat) => el.filter (fun t => decide (t.2.eff s.now = n))
  let busy := !(partCores p).any s.idleCore
  s.setPart p { P with
    rings := ((List.range 8).map (fun n => (n, joinRing n P.seen s.now P.lack (Tab.get [] P.rings n) (at_ n)))).filter (fun r => r.2 ≠ [])
    full := if busy then s.sinceWhen P.full (at_ 7) else []
    lack := s.sinceWhen P.lack (s.tasks.filter (fun t => s.ready p t.1 t.2 && decide (t.2.r.tw ≠ 0) && !s.eligibleIn p t.1 t.2))
    seen := s.now }

/-- The partitions that hold records or keep something of them. -/
def State.settleParts (s : State) : State :=
  ((s.tasks.map (fun t => t.2.part) ++ s.parts.map Prod.fst).dedup).foldl (fun s p => s.settlePart p) s

/-! ### Charging (R107) -/

/-- The running time of a record up to now, or up to its halt, is charged. -/
def State.charge (s : State) (t : Nat) (members : Nat) : State :=
  match s.task t with
  | none => s
  | some x =>
    let P := s.part x.part
    let d := Tab.get 0 P.deficit x.r.asid - ((x.halted.getD s.now - x.start) * members : Nat)
    s.setPart x.part { P with deficit := Tab.put P.deficit x.r.asid d }

/-! ### Requests to running continuations (R109, R111, R126, R230) -/

def State.taskOf (s : State) (g : Nat) : Option Nat := if isGearC g then (s.coreC g).task else (s.coreP g).task
def State.inHandler (s : State) (g : Nat) : Bool := isGearC g && (s.coreC g).inH
/-- Every core that the continuation on core g holds (R112). -/
def State.groupOf (s : State) (g : Nat) : List Nat :=
  if isGearC g && (s.coreC g).group ≠ [] then (s.coreC g).group else [g]

/-- Request a soft pre-emption of the continuation on core g (R230); a second request adds nothing. -/
def State.askSoft (s : State) (g : Nat) : State :=
  (s.groupOf g).foldl (fun s g =>
    if isGearC g then s.modC g (fun c => if c.soft.isSome then c else { c with soft := some s.now })
    else s.modP g (fun c => if c.soft.isSome then c else { c with soft := some s.now })) s

/-- Request a shift (R126). -/
def State.askShift (s : State) (g : Nat) : State :=
  (s.groupOf g).foldl (fun s g =>
    if isGearC g then s.modC g (fun c => { c with shift := true }) else s.modP g (fun c => { c with shift := true })) s

/-- Count an event of a partition (0x0501 to 0x0504) in the totals of an ASID (R247, R249). -/
def State.countPart (s : State) (asid ev : Nat) : State := s.countTotal asid ev 1

/-- SOFT_PREEMPTION (R230): asked by the driver or the debugger of a running continuation. -/
def execSoftPreemption (g : Nat) (s : State) : Host.Outcome State Fault Refusal :=
  if s.runOf g = .running then .next ((s.askSoft g).countPart (s.asidOf g) 0x0503) else .next s

/-- The gear that R124 would choose now for the record running on core g differs from the gear it runs in (R126). -/
def State.wouldShift (s : State) (g : Nat) : Bool :=
  match (s.taskOf g).bind s.task with
  | none => false
  | some x =>
    decide (x.r.key ≠ 0) && (match (s.place x.r (posterDie g) x.hint).1 with
      | .ok pl => decide (partGear pl.part ≠ gearOf g)
      | .error _ => false)

/-- A running record whose segment has changed tier, or for which bundles were published, is due a shift request (R125, R126), and the
die that its placement uses is found again (R97), so that a publication for that die concerns it; another one is evaluated again
(R99). -/
def State.tierChanged (s : State) (t : Nat) (x : Task) : State :=
  if x.st = .running then
    match s.place x.r x.pdie x.hint with
    | (.ok pl, s) => s.setTask t { x with asked := true, pdie := pl.die, tier := pl.tier }
    | (.error _, s) => s.setTask t { x with asked := true }
  else s.reevaluate t

/-- SHIFT_REQUEST (R126): a request that is due reaches the continuation, if R124 would now choose another gear. -/
def execShiftRequest (g : Nat) (s : State) : Host.Outcome State Fault Refusal :=
  let t := (s.taskOf g).getD 0
  match s.task t with
  | none => .next s
  | some x =>
    if s.runOf g = .running ∧ x.asked then
      let s' := s.setTask t { x with asked := false }
      .next (if s.wouldShift g then (s'.askShift g).countPart (s.asidOf g) 0x0502 else s')
    else .next s

/-- The running records of a partition with a core of each. -/
def State.runningIn (s : State) (p : Nat) : List (Nat × Task) :=
  (partCores p).filterMap (fun g => if s.runOf g = .running then ((s.taskOf g).bind s.task).map (fun t => (g, t)) else none)

/-- LEVEL7_PREEMPT (R109): a level-7 record that has been eligible for 20 µs with no idle core pre-empts the lowest, of equals the one
most recently dispatched or resumed (a resumption counts as a dispatch here, log 88). -/
def execLevel7Preempt (p : Nat) (s : State) : Host.Outcome State Fault Refusal :=
  let due := s.tasks.any (fun t => s.eligibleIn p t.1 t.2 && decide (t.2.eff s.now = 7) && (match Tab.find (s.part p).full t.1 with
    | some at_ => decide (at_ + 20000 ≤ s.now)
    | none => false))
  let low := (s.runningIn p).foldl (fun (m : Option (Nat × Task)) x => match m with
    | none => some x
    | some y => if x.2.prio < y.2.prio ∨ (x.2.prio = y.2.prio ∧ y.2.disp < x.2.disp) then some x else some y) none
  if due && !(partCores p).any s.idleCore then
    match low with
    | some x => .next ((s.askSoft x.1).countPart x.2.r.asid 0x0503)
    | none => .next s
  else .next s

/-- Tandem records that lack only idle cores for 64 µs (R111). -/
def State.gatherers (s : State) (p : Nat) : List (Nat × Task) :=
  s.tasks.filter (fun t => s.ready p t.1 t.2 && decide (t.2.r.tw ≠ 0) && !s.eligibleIn p t.1 t.2 &&
    (match Tab.find (s.part p).lack t.1 with
      | some at_ => decide (at_ + 64000 ≤ s.now)
      | none => false))

/-- GATHER_START (R111): the highest effective priority gathers, the oldest among those. -/
def execGatherStart (p : Nat) (s : State) : Host.Outcome State Fault Refusal :=
  let l := s.gatherers p
  let hi := l.foldl (fun m t => max m (t.2.eff s.now)) 0
  if (s.part p).gather.isSome ∨ 32 ≤ p then .next s
  else match oldest (l.filter (fun t => t.2.eff s.now = hi)) with
    | none => .next s
    | some t => .next (s.setPart p { s.part p with gather := some (t.1, s.now, false) })

/-- GATHER_PREEMPT (R111): 1 ms after gathering began, soft pre-emption goes to the aligned group with the fewest busy
cores, to every continuation of at most the tandem's priority. -/
def execGatherPreempt (p : Nat) (s : State) : Host.Outcome State Fault Refusal :=
  match (s.part p).gather with
  | none => .next s
  | some (tid, at_, sent) => match s.task tid with
    | none => .next (s.setPart p { s.part p with gather := none })
    | some t =>
      if sent ∨ s.now < at_ + 1000000 then .next s
      else
        let busy := fun l : List Nat => (l.filter (fun g => !s.idleCore g)).length
        let best := (alignedGroups p (widthOf t.r.tw)).foldl (fun (m : Option (List Nat)) l => match m with
          | none => some l
          | some x => if busy l < busy x then some l else some x) none
        let s' := (best.getD []).foldl (fun s g => match (s.taskOf g).bind s.task with
          | some x => if s.runOf g = .running ∧ x.prio ≤ t.eff s.now then (s.askSoft g).countPart x.r.asid 0x0503 else s
          | none => s) s
        .next (s'.setPart p { s'.part p with gather := some (tid, at_, true) })

/-! ### Posting (R101, R175, R378) -/

/-- Management firmware posts a record for its own use from die d (R175): it runs at system privilege. Nothing where the record is
invalid, its KEY does not translate, or no slot is free. -/
def State.firmwarePost (s : State) (d : Nat) (r : Rec) : State :=
  if s.recOk r none true = false then s
  else match s.place r d 0 with
    | (.error _, s) => s
    | (.ok pl, s) => match s.grant pl.part r.asid with
      | none => s
      | some res =>
        let n := s.ntask
        let s := s.insertTask r pl 0 0 res
        match s.task n with
        | some x => s.setTask n { x with fw := true }
        | none => s

/-- The debugger sets HELD on a runnable record, which stops aging (R113). -/
def State.holdTask (s : State) (t : Nat) : State :=
  match s.task t with
  | some x => if x.st = .runnable ∧ x.r.held = false then
      s.setTask t { x with r := { x.r with w0 := setBits x.r.w0 49 1 1 }, pause := s.now } else s
  | none => s

/-- Post one record from core g: 0 posted, 1 invalid, 2 its KEY does not translate, 3 no slot. -/
def State.postRec (s : State) (g : Nat) (r : Rec) : Nat × State :=
  let grp := (((s.taskOf g).bind s.task).map Task.grp).getD 0
  let sys := isGearC g && (s.coreC g).priv
  if s.recOk r (some (s.asidOf g)) sys = false then (1, s)
  else match s.place r (posterDie g) (posterHint g) with
    | (.error _, s) => (2, s)
    | (.ok pl, s) => match s.grant pl.part r.asid with
      | none => (3, s)
      | some res => (0, s.insertTask (s.holdPosts r) pl grp (posterHint g) res)

end Sys2Proof.Machine
end

