-- ==== Sys2Proof/Machine/Order.lean ====
section
/-! DEFINITION. Scopes, publications, discards, acquires, hasps, the answer to a held operation (R135, R140 to R150, R287, R361). -/

namespace Sys2Proof.Machine

/-! ### Discards (R143, R146) -/

/-- Does a piece [a, a + n) of a list touch the 64 bytes at `l`? -/
def touches (ps : List (Nat × Nat)) (l : Nat) : Bool := ps.any (fun p => decide (l < p.1 + p.2) && decide (p.1 < l + 64))

/-- The dies in whose RLC an acquire or observation of core g at a scope code discards: its own at die scope, at device scope and wider
all four, so that a packet posted afterwards to any die's channel reads after it (R143, R148, R430; log 86). -/
def reachDies (g scope : Nat) : List Nat := if scope < 2 then [] else if scope = 2 then [dieOf g] else List.range 4

/-- Lines of some dies' RLC leave. -/
def State.dropRlc (s : State) (ds : List Nat) (hit : Nat → Bool) : State :=
  ds.foldl (fun s d => s.setDie d { s.die d with rlc := (s.die d).rlc.filter (fun e => !hit e.1) }) s

/-- Discard the copies of some locations that core g's acquire at a scope code reaches: read staging, and at die scope or
wider RLC lines. -/
def State.dropCopies (s : State) (g scope : Nat) (ps : List (Nat × Nat)) : State :=
  let s := if isGearC g then
      s.modC g (fun c => { c with rst := c.rst.filter (fun l => !touches ps (locClus (clusterOf g) l.addr)) }) else s
  s.dropRlc (reachDies g scope) (touches ps)

/-- `hobs` (R146): every copy. -/
def State.observe (s : State) (g scope : Nat) : State :=
  let s := if isGearC g then s.modC g (fun c => { c with rst := [] }) else s
  s.dropRlc (reachDies g scope) (fun _ => true)

/-- Publish every write of the continuation on core g (R150). -/
def State.publish (s : State) (g : Nat) : State := if isGearC g then s.drainAll g else s

/-- Packet SCOPE extents (R135): is core g within the extent of what a packet wrote? The code is SCOPE, or 16 + cluster
for group scope with a scratchpad destination. -/
def inExtent (g ch code : Nat) : Bool :=
  if code = 0 ∨ code = 3 then true
  else if code < 16 then decide (dieOf g = ch / 512) else isGearC g && decide (clusterOf g = code - 16)

/-- Acquire the packets of a channel up to a number (R149). -/
def State.acquireTo (s : State) (g ch n : Nat) : State :=
  let ls := ((s.chan ch).wrote.filter (fun w => decide (w.1 ≤ n) && inExtent g ch w.2.1)).map (fun w => (w.2.2, 64))
  s.dropCopies g 3 ls

/-! ### A core at dispatch (R171, R172) -/

/-- A gear C core at dispatch; what a switch loses is free (log 3). -/
def CoreC.dispatched (c : CoreC) (n : Nat) (r : Rec) (t : Nat) (sys : Bool) (grp : List Nat) (lane : Nat) (addr now : Nat) : CoreC :=
  { CoreC.reset with
    run := .running, sys := sys, cont := some r, task := some t, lead := grp.headD 0, group := if grp.length = 1 then [] else grp
    tw := r.tw, lane := lane, g := File.lost n, o := File.lost n, v := File.lost n, p := File.lost n, l := File.lost n
    ports := File.lost n, l2 := File.lost (n + 1), h := File.lost (n + 1), fetch := addr, issAt := now, l1 := c.l1
    wst := c.wst
    eng := { Engine.reset with
      idle := c.eng.idle, since := c.eng.since, asleep := c.eng.asleep
      tiles := { Tiles.reset with banks := (List.range 4).map (fun i => ⟨[], some (n + 2 + i), 0, none⟩) } } }

/-! ### Hasps (R141, R362, R371) -/

def haspDie (i : Nat) : Nat := (i >>> 19) % 4
def State.hasp (s : State) (asid i : Nat) : Option HaspEnt :=
  if 2 ^ 21 ≤ i then none
  else match Tab.find (s.die (haspDie i)).hasps (i % 2 ^ 19) with
    | some h => if h.asid = asid then some h else none
    | none => none

/-- Locations of a region by its name, as copy-engine reads of an engine's die; pages that do not translate hold no
copy. -/
def State.regionLocs (s : State) (d asid g : Nat) (name : Word) (n : Nat) : List (Nat × Nat) :=
  let a := bitsOf name 0 56
  match bitsOf name 56 8 with
  | 0 => (List.range (n / 4096 + 2)).filterMap (fun i =>
      let lo := max a (a / 4096 * 4096 + 4096 * i)
      let hi := min (a + n) (a / 4096 * 4096 + 4096 * (i + 1))
      if hi ≤ lo ∨ 2 ^ 54 ≤ lo then none
      else match (s.walk d asid (s.readDesc d asid) lo .read).1 with
        | .ok (t, pa) => some ((t.phys lo pa).loc, hi - lo)
        | .error _ => none)
  | 1 => [(locCore (if isGearC g then paBits a 32 9 else g) (a % 2 ^ 28), n)]
  | _ => [(locClus (clusterOf (paBits a 32 9)) (a % 2 ^ 28), n)]

/-- Locations of every region bound to a hasp. -/
def State.boundLocs (s : State) (d : Nat) (h : HaspEnt) : List (Nat × Nat) :=
  h.regions.flatMap (fun r => s.regionLocs d h.asid r.2.2 r.1 r.2.1)

/-- D is set in the leaf of a hasp word in the device's address space that is about to be written, as at every first write through a
translation (R83), so that a later DEMOTE writes its page back (R120). -/
def State.dirtyHasp (s : State) (d : Nat) (h : HaspEnt) : State :=
  if bitsOf h.name 56 8 ≠ 0 then s
  else match s.walk d h.asid (s.readDesc d h.asid) (bitsOf h.name 0 54) .write with
    | (.ok (t, _), s) => if t.d then s else ((s.setPte d t 0x18).map Prod.snd).getD s
    | (.error _, s) => s

/-- A write of a hasp's word at its home, as a write of die d. -/
def State.writeHasp (s : State) (d : Nat) (h : HaspEnt) (v : Word) : State :=
  let s := s.dirtyHasp d h
  if h.loc < 2 ^ 64 then s.devWrite d h.loc v.toNat 8 else s.write h.loc v.toNat 8

/-- A location lies in the scratchpad of a core whose shutter is closed (R246). -/
def State.shutAt (s : State) (a : Nat) : Bool :=
  decide (locCore 0 0 ≤ a ∧ a < locClus 0 0) && (Tab.get Block.reset s.blocks ((a - locCore 0 0) >>> 32)).shut

/-! ### Held operations -/

/-- The hold of core g: slot 7 on gear C. -/
def State.heldAs (s : State) (g : Nat) : Option Hold := if isGearC g then ((s.coreC g).slot 7).hold else (s.coreP g).hold

/-- Note in a held operation how far it has come. -/
def State.holdSt (s : State) (g n : Nat) : State :=
  if isGearC g then s.modC g (fun c => c.modSlot 7 (fun q => { q with hold := q.hold.map (fun h => { h with st := n }) }))
  else s.modP g (fun c => { c with hold := c.hold.map (fun h => { h with st := n }) })

/-- Write x[rd] (R384). -/
def CoreP.setX (c : CoreP) (rd : Nat) (w : Word) : CoreP := if rd = 0 then c else { c with x := c.x.put rd w }

/-- The spans of the `.suspend` loops of the entry that core g runs (R438): LOOP, label, last address. -/
def State.spans (s : State) (g : Nat) : List (Nat × Nat × Nat) :=
  ((((s.coreP g).cont.bind s.entry)).map Entry.spans).getD []

/-- Arrival counts when control passes from one address to another (R438). -/
def arriveLoops (spans : List (Nat × Nat × Nat)) (old new : Nat) (t : Tab Nat) : Tab Nat :=
  spans.foldl (fun t l =>
    if new = l.2.1 then
      Tab.put t l.1 (if l.2.1 ≤ old ∧ old ≤ l.2.2 then Tab.get 0 t l.1 + 1 else 0)
    else t) t

/-- A portable instruction completes, and control passes to `new` (R401, R438). -/
def State.goTo (s : State) (g new : Nat) : State :=
  let sp := s.spans g
  s.modP g (fun c => { c with
    pc := new % 2 ^ 64, retired := c.retired + 1, loops := arriveLoops sp c.pc (new % 2 ^ 64) c.loops, bpSkip := false
    arrived := true, issAt := s.now
    -- a step ends after one instruction (R242)
    stop := if c.step1 && c.stop.isNone then some (causeWord true 0 0x31 0, none) else c.stop })
def State.advance (s : State) (g : Nat) : State := s.goTo g ((s.coreP g).pc + 4)

/-- Release core g's held operation, with the result it lands, if any: 2 cycles after the release on gear C (R287), in
x[rd] on gears S and M (R397). -/
def State.answer (s : State) (g : Nat) (w : Option Word) : State :=
  match s.heldAs g with
  | none => s
  | some h =>
    if isGearC g then
      let s := match w with
        | some x => s.modC g (fun c => c.start 7 2 h.idx (TVal.ofWord x) 0 (if h.k then 1 else 0))
        | none => s
      let s := s.modC g (fun c => c.modSlot 7 (fun q => { q with hold := none }))
      s.modC (s.leader g) (fun c => c.modSlot 7 (fun q => { q with avail := max q.avail (c.clk + 1) }))
    else (s.modP g (fun c => { (match w with | some x => c.setX h.rd x | none => c) with hold := none })).advance g

/-- Stop core g at the bundle or instruction of its held operation, with an asynchronous cause (R227, R363). -/
def State.stopHeld (s : State) (g code detail : Nat) : State :=
  match s.heldAs g with
  | none => s
  | some h =>
    if isGearC g then
      let lead := s.leader g
      let s := s.modC g (fun c => c.modSlot 7 (fun q => { q with hold := none }))
      let s := s.modC lead (fun c => c.modSlot 7 (fun q => { q with next := h.idx }))
      s.requestStop lead ⟨h.idx, (s.coreC lead).addrOf h.idx, causeWord true 0 code detail, some g, none⟩
    else (s.modP g (fun c => { c with hold := none })).stopP g (causeWord true 0 code detail)

/-- The lowest-numbered packet of a channel of this ASID that faulted unrecoverably and that an acquire up to n covers
(R227). -/
def State.coveredFault (s : State) (asid ch n : Nat) : Option (Nat × Nat) :=
  if (s.chan ch).pending && decide ((s.chan ch).asid = asid) then
    ((s.chan ch).faulted.filter (fun f => decide (f.1 ≤ n))).foldl (fun m f => match m with
      | none => some f
      | some x => if f.1 < x.1 then some f else some x) none
  else none

/-- DETAIL of cause 0x20. -/
def faultDetail (ch : Nat) (f : Nat × Nat) : Nat := (ch <<< 32) + (f.2 <<< 24) + f.1 % 2 ^ 24

end Sys2Proof.Machine
end

