-- ==== Sys2Proof/Machine/Packet.lean ====
section
/-! DEFINITION. Packets as words, their CRC, and the front-end's accesses to ring, write index and status ring (R47 to
R55, R62 to R65, R363). -/

namespace Sys2Proof.Machine

/-! ### Fields (R55) -/

def Pkt.w (p : Pkt) (i : Nat) : Word := p.words.getD i 0
def Pkt.op (p : Pkt) : Nat := bitsOf (p.w 0) 0 8
def Pkt.ntf (p : Pkt) : Bool := (p.w 0).getLsbD 8
def Pkt.acq (p : Pkt) : Bool := (p.w 0).getLsbD 9
def Pkt.rel (p : Pkt) : Bool := (p.w 0).getLsbD 10
def Pkt.scope (p : Pkt) : Nat := bitsOf (p.w 0) 11 2
def Pkt.strict (p : Pkt) : Bool := (p.w 0).getLsbD 13
def Pkt.asid (p : Pkt) : Nat := bitsOf (p.w 0) 16 10
def Pkt.hidx (p : Pkt) : Nat := bitsOf (p.w 0) 32 32
def Pkt.space (p : Pkt) (i : Nat) : Nat := bitsOf (p.w i) 56 8
def Pkt.addr (p : Pkt) (i : Nat) : Nat := bitsOf (p.w i) 0 56
def Pkt.rb (p : Pkt) : Nat := bitsOf (p.w 3) 0 32
def Pkt.rows (p : Pkt) : Nat := bitsOf (p.w 3) 32 32
def Pkt.sp (p : Pkt) : Nat := bitsOf (p.w 4) 0 32
def Pkt.dp (p : Pkt) : Nat := bitsOf (p.w 4) 32 32
def Pkt.dtag (p : Pkt) : Nat := bitsOf (p.w 5) 0 5
def Pkt.stag (p : Pkt) : Nat := bitsOf (p.w 5) 5 5
def Pkt.pln (p : Pkt) : Nat := bitsOf (p.w 5) 10 4
def Pkt.scl (p : Pkt) : Nat := bitsOf (p.w 5) 16 32
def Pkt.opnd (p : Pkt) : Word := p.w 6
def Pkt.segIdx (p : Pkt) : Nat := bitsOf (p.w 7) 16 16
def Pkt.ch (p : Pkt) : Nat := bitsOf (p.w 7) 0 16

/-- A packet as it is taken, from its number, its words and its poster. -/
def Pkt.ofWords (n : Nat) (ws : List Word) (by_ : Option (Nat × Option Nat)) : Pkt :=
  ⟨n, ws, by_.map Prod.fst, by_.bind Prod.snd, false, 0, false, 0, none, false, none, false, 0, none, [], [], []⟩

/-- Names that portable code may not use (R398): another core, a cluster scratchpad, a window. -/
def Pkt.foreign (p : Pkt) : Bool :=
  [1, 2].any (fun i => decide (p.space i = 2 ∨ p.space i = 3 ∨ (p.space i = 1 ∧ bitsOf (p.w i) 32 9 ≠ 0)))

/-! ### CRC-32 (R55) -/

def crcBits (c : BitVec 32) : Nat → BitVec 32
  | 0 => c
  | n + 1 => crcBits (if c.getLsbD 0 then (c >>> 1) ^^^ 0xEDB88320 else c >>> 1) n

/-- Over `n` bytes of a number, little-endian. -/
def crcFrom (c : BitVec 32) (x : Nat) : Nat → BitVec 32
  | 0 => c
  | n + 1 => crcFrom (crcBits (c ^^^ BitVec.ofNat 32 (x % 256)) 8) (x / 256) n

def crc32 (x n : Nat) : BitVec 32 := ~~~(crcFrom 0xFFFFFFFF x n)

/-- CRC of the words w0 to w6. -/
def pktCrc (l : List Word) : BitVec 32 := crc32 (ofWords (l.take 7)) 56

/-! ### Accesses of a front-end (R47) -/

/-- The copy engine of a channel (R47). -/
def engOf (ch : Nat) : Nat := ch / 64

/-- Locations of `n` bytes at a VA by a copy engine's translation, page by page; a VA beyond 54 bits is mapped by no table (log 40). -/
def State.engLocs (s : State) (e asid va n : Nat) (acc : Acc) : Nat → Except Nat (List Phys × List (Nat × Nat)) × State
  | 0 => (.ok ([], []), s)
  | k + 1 =>
    if n = 0 then (.ok ([], []), s)
    else if 2 ^ 54 ≤ va then (.error 0x01, s)
    else match s.translate e asid va acc none with
      | (.error f, s) => (.error f, s)
      | (.ok p, s) =>
        let m := min n p.left
        match s.engLocs e asid (va + m) (n - m) acc k with
        | (.error f, s) => (.error f, s)
        | (.ok l, s) => (.ok (p :: l.1, (p.loc, m) :: l.2), s)

def State.engPieces (s : State) (e asid va n : Nat) (acc : Acc) : Except Nat (List (Nat × Nat)) × State :=
  match s.engLocs e asid va n acc (n / 4096 + 2) with
  | (.error f, s) => (.error f, s)
  | (.ok l, s) => (.ok l.2, s)

/-- Read or write through a channel's engine at the home of each line; ring and status traffic is not counted (R87). -/
def State.feRead (s : State) (ch va n : Nat) : Except Nat Nat × State :=
  match s.engPieces (engOf ch) (s.chan ch).asid va n .read with
  | (.error f, s) => (.error f, s)
  | (.ok l, s) => (.ok (s.readLocs l), s)
def State.feWrite (s : State) (ch va x n : Nat) : Except Nat Unit × State :=
  match s.engPieces (engOf ch) (s.chan ch).asid va n .write with
  | (.error f, s) => (.error f, s)
  | (.ok l, s) => (.ok (), s.pieceWrite (engOf ch / 8) x l)

/-- A front-end access that faults is parked (R47, R226), but for the pin-retired fault, which is retried (R86). -/
def State.parkFe (s : State) (ch f : Nat) : State :=
  if f = 0x08 then s else s.modChan ch (fun c => { c with parked := some (f, s.now) })

def Chan.size (c : Chan) : Nat := 2 ^ c.log
def Chan.slotVa (c : Chan) (i : Nat) : Nat := c.ring + 64 * (i % c.size)
/-- Parity of the lap of index i (R52). -/
def Chan.parity (c : Chan) (i : Nat) : Nat := (i / c.size) % 2

/-- A posted packet as the front-end writes it (R363): ASID, phase and CRC are its own. -/
def Chan.stamp (c : Chan) (i : Nat) (l : List Word) : List Word :=
  let w0 := setBits (setBits (l.getD 0 0) 16 10 c.asid) 14 1 (c.parity i)
  let l := w0 :: (l.drop 1).take 6
  l ++ [setBits 0 32 32 (pktCrc l).toNat]

/-- Its w7 keeps SEG and CH of the image. -/
def Chan.stamped (c : Chan) (i : Nat) (l : List Word) : List Word :=
  let x := c.stamp i l
  x.take 7 ++ [x.getD 7 0 ||| BitVec.ofNat 64 (bitsOf (l.getD 7 0) 0 32)]

/-- Write claimed slots in index order as far as R52 allows (R363). -/
def State.fillSlots (s : State) (ch : Nat) : Nat → State
  | 0 => s
  | k + 1 =>
    let c := s.chan ch
    match c.claims with
    | [] => s
    | q :: t =>
      if c.parked.isSome ∨ c.ridx + c.size ≤ q.idx then s
      else match s.feWrite ch (c.slotVa q.idx) (ofWords (c.stamped q.idx q.words)) 64 with
        | (.error f, s) => s.parkFe ch f
        | (.ok _, s) =>
          (s.modChan ch (fun c => { c with claims := t, posters := Tab.put c.posters q.idx (q.poster, q.grp) })).fillSlots ch k

/-! ### User-level interrupts and messages to the host (R65, R66, R379) -/

/-- A user-level interrupt arrives at core g (R66): a 17th is dropped. True where it was delivered. -/
def State.userInterrupt (s : State) (g : Nat) (w : Word) : Bool × State :=
  let c := s.coreC g
  if c.uq.length < 16 then (true, s.modC g (fun c => { c with uq := c.uq ++ [w] }))
  else (false, s.modC g (fun c => { c with uovf := true }))

/-- The core is running a continuation of the ASID and takes user-level interrupts (R65, R177). -/
def State.takesInterrupts (s : State) (g asid : Nat) : Bool :=
  isGearC g && decide ((s.coreC g).run = .running) && decide ((s.coreC g).asid = asid)

/-- MSI-X vector VEC of a channel's queue: a virtual function has 64 of them (R45). True where the function has the vector. -/
def State.raiseVec (s : State) (ch : Nat) : Bool × State :=
  match (s.chan ch).owner with
  | some (fn, _) => if fn ≠ 0 ∧ 64 ≤ (s.chan ch).vec then (false, s) else (true, s.irq fn (s.chan ch).vec)
  | none => (false, s)

/-- VA of the status word of packet n (R64). -/
def Chan.statVa (c : Chan) (n : Nat) : Nat := c.stat + 8 * ((n - 1) % c.size)

/-- Set or clear ND in the status word of packet n (R64, R177); a word that cannot be reached is lost (R47). -/
def State.setNd (s : State) (ch n : Nat) (b : Bool) : State :=
  match s.feRead ch ((s.chan ch).statVa n) 8 with
  | (.error _, s) => s
  | (.ok x, s) => (s.feWrite ch ((s.chan ch).statVa n) (setBits (BitVec.ofNat 64 x) 8 1 (if b then 1 else 0)).toNat 8).2

/-- Pending user-level interrupts of core g are discarded, and their packets' ND cleared (R177). -/
def State.dropInterrupts (s : State) (g : Nat) : State :=
  let q := (s.coreC g).uq
  if isGearC g = false then s
  else (q.foldl (fun s w => if bitsOf w 0 16 = 0xFFFF then s else s.setNd (bitsOf w 0 16) (bitsOf w 16 48) false) s).modC g
    (fun c => { c with uq := [], uovf := false })

end Sys2Proof.Machine
end

