-- ==== Sys2Proof/Machine/Rows.lean ====
section
/-! DEFINITION. Rows of packets: the addresses they name, translation, holds, counting, conversion, reading and writing
(R56 to R60, R67, R80, R81, R83, R86 to R89, R121, R204, R209, R210, R226, R246, R399, R400, R405). -/

namespace Sys2Proof.Machine

/-! ### Conversion of a row (R210) -/

/-- The source tag as it is read: BNI with q planes. -/
def Pkt.srcTag (p : Pkt) : BitVec 5 :=
  let t := BitVec.ofNat 5 p.stag
  if isBni t then BitVec.ofNat 5 (0x0A + ((if p.pln = 0 then 8 else p.pln) - 2)) else t
def Pkt.dstTag (p : Pkt) : BitVec 5 := BitVec.ofNat 5 p.dtag

/-- Elements of one row. -/
def Pkt.elems (p : Pkt) : Nat := if isBni p.srcTag then p.rb else 8 * p.rb / laneW p.srcTag

/-- Does the packet convert? Equal tags other than BNI are copied unchanged. -/
def Pkt.converts (p : Pkt) : Bool := decide (p.op = 0x01 ∧ p.dtag ≠ 0) && (decide (p.stag ≠ p.dtag) || isBni p.dstTag)

/-- Bytes that a row reads and writes. -/
def Pkt.srcBytes (p : Pkt) : Nat :=
  if p.converts && isBni p.srcTag && decide (p.pln ≠ 0) then p.pln * (p.rb / 8) else p.rb
def Pkt.dstBytes (p : Pkt) : Nat :=
  if p.converts then
    (if isBni p.dstTag then 2 * ((p.elems + bniK (bniP p.dstTag) - 1) / bniK (bniP p.dstTag)) else p.elems * laneW p.dstTag / 8)
  else p.rb

/-- Element e of a source row: a lane, or the q-bit prefix of a code in plane storage (R204). -/
def Pkt.elemOf (p : Pkt) (x e : Nat) : Nat :=
  if isBni p.srcTag then gatherPlanes (fun q => x.testBit (8 * (q * (p.rb / 8) + e / 8) + e % 8)) (bniP p.srcTag)
  else lane (laneW p.srcTag) x e

/-- One converted element: its code. `scale` is the block's scale, if the packet applies one. -/
def Pkt.convOne (p : Pkt) (c : Nat) : Option Nat → Nat
  | none => (convElem p.srcTag p.dstTag c).1
  | some sc =>
    if isBni p.srcTag then (bniScaled (bniP p.srcTag) p.dstTag (elemInt p.srcTag c) sc).1
    else floatToBniScaled p.srcTag p.dstTag c sc

/-- A converted row; `scale b` is the scale of its block b. -/
def Pkt.convRow (p : Pkt) (x : Nat) (scale : Nat → Option Nat) : Nat :=
  sumBits (fun e => elemBits p.dstTag e (p.convOne (p.elemOf x e) (scale (e / 128)))) p.elems

/-- The checks of R201, R209 and R210 on a COPY: bytes between equal tags other than BNI are copied unchanged, whichever tag of R201
it is (log 41). -/
def Pkt.convBad (p : Pkt) : Bool :=
  let s := BitVec.ofNat 5 p.stag
  let d := p.dstTag
  let plnBad := decide (p.pln = 1 ∨ 8 < p.pln) || (decide (p.pln ≠ 0) && !isBni s)
  let sclBad := decide (p.scl ≠ 0) && !((isBni s && isF d) || (isF s && isBni d))
  let same := decide (p.stag = p.dtag) && !isBni s
  if 0x14 ≤ p.stag ∨ 0x14 ≤ p.dtag then true
  else if p.dtag = 0 then plnBad || sclBad
  else plnBad || sclBad || decide (p.stag = 0) || !(same || convOk s d) ||
    (if isBni s then decide (p.rb % 128 ≠ 0) else decide (p.stag ≠ 0x11 ∧ 8 * p.rb % laneW s ≠ 0))

/-! ### Addresses (R56, R57, R399) -/

/-- The core that a scratchpad address names: the poster's own local buffer where a gear S or M core posted it with zero. -/
def Pkt.coreOf (p : Pkt) (field : Nat) : Nat :=
  match p.poster with
  | some g => if 512 ≤ g ∧ field = 0 then g else field
  | none => field

def Pkt.coreAt (p : Pkt) (i : Nat) : Nat := p.coreOf (bitsOf (p.w i) 32 9)

/-- Bytes of scratchpad spaces (R168), as SPACE codes 1 to 3 name them, and the space code of their local addresses. -/
def padSize (space : Nat) : Nat := if space = 1 then 0x80000 else if space = 2 then 0x400000 else 0x10000

/-- An address word is legal (R56): a known SPACE with its reserved bits zero. -/
def Pkt.addrOk (p : Pkt) (i : Nat) : Bool :=
  match p.space i with
  | 0 => decide (p.addr i < 2 ^ 54)
  | 1 | 2 | 3 => decide (p.addr i < 2 ^ 41)
  | 4 => decide (p.addr i < 2 ^ 52)
  | 5 => true
  | _ => false

/-- Bytes [lo, hi) past an address word lie within its scratchpad (R59); other spaces are not limited here. -/
def Pkt.within (p : Pkt) (i : Nat) (lo hi : Int) : Bool :=
  let sp := p.space i
  if sp = 0 ∨ 3 < sp then true
  else
    let off : Int := (p.addr i % 2 ^ 28 : Nat)
    decide (bitsOf (p.w i) 28 4 = sp - 1 ∧ 0 ≤ off + lo ∧ off + hi ≤ (padSize sp : Nat))

/-- The location of a 32-bit scratchpad address in space 0 or 1 with a core number (index lists, scale planes, R57), where
`n` bytes lie wholly within it. -/
def Pkt.padLoc (p : Pkt) (a core n : Nat) : Option Nat :=
  if a / 2 ^ 28 = 0 then (if a % 2 ^ 28 + n ≤ 0x80000 then some (locCore (p.coreOf core) a) else none)
  else if a / 2 ^ 28 = 1 then (if a % 2 ^ 28 + n ≤ 0x400000 then some (locClus (clusterOf core) (a % 2 ^ 28)) else none)
  else none

/-- The index list's location. -/
def Pkt.listLoc (p : Pkt) : Option Nat :=
  if 2 ^ 41 ≤ p.opnd.toNat then none else p.padLoc (bitsOf p.opnd 0 32) (bitsOf p.opnd 32 9) (4 * p.rows)

/-- Bytes of the scale plane, and its location. -/
def Pkt.sclLoc (p : Pkt) : Option Nat :=
  if 2 ^ 41 ≤ p.opnd.toNat ∨ bitsOf p.opnd 0 32 ≠ 0 then none
  else p.padLoc p.scl (bitsOf p.opnd 32 9) (2 * ((p.elems + 127) / 128) * p.rows)

/-- The index list (R57). -/
def State.readList (s : State) (loc : Nat) (n : Nat) : List Int :=
  (List.range n).map (fun r => toSigned 32 (s.read (loc + 4 * r) 4))

/-! ### Translation of a row (R79, R81, R86) -/

/-- The pinned translation of a VA that a packet holds, beside the TLB or in it (R81). -/
def CopyEng.heldBy (c : CopyEng) (ch n asid va : Nat) : Option TlbEnt :=
  (c.gone ++ c.tlb.map Prod.snd).find? (fun t => t.holders.contains (ch, n) && decide (t.asid = asid) && decide (t.base ≤ va) &&
    decide (va < t.base + 2 ^ t.size))

/-- A packet's translation: a pinned one that it holds serves it even when retired, under the checks of every access. -/
def State.pktXlate (s : State) (ch n asid va : Nat) (acc : Acc) : Except Nat Phys × State :=
  let e := engOf ch
  let q := s.engDesc e asid
  match (q.2.ce e).heldBy ch n asid va with
  | some t => q.2.serve e asid q.1 t va acc (some (ch, n))
  | none =>
    let s := if (findTlb (q.2.ce e).tlb (descVm q.1) asid va).isNone then q.2.countTotal (s.chan ch).asid 0x0303 1 else q.2
    s.translate e asid va acc (some (ch, n))

/-- Count an event of a channel in the totals of its ASID. -/
def State.countChan (s : State) (ch ev k : Nat) : State := s.countTotal (s.chan ch).asid ev k

/-- Lines of 64 bytes that pieces in HBM touch. -/
def hbmLines (ps : List (Nat × Nat)) : List Nat :=
  ps.flatMap (fun x => if x.1 < 2 ^ 64 ∧ 0 < x.2 then
    (List.range ((x.1 + x.2 - 1) / 64 + 1 - x.1 / 64)).map (fun k => 64 * (x.1 / 64 + k)) else [])

/-- The lines of an issued row that its engine requests from HBM (R87, R247). -/
def State.countLines (s : State) (ch : Nat) (ps : List (Nat × Nat)) : State :=
  let e := engOf ch
  let ls := hbmLines ps
  let near := (ls.filter (fun l => decide (s.homeOf l = e / 8))).length
  let c := s.ce e
  let s := s.setCe e { c with lreq := c.lreq + BitVec.ofNat 64 near, rreq := c.rreq + BitVec.ofNat 64 (ls.length - near) }
  (s.countChan ch 0x0401 near).countChan ch 0x0402 (ls.length - near)

/-- Pieces in HBM of `n` bytes at a VA, as far as leaves name them: of the pages that a packet's row touches, whether or not its accesses
to them are allowed. A page that no leaf maps lies in no tier. -/
def State.hbmPieces (s : State) (ch num asid : Nat) (va n : Nat) : Nat → List (Nat × Nat)
  | 0 => []
  | k + 1 =>
    if n = 0 ∨ 2 ^ 54 ≤ va then []
    else
      let e := engOf ch
      let q := s.engDesc e asid
      let walked := match (q.2.walkLevels (e / 8) asid q.1 va (descRoot q.1) levels).1 with
        | .ok (w, pte) => some (leafEnt q.1 asid va w pte)
        | .error _ => none
      let t := (((q.2.ce e).heldBy ch num asid va).or (findTlb (q.2.ce e).tlb (descVm q.1) asid va)).or walked
      match t.bind (fun t => ((q.2.frameOf (e / 8) t.desc t va).1).map (fun a => t.phys va a.1)) with
      | some p =>
        let m := max 1 (min n p.left)
        (if p.tier = 0 then [(p.loc, m)] else []) ++ s.hbmPieces ch num asid (va + m) (n - m) k
      | none =>
        let m := min n (4096 - va % 4096)
        s.hbmPieces ch num asid (va + m) (n - m) k

/-- Locations of `n` bytes at a VA, page by page; a VA beyond 54 bits is mapped by no table. An issue that faults has requested its lines
in HBM all the same, and a later issue requests them again (R414, log 81); a code read requests none (R87). -/
def State.pktPieces (s : State) (ch num asid : Nat) (va n : Nat) (acc : Acc) :
    Nat → Except Nat (List (Nat × Nat)) × State
  | 0 => (.ok [], s)
  | k + 1 =>
    if n = 0 then (.ok [], s)
    else if 2 ^ 54 ≤ va then (.error 0x01, s)
    else match s.pktXlate ch num asid va acc with
      | (.error f, s) => (.error f, if acc = .code then s else s.countLines ch (s.hbmPieces ch num asid va n (n / 4096 + 2)))
      | (.ok q, s) =>
        let m := min n q.left
        match s.pktPieces ch num asid (va + m) (n - m) acc k with
        | (.error f, s) => (.error f, if acc = .code then s else s.countLines ch [(q.loc, m)])
        | (.ok l, s) => (.ok ((q.loc, m) :: l), s)

/-- Does the packet address device physical memory with SPACE 0x00 (R67)? -/
def State.pktPhys (s : State) (ch : Nat) (p : Pkt) : Bool := (s.chan ch).priv ch && decide (p.asid = 0x3FF)

/-- Locations of `n` bytes `off` past address word i, or the fault. A row that runs past the last host address or the last offset of a
peer's aperture goes on at the first one: R56 gives the field's width and no rule for it (DESIGN CHOICE, log 94). -/
def State.rowLocs (s : State) (ch : Nat) (p : Pkt) (i : Nat) (off : Int) (n : Nat) (acc : Acc) :
    Except Nat (List (Nat × Nat)) × State :=
  let a : Int := (p.addr i : Int) + off
  let o : Nat := (((p.addr i % 2 ^ 28 : Nat) : Int) + off).toNat
  match p.space i with
  | 0 =>
    if a < 0 then (.error 0x01, s)
    else if s.pktPhys ch p then
      (if 2 ^ 39 < a.toNat + n then (.error 0x06, s)
       else if (List.range (n / 2 ^ 21 + 2)).any (fun i =>
           decide (a.toNat / 2 ^ 21 + i ≤ (a.toNat + n - 1) / 2 ^ 21) && !homePresent (s.homeEnt (2 ^ 21 * (a.toNat / 2 ^ 21 + i)))) then
         (.error 0x05, s)
       else (.ok [(a.toNat, n)], s))
    else s.pktPieces ch p.n p.asid a.toNat n acc (n / 4096 + 2)
  | 1 => (.ok [(locCore (p.coreAt i) o, n)], s)
  | 2 => (.ok [(locClus (clusterOf (p.coreAt i)) o, n)], s)
  | 3 => (.ok [(locCore (p.coreAt i) (0x70000 + o), n)], s)
  | 4 => (.ok [(locPeer (bitsOf (p.w i) 48 4) ((((p.addr i % 2 ^ 48 : Nat) : Int) + off).emod (2 ^ 48)).toNat, n)], s)
  | _ => (.ok [(locHost (a.emod (2 ^ 56)).toNat, n)], s)

/-- The lines in HBM that `n` bytes `off` past address word i take, whether or not they can be accessed (R87, R414). -/
def State.rowLines (s : State) (ch : Nat) (p : Pkt) (i : Nat) (off : Int) (n : Nat) : List (Nat × Nat) :=
  let a : Int := (p.addr i : Int) + off
  if p.space i ≠ 0 ∨ a < 0 ∨ s.pktPhys ch p then [] else s.hbmPieces ch p.n p.asid a.toNat n (n / 4096 + 2)

/-! ### Holds (R121, R246) -/

/-- The MOV bit of a segment that some byte of [va, va + n) lies in (R115, R121). -/
def State.movHeld (s : State) (asid va n : Nat) : Bool :=
  (s.objs.filter (fun o => o.1 >>> 20 = asid)).any (fun o => o.2.bufs.any (fun b =>
    decide (b.seg ≠ 0) && decide (va < b.va + b.size) && decide (b.va < va + n) &&
      (let lo := (max va b.va - b.va) / b.seg
       let hi := (min (va + n) (b.va + b.size) - 1 - b.va) / b.seg
       (List.range (hi + 1 - lo)).any (fun j => (BitVec.ofNat 64 (s.read (b.mapAt (lo + j)) 8)).getLsbD 61))))

/-- Cores whose scratchpad a write of destination word i enters (R246): the named core, or every member of its tandem. -/
def State.padCores (s : State) (p : Pkt) (i : Nat) : List Nat :=
  match p.space i with
  | 1 => [p.coreAt i]
  | 3 => (s.coreC (p.coreAt i)).group
  | _ => []

def State.blockOf (s : State) (g : Nat) : Block := Tab.get Block.reset s.blocks g

/-- The shutter holds a row (R246): of a queue that is not privileged, into a shut core that the packet has not yet
written. -/
def State.shutHeld (s : State) (ch : Nat) (p : Pkt) (i : Nat) : Bool :=
  !(s.chan ch).priv ch && (s.padCores p i).any (fun g => (s.blockOf g).shut && !p.into.contains g)

/-! ### Counting (R87, R247, R249) -/

/-- Lines of a read that the RLC of the engine's die serves (R88, R247). -/
def State.rlcHits (s : State) (d : Nat) (ps : List (Nat × Nat)) : Nat :=
  ((hbmLines ps).filter (fun l => decide (s.homeOf l ≠ d) && (Tab.find (s.die d).rlc l).isSome)).length

/-- What one row counts (R87, R247): the HBM lines it reads at `src` and writes at `dst`, those that the RLC serves, n bytes written. -/
def State.countRow (s : State) (ch : Nat) (src dst : List (Nat × Nat)) (n : Nat) : State :=
  ((s.countLines ch (src ++ dst)).countChan ch 0x0403 (s.rlcHits (engOf ch / 8) src)).countChan ch 0x0302 n

/-! ### Reading and writing -/

/-- Bytes of pieces as an engine of die d reads them: HBM through the RLC (R88). -/
def State.pieceRead (s : State) (d : Nat) : List (Nat × Nat) → Nat × State
  | [] => (0, s)
  | (a, n) :: t =>
    let r := if a < 2 ^ 64 then s.devRead d a n else (s.read a n, s)
    let q := r.2.pieceRead d t
    (r.1 + q.1 <<< (8 * n), q.2)

/-- A flash read that touches a codeword which the ECC cannot correct (R405). -/
def State.flashFails (s : State) (ps : List (Nat × Nat)) : Bool :=
  ps.any (fun x => decide (2 ^ 64 ≤ x.1 ∧ x.1 < 2 ^ 65) &&
    s.flashBad.any (fun c => decide (c * 1024 < x.1 - 2 ^ 64 + x.2) && decide (x.1 - 2 ^ 64 < c * 1024 + 1024)))

/-- Write a row's bytes at destination word i: a window write lands in every member of the tandem (R56). -/
def State.rowWrite (s : State) (ch : Nat) (p : Pkt) (i : Nat) (x : Nat) (ps : List (Nat × Nat)) : State :=
  let d := engOf ch / 8
  if p.space i = 3 then
    (s.coreC (p.coreAt i)).group.foldl (fun s m =>
      s.pieceWrite d x (ps.map (fun q => (q.1 - locCore (p.coreAt i) 0 + locCore m 0, q.2)))) s
  else s.pieceWrite d x ps

/-- Lines that an acquire must discard: those of HBM and of cluster scratchpads. -/
def acqLines (ps : List (Nat × Nat)) : List Nat :=
  hbmLines ps ++ ps.flatMap (fun x => if locClus 0 0 ≤ x.1 then
    (List.range ((x.1 + x.2 - 1) / 64 + 1 - x.1 / 64)).map (fun k => 64 * (x.1 / 64 + k)) else [])

/-- The core that a soft error in a scratchpad which a packet reads or writes stops, where the structure names none (R228). -/
def State.meetRow (s : State) (p : Pkt) (ps : List (Nat × Nat)) : State := s.meetMem p.poster ps

/-- The copy engine wins the banks of the cluster scratchpads that its pieces lie in (R169). -/
def State.wonRow (s : State) (ps : List (Nat × Nat)) : State :=
  (clusLinesOf ps).foldl (fun s l => s.won l.1 l.2 srcCopy) s

/-! ### Packets of a channel -/

def State.pkt (s : State) (ch n : Nat) : Option Pkt := (s.chan ch).pkts.find? (fun p => p.n = n)
def State.modPkt (s : State) (ch n : Nat) (f : Pkt → Pkt) : State :=
  s.modChan ch (fun c => { c with pkts := c.pkts.map (fun p => if p.n = n then f p else p) })

/-- A packet's own operation has finished. -/
def State.pktDone (s : State) (ch n code : Nat) : State := s.modPkt ch n (fun p => { p with done := true, code := code })

/-- A row's translation faults: parked, or to be retried by the engine where the pinned entry is retired (R226, R86). -/
def State.pktFault (s : State) (ch n f : Nat) : State :=
  let s := if f = 0x08 then s else s.countChan ch 0x0304 1
  s.modPkt ch n (fun p => if f = 0x08 then { p with retry := true } else { p with fault := some (f, s.now) })

/-- What one row came to. -/
inductive RowOut where
  | go | stop
  deriving DecidableEq, Repr

/-- One row from source word 1 (if the packet has one) to destination word 2: a fault or a hold stops the packet there;
an uncorrectable flash read ends it with 0x01 (R64). `f` makes the bytes written from the bytes read. -/
def State.oneRow (s : State) (ch : Nat) (p : Pkt) (src : Option Int) (dst : Int) (f : Nat → Nat) : RowOut × State :=
  let va := ((p.addr 2 : Int) + dst).toNat
  if s.shutHeld ch p 2 ∨ (p.space 2 = 0 ∧ s.pktPhys ch p = false ∧ s.movHeld p.asid va p.dstBytes) then (.stop, s)
  else
    let a := match src with
      | none => (Except.ok [], s)
      | some o => s.rowLocs ch p 1 o p.srcBytes .read
    match a with
    | (.error x, s) => (.stop, (s.countLines ch (s.rowLines ch p 2 dst p.dstBytes)).pktFault ch p.n x)
    | (.ok sp, s) => match s.rowLocs ch p 2 dst p.dstBytes .write with
      | (.error x, s) => (.stop, (s.countLines ch sp).pktFault ch p.n x)
      | (.ok dp, s) =>
        if s.piecesLose srcCopy (sp ++ dp) then (.stop, s)
        else if s.flashFails sp then (.stop, (s.countLines ch (sp ++ dp)).pktDone ch p.n 0x01)
        else
          let s := (s.meetRow p (sp ++ dp)).wonRow (sp ++ dp)
          let s := s.countRow ch sp dp p.dstBytes
          let r := s.pieceRead (engOf ch / 8) sp
          let s := r.2.rowWrite ch p 2 (f r.1) dp
          let cores := s.padCores p 2
          (.go, s.modPkt ch p.n (fun q => { q with
            row := q.row + 1, retry := false, lines := q.lines ++ acqLines dp, into := (q.into ++ cores).dedup }))

/-- The packet's next row, one at a step (log 8); the last one finishes the packet. -/
def State.nextRow (s : State) (ch : Nat) (p : Pkt) (row : State → Nat → RowOut × State) : State :=
  match row s p.row with
  | (.stop, s) => s
  | (.go, s) => if p.rows ≤ p.row + 1 then s.pktDone ch p.n 0 else s

/-! ### Starting a packet (R61, R63) -/

/-- Opcodes that wait for every earlier packet of their channel (R61). -/
def Pkt.waitsAll (p : Pkt) : Bool := p.strict || p.acq || decide (7 ≤ p.op)

def Pkt.started (p : Pkt) : Bool := p.done || decide (p.phase ≠ 0)

/-- May packet n start: every earlier one has started, or completed where it waits for all (R61). -/
def Chan.mayStart (c : Chan) (p : Pkt) : Bool :=
  (c.pkts.filter (fun q => q.n < p.n)).all (fun q => q.started && !p.waitsAll)

/-- Scope under which a packet's writes are acquired and its own acquire acts: SCOPE, or for group scope with a scratchpad destination
16 + its cluster, with another destination die (R135, R149). -/
def Pkt.extent (p : Pkt) : Nat :=
  if p.scope = 1 then (if 1 ≤ p.space 2 ∧ p.space 2 ≤ 3 then 16 + clusterOf (p.coreAt 2) else 2) else p.scope

/-- Copies that a packet's acquire of a hasp discards on its engine's die (R63, R143): the RLC lines of the bound regions where its
scope is die or wider (R135), and those of the word itself, which the die's later reads may not return older (R136). -/
def State.pktAcquire (s : State) (ch : Nat) (p : Pkt) (h : HaspEnt) : State :=
  let d := engOf ch / 8
  (s.meetRow p [(h.loc, 8)]).dropRlc [d] (touches ((h.loc, 8) :: (if p.extent < 16 then s.boundLocs d h else [])))

/-- A packet that took the pin-retired fault is issued again only when the invalidation has completed: while the TLB of its engine has a
retired entry of its address space, it waits (R86). -/
def State.pinWaits (s : State) (ch : Nat) (p : Pkt) : Bool :=
  p.retry && (s.ce (engOf ch)).tlb.any (fun t => t.2.retired && decide (t.2.asid = p.asid))

/-- Packet n of a channel acts, if it has opcode `op`, is unfinished, not parked, and has started or may start; an acquire
waits for its hasp (R63). -/
def State.onPkt (s : State) (ch n op : Nat) (act : State → Pkt → State) : Host.Outcome State Fault Refusal :=
  match s.pkt ch n with
  | none => .next s
  | some p =>
    if p.op ≠ op ∨ p.done ∨ p.bad ∨ p.fault.isSome ∨ s.pinWaits ch p then .next s
    else if p.phase ≠ 0 then .next (act s p)
    else if (s.chan ch).mayStart p = false then .next s
    else
      let begin_ := fun (s : State) =>
        let s := s.modPkt ch n (fun q => { q with phase := 1 })
        act s { p with phase := 1 }
      if p.acq then
        match s.hasp p.asid p.hidx with
        | none => .next s
        | some h => if s.read h.loc 8 = 0 then .next s else .next (begin_ (s.pktAcquire ch p h))
      else .next (begin_ s)

/-- A destination in a window whose core runs no tandem ends the packet with 0x05 (R56). -/
def State.windowGone (s : State) (p : Pkt) (i : Nat) : Bool :=
  decide (p.space i = 3) && (decide ((s.coreC (p.coreAt i)).run = .idle) || (s.coreC (p.coreAt i)).group.isEmpty)

/-! ### The row packets (R57, R58) -/

/-- The frame of the row packets: nothing to move, or the next row. -/
def State.rowsFrom (s : State) (ch : Nat) (p : Pkt) (row : State → Nat → RowOut × State) : State :=
  if p.rows = 0 ∨ p.rb = 0 then s.pktDone ch p.n 0
  else if s.windowGone p 2 then s.pktDone ch p.n 0x05
  else s.nextRow ch p row

/-- NULL. -/
def execNullPacket (ch n : Nat) (s : State) : Host.Outcome State Fault Refusal :=
  s.onPkt ch n 0x00 (fun s p => s.pktDone ch p.n 0)

/-- The scales that row r applies, in the scale plane (R210). -/
def Pkt.sclPieces (p : Pkt) (r : Nat) : List (Nat × Nat) :=
  if p.scl = 0 then [] else match p.sclLoc with
    | some l => (List.range ((p.elems + 127) / 128)).map (fun b => (l + 2 * (b * p.rows + r), 2))
    | none => []

/-- The scale of block b of row r, where the packet applies scales (R210). -/
def State.scaleOf (s : State) (p : Pkt) (r b : Nat) : Option Nat :=
  if p.scl = 0 then none else p.sclLoc.map (fun l => s.read (l + 2 * (b * p.rows + r)) 2)

/-- COPY: row r from source + r·SP to destination + r·DP, converted if DTAG ≠ 0. -/
def execCopy (ch n : Nat) (s : State) : Host.Outcome State Fault Refusal :=
  s.onPkt ch n 0x01 (fun s p => s.rowsFrom ch p (fun s r =>
    if p.converts then
      if s.piecesLose srcCopy (p.sclPieces r) then (.stop, s)
      else ((s.meetRow p (p.sclPieces r)).wonRow (p.sclPieces r)).oneRow ch p (some (r * p.sp : Nat)) (r * p.dp : Nat) (fun x => p.convRow x (s.scaleOf p r))
    else s.oneRow ch p (some (r * p.sp : Nat)) (r * p.dp : Nat) (fun x => x)))

/-- FILL: byte b of each row := OPND byte (b mod 8). -/
def execFill (ch n : Nat) (s : State) : Host.Outcome State Fault Refusal :=
  s.onPkt ch n 0x02 (fun s p => s.rowsFrom ch p (fun s r =>
    s.oneRow ch p none (r * p.dp : Nat)
      (fun _ => sumBits (fun j => p.opnd.toNat <<< (64 * j)) (p.rb / 8 + 1) % 2 ^ (8 * p.rb))))

/-- GATHER: row r from source + idx[r]·SP to destination + r·DP. -/
def execGather (ch n : Nat) (s : State) : Host.Outcome State Fault Refusal :=
  s.onPkt ch n 0x03 (fun s p => s.rowsFrom ch p (fun s r =>
    s.oneRow ch p (some (p.list.getD r 0 * (p.sp : Int))) (r * p.dp : Nat) (fun x => x)))

/-- SCATTER: row r from source + r·SP to destination + idx[r]·DP. -/
def execScatter (ch n : Nat) (s : State) : Host.Outcome State Fault Refusal :=
  s.onPkt ch n 0x04 (fun s p => s.rowsFrom ch p (fun s r =>
    s.oneRow ch p (some (r * p.sp : Nat)) (p.list.getD r 0 * (p.dp : Int)) (fun x => x)))

/-- SIGNAL: OPND as 8 bytes at the destination, written as one row. -/
def execSignal (ch n : Nat) (s : State) : Host.Outcome State Fault Refusal :=
  s.onPkt ch n 0x0A (fun s p =>
    if s.windowGone p 2 then s.pktDone ch p.n 0x05
    else
      let one : Pkt := { p with words := p.words.set 3 ((1 : Word) <<< 32 ||| 8) }
      match s.oneRow ch one none 0 (fun _ => p.opnd.toNat) with
      | (.stop, s) => s
      | (.go, s) => s.pktDone ch p.n 0)

/-! ### ATOM (R60) -/

def atomOk (op rb : Nat) : Bool :=
  decide ((op = 1 ∨ op = 3) ∧ rb = 4) || decide (op ≠ 3 ∧ 2 ≤ op ∧ op ≤ 7 ∧ rb = 8)

/-- New value at the target. -/
def atomNew (op old opnd cmp : Nat) : Nat :=
  match op with
  | 1 => (old + opnd) % 2 ^ 32
  | 2 => (old + opnd) % 2 ^ 64
  | 3 => (addFl fp32 (decodeFl fp32 old) (decodeFl fp32 (opnd % 2 ^ 32))).1
  | 4 => if toSigned 64 opnd < toSigned 64 old then opnd else old
  | 5 => if toSigned 64 old < toSigned 64 opnd then opnd else old
  | 6 => opnd
  | _ => if old = cmp then opnd else old

/-- ATOM: one atomic read-modify-write at the target's home; the die's own copy of the line is discarded (R89). No atomic is performed
in host memory (R60): a target there ends the packet with 0x05, also behind a leaf of the host tier (log 40). -/
def execAtom (ch n : Nat) (s : State) : Host.Outcome State Fault Refusal :=
  s.onPkt ch n 0x05 (fun s p =>
    let va := p.addr 2
    let d := engOf ch / 8
    if p.rows = 0 then s.pktDone ch p.n 0
    else if va % p.rb ≠ 0 then s.pktDone ch p.n 0x06
    else if p.space 2 = 0 ∧ s.pktPhys ch p = false ∧ s.movHeld p.asid va p.rb then s
    else if p.w 1 ≠ 0 ∧ s.windowGone p 1 then s.pktDone ch p.n 0x05
    else if p.w 1 ≠ 0 ∧ (s.shutHeld ch p 1 ∨ (p.space 1 = 0 ∧ s.pktPhys ch p = false ∧ s.movHeld p.asid (p.addr 1) p.rb)) then s
    else match s.rowLocs ch p 2 0 p.rb .write with
      | (.error x, s) => (s.countLines ch (if p.w 1 = 0 then [] else s.rowLines ch p 1 0 p.rb)).pktFault ch p.n x
      | (.ok tp, s) =>
        if tp.any (fun x => decide (locHost 0 ≤ x.1 ∧ x.1 < locPeer 0 0)) then s.pktDone ch p.n 0x05 else
        let q := if p.w 1 = 0 then (Except.ok [], s) else s.rowLocs ch p 1 0 p.rb .write
        match q with
        | (.error x, s) => (s.countLines ch tp).pktFault ch p.n x
        | (.ok rp, s) =>
          if s.piecesLose srcCopy (tp ++ rp) then s else
          let s := ((s.meetRow p (tp ++ rp)).wonRow (tp ++ rp)).countRow ch [] (tp ++ rp) p.rb
          let old := s.readLocs tp
          let s := s.writeLocs (atomNew (p.sp % 256) old p.opnd.toNat (p.w 5).toNat) tp
          let s := s.setDie d { s.die d with rlc := (s.die d).rlc.filter (fun e => !touches tp e.1) }
          let s := if p.w 1 = 0 then s else s.rowWrite ch p 1 old rp
          (s.modPkt ch p.n (fun q => { q with lines := q.lines ++ acqLines (tp ++ rp) })).pktDone ch p.n 0)

/-! ### WAITTL and ICINV (R63, R264) -/

/-- WAITTL: another channel's timeline reaches the target; the packet acquires for its engine. -/
def execWaittl (ch n : Nat) (s : State) : Host.Outcome State Fault Refusal :=
  s.onPkt ch n 0x0B (fun s p =>
    let c := s.chan (p.sp % 2 ^ 16)
    let t := bitsOf p.opnd 0 48
    if reached c.tl t = false then s
    else
      let top := c.tl - (c.tl % 2 ^ 48 + 2 ^ 48 - t) % 2 ^ 48
      let d := engOf ch / 8
      let ls := (c.wrote.filter (fun w => decide (w.1 ≤ top) &&
        (decide (w.2.1 = 0 ∨ w.2.1 = 3) || (decide (w.2.1 < 16) && decide (d = p.sp % 2 ^ 16 / 512))))).map (fun w => (w.2.2, 64))
      (s.setDie d { s.die d with rlc := (s.die d).rlc.filter (fun e => !touches ls e.1) }).pktDone ch p.n 0)

/-- ICINV: the range is translated as code reads, and its lines leave the caches of the named dies. -/
def execIcinv (ch n : Nat) (s : State) : Host.Outcome State Fault Refusal :=
  s.onPkt ch n 0x0C (fun s p =>
    if p.rows = 0 ∨ p.rb = 0 then s.pktDone ch p.n 0
    else match s.rowLocs ch p 1 0 p.rb .code with
      | (.error x, s) => s.pktFault ch p.n x
      | (.ok _, s) =>
        ((List.range 4).foldl (fun s d => if p.opnd.getLsbD d then s.discardCode d p.asid (p.addr 1) p.rb else s) s).pktDone
          ch p.n 0)

end Sys2Proof.Machine
end

