-- ==== Sys2Proof/Machine/Async.lean ====
section
/-! DEFINITION. The as unit's triggers (R361 to R382, R216). Operations that hold end in the release events of
`Machine/Release.lean`. -/

namespace Sys2Proof.Machine

/-! ### The frame -/

/-- An as trigger that is checked and then acts. -/
def asMove (gd : BitVec 3) (src : BitVec 10) (s : State) (check : MoveCtx → Option Trap) (act : MoveCtx → State) :
    Host.Outcome State Fault Refusal :=
  runMove 7 gd src s (fun x => match check x with
    | some t => x.trap s t
    | none => act x)

def MoveCtx.a (x : MoveCtx) : Word := (x.c.port x.slot 0).word
def MoveCtx.b (x : MoveCtx) : Word := (x.c.port x.slot 1).word
def MoveCtx.t (x : MoveCtx) : Word := x.val.word

/-- A staged 64-byte image in space 0 (R363, R378): its words, or the trap. -/
def State.image (s : State) (g : Nat) (t : Word) : Except Trap (List Word) :=
  if 2 ^ 32 ≤ t.toNat then .error (0x01, 0)
  else if bitsOf t 28 4 ≠ 0 ∨ 0x80000 < bitsOf t 0 28 + 64 then .error (0x09, t.toNat)
  else if t.toNat % 64 ≠ 0 then .error (0x0A, t.toNat)
  else .ok (toWords (s.read (locCore g t.toNat) 64) 8)

/-- Checks of `post` on an image: CH names a valid queue of the ASID, privileged only with privilege (R363). -/
def State.postCheck (s : State) (asid : Nat) (sys : Bool) (img : List Word) : Bool :=
  let ch := bitsOf (img.getD 7 0) 0 16
  s.chanOf ch asid && (sys || !(s.chan ch).priv ch)

/-! ### Packets and timelines (R363 to R365) -/

/-- Mark of the slot of a published bundle: the value that it has for the instruction it stands for (R267, R398). -/
def State.markAt (s : State) (g slot : Nat) (b : Bun) : Option Nat :=
  Tab.find (s.die (dieOf g)).marks (8 * codeKey (s.coreC g).asid b.addr + slot)

/-- The image of a `qpost` on core g of gear C (R398): its own core number in address words, and in the list word of R57 where the list or
scale plane lies in space 0, that name a local buffer; one with names that portable code may not use is made malformed by a reserved bit, which gives it status 0x05 (R59, log
89). -/
def portImage (g : Nat) (img : List Word) : List Word :=
  let p := Pkt.ofWords 0 img none
  let own := fun (w : Word) => setBits w 32 9 g
  if p.foreign then img.modify 0 (fun w => w ||| 1 <<< 15)
  else
    let img := [1, 2].foldl (fun l i => if p.space i = 1 then l.modify i own else l) img
    let list := decide (p.op = 0x03 ∨ p.op = 0x04) && decide (bitsOf p.opnd 28 4 = 0)
    let plane := p.converts && decide (p.scl ≠ 0) && decide (bitsOf (BitVec.ofNat 64 p.scl) 28 4 = 0)
    if (list || plane) && decide (bitsOf p.opnd 32 9 = 0) then
      img.modify 6 own else img

/-- `post` (R363): it holds for POST_CLAIM; where the bundle's slot stands for a `qpost`, with the image as R398 rewrites it. -/
def execAsPost (gd : BitVec 3) (src : BitVec 10) (k : BitVec 1) (s : State) : Host.Outcome State Fault Refusal :=
  runMove 7 gd src s (fun x => match s.image x.g x.t with
    | .error t => x.trap s t
    | .ok img =>
      let img := if s.markAt x.g x.slot x.bun = some 8 then portImage x.g img else img
      if s.postCheck x.c.asid x.c.priv img then x.holdWith s .post k 0 (BitVec.ofNat 64 (bitsOf (img.getD 7 0) 0 16)) img
      else x.trap s (0x01, 0))

/-- `twait` (R364). -/
def execAsTwait (gd : BitVec 3) (src : BitVec 10) (k : BitVec 1) (s : State) : Host.Outcome State Fault Refusal :=
  asMove gd src s (fun x =>
      if 2 ^ 16 ≤ x.a.toNat ∨ 2 ^ 48 ≤ x.t.toNat ∨ s.chanOf x.a.toNat x.c.asid = false then illegal else none)
    (fun x => x.hold s .twait k)

/-- `tstat` (R365): TL as sampled at issue, latency 4. -/
def execAsTstat (gd : BitVec 3) (src : BitVec 10) (k : BitVec 1) (s : State) : Host.Outcome State Fault Refusal :=
  asMove gd src s (fun x => if 2 ^ 16 ≤ x.t.toNat ∨ s.chanOf x.t.toNat x.c.asid = false then illegal else none)
    (fun x => x.finish s 4 k (.ok (TVal.ofWord (BitVec.ofNat 64 (s.chan x.t.toNat).tl)) 0))

/-! ### Barriers (R366 to R369) -/

/-- `balloc` (R367). -/
def execAsBalloc (gd : BitVec 3) (src : BitVec 10) (k : BitVec 1) (s : State) : Host.Outcome State Fault Refusal :=
  asMove gd src s (fun x => if 2 ^ 19 ≤ x.t.toNat ∨ 5 ≤ bitsOf x.t 16 3 ∨ bitsOf x.t 0 16 = 0 then illegal else none)
    (fun x => x.hold s .balloc k)

/-- Does an index name a barrier of the ASID (R366, R368)? -/
def State.barrierOf (s : State) (asid i : Nat) : Bool :=
  match s.barrierAt i with | some b => decide (b.asid = asid) | none => false

/-- `barr` (R368): the arrival is counted once the core's writes are performed at S. -/
def execAsBarr (gd : BitVec 3) (src : BitVec 10) (_k : BitVec 1) (s : State) : Host.Outcome State Fault Refusal :=
  asMove gd src s (fun x => if s.barrierOf x.c.asid x.t.toNat = false then illegal else none)
    (fun x =>
      if s.mayArrive x.g x.t.toNat then s.arrive x.c.asid x.t.toNat
      else s.modC x.g (fun c => { c with arr := c.arr ++ [x.t] }))

/-- `bwait` (R368). -/
def execAsBwait (gd : BitVec 3) (src : BitVec 10) (k : BitVec 1) (s : State) : Host.Outcome State Fault Refusal :=
  asMove gd src s (fun x => if s.barrierOf x.c.asid (bitsOf x.t 0 32) = false then illegal else none)
    (fun x => x.hold s .bwait k)

/-- Release every `bwait` held on an index without acquiring (R368). -/
def State.freeWaiters (s : State) (i : Nat) : State :=
  s.cores.foldl (fun s p => match s.heldAs p.1 with
    | some h => if h.op = .bwait ∧ bitsOf h.t.word 0 32 = i then s.answer p.1 none else s
    | none => s) s

/-- Free a barrier's entry. -/
def State.freeBarrier (s : State) (i : Nat) : State :=
  let d := (i >>> 12) % 4
  s.setDie d { s.die d with barriers := Tab.del (s.die d).barriers (i % 4096) }

/-- `bfree` (R368). -/
def execAsBfree (gd : BitVec 3) (src : BitVec 10) (_k : BitVec 1) (s : State) : Host.Outcome State Fault Refusal :=
  asMove gd src s (fun x => if s.barrierOf x.c.asid x.t.toNat = false then illegal else none)
    (fun x => (s.freeBarrier x.t.toNat).freeWaiters x.t.toNat)

/-! ### Hasps (R370 to R373) -/

/-- Checks on a hasp or region name of `n` bytes from a core (R362, R370, R396): space and fields, range, alignment.
`own` gives the only core that SPACE 0x01 may name (portable code), none on gear C native code. -/
def nameCheck (name : Word) (n align : Nat) (portable : Bool) : Option Trap :=
  let a := bitsOf name 0 56
  let sp := bitsOf name 56 8
  let lo := a % 2 ^ 32
  let off := a % 2 ^ 28
  if 2 < sp ∨ (sp = 0 ∧ 2 ^ 54 ≤ a) ∨ (sp ≠ 0 ∧ 2 ^ 41 ≤ a) ∨ (portable ∧ (sp = 2 ∨ (sp = 1 ∧ 2 ^ 32 ≤ a))) then illegal
  else if sp = 1 ∧ (lo / 2 ^ 28 ≠ 0 ∨ 0x80000 < off + n) then some (0x09, lo)
  else if sp = 2 ∧ (lo / 2 ^ 28 ≠ 1 ∨ 0x400000 < off + n) then some (0x09, lo)
  else if a % align ≠ 0 then some (0x0A, lo) else none

/-- The failure that is reported of two checks: field values before range, range before alignment (R389), at one stage the first. -/
def firstFailure (x y : Option Trap) : Option Trap :=
  match x, y with
  | some a, some b => if b.1 < a.1 then some b else some a
  | some a, none => some a
  | none, r => r

/-- Checks of `hbind` (R370): of the hasp's name and the region's, in the order of R389. -/
def hbindCheck (t a b : Word) (portable : Bool) : Option Trap :=
  if 2 ^ 32 ≤ b.toNat ∨ b.toNat % 64 ≠ 0 then illegal
  else firstFailure (nameCheck t 8 8 portable) (nameCheck a b.toNat 64 portable)

/-- `hbind` (R370). -/
def execAsHbind (gd : BitVec 3) (src : BitVec 10) (k : BitVec 1) (s : State) : Host.Outcome State Fault Refusal :=
  asMove gd src s (fun x => hbindCheck x.t x.a x.b false) (fun x => x.hold s .hbind k)

/-- Checks of `hacq` (R371): index, descriptor. -/
def State.hacqCheck (s : State) (asid : Nat) (t desc : Word) : Option Trap :=
  if 2 ^ 32 ≤ t.toNat ∨ 2 ^ 6 ≤ desc.toNat ∨ bitsOf desc 4 2 = 3 ∨ desc.getLsbD 3 ∨ 5 ≤ bitsOf desc 0 3 ∨
      (s.hasp asid t.toNat).isNone then illegal else none

/-- `hacq` (R371). -/
def execAsHacq (gd : BitVec 3) (src : BitVec 10) (k : BitVec 1) (s : State) : Host.Outcome State Fault Refusal :=
  asMove gd src s (fun x => s.hacqCheck x.c.asid x.t x.a) (fun x => x.hold s .hacq k)

/-- Checks of `hrel` (R372): index and scope. -/
def State.hrelCheck (s : State) (asid : Nat) (i sc : Word) : Option Trap :=
  if 2 ^ 32 ≤ i.toNat ∨ 5 ≤ sc.toNat ∨ (s.hasp asid i.toNat).isNone then illegal else none

/-- `hrel` (R372). -/
def execAsHrel (gd : BitVec 3) (src : BitVec 10) (k : BitVec 1) (s : State) : Host.Outcome State Fault Refusal :=
  asMove gd src s (fun x => s.hrelCheck x.c.asid x.a x.b) (fun x => x.hold s .hrel k)

/-- `hpub` (R373). -/
def execAsHpub (gd : BitVec 3) (src : BitVec 10) (k : BitVec 1) (s : State) : Host.Outcome State Fault Refusal :=
  asMove gd src s (fun x => if 5 ≤ x.t.toNat then illegal else none) (fun x => x.hold s .hpub k)

/-- `hobs` (R373). -/
def execAsHobs (gd : BitVec 3) (src : BitVec 10) (k : BitVec 1) (s : State) : Host.Outcome State Fault Refusal :=
  asMove gd src s (fun x => if 5 ≤ x.t.toNat then illegal else none) (fun x => x.hold s .hobs k)

/-! ### The scatter-accumulate engine (R374 to R377) -/

/-- Port b's tag is right for an OP (R374). -/
def saeTagOk (op : Nat) (tag : BitVec 5) : Bool :=
  match op with
  | 0 | 3 | 4 => decide (tag = 0x04)
  | 2 | 7 | 8 => decide (tag = 0x01)
  | 9 => decide (tag = 0x00 ∨ tag = 0x04)
  | _ => decide (tag = 0x00)

/-- Offsets of the operations in the cluster scratchpad, each checked for range and then alignment: the lowest that fails decides (R344,
R374). -/
def saeAddrs (base : Nat) (sz : Nat) (idx : Nat → Nat) : Nat → Except Trap (List Nat)
  | 0 => .ok []
  | n + 1 => match saeAddrs base sz idx n with
    | .error t => .error t
    | .ok l =>
      let a := base % 2 ^ 28 + idx n * sz
      if 0x400000 < a + sz then .error (0x09, (2 ^ 28 + a) % 2 ^ 32)
      else if a % sz ≠ 0 then .error (0x0A, (2 ^ 28 + a) % 2 ^ 32) else .ok (l ++ [a])

/-- The checks of R374 and the operations: address, value, compare value. -/
def saeOps (t : Word) (a b c : TVal) : Except Trap (List (Nat × Nat × Nat)) :=
  let op := bitsOf t 38 4
  let sz := saeSize op
  let n := bitsOf t 32 5 + 1
  if 2 ^ 44 ≤ t.toNat ∨ t.getLsbD 37 ∨ 12 ≤ op ∨ (sz = 8 ∧ 16 < n) then .error (0x01, 0)
  else if a.tag ≠ 0x12 then .error (0x06, a.tag.toNat)
  else if saeTagOk op b.tag = false then .error (0x06, b.tag.toNat)
  else if op = 11 ∧ c.tag ≠ 0 then .error (0x06, c.tag.toNat)
  else if bitsOf t 28 4 ≠ 1 then .error (0x09, (bitsOf t 0 32 + vlane a 32 0 * sz) % 2 ^ 32)
  else match saeAddrs (bitsOf t 0 32) sz (fun i => vlane a 32 i) n with
    | .error x => .error x
    | .ok l => .ok ((List.range n).map (fun i => (l.getD i 0, vlane b (8 * sz) i, vlane c 64 i)))

def Cluster.queued (c : Cluster) : Nat := (c.queue.map (fun t => t.ops.length)).sum

/-- Room in the queue, and for the result entries with RET (R375). -/
def Cluster.room (c : Cluster) (n : Nat) (ret : Bool) : Bool :=
  decide (c.queued + n ≤ 256) && (!ret || decide (c.results.length + n ≤ 256))

/-- The lines of a trigger's operations leave the core's read staging (R376). -/
def State.saeDiscard (s : State) (g : Nat) (ops : List (Nat × Nat × Nat)) : State :=
  let lines := ops.map (fun o => o.1 / 64 * 64)
  s.modC g (fun c => { c with rst := c.rst.filter (fun l => !lines.contains l.addr) })

/-- Enqueue a trigger; its lines leave the core's read staging (R375, R376). -/
def State.saePut (s : State) (g : Nat) (t : Word) (ops : List (Nat × Nat × Nat)) : State :=
  let cl := clusterOf g
  let c := s.cluster cl
  let ret := t.getLsbD 43
  (s.setCluster cl { c with
    queue := c.queue ++ [⟨g, bitsOf t 38 4, ret, t.getLsbD 42, s.now, ops⟩]
    results := if ret then c.results ++ ops.map (fun _ => (g, none)) else c.results }).saeDiscard g ops

/-- `sae` (R374, R375): slot 7 holds while there is no room. The lines of its operations leave the core's read staging at its issue, held
or not (R376). -/
def execAsSae (gd : BitVec 3) (src : BitVec 10) (k : BitVec 1) (s : State) : Host.Outcome State Fault Refusal :=
  runMove 7 gd src s (fun x => match saeOps x.t (x.c.port x.slot 0) (x.c.port x.slot 1) (x.c.port x.slot 2) with
    | .error t => x.trap s t
    | .ok ops =>
      if (s.cluster (clusterOf x.g)).room ops.length (x.t.getLsbD 43) then s.saePut x.g x.t ops
      else x.hold (s.saeDiscard x.g ops) .sae k)

/-- The continuation's next result entry: none reserved, reserved, or filled (R377, R424). -/
def Cluster.nextEntry (c : Cluster) (g : Nat) : Option (Option Word) := (c.results.find? (fun r => r.1 = g)).map Prod.snd
def Cluster.take (c : Cluster) (g : Nat) : Cluster := { c with results := c.results.eraseP (fun r => r.1 = g) }

/-- `saer` holds of a core whose entry is filled, and `sae` holds that find room, are released (R375, R377). -/
def State.saeRelease (s : State) (g : Nat) : State :=
  match s.heldAs g with
  | none => s
  | some h =>
    let cl := clusterOf g
    match h.op with
    | .saer => match (s.cluster cl).nextEntry g with
      | some (some w) => (s.setCluster cl ((s.cluster cl).take g)).answer g (some w)
      | _ => s
    | .sae => match saeOps h.t.word h.a h.b h.c with
      | .ok ops => if (s.cluster cl).room ops.length (h.t.word.getLsbD 43) then (s.saePut g h.t.word ops).answer g none else s
      | .error _ => s
    | _ => s

/-- Entries of a cluster's SAE have been filled or freed: its cores' `saer` holds are released, then, as those free entries, its `sae`
holds, in the order of the cores. -/
def State.saeWake (s : State) (cl : Nat) : State :=
  (List.range 8).foldl (fun s k => s.saeRelease (4 * cl + k % 4)) s

/-- `saer` (R377). -/
def execAsSaer (gd : BitVec 3) (src : BitVec 10) (k : BitVec 1) (s : State) : Host.Outcome State Fault Refusal :=
  asMove gd src s (fun x => if x.t ≠ 0 ∨ ((s.cluster (clusterOf x.g)).nextEntry x.g).isNone then illegal else none)
    (fun x =>
      let cl := clusterOf x.g
      match (s.cluster cl).nextEntry x.g with
      | some (some w) => (x.finish (s.setCluster cl ((s.cluster cl).take x.g)) 2 k (.ok (TVal.ofWord w) 0)).saeWake cl
      | _ => x.hold s .saer k)

/-! ### Work, notification, services (R378 to R382, R216) -/

/-- `tpost` (R378): the image is read at issue. -/
def execAsTpost (gd : BitVec 3) (src : BitVec 10) (k : BitVec 1) (s : State) : Host.Outcome State Fault Refusal :=
  runMove 7 gd src s (fun x => match s.image x.g x.t with
    | .error t => x.trap s t
    | .ok img => x.holdWith s .tpost k 0 0 img)

/-- Checks of `notify` (R379). -/
def State.notifyCheck (s : State) (asid : Nat) (t : Word) : Option Trap :=
  if bitsOf t 57 6 ≠ 0 then illegal
  else if t.getLsbD 63 then
    (if bitsOf t 16 41 ≠ 0 ∨ s.chanOf (bitsOf t 0 16) asid = false then illegal else none)
  else if bitsOf t 0 16 ≠ 0 then illegal else none

/-- The effect of `notify` (R379). -/
def State.notify (s : State) (asid : Nat) (t : Word) : State :=
  if t.getLsbD 63 then (s.raiseVec (bitsOf t 0 16)).2
  else
    let g := bitsOf t 48 9
    if s.takesInterrupts g asid then (s.userInterrupt g (BitVec.ofNat 64 ((bitsOf t 16 32 <<< 16) + 0xFFFF))).2 else s

/-- `notify` (R379). -/
def execAsNotify (gd : BitVec 3) (src : BitVec 10) (_k : BitVec 1) (s : State) : Host.Outcome State Fault Refusal :=
  asMove gd src s (fun x => s.notifyCheck x.c.asid x.t) (fun x => s.notify x.c.asid x.t)

/-- `sortx` (R216): latency 2. -/
def execAsSortx (gd : BitVec 3) (src : BitVec 10) (k : BitVec 1) (s : State) : Host.Outcome State Fault Refusal :=
  runMove 7 gd src s (fun x => x.finish s 2 k (opSortx x.t (x.c.port x.slot 0) (x.c.port x.slot 1)))

/-- Draw from a die's pool (R380). -/
def State.draw (s : State) (d : Nat) : Option (Word × State) :=
  match (s.die d).draws with
  | [] => none
  | w :: t => some (w, s.setDie d { s.die d with draws := t })

/-- `rnd` (R380): a draw at hand lands 2 cycles later; otherwise slot 7 holds. -/
def execAsRnd (gd : BitVec 3) (src : BitVec 10) (k : BitVec 1) (s : State) : Host.Outcome State Fault Refusal :=
  asMove gd src s (fun x => if x.t ≠ 0 then illegal else none) (fun x =>
    match s.draw (dieOf x.g) with
    | none => x.hold s .rnd k
    | some (w, s) => x.finish (s.modC x.g (fun c => { c with drawn := c.drawn + 1 })) 2 k (.ok (TVal.ofWord w) 0))

/-- `pmark` (R381): a trace record of kind 2 that names its own bundle. -/
def execAsPmark (gd : BitVec 3) (src : BitVec 10) (_k : BitVec 1) (s : State) : Host.Outcome State Fault Refusal :=
  runMove 7 gd src s (fun x => s.traceRec (dieOf x.g) (s.nameAt x.g x.bun.addr) 2 0 x.c.asid x.t)

/-- `icinv` (R382). -/
def execAsIcinv (gd : BitVec 3) (src : BitVec 10) (k : BitVec 1) (s : State) : Host.Outcome State Fault Refusal :=
  asMove gd src s (fun x => if 2 ^ 54 ≤ x.a.toNat ∨ 2 ^ 32 ≤ x.t.toNat then illegal else none)
    (fun x => x.hold s .icinv k)

end Sys2Proof.Machine
end

