-- ==== Sys2Proof/Machine/Matrix.lean ====
section
/-! DEFINITION. The matrix engine: its triggers in slot 4 (R178 to R182, R345 to R349) and its own steps (R178, R187,
R193, R194, R197). -/

namespace Sys2Proof.Machine

/-! ### Triggers -/

/-- The engine has no command, and has had none for 10 µs (R36). -/
def Engine.gap (e : Engine) (now : Nat) : Bool :=
  e.fifo.isEmpty && e.cur.isNone && e.seq.isNone && decide (e.idle + 10000 ≤ now)

/-- Issue a command into the FIFO; a token-bearing one adds one to ISS (R178, R187, R345). -/
def State.meIssue (s : State) (g : Nat) (cmd : Cmd) : State :=
  s.modC g (fun c => { c with eng := { c.eng with
    since := if c.eng.gap s.now then s.now else c.eng.since
    fifo := c.eng.fifo ++ [cmd], iss := if cmd.tok then (c.eng.iss + 1) % 2 ^ 16 else c.eng.iss } })

/-- The command of a trigger: its value, its ports, no registers. -/
def MoveCtx.cmd (x : MoveCtx) (op : MeOp) (tok : Bool) (k : BitVec 1) : Cmd :=
  let p := fun i => (x.c.port x.slot i).word
  ⟨op, x.val.word, p 0, p 1, p 2, p 3, none, none, decide (k = 1), tok, x.bun.addr, x.c.cad, x.c.inH⟩

/-- Register-mode operands (R181, R346): `n` registers from v`v`; tags before ownership (R344). -/
def regSlice (c : CoreC) (v n rows : Nat) : Except Trap Slice :=
  let regs := (List.range n).map (fun i => v + i)
  let vals := (regs.filter (fun r => r < 32)).map c.regV
  let tag := (c.regV v).tag
  let good := fun t : BitVec 5 => t = 0x02 || t = 0x03 || t = 0x0A || t = 0x0C || t = 0x10
  match vals.find? (fun x => !good x.tag || decide (x.tag ≠ tag)) with
  | some x => .error (0x06, x.tag.toNat)
  | none =>
    if 8 < v % 8 + n ∨ c.owner (v / 8) ≠ 4 then .error (0x04, v)
    else .ok ⟨tag, (List.range rows).map (fun r => BitVec.ofNat 16 (vlane (vals.getD (r / 64) ⟨0, 0⟩) 16 (r % 64))), []⟩

/-- A run of `n` 16-bit words `pitch` apart from an exact offset past BASE lies in space 1 (R182): the failing address, if any: that of
the first byte where it fails, else of the last; the spec does not say which address DETAIL gives (DESIGN CHOICE, log 99). -/
def runInSpace1 (base : Nat) (off pitch n : Nat) : Option Trap :=
  let a := base % 2 ^ 28 + off
  let last := a + (n - 1) * pitch + 1
  if base / 2 ^ 28 ≠ 1 ∨ 0x400000 ≤ a then some (0x09, (base / 2 ^ 28 * 2 ^ 28 + a) % 2 ^ 32)
  else if 0x400000 ≤ last then some (0x09, (2 ^ 28 + last) % 2 ^ 32) else none

/-- Offset past BASE of a side's scale run for slice j (R182). -/
def scaleOff (tag : BitVec 5) (w2 : Word) (rows j : Nat) : Nat := bitsOf w2 40 24 + 2 * rows * (j * depth tag / 128)

/-- The checks of R182 on one slice and its scale run: range, then alignment, which gives the slice's address whichever field is odd
(DESIGN CHOICE, log 99). -/
def sliceCheck (tag : BitVec 5) (w1 w2 : Word) (rows j : Nat) : Option Trap :=
  let base := bitsOf w1 0 32
  let rowp := bitsOf w1 32 32
  let slp := bitsOf w2 0 32
  match runInSpace1 base (j * slp) rowp rows with
  | some t => some t
  | none => match if isBni tag then runInSpace1 base (scaleOff tag w2 rows j) 2 rows else none with
    | some t => some t
    | none =>
      if base % 2 = 1 ∨ rowp % 2 = 1 ∨ slp % 2 = 1 ∨ bitsOf w2 40 24 % 2 = 1 then some (0x0A, (base + j * slp) % 2 ^ 32)
      else none

/-- The checks on a register-mode BNI push: BASE and SOFF only (R346). -/
def regScaleCheck (tag : BitVec 5) (w1 w2 : Word) (rows : Nat) : Option Trap :=
  let base := bitsOf w1 0 32
  if isBni tag = false then none
  else match runInSpace1 base (bitsOf w2 40 24) 2 rows with
    | some t => some t
    | none => if base % 2 = 1 ∨ bitsOf w2 40 24 % 2 = 1 then some (0x0A, base) else none

/-- `me.pa` and `me.pb` (R181, R346). `rows` 96 or 160, `n` registers, `p` the first of the two descriptor ports. -/
def mePush (gd : BitVec 3) (src : BitVec 10) (k : BitVec 1) (s : State) (op : MeOp) (rows n p : Nat) :
    Host.Outcome State Fault Refusal :=
  let g := s.focus
  let c := s.coreC g
  let y := c.context 4
  if 0x60 ≤ src.toNat ∧ src.toNat < 0x80 then
    if c.guard y.1 y.2 gd = false then .next s
    else
      let v := src.toNat - 0x60
      let x : MoveCtx := ⟨g, c, y.1, y.2, c.regV v, true⟩
      match regSlice c v n rows with
      | .error t => .next (x.trap s t)
      | .ok sl => match regScaleCheck sl.tag (c.port x.slot p).word (c.port x.slot (p + 1)).word rows with
        | some t => .next (x.trap s t)
        | none => .next (s.meIssue g { x.cmd op false k with regs := some sl, bank := some (v / 8) })
  else runMove 4 gd src s (fun x =>
    let w1 := (x.c.port x.slot p).word
    let w2 := (x.c.port x.slot (p + 1)).word
    if 2 ^ 16 ≤ x.val.word.toNat then x.trap s (0x01, 0)
    else match fmtTag (bitsOf w2 36 4) with
      | none => x.trap s (0x06, bitsOf w2 36 4)
      | some tag => match sliceCheck tag w1 w2 rows x.val.word.toNat with
        | some t => x.trap s t
        | none => s.meIssue x.g (x.cmd op false k))

def execMePa (gd : BitVec 3) (src : BitVec 10) (k : BitVec 1) (s : State) : Host.Outcome State Fault Refusal :=
  mePush gd src k s .pa 96 2 0
def execMePb (gd : BitVec 3) (src : BitVec 10) (k : BitVec 1) (s : State) : Host.Outcome State Fault Refusal :=
  mePush gd src k s .pb 160 3 2

/-- The frame of a trigger of slot 4: a vector source that the slot does not own traps only after the checks of fields and tags, which
read its register (R344); `check` gives the trigger's trap. -/
def meFrame (gd : BitVec 3) (src : BitVec 10) (s : State) (check : MoveCtx → Option Trap) (body : MoveCtx → State) :
    Host.Outcome State Fault Refusal :=
  let g := s.focus
  let c := s.coreC g
  let y := c.context 4
  match c.guard y.1 y.2 gd, c.source y.1 y.2 src with
  | true, .error v =>
    let x : MoveCtx := ⟨g, c, y.1, y.2, c.regV v, true⟩
    match check x with
    | some t => .next (x.trap s (if t.1 = 0x01 ∨ t.1 = 0x06 then t else (0x04, v)))
    | none => .next (x.trap s (0x04, v))
  | _, _ => runMove 4 gd src s body

/-- The frame of the other FIFO commands: the checks give a trap or whether a token is owed. -/
def meMove (gd : BitVec 3) (src : BitVec 10) (k : BitVec 1) (s : State) (op : MeOp)
    (check : MoveCtx → EngView → Except Trap Bool) : Host.Outcome State Fault Refusal :=
  meFrame gd src s (fun x => match check x x.c.eng.view with | .error t => some t | .ok _ => none) (fun x =>
    match check x x.c.eng.view with
    | .error t => x.trap s t
    | .ok tok => s.meIssue x.g (x.cmd op tok k))

/-- The checks of R347. -/
def accCheck (t : Word) (v : EngView) : Except Trap Bool :=
  let i := bitsOf t 0 2
  if 16 ≤ t.toNat ∨ (i % 2 = 1 ∧ v.split (i / 2)) then .error (0x01, 0)
  else match v.a, v.b with
    | some a, some b =>
      if a ≠ b then .error (0x06, b.toNat)
      else match v.blk i with
        | some (f, _) => if f ≠ a then .error (0x06, a.toNat) else .ok (t.getLsbD 2)
        | none => .ok (t.getLsbD 2)
    | _, _ => .error (0x06, 0x1F)

/-- The checks of R348. -/
def drCheck (t : Word) (v : EngView) : Bool :=
  let ofmt := bitsOf t 14 2
  let mode := bitsOf t 12 2
  let bank := bitsOf t 10 2
  let cg := bitsOf t 7 3
  decide (bitsOf t 16 16 = 0 ∧ ofmt ≠ 3 ∧ bitsOf t 0 7 ≤ 95) &&
    decide (cg ≤ (if ofmt = 0 then 4 else if ofmt = 1 then 2 else 1)) &&
    (decide (bitsOf t 32 32 = 0) || decide (ofmt = 2)) &&
    (if v.split (bank / 2) then
      (if mode = 3 then decide (ofmt = 0) else decide (bank % 2 = 0))
     else decide (mode = 0))

/-- The checks of R349, which asks nothing about an open BNI block of the bank: a sequence in another format adds to the block and retags
it (DESIGN CHOICE, log 96). -/
def seqCheck (x : MoveCtx) (v : EngView) : Except Trap Bool :=
  let t := x.val.word
  let p := fun i => (x.c.port x.slot i).word
  let nk := bitsOf t 0 16
  let j0 := bitsOf t 16 16
  let bank := bitsOf t 32 2
  let doff := bitsOf t 40 22
  if bitsOf t 62 2 ≠ 0 ∨ bitsOf t 36 4 ≠ 0 ∨ nk = 0 ∨ 65535 < j0 + nk - 1 ∨ (bank % 2 = 1 ∧ v.split (bank / 2)) then
    .error (0x01, 0)
  else match fmtTag (bitsOf (p 1) 36 4), fmtTag (bitsOf (p 3) 36 4) with
    | none, _ => .error (0x06, bitsOf (p 1) 36 4)
    | _, none => .error (0x06, bitsOf (p 3) 36 4)
    | some fa, some fb =>
      if fa ≠ fb then .error (0x06, bitsOf (p 3) 36 4)
      else
        let chk := fun r j => (sliceCheck fa (p 0) (p 1) 96 j, sliceCheck fa (p 2) (p 3) 160 j, r)
        let j1 := j0 + nk - 1
        let all := [(chk 0 j0).1, (chk 0 j0).2.1, (chk 0 j1).1, (chk 0 j1).2.1].filterMap id
        let range := if t.getLsbD 35 ∧ 0x3FFFFF < doff + 61439 then [(0x09, 2 ^ 28 + doff)] else []
        let align := if doff % 64 ≠ 0 then [(0x0A, 2 ^ 28 + doff)] else []
        match (all.filter (fun t => t.1 = 0x09) ++ range ++ all.filter (fun t => t.1 = 0x0A) ++ align).head? with
        | some tr => .error tr
        | none => .ok (t.getLsbD 34)

/-- `me.acc` (R184, R347). -/
def execMeAcc (gd : BitVec 3) (src : BitVec 10) (k : BitVec 1) (s : State) : Host.Outcome State Fault Refusal :=
  meMove gd src k s .acc (fun x v => accCheck x.val.word v)

/-- `me.sh` (R186): AROT at most 95, BROT at most 159. -/
def execMeSh (gd : BitVec 3) (src : BitVec 10) (k : BitVec 1) (s : State) : Host.Outcome State Fault Refusal :=
  meMove gd src k s .sh (fun x _ =>
    let t := x.val.word
    if 2 ^ 15 ≤ t.toNat ∨ 95 < bitsOf t 0 7 ∨ 159 < bitsOf t 7 8 then .error (0x01, 0) else .ok false)

/-- `me.dr` (R192, R348): always a token. -/
def execMeDr (gd : BitVec 3) (src : BitVec 10) (k : BitVec 1) (s : State) : Host.Outcome State Fault Refusal :=
  meMove gd src k s .dr (fun x v => if drCheck x.val.word v then .ok true else .error (0x01, 0))

/-- `me.clr` (R186). -/
def execMeClr (gd : BitVec 3) (src : BitVec 10) (k : BitVec 1) (s : State) : Host.Outcome State Fault Refusal :=
  meMove gd src k s .clr (fun x _ => if 4 ≤ x.val.word.toNat then .error (0x01, 0) else .ok false)

/-- `me.cls` (R186): bits other than [2] and [0] are zero. -/
def execMeCls (gd : BitVec 3) (src : BitVec 10) (k : BitVec 1) (s : State) : Host.Outcome State Fault Refusal :=
  meMove gd src k s .cls (fun x _ => if x.val.word &&& ~~~5 ≠ 0 then .error (0x01, 0) else .ok false)

/-- `me.thr` (R191). -/
def execMeThr (gd : BitVec 3) (src : BitVec 10) (k : BitVec 1) (s : State) : Host.Outcome State Fault Refusal :=
  meMove gd src k s .thr (fun x _ => if 2 ^ 48 ≤ x.val.word.toNat then .error (0x01, 0) else .ok false)

/-- `me.seq` (R193, R349). -/
def execMeSeq (gd : BitVec 3) (src : BitVec 10) (k : BitVec 1) (s : State) : Host.Outcome State Fault Refusal :=
  meMove gd src k s .seq seqCheck

/-- Progress word of R194; where no sequence was running it is zero, since the spec gives only RUN = 0 (DEDUCED, log 79). -/
def progress (run : Bool) (p : Option SeqPos) : Word :=
  match p with
  | some q => BitVec.ofNat 64 ((if run then 1 <<< 63 else 0) + (q.cg <<< 23) + (q.row <<< 16) + q.j % 2 ^ 16)
  | none => if run then (1 : Word) <<< 63 else 0

/-- Commands issued and not yet complete, the running sequence's own among them (R187). -/
def Engine.owed (e : Engine) : Nat := e.fifo.length + e.cur.toList.length

/-- `me.sqs` (R194): it bypasses the FIFO, and a running sequence stops after its next step; the commands behind it were checked at their
issue against the whole sequence, and are not checked again (DESIGN CHOICE, log 97). -/
def execMeSqs (gd : BitVec 3) (src : BitVec 10) (k : BitVec 1) (s : State) : Host.Outcome State Fault Refusal :=
  meFrame gd src s (fun x => if x.val.word ≠ 0 then some (0x01, 0) else none) (fun x =>
    if x.val.word ≠ 0 then x.trap s (0x01, 0)
    else s.modC x.g (fun c =>
      let e := c.eng
      let running := match e.seq with | some q => !q.quit | none => false
      -- a running sequence fixes the word when it stops
      let entry : Sqs := ⟨e.owed, running, if e.seq.isSome then none else some 0, decide (k = 1), c.inH⟩
      { c with eng := { e with
          sqs := e.sqs ++ [entry], iss := (e.iss + 1) % 2 ^ 16
          seq := if running then e.seq.map (fun q => { q with quit := true }) else e.seq } }))

/-! ### Steps of the engine -/

/-- Offsets of the scales of a side, `off` past BASE, and of the words of slice j (R182). -/
def scaleOffs (tag : BitVec 5) (w1 : Word) (off rows : Nat) : List Nat :=
  if isBni tag then (List.range rows).map (fun r => bitsOf w1 0 28 + off + 2 * r) else []
def sliceOffs (w1 w2 : Word) (rows j : Nat) : List Nat :=
  (List.range rows).map (fun r => bitsOf w1 0 28 + r * bitsOf w1 32 32 + j * bitsOf w2 0 32)

/-- Scales of a side for slice j, read when the command is consumed (R182). -/
def State.readScales (s : State) (g : Nat) (tag : BitVec 5) (w1 : Word) (off rows : Nat) : List (BitVec 16) × State :=
  s.clusHalves g (scaleOffs tag w1 off rows)

/-- A slice read from the cluster scratchpad through the core's staging (R151, R182). -/
def State.readSlice (s : State) (g : Nat) (tag : BitVec 5) (w1 w2 : Word) (rows j : Nat) : Slice × State :=
  let r := s.clusHalves g (sliceOffs w1 w2 rows j)
  let q := r.2.readScales g tag w1 (scaleOff tag w2 rows j) rows
  (⟨tag, r.1, q.1⟩, q.2)

/-- Offsets that the reader reads for slice j of a side, from the scratchpad or, in register mode, its scales only. -/
def pushOffs (regs : Option Slice) (w1 w2 : Word) (rows j : Nat) : List Nat :=
  match regs with
  | some sl => scaleOffs sl.tag w1 (bitsOf w2 40 24) rows
  | none =>
    let tag := (fmtTag (bitsOf w2 36 4)).getD 0x02
    sliceOffs w1 w2 rows j ++ scaleOffs tag w1 (scaleOff tag w2 rows j) rows

/-- Offsets that a command's reads take. -/
def Cmd.reads (c : Cmd) : List Nat :=
  match c.op with
  | .pa => pushOffs c.regs c.pa c.pb 96 (bitsOf c.t 0 16)
  | .pb => pushOffs c.regs c.pc c.pd 160 (bitsOf c.t 0 16)
  | _ => []

/-- A held `cld` comes before core g's reader at one of the banks that some offsets need, those of lines not in staging (R140, R169). -/
def State.readerLoses (s : State) (g : Nat) (offs : List Nat) : Bool :=
  s.cldFirst (clusterOf g) (srcReader g) (((offs.map (fun o => o / 64 * 64)).dedup).filter (fun l => ((s.coreC g).staged l).isNone))

/-- The slice of a push command. -/
def State.pushSlice (s : State) (g : Nat) (c : Cmd) (w1 w2 : Word) (rows j : Nat) : Slice × State :=
  match c.regs with
  | some sl =>
    let q := s.readScales g sl.tag w1 (bitsOf w2 40 24) rows
    ({ sl with scales := q.1 }, q.2)
  | none => s.readSlice g ((fmtTag (bitsOf w2 36 4)).getD 0x02) w1 w2 rows j

def State.modEng (s : State) (g : Nat) (f : Engine → Engine) : State := s.modC g (fun c => { c with eng := f c.eng })

/-- The effect of one consumed command (R184 to R192); `me.seq` starts its sequence instead. -/
def State.meEffect (s : State) (g : Nat) (c : Cmd) : State :=
  match c.op with
  | .pa =>
    let r := s.pushSlice g c c.pa c.pb 96 (bitsOf c.t 0 16)
    r.2.modEng g (fun e => { e with a := some r.1 })
  | .pb =>
    let r := s.pushSlice g c c.pc c.pd 160 (bitsOf c.t 0 16)
    r.2.modEng g (fun e => { e with b := some r.1 })
  | .acc => (s.meetAcc g ((s.coreC g).eng.tiles.readsBank (bitsOf c.t 0 2))).modEng g (fun e => match e.a, e.b with
      | some a, some b => { e with tiles := e.tiles.beat (bitsOf c.t 0 2) a b (c.t.getLsbD 3) }
      | _, _ => e)
  | .sh => s.modEng g (fun e =>
      let rot := fun (n : Nat) (x : Slice) => { x with rows := x.rows.rotateLeft n, scales := x.scales.rotateLeft n }
      { e with a := e.a.map (rot (bitsOf c.t 0 7)), b := e.b.map (rot (bitsOf c.t 7 8)) })
  | .clr => s.modEng g (fun e => { e with tiles := e.tiles.clear (bitsOf c.t 0 2) })
  | .cls => s.modEng g (fun e => { e with tiles := e.tiles.setClass (bitsOf c.t 0 1) (c.t.getLsbD 2) })
  | .thr => s.modEng g (fun e => { e with tiles := { e.tiles with agv := c.t.setWidth 32, agc := c.t.extractLsb' 32 16 } })
  | .dr =>
    let n := drainCols (bitsOf c.t 14 2)
    (s.meetAcc g ((s.coreC g).eng.tiles.readsRow (bitsOf c.t 10 2) (bitsOf c.t 0 7) (n * bitsOf c.t 7 3) n)).modEng g (fun e =>
      let i := bitsOf c.t 10 2
      let r := e.tiles.drain i (bitsOf c.t 12 2) (bitsOf c.t 0 7) (bitsOf c.t 7 3) (bitsOf c.t 14 2) (c.t.extractLsb' 32 32)
      { e with tiles := e.tiles.setRov i r.2, out := if c.k then none else some r.1 })
  | .seq => s.modEng g (fun e => { e with seq := some ⟨bitsOf c.t 16 16, 0, 0, false, false, 0⟩ })

/-- Event 0x0206 counts the beats that complete (R247). -/
def State.countBeat (s : State) (g : Nat) (op : MeOp) : State := if op = .acc then s.countCore g 0x0206 1 else s

/-- The beat commands (R36): `me.acc` and `me.seq`, the commands that make array beats (DESIGN CHOICE, log 66: the spec does
not define the term). -/
def isBeat (op : MeOp) : Bool := decide (op = .acc) || decide (op = .seq)

/-- Has the engine accepted no beat since a gap of 10 µs without a command (R36)? Pushes that come before the first beat do not
end the gap. -/
def Engine.inGap (e : Engine) (now : Nat) : Bool := e.asleep || (e.cur.isNone && e.seq.isNone && decide (e.idle + 10000 ≤ now))

/-- Does the sequence that runs write its image: its drain groups are no beats? -/
def Engine.draining (e : Engine) : Bool := match e.seq with | some q => q.drain | none => false

/-- Must the limiter let the engine wake before it takes its head, the first beat after the gap, or before a resumed sequence makes its
next beat (R36)? An engine at quiescence takes nothing. -/
def Engine.needsAdmit (e : Engine) (now : Nat) : Bool :=
  match e.fifo with
  | c :: _ => isBeat c.op && e.inGap now && !e.woken && !e.quiet && !e.draining
  | [] => false

/-- An engine leaves idle: it has accepted its first beat after the gap (R36). -/
def State.leftIdle (s : State) : State := { s with wakes := s.wakes.filter (fun t => s.now < t + 2000) ++ [s.now] }

/-- The class of a tick, 0 to 4 in the order of R198: a beat of a sequence loads its A slice, then its B slice, then
computes; between its last step and its completion the `me.seq` computes (DESIGN CHOICE, log 49). -/
def Engine.tickClass (e : Engine) : Nat :=
  match e.seq, e.cur with
  | some q, _ => if q.drain then 3 else if q.ph = 0 then 2 else if q.ph = 1 then 1 else 0
  | none, some c => match c.op with
    | .pb => 1
    | .pa => 2
    | .dr => 3
    | _ => 0
  | none, none => 4

/-- The command whose bundle a tick is charged to: the one in flight, else the next one consumed. -/
def Engine.tickCmd (e : Engine) : Option Cmd :=
  match e.seq, e.cur with
  | none, some c => some c
  | _, _ => e.fifo.head?

/-- Note the class and the bundle of the tick that begins (R198). -/
def CoreC.noteTick (c : CoreC) (held : Bool) : CoreC :=
  { c with tick := (if held && c.eng.cur.isNone then 4 else c.eng.tickClass, held), tickOf := c.eng.tickCmd.map (fun m => (m.cad, m.addr)) }
def State.noteTick (s : State) (g : Nat) : State := s.modC g (fun c => c.noteTick (c.eng.needsAdmit s.now))

/-- The engine may take the head of its FIFO: nothing in flight, no sequence, not quiescent, not held (R178, R36). -/
def Engine.canTake (e : Engine) (now : Nat) : Bool :=
  e.cur.isNone && e.seq.isNone && !e.quiet && !e.needsAdmit now && !e.fifo.isEmpty

/-- Engine samples that found no command name the bundle of the command that is consumed next (R198, R252). -/
def State.nameSamples (s : State) (g : Nat) (m : Cmd) : State :=
  if (s.coreC g).unnamed = 0 then s
  else ((List.range (s.coreC g).unnamed).foldl (fun s _ =>
    s.traceRec (dieOf g) (bundleName m.cad (coordOf g) m.addr) 4 4 (s.asidOf g) 0) s).modC g (fun c => { c with unnamed := 0 })

/-- ENGINE_WAKE_ADMIT (R36): at most 32 engines leave idle in 2 µs, those that are admitted and have still to accept their beat among
them, in the order of their first commands, at one time in ascending core number. -/
def execEngineWakeAdmit (g : Nat) (s : State) : Host.Outcome State Fault Refusal :=
  let e := (s.coreC g).eng
  let recent := s.wakes.filter (fun t => s.now < t + 2000)
  let ahead := s.cores.any (fun p => p.2.eng.needsAdmit s.now &&
    (decide (p.2.eng.since < e.since) || (decide (p.2.eng.since = e.since) && decide (p.1 < g))))
  let due := (s.cores.filter (fun p => p.2.eng.woken)).length
  if e.needsAdmit s.now && decide (recent.length + due < 32) && !ahead then .next (s.modEng g (fun e => { e with woken := true }))
  else .next s

/-- ENGINE_CONSUME (R178): the command at the head is taken and acts, once no waiting `cld` comes before the reader at the banks it
needs (R169); `me.seq` stays at the head until it ends. -/
def execEngineConsume (g : Nat) (s : State) : Host.Outcome State Fault Refusal :=
  let e := (s.coreC g).eng
  if e.canTake s.now = false then .next s
  else match e.fifo with
    | [] => .next s
    | c :: t =>
      if s.readerLoses g c.reads then .next s else
      let s' := (s.nameSamples g c).modEng g (fun e => { e with
        asleep := !isBeat c.op && e.inGap s.now, woken := e.woken && !isBeat c.op })
      let s' := if isBeat c.op && e.inGap s.now then s'.leftIdle else s'
      if c.op = .seq then .next (s'.meEffect g c)
      else .next ((s'.modEng g (fun e => { e with fifo := t, cur := some c, out := none })).meEffect g c)

/-- The sequence ends: it leaves the FIFO and is the command in flight until its token, if any, returns; the progress
words of waiting `me.sqs` are fixed (R193, R194). -/
def Engine.endSeq (e : Engine) (q : SeqPos) : Engine :=
  { e with seq := none, fifo := e.fifo.drop 1, cur := e.fifo.head?, out := none
           sqs := e.sqs.map (fun x => if x.word.isNone then { x with word := some (progress x.run (some q)) } else x) }

/-- The generated `me.pa` and `me.pb` of the sequence's slice (R193). -/
def State.seqPushA (s : State) (g : Nat) (c : Cmd) (q : SeqPos) : State :=
  let r := s.readSlice g ((fmtTag (bitsOf c.pb 36 4)).getD 0x02) c.pa c.pb 96 q.j
  r.2.modEng g (fun e => { e with a := some r.1 })
def State.seqPushB (s : State) (g : Nat) (c : Cmd) (q : SeqPos) : State :=
  let r := s.readSlice g ((fmtTag (bitsOf c.pb 36 4)).getD 0x02) c.pc c.pd 160 q.j
  r.2.modEng g (fun e => { e with b := some r.1 })

/-- The rest of one beat of the sequence: the pushes that have not completed, and the `me.acc` (R193). -/
def State.seqBeat (s : State) (g : Nat) (c : Cmd) (q : SeqPos) : State :=
  let tag := (fmtTag (bitsOf c.pb 36 4)).getD 0x02
  let s := if q.ph = 0 then s.seqPushA g c q else s
  let s := if q.ph ≤ 1 then s.seqPushB g c q else s
  let last := decide (q.j + 1 = bitsOf c.t 16 16 + bitsOf c.t 0 16)
  let e := last || decide (((q.j + 1) * depth tag) % 128 = 0)
  let s := s.meetAcc g ((s.coreC g).eng.tiles.readsBank (bitsOf c.t 32 2))
  (s.modEng g (fun x => match x.a, x.b with
    | some a, some b => { x with tiles := x.tiles.beat (bitsOf c.t 32 2) a b (isBni tag && e) }
    | _, _ => x)).countBeat g .acc

/-- One drain group of the sequence: FP32, DIFF in split class, written to the cluster scratchpad (R193, R349). Stores that the
core issued earlier are performed first, in issue order (R140). -/
def State.seqDrain (s : State) (g : Nat) (c : Cmd) (q : SeqPos) : State :=
  let t := (s.coreC g).eng.tiles
  let i := bitsOf c.t 32 2
  let r := t.drain i 0 q.row q.cg 0 0
  let o := bitsOf c.t 40 22 + 640 * q.row + 128 * q.cg
  let s := s.meetAcc g (t.readsRow i q.row (32 * q.cg) 32)
  (((((s.drainAll g).write (locClus (clusterOf g) o) r.1.bits.toNat 128).won (clusterOf g) o (srcReader g)).won (clusterOf g) (o + 64)
    (srcReader g)).modC g (fun c => c.forget o)).modEng g
    (fun e => { e with tiles := e.tiles.setRov i r.2 })

/-- A resumed sequence's first beat takes its engine out of idle (R36). -/
def State.seqWake (s : State) (g : Nat) : State :=
  if (s.coreC g).eng.asleep && !(s.coreC g).eng.draining then
    (s.modEng g (fun e => { e with asleep := false, woken := false })).leftIdle
  else s

/-- Where the two generated pushes of a sequence's slice read (R193). -/
def SeqPos.readsA (q : SeqPos) (c : Cmd) : List Nat := pushOffs none c.pa c.pb 96 q.j
def SeqPos.readsB (q : SeqPos) (c : Cmd) : List Nat := pushOffs none c.pc c.pd 160 q.j

/-- Where the rest of a sequence's beat reads: the pushes of its slice that have not completed. -/
def SeqPos.reads (q : SeqPos) (c : Cmd) : List Nat :=
  (if q.ph = 0 then q.readsA c else []) ++ (if q.ph ≤ 1 then q.readsB c else [])

/-- A held `cld` comes before the sequence's next step at one of its banks: those of its reads, or those of its image's group and of
the staged lines that go before it (R140, R169). -/
def State.seqLoses (s : State) (g : Nat) (c : Cmd) (q : SeqPos) : Bool :=
  let o := bitsOf c.t 40 22 + 640 * q.row + 128 * q.cg
  if q.drain then s.cldFirst (clusterOf g) (srcReader g) [o, o + 64] ||
    s.cldFirst (clusterOf g) (srcLs g) (((s.coreC g).wst.map StLine.addr).dedup)
  else s.readerLoses g (q.reads c)

/-- The next beat or drain group of a sequence; a signalled one stops after it (R193, R194). -/
def State.seqStep (s : State) (g : Nat) (c : Cmd) (q : SeqPos) : State :=
  let s := s.seqWake g
  let drn := c.t.getLsbD 35
  let jn := bitsOf c.t 16 16 + bitsOf c.t 0 16
  let s' := if q.drain then s.seqDrain g c q else s.seqBeat g c q
  let q' : SeqPos :=
    if q.drain then
      (if q.cg = 4 then { q with cg := 0, row := q.row + 1 } else { q with cg := q.cg + 1 })
    else { q with j := q.j + 1, drain := drn && decide (q.j + 1 = jn), ph := 0 }
  let ended := if q.drain then decide (q'.row = 96) else decide (q'.j = jn) && !drn
  if ended || q.quit then s'.modEng g (fun e => e.endSeq q')
  else s'.modEng g (fun e => { e with seq := some q' })

/-- SEQUENCER_STEP (R193, R194): the sequence's next step, once the limiter and the arbitration let it go (R36, R169). -/
def execSequencerStep (g : Nat) (s : State) : Host.Outcome State Fault Refusal :=
  let e := (s.coreC g).eng
  match e.seq, e.fifo with
  | some q, c :: _ => if e.quiet || e.needsAdmit s.now || s.seqLoses g c q then .next s else .next (s.seqStep g c q)
  | _, _ => .next s

/-- A result of the engine lands in l4 at the end of the cycle in which its token returns (R159, R187), in the latch bank of its command's
issue (R176). -/
def CoreC.landL4 (c : CoreC) (hb : Bool) (v : TVal) : CoreC :=
  { c with infl := c.infl ++ [⟨4, c.clk, 0, v, 0, true, hb⟩] }

/-- One token returns: RET saturates at 65,535 (R187). -/
def Engine.tokenBack (e : Engine) : Engine :=
  { e with iss := e.iss - 1, ret := min 65535 (e.ret + 1) }

/-- The command in flight completes: every `me.sqs` issued after it waits for one command less (R187). -/
def Engine.complete (e : Engine) (now : Nat) : Engine :=
  { e with cur := none, out := none, idle := now, sqs := e.sqs.map (fun x => { x with left := x.left - 1 }) }

/-- TOKEN_RETURN (R187, R194): a waiting `me.sqs` whose turn has come returns first, since it was issued first;
otherwise the token-bearing command in flight completes. -/
def execTokenReturn (g : Nat) (s : State) : Host.Outcome State Fault Refusal :=
  let c := s.coreC g
  match c.eng.sqs with
  | ⟨0, _, some w, k, hb⟩ :: rest =>
    let c' := { c with eng := { c.eng.tokenBack with sqs := rest } }
    .next (s.setC g (if k then c' else c'.landL4 hb (TVal.ofWord w)))
  | _ => match c.eng.cur with
    | some cmd =>
      if cmd.tok = false then .next s
      else
        let c' := { c with eng := c.eng.tokenBack.complete s.now }
        .next ((s.setC g (match c.eng.out with | some v => c'.landL4 cmd.hb v | none => c')).countBeat g cmd.op)
    | none => .next s

/-- COMMAND_IN_FLIGHT_COMPLETE (R197): a command that owes no token finishes, or a push that the running sequence has
generated (R193, R198). -/
def execCommandInFlightComplete (g : Nat) (s : State) : Host.Outcome State Fault Refusal :=
  let e := (s.coreC g).eng
  match e.cur with
  | some cmd =>
    if cmd.tok then .next s
    else .next ((s.modEng g (fun e => e.complete s.now)).countBeat g cmd.op)
  | none => match e.seq, e.fifo with
    | some q, c :: _ =>
      if e.quiet ∨ q.drain ∨ 2 ≤ q.ph ∨ e.needsAdmit s.now ∨ s.readerLoses g (if q.ph = 0 then q.readsA c else q.readsB c) then .next s
      else
        .next ((if q.ph = 0 then (s.seqWake g).seqPushA g c q else s.seqPushB g c q).modEng g
          (fun e => { e with seq := some { q with ph := q.ph + 1 } }))
    | _, _ => .next s

end Sys2Proof.Machine
end

