-- ==== Sys2Proof/Machine/Pipeline.lean ====
section
/-! DEFINITION. Dispatch, issue and the end of a core clock on a gear C core (R158 to R167, R170, R173, R176, R269 to R283,
R303 to R311). -/

namespace Sys2Proof.Machine

/-! ### A bundle's moves -/

/-- The move of slot k; a surrendered slot holds none (R275). -/
def bunMove (b : BitVec 256) (k : Nat) : BitVec 24 := if (bunSur b).getLsbD k then noopMove else slotBits b k

def moveGuard (m : BitVec 24) : BitVec 3 := m.extractLsb' 21 3
def moveSrc (m : BitVec 24) : BitVec 10 := m.extractLsb' 11 10
def moveDst (m : BitVec 24) : BitVec 10 := m.extractLsb' 1 10
def moveK (m : BitVec 24) : BitVec 1 := m.extractLsb' 0 1

/-- Does R163 hold every later bundle behind this s6 move? -/
def ctrlClass (m : BitVec 24) : Bool :=
  let d := (moveDst m).toNat
  decide ((0x284 ≤ d ∧ d ≤ 0x28A) ∨ (0x28C ≤ d ∧ d ≤ 0x290) ∨ d = 0x295)

/-! ### Dispatch checks (R281) -/

/-- Is the destination one that slot k may name (R276, R277, R286 to R294)? -/
def dstLegal (k : Nat) (m : BitVec 24) : Bool :=
  let d := moveDst m
  if d = 0x0FF then true
  else if d.toNat < 0x100 then regDestLegal d
  else if d.toNat < 0x300 then
    decide ((d.toNat - 0x100) / 64 = k) &&
      ((decodeTrigger (m.extractLsb' 8 3) (m.extractLsb' 7 1) (m.extractLsb' 1 6) 0 0 0).isSome ||
        (decide (m.extractLsb' 3 4 = 0) && portAssigned (m.extractLsb' 7 4) (m.extractLsb' 1 2)))
  else false

def isTrigger (m : BitVec 24) : Bool :=
  (decodeTrigger (m.extractLsb' 8 3) (m.extractLsb' 7 1) (m.extractLsb' 1 6) 0 0 0).isSome

/-- The immediate a source code gives, if it is one. -/
def immOf (b : BitVec 256) (k : Nat) (m : BitVec 24) : Option Word :=
  let s := moveSrc m
  if s.toNat < 0x200 then none
  else if s.toNat < 0x300 then some ((s.setWidth 8).signExtend 64) else some (longImm b k s)

/-- Accumulator banks that a move names at dispatch (R281). -/
def namedBanks (b : BitVec 256) (k : Nat) : List Nat :=
  let m := bunMove b k
  match immOf b k m with
  | none => []
  | some t => match (moveDst m).toNat with
    | 0x206 | 0x209 => [bitsOf t 0 2]
    | 0x208 => [bitsOf t 10 2]
    | 0x20A => [2 * bitsOf t 0 1, 2 * bitsOf t 0 1 + 1]
    | 0x20C => [bitsOf t 32 2]
    | 0x250 => [bitsOf t 10 2]
    | _ => []

/-- The register a move writes, if any. -/
def writesReg (m : BitVec 24) : Option Nat := if regDestLegal (moveDst m) then some (moveDst m).toNat else none

/-- Check 3h: a lower slot's move writes the same register or names the same accumulator bank. -/
def slotConflict (b : BitVec 256) (k : Nat) : Bool :=
  (List.range k).any (fun j =>
    ((writesReg (bunMove b k)).isSome && decide (writesReg (bunMove b j) = writesReg (bunMove b k))) ||
      (namedBanks b j).any (fun i => (namedBanks b k).contains i))

/-- The slot before k that is not surrendered, and how far it is. -/
def runHead (b : BitVec 256) : Nat → Nat → Option (Nat × Nat)
  | 0, _ => none
  | k + 1, d => if (bunSur b).getLsbD k then runHead b k (d + 1) else some (k, d + 1)

/-- Checks 3a to 3g of slot k (R281). -/
def slotIllegal (b : BitVec 256) (inKernel : Bool) (k : Nat) : Bool :=
  let stg := (bunStg b).getLsbD k
  if (bunSur b).getLsbD k then
    stg || (match runHead b k 0 with
      | some (j, d) => decide (2 < d) || decide ((moveSrc (slotBits b j)).toNat < 0x300)
      | none => true)
  else
    let m := slotBits b k
    (decide (moveGuard m = 4) && !stg) || (stg && !inKernel) || !sourceLegal (moveSrc m) ||
      (decide (0x300 ≤ (moveSrc m).toNat) && decide (surRun b k ≠ 1 ∧ surRun b k ≠ 2)) ||
      !dstLegal k m || (decide (moveK m = 1) && !isTrigger m)

/-- The first failing slot's cause. -/
def slotsCheck (b : BitVec 256) (inKernel : Bool) : List Nat → Option (Nat × Nat × Nat)
  | [] => none
  | k :: t =>
    if slotIllegal b inKernel k then some (k, 0x01, 0)
    else if slotConflict b k then some (k, 0x03, 0) else slotsCheck b inKernel t

/-- The checks of R281 in order: slot, cause code and DETAIL of the first that fails. -/
def dispatchCheck (b : BitVec 256) (step : BitVec 16) (inKernel : Bool) : Option (Nat × Nat × Nat) :=
  if bunStp b ≠ step.setWidth 8 then some (0, 0x02, (bunStp b).toNat)
  else if b.extractLsb' 32 8 ≠ 0 ∨ b.extractLsb' 0 16 ≠ 0 ∨ (bunSur b).getLsbD 0 then some (0, 0x01, 0)
  else slotsCheck b inKernel (List.range 8)

/-! ### Readiness (R163) -/

/-- Has s6 finished with bundle `idx`: issued it, and holds at it with no operation that keeps later bundles back? -/
def State.s6Done (s : State) (lead idx : Nat) : Bool :=
  decide (idx < ((s.coreC lead).slot 6).next) &&
    !(s.members lead).any (fun g => match ((s.coreC g).slot 6).hold with
      | some h => decide (h.idx = idx) && (decide (h.op = .fuse) || decide (h.op = .rejoin) || decide (h.op = .susp))
      | none => false)

/-- Does a bundle before `idx` still wait for s6 (R163)? -/
def State.behindS6 (s : State) (lead idx : Nat) : Bool :=
  (s.coreC lead).win.any (fun b => decide (b.idx < idx) && ctrlClass (bunMove b.bits 6) && !s.s6Done lead b.idx)

/-- Is slot k held in any member? -/
def State.heldSlot (s : State) (lead k : Nat) : Bool := (s.members lead).any (fun g => ((s.coreC g).slot k).hold.isSome)

/-- Results with write-back in flight (R160); the engine's land in the cycle of their tokens (R187). -/
def CoreC.inFlight (c : CoreC) : Nat := (c.infl.filter (fun r => r.wr && decide (r.unit ≠ 4))).length

/-- Triggers whose result lands after a counted latency (R158, R287 to R293). -/
def hasResult (m : BitVec 24) : Bool :=
  let d := (moveDst m).toNat
  decide (0x100 ≤ d ∧ d < 0x200) ||
    [0x244, 0x246, 0x248, 0x249, 0x24B, 0x24E, 0x24F, 0x250, 0x286, 0x293, 0x296, 0x297, 0x298, 0x299, 0x2C4, 0x2C6,
      0x2C7, 0x2CB, 0x2D1, 0x2D2, 0x2D4, 0x2D5].contains d

/-- Does the move, if it issues, owe a result with write-back (R160)? -/
def CoreC.wantsResult (c : CoreC) (k : Nat) (b : Bun) : Bool :=
  let m := bunMove b.bits k
  isTrigger m && c.guard k b (moveGuard m) && hasResult m && decide (moveK m = 0)

/-- Held operations that land a result (R287, R356, R357). -/
def holdResult (h : Hold) : Bool :=
  !h.k && (match h.op with
    | .cld | .ald | .post | .balloc | .hbind | .saer | .tpost | .rnd => true
    | _ => false)

/-- Results with write-back that the core owes: in flight, or to come from held operations (R160). -/
def CoreC.owes (c : CoreC) : Nat :=
  c.inFlight + (c.slots.filter (fun q => match q.hold with | some h => holdResult h | none => false)).length

/-- The stalls that keep a move from issuing (R158, R178); that of R160 is taken by `State.picks`. -/
def CoreC.stalls (c : CoreC) (k : Nat) (b : Bun) : Bool :=
  let m := bunMove b.bits k
  let d := (moveDst m).toNat
  isTrigger m && c.guard k b (moveGuard m) &&
    ((decide (k = 4) && decide (d ≠ 0x20D) && decide (4 ≤ c.eng.fifo.length)) ||
     (decide (k < 2) && decide (0x15 ≤ d % 64 ∧ d % 64 ≤ 0x18) && decide (c.clk < (c.slot k).div)))

/-- Slot k could issue its next bundle, its syncs apart. -/
def State.slotReady (s : State) (lead k : Nat) : Bool :=
  let c := s.coreC lead
  let q := c.slot k
  match c.findBun q.next with
  | none => false
  | some b =>
    q.frz.isNone && (match c.stop with | some r => decide (q.next < r.idx) | none => true) &&
      !s.heldSlot lead k && decide (q.avail + bunIdl b.bits ≤ c.clk) && decide (b.base + bunIdl b.bits ≤ c.clk) &&
      decide (q.next ≤ c.trailing + 16) && !s.behindS6 lead q.next &&
      (match c.split with | some i => decide (q.next ≤ i) | none => true) &&
      !(s.members lead).any (fun g => (s.coreC g).stalls k b)

/-- Slot k issues now, the limit of R160 apart: it is ready, and every slot that it syncs with is ready at the same bundle
(R163), or has issued it before a stop stood slot k at it again (R295). -/
def State.slotIssues (s : State) (lead k : Nat) : Bool :=
  let c := s.coreC lead
  let n := (c.slot k).next
  s.slotReady lead k &&
    (match c.findBun n with
     | none => false
     | some b => !(bunSyn b.bits).getLsbD k || (List.range 8).all (fun j =>
         !(bunSyn b.bits).getLsbD j || decide (n < (c.slot j).next) ||
           (decide ((c.slot j).next = n) && s.slotReady lead j)))

/-- The slots that issue together with slot k: itself, and those that it syncs with at its bundle. -/
def CoreC.syncSet (c : CoreC) (k : Nat) : List Nat :=
  let n := (c.slot k).next
  match c.findBun n with
  | none => [k]
  | some b =>
    if (bunSyn b.bits).getLsbD k then
      (List.range 8).filter (fun j => (bunSyn b.bits).getLsbD j && decide ((c.slot j).next = n))
    else [k]

/-- Results that the moves of some slots add in core g. -/
def State.adds (s : State) (lead g : Nat) (ks : List Nat) : Nat :=
  (ks.filter (fun k => match (s.coreC lead).findBun ((s.coreC lead).slot k).next with
    | some b => (s.coreC g).wantsResult k b
    | none => false)).length

/-- The slots that issue in this cycle: those that `slotIssues` allows, in slot order as far as no member then owes more than
16 results (R160; the order is the model's choice, log 68). -/
def State.picks (s : State) (lead : Nat) : List Nat :=
  let ms := s.members lead
  let pick := fun (ks : List Nat) k =>
    let new := (s.coreC lead).syncSet k
    if ks.contains k || !s.slotIssues lead k then ks
    else if ms.all (fun g => decide (s.adds lead g new = 0 ∨ (s.coreC g).owes + s.adds lead g (ks ++ new) ≤ 16)) then ks ++ new
    else ks
  let l := (List.range 8).foldl pick []
  (List.range 8).filter (fun k => l.contains k)

/-! ### Freezing at a stop (R173) -/

/-- Held operations that a stop abandons, to be issued again at resume (R173, R295, R320, R359). A `susp` or `yield` that has
finished its wait completes instead (`State.endsNow`). -/
def abandoned (h : Hold) : Bool :=
  match h.op with
  | .kw | .fuse | .rejoin | .ald | .ast | .twait | .bwait | .hacq | .hobs | .saer | .rnd | .susp => true
  | _ => false

/-- Slot k waits for a slot that the stop has frozen, or for a bundle that dispatch no longer fetches; a step's bundle is still
to be fetched (R243). -/
def State.neverIssues (s : State) (lead k : Nat) : Bool :=
  let c := s.coreC lead
  let n := (c.slot k).next
  match c.findBun n with
  | none => !(c.step1 && decide (c.fidx ≤ n) && (match c.stop with | some r => decide (n < r.idx) | none => true))
  | some b =>
    ((bunSyn b.bits).getLsbD k && (List.range 8).any (fun j =>
      decide (j ≠ k) && (bunSyn b.bits).getLsbD j && (c.slot j).frz.isSome && decide ((c.slot j).next ≤ n))) ||
    (s.behindS6 lead n && (c.slot 6).frz.isSome) ||
    (decide (c.trailing + 16 < n) && (List.range 8).any (fun j => (c.slot j).frz.isSome && decide ((c.slot j).next = c.trailing)))

/-- Drop the hold of slot k in every member, and stand the slot at its bundle; it keeps what it had captured. A member of a tandem that
did not hold has made its move, and makes it no second time. -/
def State.abandon (s : State) (lead k idx : Nat) : State :=
  (s.modAll (fun c => { c.modSlot k (fun q => { q with hold := none, kept := q.hold.or q.kept }) with
      made := if (c.slot k).hold.isSome then c.made else c.made ++ [(k, idx)] }) (s.members lead)).modC lead
    (fun c => c.modSlot k (fun q => { q with next := idx }))

/-- Slot 4 is held at an me trigger because a member's FIFO is full (R178). -/
def State.fullFifo (s : State) (lead k : Nat) : Bool :=
  decide (k = 4) && (match (s.coreC lead).findBun ((s.coreC lead).slot k).next with
    | some b => (s.members lead).any (fun g => (s.coreC g).stalls k b)
    | none => false)

/-- Freeze slot k where the stop leaves it: a held `tokw` keeps its wait (R320), and slot 4 stands at a trigger that a full FIFO holds,
which has captured nothing (R359). -/
def State.freezeSlot (s : State) (lead k : Nat) : State :=
  let c := s.coreC lead
  match c.stop with
  | none => s
  | some r =>
    let fz := fun (s : State) => s.modC lead (fun c => c.modSlot k (fun q => { q with frz := some c.clk }))
    if (c.slot k).frz.isSome then s
    else match (s.members lead).findSome? (fun g => ((s.coreC g).slot k).hold) with
      | some h =>
        if h.op = .tokw ∧ c.step1 = false then fz s
        else if abandoned h && !c.step1 then fz (s.abandon lead k h.idx) else s
      | none => if r.idx ≤ (c.slot k).next || s.neverIssues lead k || (s.fullFifo lead k && !c.step1) then fz s else s

def State.freezeAll (s : State) (lead : Nat) : State := (List.range 8).foldl (fun s k => s.freezeSlot lead k) s

/-- Every slot stands: the stop can be completed. -/
def CoreC.allFrozen (c : CoreC) : Bool := (List.range 8).all (fun k => (c.slot k).frz.isSome)

/-! ### Holds that the core itself ends -/

/-- Release the hold of slot k of core g in the current cycle: the slot's IDL counts from it (R361). -/
def State.release (s : State) (g k : Nat) : State :=
  let s := s.modC g (fun c => c.modSlot k (fun q => { q with hold := none }))
  s.modC (s.leader g) (fun c => c.modSlot k (fun q => { q with avail := max q.avail (c.clk + 1) }))

/-- Holds on the core's own state: token waits, engine waits, staging room (R188, R191, R186, R356). -/
def State.pollSlot (s : State) (g k : Nat) : State :=
  let c := s.coreC g
  match (c.slot k).hold with
  | none => s
  | some h => match h.op with
    | .tokw =>
      let n := h.t.word.toNat
      -- a stop leaves it where it stands (R320)
      if ((s.coreC (s.leader g)).slot k).frz.isSome then s
      else if n ≤ c.eng.ret then (s.modC g (fun c => { c with eng := { c.eng with ret := c.eng.ret - n } })).release g k else s
    | .kw =>
      if c.eng.idleNow then (s.modC g (fun c => c.later (.kreg h.t.word.toNat) h.a h.idx)).release g k else s
    | .cst =>
      if c.wst.length + 2 ≤ 16 then (s.cstPut g (bitsOf h.a.word 0 28) h.t).release g k else s
    | .ald =>
      if c.eng.busyBank (bitsOf h.t.word 10 2) then s
      else
        let rd := c.eng.tiles.readsRow (bitsOf h.t.word 10 2) (bitsOf h.t.word 0 7) (32 * bitsOf h.t.word 7 3) 32
        ((s.meetAcc g rd).aldDone g k h.idx h.t.word h.k).release g k
    | .ast =>
      if c.eng.busyBank (bitsOf h.a.word 10 2) then s else (s.astDone g h.a.word h.t).release g k
    | _ => s

def State.pollCore (s : State) (g : Nat) : State := (List.range 8).foldl (fun s k => s.pollSlot g k) s
def State.pollAll (s : State) : List Nat → State
  | [] => s
  | g :: t => (s.pollCore g).pollAll t

/-! ### BUNDLE_DISPATCH -/

/-- Dispatch has fetched the last kernel bundle of the current pass. -/
def CoreC.atKernelEnd (c : CoreC) : Bool := c.loop.act && !c.inH && decide (c.fetch = c.loop.start + 32 * c.loop.len)

/-- May dispatch fetch now (R163, R305)? It waits behind an s6 move that may redirect it, and at the end of a pass. -/
def State.mayFetch (s : State) (lead : Nat) : Bool :=
  let c := s.coreC lead
  (match c.stop with | some r => decide (c.fidx < r.idx) | none => true) && c.honour.isNone && c.split.isNone &&
    decide (c.fidx ≤ c.trailing + 16) && !c.atKernelEnd && !s.behindS6 lead c.fidx

/-- Fetch one bundle, check it, and put it into the window; a refused fetch or a failed check fixes a stop at it. -/
def State.fetchOne (s : State) (lead : Nat) : State :=
  if s.mayFetch lead = false then s
  else
    let c := s.coreC lead
    let r := s.fetchCode lead c.fetch
    let stopAt := fun (s : State) slot code detail =>
      s.requestStop lead ⟨c.fidx, c.fetch, causeWord false slot code detail, none, none⟩
    match r.1 with
    | none => stopAt r.2 0 0x01 0
    | some bits =>
      let b : Bun := ⟨c.fidx, c.fetch, bits, c.fbase, c.loop⟩
      match dispatchCheck bits (s.die (dieOf lead)).step b.inKernel with
      | some (slot, code, detail) => stopAt r.2 slot code detail
      | none => r.2.modC lead (fun c =>
          { c with win := c.win.filter (fun x => c.trailing ≤ x.idx + 1) ++ [b], fidx := c.fidx + 1
                   fetch := (c.fetch + 32) % 2 ^ 48, fbase := 0 })

/-- Count the slots that stall under R163 in this cycle (R247). -/
def State.countStalls (s : State) (lead : Nat) : State :=
  (List.range 8).foldl (fun s k =>
    let c := s.coreC lead
    let stall := s.heldSlot lead k || (s.slotIssues lead k && !(s.picks lead).contains k) ||
      (match c.findBun (c.slot k).next with
      | some b => (s.members lead).any (fun g => (s.coreC g).stalls k b)
      | none => false)
    if stall then (s.members lead).foldl (fun s g => s.countCore g (0x0110 + k) 1) s else s) s

/-- The bundle F before which a user-level interrupt is due: every slot is ready for F, whose SYN is 0xFF; a member has one
pending, and the members of a lock-step tandem agree on a handler (R66, R176, R177; log 24). -/
def State.interruptDue (s : State) (lead : Nat) : Option Bun :=
  let c := s.coreC lead
  let ms := s.members lead
  let n := (c.slot 0).next
  match c.findBun n with
  | none => none
  | some b =>
    if decide (c.run = .running) && decide (c.phase = .start) && (c.stop.isNone || c.step1) && !c.inH &&
        ms.any (fun g => !(s.coreC g).uq.isEmpty) && decide (c.uivec ≠ 0) &&
        ms.all (fun g => decide ((s.coreC g).uivec = c.uivec)) && decide (bunSyn b.bits = 0xFF) &&
        (List.range 8).all (fun k => decide ((c.slot k).next = n) && s.slotReady lead k) then some b else none

/-- The order in which the moves of a cycle are made: slot 5 last, so that an image that another slot reads in this cycle does not hold
what a store writes at the cycle's end (R291, R358). Slot 4 comes before slot 6, so that a token-bearing command of this cycle counts in
ISS for a `tokw` of the same cycle (DESIGN CHOICE, log 98). -/
def lsLast (ks : List Nat) : List Nat := ks.filter (fun k => decide (k ≠ 5)) ++ ks.filter (fun k => decide (k = 5))

/-- The slots that issue this cycle move on, and their moves stand to be issued, but for those that a member has made already. Before an
interrupt that is due nothing issues. -/
def State.choose (s : State) (lead : Nat) : State :=
  let ks := if (s.interruptDue lead).isSome then [] else s.picks lead
  let ms := s.members lead
  let tr := (s.coreC lead).trailing
  let at_ := fun k => ((s.coreC lead).slot k).next
  let s' := s.modC lead (fun c =>
    { ks.foldl (fun c k => c.modSlot k (fun q => { q with next := q.next + 1, avail := c.clk + 1 })) c with
      todo := (lsLast ks).flatMap (fun k => (ms.filter (fun g => !(s.coreC g).made.contains (k, at_ k))).map (fun g => (g, k)))
      phase := .issue, began := c.stop.isNone })
  let s' := s'.modAll (fun c => { c with made := c.made.filter (fun x => !(ks.contains x.1 && decide (x.2 = at_ x.1))) }) ms
  let tr' := (s'.coreC lead).trailing
  if tr' = tr then s'
  else
    let s' := s'.modC lead (fun c => { c with issAt := s.now })
    if tr' ≤ (s'.coreC lead).counted then s' else s'.modAll (fun c => { c with adv := true, counted := tr' }) ms

/-- BUNDLE_DISPATCH (R281, R163): the start of one core clock: holds that the core's own state ends are released, a stop
freezes slots, dispatch fetches one bundle, and the slots that issue are chosen. -/
def execBundleDispatch (g : Nat) (s : State) : Host.Outcome State Fault Refusal :=
  let lead := s.leader g
  let c := s.coreC lead
  if c.run ≠ .running ∨ c.phase ≠ .start then .next s
  else .next ((((((s.pollAll (s.members lead)).freezeAll lead).fetchOne lead).countStalls lead).choose lead))

/-! ### The end of a cycle -/

def Dst.key : Dst → Option Nat
  | .g n => some n
  | .o n => some (0x40 + n)
  | .v n => some (0x60 + n)
  | .p n => some (0x80 + n)
  | .h n => some (0x100 + n)
  | _ => none

/-- Two bundles write one register in one cycle (R159). -/
def collides (l : List PendW) : Bool :=
  l.any (fun a => a.dst.key.isSome && l.any (fun b => decide (a.idx < b.idx) && decide (a.dst.key = b.dst.key)))

/-- Perform one write of the cycle. -/
def State.commit (s : State) (g : Nat) (w : PendW) : State :=
  match w.dst with
  | .g n => s.modC g (fun c => { c with g := c.g.put n w.val.word })
  | .o n => s.modC g (fun c => { c with o := c.o.put n w.val.word })
  | .h n => s.modC g (fun c => { c with h := c.h.put n w.val.word })
  | .v n => s.modC g (fun c => { c with v := c.v.put n w.val })
  | .p n => s.modC g (fun c => { c with p := c.p.put n (w.val.word.getLsbD 0) })
  | .bank b => s.modC g (fun c =>
      { c with bank := BitVec.ofNat 8 (c.bank.toNat - ((c.bank.toNat >>> (2 * b)) % 4) <<< (2 * b) +
          (bitsOf w.val.word 0 2) <<< (2 * b)) })
  | .kreg n => s.kwrite g n w.val.word

/-- All writes of the cycle, in bundle order, so that the later bundle's value remains (R159, R280). -/
def State.commitAll (s : State) (g : Nat) : State :=
  let l := (s.coreC g).pend
  let s' := (sortBy (fun a b => decide (a.idx ≤ b.idx)) l).foldl (fun s w => s.commit g w) s
  s'.modC g (fun c => { c with pend := [], col := if collides l then c.col ||| 0x100 else c.col })

/-- Land one result (R158, R208). -/
def CoreC.land (c : CoreC) (r : Infl) : CoreC :=
  let c := c.raise r.fl
  if r.wr = false then c
  else if r.hb then { c with l2 := (c.l2.put (r.unit + 8) (readLatch c.l2 2 r.unit)).put r.unit r.val }
  else { c with l := (c.l.put (r.unit + 8) (readLatch c.l 1 r.unit)).put r.unit r.val }

/-- The results whose landing cycle is the current one, in bundle order; two of one unit set its bit of `k.col`
(R159). A frozen slot's results do not land (R173), but for the engine's, which land with their tokens (R195). -/
def CoreC.landAll (c : CoreC) (frz : Nat → Option Nat) : CoreC :=
  let due := fun (r : Infl) => decide (r.land ≤ c.clk) &&
    (decide (r.unit = 4) || (match frz r.unit with | some f => decide (r.land < f) | none => true))
  let now := sortBy (fun a b => decide (a.idx ≤ b.idx)) (c.infl.filter due)
  let two := fun u => decide (1 < (now.filter (fun r => decide (r.unit = u) && r.wr)).length)
  let col := (List.range 8).foldl (fun (m : BitVec 9) u => if two u then m ||| (1 : BitVec 9) <<< u else m) 0
  let c' := now.foldl CoreC.land c
  { c' with infl := c.infl.filter (fun r => !due r), col := c'.col ||| col }

/-- The engine's results that have returned land (R187, R195). -/
def CoreC.landMe (c : CoreC) : CoreC :=
  (c.infl.filter (fun r => decide (r.unit = 4))).foldl CoreC.land { c with infl := c.infl.filter (fun r => decide (r.unit ≠ 4)) }

/-- Window stores that land at the end of this cycle, in the windows of members that stand too (R152). -/
def State.landWindow (s : State) (g : Nat) : State :=
  (g :: s.standing g).foldl (fun t m => t.landBefore m ((s.coreC g).clk + 1)) s

/-- Start a hardware loop, or skip it when N is 0 (R306). -/
def CoreC.startLoop (c : CoreC) (addr n : Nat) (d : Word) : CoreC :=
  let len := bitsOf d 0 8 + 1
  if n = 0 then { c with fetch := (addr + 32 * (len + 1)) % 2 ^ 48, fbase := c.clk + 3 }
  else { c with loop := ⟨true, false, d.getLsbD 11, bitsOf d 8 3, len, bitsOf d 12 3, addr + 32, n, 0, false⟩ }

/-- A group switch loses latches, of both banks, and operand ports (R171). -/
def CoreC.loseLatches (c : CoreC) (n : Nat) : CoreC := { c with l := File.lost n, l2 := File.lost n, ports := File.lost n }

/-- Decouple: every member goes on with a copy of the group's sequencing, from the bundle after the `decouple` (R310). -/
def State.decouple (s : State) (lead : Nat) : State :=
  let c := s.coreC lead
  let hold := fun (m : CoreC) k => (m.slot k).hold
  let f := fun (m : CoreC) =>
    { m.loseLatches (s.fresh + m.lane) with
      dec := true, split := none, clk := c.clk, cad := c.cad, fetch := c.fetch, fidx := c.fidx, fbase := c.fbase, win := c.win
      began := c.began, loop := c.loop, phase := c.phase, todo := [], run := c.run, stop := c.stop
      slots := (List.range 8).map (fun k => { c.slot k with hold := hold m k, div := (m.slot k).div }) }
  { s.modAll f (s.members lead) with fresh := s.fresh + 16 }

/-- Once every slot has issued the `decouple`, the members part, with no slip (R171, R310). -/
def State.splitNow (s : State) (lead : Nat) : State :=
  let c := s.coreC lead
  match c.split with
  | some i =>
    if c.stop.isNone ∧ (List.range 8).all (fun k => decide ((c.slot k).next = i + 1)) then s.decouple lead else s
  | none => s

/-- The members of a lock-step tandem ask different things of the bundle stream: the result of their `call` does not land (R173, R311). -/
def State.dropCall (s : State) (lead : Nat) : State :=
  let asks := (s.members lead).map (fun g => (s.coreC g).ctl)
  let idx := ((s.coreC lead).slot 6).next - 1
  if asks.all (fun a => decide (a = asks.headD none)) then s
  else s.modAll (fun c => { c with infl := c.infl.filter (fun r => !(decide (r.unit = 6) && decide (r.idx = idx))) }) (s.members lead)

/-- What the s6 moves of this cycle ask of the bundle stream (R303 to R311). -/
def State.applyCtl (s : State) (lead : Nat) : State :=
  let ms := s.members lead
  let asks := ms.map (fun g => (s.coreC g).ctl)
  let back := (s.coreC lead).uiepc
  let s := s.modAll (fun c => { c with ctl := none }) ms
  let c := s.coreC lead
  let idx := (c.slot 6).next - 1
  let addr := c.addrOf idx
  if asks.all Option.isNone then s
  else if asks.all (fun a => decide (a = asks.headD none)) &&
      (decide (asks.headD none ≠ some .eret) || ms.all (fun g => decide ((s.coreC g).uiepc = back))) then
    match asks.headD none with
    | some (.jump t) => s.modC lead (fun c => { c with fetch := t, fbase := c.clk + 3 })
    | some (.loop n d) => s.modC lead (fun c => c.startLoop addr n d)
    | some .lbrk => s.modC lead (fun c => { c with loop := { c.loop with brk := true } })
    | some .eret =>
      (s.modAll (fun c => { c with ports := c.psave, inH := false }) ms).modC lead
        (fun c => { c with fetch := back.toNat, fbase := c.clk + 3 })
    | some .decouple => s.modC lead (fun c => { c with split := some idx })
    | some .susp => s
    | none => s
  else
    -- the members disagree: cause 0x01, SLOT 6, in every member (R311)
    let s := s.modAll (fun c => c.modSlot 6 (fun q => { q with hold := none })) ms
    (s.modC lead (fun c => c.modSlot 6 (fun q => { q with next := idx }))).requestStop lead
      ⟨idx, addr, causeWord false 6 0x01 0, none, none⟩

/-- One member's part of the end of a cycle. -/
def State.endMember (s : State) (lead g : Nat) : State :=
  let s := (s.commitAll g).landWindow g
  let frz := fun k => ((s.coreC lead).slot k).frz
  s.modC g (fun c => c.landAll frz)

def State.endMembers (s : State) (lead : Nat) : List Nat → State
  | [] => s
  | g :: t => (s.endMember lead g).endMembers lead t

/-- RESULT_LAND (R158, R280): the end of one core clock: the cycle's writes are performed, results land, the bundle
stream is redirected, and the clock and, unless a stop has frozen it, `k.cad` advance (R165); an asynchronous stop that was fixed after
the clock began freezes it from the next one, where E would issue (R174); a step counts the cycles of its
bundle only (R243). The tick is counted in the class that it had at its start (R198). -/
def execResultLand (g : Nat) (s : State) : Host.Outcome State Fault Refusal :=
  let lead := s.leader g
  let c := s.coreC lead
  if c.run ≠ .running ∨ c.phase = .start ∨ c.todo ≠ [] then .next s
  else
    let ms := s.members lead
    let s := ((s.dropCall lead).endMembers lead ms).applyCtl lead
    let go := (match (s.coreC lead).stop with | none => true | some r => c.began && causeAsync r.cause) || ((s.coreC lead).step1 && !(s.coreC lead).allFrozen)
    let next := fun k => ((s.coreC lead).slot k).next
    let s := ms.foldl (fun s g => if (s.coreC g).adv then s.countCore g 0x0101 1 else s) s
    let s := s.modAll (fun c => { c with
      clk := c.clk + 1, cad := if go then c.cad + 1 else c.cad, cur := none, phase := .start, bpSkip := false, adv := false
      slots := c.slots.mapIdx (fun k q => { q with kept := q.kept.filter (fun h => decide (next k ≤ h.idx)) }) }) ms
    let tick := fun (s : State) g =>
      let t := (s.coreC g).tick
      let s := (s.countCore g 0x0102 1).countCore g (0x0201 + t.1) 1
      (if t.2 then s.countCore g 0x0207 1 else s).noteTick g
    .next ((if go then ms.foldl tick s else s).splitNow lead)

/-! ### Loops (R166, R167) -/

/-- Is a soft pre-emption or a shift request pending that this core may honour: CARRY not 0, no user-interrupt handler,
a tandem in lock-step (R127, R230, R313)? -/
def CoreC.mayHonour (c : CoreC) : Bool :=
  (c.soft.isSome || c.shift) && !c.inH && !(!c.group.isEmpty && c.dec) &&
    (match c.cont with | some r => decide (r.carry ≠ 0) | none => false)

/-- The leading slot has issued the last kernel bundle of the current pass, which ends there (R167). -/
def State.passEndDue (s : State) (lead : Nat) : Bool :=
  let c := s.coreC lead
  c.atKernelEnd && c.split.isNone && (match c.stop with | some r => decide (c.fidx ≤ r.idx) | none => true) && c.honour.isNone &&
    decide (c.phase = .start) && !s.behindS6 lead c.fidx && decide (c.run = .running) &&
    c.slots.any (fun q => decide (q.next = c.fidx))

/-- N and DRN after an `lbrk` in the pass (R307), then after a request (R167); and whether the request is honoured. R167 says only that
sp[0] stays false after a request; that N becomes n + 1 then too, as R307 says of `lbrk`, is the model's choice (DESIGN CHOICE, log 87). -/
def LoopSt.atPassEnd (l : LoopSt) (req : Bool) : LoopSt × Bool :=
  let l := if l.brk && decide (l.pass + 1 < l.n) then { l with n := l.pass + 1, drn := true } else l
  let l := { l with brk := false }
  if req && l.susp && decide (l.pass + 1 < l.n) then ({ l with n := l.pass + 1, drn := true }, true) else (l, false)

/-- LOOP_PASS_END (R166, R167, R307): the next pass begins, or the loop ends after N + S − 1 passes; a loop drained for
a request then hands over with ITER = n + 1. -/
def execLoopPassEnd (g : Nat) (s : State) : Host.Outcome State Fault Refusal :=
  let lead := s.leader g
  if s.passEndDue lead = false then .next s
  else
    let c := s.coreC lead
    let r := c.loop.atPassEnd (c.mayHonour && !c.loop.drn)
    let l := r.1
    let want := if r.2 then some (l.lidx, c.loop.pass + 1) else c.honour
    if l.pass + 1 = l.n + l.nst then
      .next (s.modC lead (fun c => { c with loop := LoopSt.none, honour := c.drainFor.or want, drainFor := none }))
    else
      .next (s.modC lead (fun c => { c with
        loop := { l with pass := l.pass + 1 }, fetch := l.start, drainFor := if r.2 then want else c.drainFor }))

/-! ### User-level interrupts (R66, R176, R177) -/

/-- A member enters the handler: it saves its ports, and takes the cause of its own pending interrupt, if it has one. -/
def CoreC.enterHandler (c : CoreC) (b : Bun) : CoreC :=
  let c := { c with uiepc := BitVec.ofNat 64 b.addr, psave := c.ports, inH := true }
  match c.uq with
  | [] => c
  | w :: t => { c with uicause := w ||| (if c.uovf then (1 : Word) <<< 63 else 0), uq := t, uovf := false }

/-- USER_INTERRUPT_TAKE (R176): the members of a lock-step tandem enter the handler together (log 24). -/
def execUserInterruptTake (g : Nat) (s : State) : Host.Outcome State Fault Refusal :=
  let lead := s.leader g
  match s.interruptDue lead with
  | none => .next s
  | some b =>
    let ms := s.members lead
    let s := (s.modAll (fun c => c.enterHandler b) ms).modC lead (fun c => { c with
      fetch := c.uivec.toNat, fidx := b.idx, fbase := 0, loop := b.loop, win := c.win.filter (fun x => x.idx < b.idx)
      -- a step stops before the handler's first bundle (R243)
      stop := if c.step1 then c.stop.map (fun r => { r with idx := b.idx }) else c.stop })
    .next (ms.foldl (fun s m => s.countCore m 0x0120 1) s)

end Sys2Proof.Machine
end

