-- ==== Sys2Proof/Machine/Launch.lean ====
section
/-! DEFINITION. LAUNCH and launch groups (R98, R100, R102), and the moves PROMOTE and DEMOTE (R114 to R123). -/

namespace Sys2Proof.Machine

/-! ### LAUNCH -/

def recOfInt (x : Int) : Rec := Rec.ofWords (toWords x.toNat 8)

/-- KEY translations of records that do not fault, in row order; the first fault otherwise (R97, R100). -/
def State.keysOk (s : State) (d : Nat) : List Rec → Except Nat Unit × State
  | [] => (.ok (), s)
  | r :: t => match s.place r d 0 with
    | (.error f, s) => (.error f, s)
    | (.ok _, s) => s.keysOk d t

/-- Post the records of a LAUNCH from the next row on, each where R97 places it; it waits where R103 grants no slot (R100). -/
def State.postRows (s : State) (ch n grp : Nat) (row : Nat) : List Rec → State
  | [] => s
  | r :: t =>
    let d := ch / 512
    let h := (n + row) % 8
    match s.place r d h with
    | (.error f, s) => s.pktFault ch n f
    | (.ok pl, s) => match s.grant pl.part r.asid with
      | none => s
      | some res =>
        ((s.insertTask (s.holdPosts r) pl grp h res).modPkt ch n (fun q => { q with row := q.row + 1 })).postRows ch n grp
          (row + 1) t

/-- The rest of a LAUNCH that has formed its group. -/
def State.launchMore (s : State) (ch : Nat) (p : Pkt) : State :=
  match p.group with
  | none => s
  | some grp => s.postRows ch p.n grp p.row ((p.list.drop p.row).map recOfInt)

/-- The completion word w6 at w2, if w2 ≠ 0 (R102): the code with which the packet then ends, 0x05 where w2 lies in a window whose
core runs no tandem (R56); nothing while the word cannot be written. -/
def State.groupWord (s : State) (ch : Nat) (p : Pkt) : Option Nat × State :=
  if p.w 2 = 0 then (some 0, s)
  else if s.windowGone p 2 then (some 0x05, s)
  else
    let one : Pkt := { p with words := p.words.set 3 ((1 : Word) <<< 32 ||| 8) }
    match s.oneRow ch one none 0 (fun _ => p.opnd.toNat) with
    | (.stop, s) => (none, s)
    | (.go, s) => (some 0, s)

/-- Read and validate the records, then form a group and begin to post (R100, R102). -/
def State.launchStart (s : State) (ch : Nat) (p : Pkt) : State :=
  let priv := (s.chan ch).priv ch
  match s.rowLocs ch p 1 0 (64 * p.rows) .read with
  | (.error f, s) => s.pktFault ch p.n f
  | (.ok ps, s) =>
    if s.flashFails ps then (s.countLines ch ps).pktDone ch p.n 0x01 else
    let s := s.countRow ch ps [] 0
    let x := s.pieceRead (engOf ch / 8) ps
    let s := x.2
    let nums := (List.range p.rows).map (fun r => ((x.1 >>> (512 * r)) % 2 ^ 512 : Nat))
    let recs := nums.map (fun v => Rec.ofWords (toWords v 8))
    if recs.all (fun r => s.recOk r (if priv then none else some p.asid) priv) = false then s.pktDone ch p.n 0x05
    else match s.keysOk (ch / 512) recs with
      | (.error f, s) => s.pktFault ch p.n f
      | (.ok _, s) =>
        let grp := s.ngrp + 1
        let s := { s with ngrp := grp, grps := Tab.put s.grps grp ⟨p.asid, ch, p.n⟩ }
        let s := s.modPkt ch p.n (fun q => { q with group := some grp, list := nums.map Int.ofNat })
        s.postRows ch p.n grp 0 recs

/-- LAUNCH: at most 4,096 groups are open; with ROWS = 0 its group completes at once. -/
def execLaunch (ch n : Nat) (s : State) : Host.Outcome State Fault Refusal :=
  s.onPkt ch n 0x09 (fun s p =>
    if p.rows = 0 ∨ p.rb = 0 then
      match s.groupWord ch p with
      | (some code, s) => s.pktDone ch p.n code
      | (none, s) => s
    else if p.group.isSome then s.launchMore ch p
    else if 4096 ≤ s.grps.length then s
    else s.launchStart ch p)

/-- TASK_SLOT_GRANTED (R100, R103): the LAUNCH that its channel waits with goes on posting. -/
def execTaskSlotGranted (ch : Nat) (s : State) : Host.Outcome State Fault Refusal :=
  match (s.chan ch).pkts.find? (fun p => decide (p.op = 0x09) && p.group.isSome && !p.done && p.fault.isNone) with
  | some p => .next (s.launchMore ch p)
  | none => .next s

/-- Work of a group that is still open: its LAUNCH has rows to post, a record lives, or a packet that its continuations
posted has not completed (R102). -/
def State.groupBusy (s : State) (grp : Nat) (g : Group) : Bool :=
  (match s.pkt g.ch g.n with
    | some p => decide (p.group = some grp) && decide (p.row < p.rows)
    | none => false) ||
  s.tasks.any (fun t => decide (t.2.grp = grp)) ||
  s.chans.any (fun c => c.2.pkts.any (fun p => decide (p.grp = some grp)) ||
    c.2.claims.any (fun q => decide (q.grp = some grp)) || c.2.posters.any (fun q => decide (q.2.2 = some grp)))

/-- LAUNCH_GROUP_COMPLETE (R102): the completion word is written, and the LAUNCH packet has finished. -/
def execLaunchGroupComplete (grp : Nat) (s : State) : Host.Outcome State Fault Refusal :=
  match Tab.find s.grps grp with
  | none => .next s
  | some g =>
    if s.groupBusy grp g then .next s
    else
      let gone := fun (s : State) => { s with grps := Tab.del s.grps grp }
      match s.pkt g.ch g.n with
      | none => .next (gone s)
      | some p =>
        if p.group ≠ some grp ∨ p.done then .next (gone s)
        else if p.fault.isSome then .next s
        else match s.groupWord g.ch p with
          | (some code, s) => .next (gone (s.pktDone g.ch g.n code))
          | (none, s) => .next s

/-! ### Segments (R114, R115) -/

/-- A segment named by a move: its object, VA and bytes, the location of its map entry, its page size and placement. -/
structure SegRef where
  key : Nat
  va  : Nat
  n   : Nat
  ent : Nat
  page : Nat
  plc : Nat
  deriving DecidableEq, Repr

/-- The segment that a move names (R117): nothing where the packet is malformed. -/
def State.moveSeg (s : State) (p : Pkt) : Option SegRef :=
  match s.bufHere p.asid (p.addr 1) with
  | none => none
  | some (k, b) =>
    if p.space 1 = 0 ∧ p.rows = 1 ∧ p.rb = b.seg ∧ p.addr 1 = b.va + b.seg * p.segIdx then
      some ⟨k, p.addr 1, b.seg, b.mapEnt (p.addr 1), b.page, b.plc⟩
    else none

def State.segWord (s : State) (g : SegRef) : Word := BitVec.ofNat 64 (s.read g.ent 8)
/-- A write of the map word by the engine of die d (R89, R123). -/
def State.setSeg (s : State) (d : Nat) (g : SegRef) (w : Word) : State := s.devWrite d g.ent w.toNat 8
/-- Flash address of the segment's copy (R115). -/
def State.segFlash (s : State) (g : SegRef) : Nat :=
  let w := BitVec.ofNat 64 (s.read (g.ent + 8) 8)
  (bitsOf w 32 2 <<< 44) + (bitsOf w 0 32 <<< 12)

/-- Bytes that one leaf entry covers: 4 KiB for pages of 4 and 64 KiB, else the page (R75, R119). -/
def leafStep (page : Nat) : Nat := if page ≤ 65536 then 4096 else page

/-- Leaf entries at VAs of an address space: VA, location, entry; else the first fault (R79). -/
def State.leavesAt (s : State) (d asid : Nat) (desc : List Word) : List Nat → Except Nat (List (Nat × Nat × Word))
  | [] => .ok []
  | va :: t => match (s.walkLevels d asid desc va (descRoot desc) levels).1 with
    | .error f => .error f
    | .ok (e, pte) => match s.leavesAt d asid desc t with
      | .error f => .error f
      | .ok l => .ok ((va, pte, e) :: l)

/-- Leaf entries of n bytes of pages at a VA, one for each 4 KiB or large page (R119). -/
def State.leaves (s : State) (d asid va n page : Nat) : Except Nat (List (Nat × Nat × Word)) :=
  let desc := s.readDesc d asid
  if descV desc = false then .error 0x0A
  else s.leavesAt d asid desc ((List.range (n / leafStep page)).map (fun i => va + leafStep page * i))

def State.segLeaves (s : State) (d asid : Nat) (g : SegRef) : Except Nat (List (Nat × Nat × Word)) := s.leaves d asid g.va g.n g.page

/-- Host addresses of pieces of frames of an address space (R78), piece by piece; nothing for a second-stage fault. -/
def State.hostPieces (s : State) (d asid : Nat) : List (Nat × Nat) → Option (List (Nat × Nat))
  | [] => some []
  | (a, n) :: t => match (s.stage2 d asid (s.readDesc d asid) a).1, s.hostPieces d asid t with
    | some (pa, _, _), some l => some ((pa, n) :: l)
    | _, _ => none

/-- Pieces of at most one 2 MiB chunk of a range that is aligned to its own size. -/
def chunks (a n : Nat) : List (Nat × Nat) :=
  (List.range (max 1 (n / 2 ^ 21))).map (fun i => (a + 2 ^ 21 * i, min n (2 ^ 21)))

/-- A translation that a move's shoot-down removes (R85). -/
def TlbEnt.within (t : TlbEnt) (asid va n : Nat) : Bool :=
  decide (t.asid = asid) && decide (t.base < va + n) && decide (va < t.base + 2 ^ t.size)

/-- Entries for the segment leave every TLB, and the walk caches those of the ASID; a pinned one that packets hold is retired and
waits (R84, R85, R86). -/
def State.shoot (s : State) (asid va n : Nat) : State :=
  let mark := fun (t : TlbEnt) => if t.within asid va n then { t with retired := true } else t
  { s with
    ces := s.ces.map (fun c => (c.1, { c.2 with
      gone := c.2.gone.map mark
      tlb := (c.2.tlb.filter (fun t => !t.2.within asid va n || (leafPin t.2.leaf && !t.2.holders.isEmpty))).map (fun t => (t.1, mark t.2)) }))
    dies := s.dies.map (fun d => (d.1, { d.2 with wc := d.2.wc.filter (fun e => decide ((e.1 >>> 64) % 2 ^ 16 ≠ asid)) })) }

/-- Packets still hold a retired entry of the segment (R86). -/
def State.shotPending (s : State) (asid va n : Nat) : Bool :=
  s.ces.any (fun c => (c.2.tlb.map Prod.snd ++ c.2.gone).any (fun t => t.retired && t.within asid va n && !t.holders.isEmpty))

/-- The shoot-down has completed: the retired entries are removed (R86). -/
def State.shotDone (s : State) (asid va n : Nat) : State :=
  let gone := fun (t : TlbEnt) => t.retired && t.within asid va n
  { s with ces := s.ces.map (fun c => (c.1, { c.2 with
    tlb := c.2.tlb.filter (fun t => !gone t.2), gone := c.2.gone.filter (fun t => !gone t) })) }

/-- The records whose KEY lies in the segment, waiting, runnable or running (R99, R126). -/
def State.segChanged (s : State) (asid : Nat) (g : SegRef) : State :=
  ((s.tasks.filter (fun t => decide (t.2.r.asid = asid ∧ g.va ≤ t.2.r.key ∧ t.2.r.key < g.va + g.n))).map Prod.fst).foldl (fun s t =>
    match s.task t with
    | some x => s.tierChanged t x
    | none => s) s

/-- A move has set MOV: its map word with FAIL and LAST, MOV clear. -/
def segFailed (w : Word) (code : Nat) : Word := setBits (setBits (setBits w 61 1 0) 60 1 1) 48 8 code
/-- The map word after a change of tier: EPOCH one more, LAST 0, FAIL 0, MOV 0. -/
def segMoved (w : Word) (tier : Nat) : Word :=
  setBits (setBits (setBits (setBits (setBits w 62 2 tier) 61 1 0) 60 1 0) 48 8 0) 0 48 (bitsOf w 0 48 + 1)

/-- The last steps of a move, once its shoot-down has completed (R119); a DEMOTE returns its frames, which its packet lists (R118,
R120); an aborted move completes with 0x07 (R122). -/
def State.moveEnd (s : State) (ch : Nat) (p : Pkt) (g : SegRef) (tier : Nat) : State :=
  if s.shotPending p.asid g.va g.n then s
  else
    let s := s.shotDone p.asid g.va g.n
    let s := s.setSeg (engOf ch / 8) g (segMoved (s.segWord g) tier)
    let vm := descVm (s.readDesc (engOf ch / 8) p.asid)
    let s := if tier = 1 then { s with
        qused := Tab.put s.qused vm (Tab.get 0 s.qused vm - g.n / 4096)
        frames := s.frames.filter (fun f => !(decide (f.1 = g.key) && p.list.contains (f.2.1 : Int))) } else s
    (s.segChanged p.asid g).pktDone ch p.n p.code

/-- The frame of a move: it waits for MOV and sets it, which is a step of its own; then it reads the tier, and moves or has
nothing to do; once its retag has begun only the shoot-down is waited for (R117, R119, R123). -/
def State.moveFrame (s : State) (ch : Nat) (p : Pkt) (tier : Nat) (go : State → SegRef → State) : State :=
  match s.moveSeg p with
  | none => s.pktDone ch p.n 0x05
  | some g =>
    let w := s.segWord g
    if p.phase = 2 then s.moveEnd ch p g tier
    else if p.phase = 3 then
      if bitsOf w 62 2 = tier then (s.setSeg (engOf ch / 8) g (setBits w 61 1 0)).pktDone ch p.n 0 else go (s.loadDesc (engOf ch / 8) p.asid) g
    else if w.getLsbD 61 then s
    else (s.setSeg (engOf ch / 8) g (setBits w 61 1 1)).modPkt ch p.n (fun q => { q with phase := 3 })

/-- Hasps whose words lie in the segment stay bound: their names are VAs (R157). `loc` is the word's new location. -/
def State.moveHasps (s : State) (asid : Nat) (g : SegRef) (loc : Nat → Nat) : State :=
  { s with dies := s.dies.map (fun d => (d.1, { d.2 with hasps := d.2.hasps.map (fun h =>
    if h.2.asid = asid ∧ g.va ≤ h.2.name.toNat ∧ h.2.name.toNat < g.va + g.n then (h.1, { h.2 with loc := loc h.2.name.toNat }) else h) })) }

/-- Retag the leaves and shoot down the segment (R119, R120); `frame` gives the frame address of a VA, and `old` the frames that a
DEMOTE will return. -/
def State.retag (s : State) (ch : Nat) (p : Pkt) (g : SegRef) (ls : List (Nat × Nat × Word)) (tier plc : Nat) (frame : Nat → Nat)
    (old : List Int) : State :=
  let d := engOf ch / 8
  let s := ls.foldl (fun (s : State) e =>
    let w := setBits (setBits (setBits (setBits e.2.2 6 2 tier) 8 3 plc) 12 36 (frame e.1 / 4096)) 3 2 0
    s.devWrite d e.2.1 w.toNat 8) s
  let s := s.moveHasps p.asid g (fun va => match s.hostPieces d p.asid [(frame va, 8)] with
    | some [(pa, _)] => if tier = 0 then pa else tierLoc tier (frame va)
    | _ => tierLoc tier (frame va))
  let s := (s.shoot p.asid g.va g.n).modPkt ch p.n (fun q => { q with phase := 2, list := old })
  s.moveEnd ch { p with phase := 2, list := old } g tier

/-- Frame address of a VA of the segment: one frame for each page. -/
def pageFrame (g : SegRef) (frames : List Nat) (va : Nat) : Nat := frames.getD ((va - g.va) / g.page) 0 + (va - g.va) % g.page

/-- Two ranges (start, bytes) do not overlap. -/
def apart (a b : Nat × Nat) : Bool := decide (a.1 + a.2 ≤ b.1 ∨ b.1 + b.2 ≤ a.1)

/-- What firmware keeps in its local chunks beside the bundle cache (R69): the save areas of contexts (R231), dumps that have not been
collected (R235), and the second-stage arrays of live address spaces (R78). -/
def State.keptAreas (s : State) : List (Nat × Nat) :=
  s.tasks.filterMap (fun t => t.2.ctx.map Ctx.area) ++
  (s.dumps.filter (fun d => decide (bitsOf (Tab.get 0 s.dslots d.1) 62 2 ≠ 0))).map (fun d => (d.2.pa, d.2.bytes)) ++
  s.live.filterMap (fun a =>
    let d := s.readDesc 0 a
    if descS2 d then some (descS2Base d, 8 * descS2Lim d) else none)

/-- A range of HBM that no object holds: neither a frame of a buffer nor a page of a segment map (R115, R118), in which no published
bundles lie and nothing else that firmware keeps (R69). -/
def State.dataFree (s : State) (q : Nat × Nat) : Bool :=
  s.frames.all (fun f => apart f.2 q) && s.objs.all (fun o => o.2.bufs.all (fun b => b.maps.all (fun m => apart (m, 4096) q))) &&
    (List.range 4).all (fun d => (s.die d).bcache.all (fun c => apart (c.2, 4096) q)) && s.keptAreas.all (fun a => apart a q)

/-- The 2 MiB chunks that a range lies in. -/
def chunksOf (q : Nat × Nat) : List Nat := (List.range ((q.1 % 2 ^ 21 + q.2 + 2 ^ 21 - 1) / 2 ^ 21)).map (fun i => q.1 / 2 ^ 21 + i)

/-- A free range of whole pages in chunks local to die d, past the ASID table of the chunk that firmware keeps there (R69, R77). -/
def State.localFree (s : State) (d : Nat) (q : Nat × Nat) : Bool :=
  decide (q.1 % 4096 = 0 ∧ q.1 + q.2 ≤ 2 ^ 39) && (chunksOf q).all (fun c => decide ((Tab.get 0 s.home c).toNat = 12 + d)) &&
    apart (fwChunk d, 65536) q && s.dataFree q

/-- Pages of the chunks local to die d. -/
def State.localPages (s : State) (d : Nat) : List Nat :=
  (s.home.filter (fun c => decide (c.2.toNat = 12 + d))).flatMap (fun c => (List.range 512).map (fun i => 2 ^ 21 * c.1 + 4096 * i))

/-- Such a range outside firmware's own chunks: one that an object may take. -/
def State.frameFree (s : State) (q : Nat × Nat) : Bool := s.dataFree q && (List.range 4).all (fun d => apart (fwChunk d, 2 ^ 21) q)

/-- No other die's RLC holds a copy of a line of the range, so that what is written there is what every die reads (R2, log 46). -/
def State.noCopies (s : State) (d : Nat) (q : Nat × Nat) : Bool :=
  (List.range 4).all (fun e => decide (e = d) || (s.die e).rlc.all (fun l => apart (l.1, 64) q))

/-- Host pieces of the frames that a PROMOTE may take (R118, R119): one frame for each page, aligned, every chunk present with the
buffer's placement, free and not taken twice. -/
def State.framePieces (s : State) (d asid : Nat) (g : SegRef) (frames : List Nat) : Option (List (Nat × Nat)) :=
  match s.hostPieces d asid (frames.flatMap (fun f => chunks f g.page)) with
  | none => none
  | some ps =>
    if frames.length = g.n / g.page ∧ frames.all (fun f => decide (f % g.page = 0)) ∧ (ps.map Prod.fst).Nodup ∧
        ps.all (fun q => s.placeOk 0 g.plc q.1 && s.frameFree q && s.noCopies d q) then some ps else none

/-- Backing that a die has left, in units of 512 KiB (R69). -/
def State.room (s : State) (d : Nat) : Nat := backingMax - s.backing d

/-- Chunks that firmware can still make present with a placement code (R69, R118). With code 010 a chunk's number fixes its home, and a
quarter of all chunks has each. -/
def State.moreChunks (s : State) (plc : Nat) : Nat :=
  let here := s.home.filter (fun c => homePresent c.2)
  let at_ := fun d => min (s.room d / 4) (2 ^ 16 - (here.filter (fun c => decide (homeDie (2 ^ 21 * c.1) 2 = d))).length)
  let left := 2 ^ 18 - here.length
  if plc < 2 then min left (min (min (s.room 0) (s.room 1)) (min (s.room 2) (s.room 3)))
  else if plc = 2 then at_ 0 + at_ 1 + at_ 2 + at_ 3 else min left (s.room (plc % 4) / 4)

/-- Aligned runs of 512 chunks that are, or can be made, a free frame of 1 GiB with a placement code: for each the backing that its
absent chunks would take from the four dies. -/
def State.gibRuns (s : State) (plc : Nat) : List (List Nat) :=
  (List.range 512).filterMap (fun i =>
    let l := (List.range 512).map (fun j => (512 * i + j, Tab.get 0 s.home (512 * i + j)))
    let absent := l.filter (fun c => !homePresent c.2)
    if l.all (fun c => !homePresent c.2 || decide (c.2.toNat % 8 = plc)) && s.frameFree (2 ^ 30 * i, 2 ^ 30) then
      some ((List.range 4).map (fun d => (absent.map (fun c => chunkCharge c.1 (BitVec.ofNat 4 (8 + plc)) d)).sum))
    else none)

/-- Can k of some runs be made present with the backing that the dies have left? -/
def runsFit : List (List Nat) → Nat → List Nat → Bool
  | _, 0, _ => true
  | [], _ + 1, _ => false
  | r :: t, k + 1, room =>
    ((r.zip room).all (fun x => decide (x.1 ≤ x.2)) && runsFit t k ((r.zip room).map (fun x => x.2 - x.1))) || runsFit t (k + 1) room

/-- Do free frames of present chunks, and chunks that can still be made present, suffice for the segment (R118)? A page of 1 GiB takes
512 chunks in a row, unless a second stage puts them together (R78). -/
def State.reservable (s : State) (d asid : Nat) (g : SegRef) : Bool :=
  if g.page = 2 ^ 30 ∧ descS2 (s.readDesc d asid) = false then
    runsFit (s.gibRuns g.plc) (g.n / 2 ^ 30) ((List.range 4).map s.room)
  else
  let mine := (s.home.filter (fun c => homePresent c.2 && decide (c.2.toNat % 8 = g.plc))).map Prod.fst
  let unit := min g.page (2 ^ 21)
  let free := (mine.map (fun c => ((List.range (2 ^ 21 / unit)).filter (fun i => s.frameFree (2 ^ 21 * c + unit * i, unit))).length)).sum
  decide (g.n ≤ unit * free + 2 ^ 21 * s.moreChunks g.plc)

/-- PROMOTE (R119). `frames` are the frames that firmware reserves; none where the reservation is refused, which ends the move with
0x02, as a full quota does (R118). -/
def execPromote (ch n : Nat) (frames : List Nat) (s : State) : Host.Outcome State Fault Refusal :=
  s.onPkt ch n 0x07 (fun s p => s.moveFrame ch p 0 (fun s g =>
    let d := engOf ch / 8
    let vm := descVm (s.readDesc d p.asid)
    let fail := fun (s : State) code => (s.setSeg d g (segFailed (s.segWord g) code)).pktDone ch p.n code
    let fl := s.segFlash g
    if Tab.get 0xFFFFFFFF s.qlimit vm < Tab.get 0 s.qused vm + g.n / 4096 then fail s 0x02
    else if frames = [] then (if s.reservable d p.asid g then s else fail s 0x02)
    else match s.framePieces d p.asid g frames with
      | none => s
      | some ps =>
        if s.flashFails [(locFlash fl, g.n)] then fail s 0x01
        else match s.segLeaves d p.asid g with
          | .error f => s.pktFault ch p.n f
          | .ok ls =>
            let s := { s with
              qused := Tab.put s.qused vm (Tab.get 0 s.qused vm + g.n / 4096), frames := s.frames ++ ps.map (fun q => (g.key, q)) }
            ((s.countRow ch [] ps g.n).pieceWrite d (s.read (locFlash fl) g.n) ps).retag ch p g ls 0 g.plc (pageFrame g frames) []))

/-- Leaves of the pages that a DEMOTE writes back: those with D = 1 in some entry (R120). -/
def dirtyLeaves (g : SegRef) (ls : List (Nat × Nat × Word)) : List (Nat × Nat × Word) :=
  let dirty := fun (va : Nat) => ls.any (fun e => leafD e.2.2 && decide ((e.1 - g.va) / g.page = (va - g.va) / g.page))
  ls.filter (fun e => dirty e.1)

/-- Locations of pieces of VAs (start, bytes) read through one leaf, under the checks of every access (R71, R79, R436), or the first
fault. -/
def State.leafLocs (s : State) (d : Nat) (desc : List Word) (t : TlbEnt) : List (Nat × Nat) → Except Nat (List (Nat × Nat × Nat))
  | [] => .ok []
  | (va, n) :: l => match (s.access d desc t va .read).1 with
    | .error f => .error f
    | .ok a => (s.leafLocs d desc t l).map (fun r => (va, tierLoc t.tier a, n) :: r)

/-- The same for leaves, each of `step` bytes: VA, location and bytes of every piece. -/
def State.leavesLocs (s : State) (d asid step : Nat) (desc : List Word) : List (Nat × Nat × Word) → Except Nat (List (Nat × Nat × Nat))
  | [] => .ok []
  | (va, pte, e) :: l => match s.leafLocs d desc (leafEnt desc asid va e pte) (chunks va step) with
    | .error f => .error f
    | .ok a => (s.leavesLocs d asid step desc l).map (fun r => a ++ r)

/-- The copies of a segment's pieces (VA, location, bytes) leave the RLC of die d, as any line may by eviction (R89): a DEMOTE begins with
that, so that what it reads there afterwards is the segment's bytes (R2, R88, log 83). -/
def State.evictPieces (s : State) (d : Nat) (ps : List (Nat × Nat × Nat)) : State := s.dropRlc [d] (touches (ps.map Prod.snd))

/-- Write pieces of a segment back to flash, each at its offset past `fl`, as a copy engine of die d reads them: through its RLC, which
takes the lines that it did not hold (R88). -/
def State.writeBackFlash (s : State) (d va0 fl : Nat) : List (Nat × Nat × Nat) → State
  | [] => s
  | (va, loc, n) :: t =>
    let r := s.pieceRead d [(loc, n)]
    (r.2.write (locFlash (fl + (va - va0))) r.1 n).writeBackFlash d va0 fl t

/-- Host frames of the segment in HBM, which its DEMOTE returns (R118, R120). -/
def State.hostFrames (s : State) (d asid page : Nat) (ls : List (Nat × Nat × Word)) : List Int :=
  ((ls.filter (fun e => decide (leafTier e.2.2 = 0))).flatMap (fun e => chunks (leafFrame e.2.2) (leafStep page))).filterMap (fun q =>
    ((s.stage2 d asid (s.readDesc d asid) q.1).1).map (fun r => (r.1 : Int)))

/-- DEMOTE (R120): pages whose leaf has D = 1 are written back to their flash pages first. -/
def execDemote (ch n : Nat) (s : State) : Host.Outcome State Fault Refusal :=
  s.onPkt ch n 0x08 (fun s p => s.moveFrame ch p 1 (fun s g =>
    let d := engOf ch / 8
    let fl := s.segFlash g
    match s.segLeaves d p.asid g with
    | .error f => s.pktFault ch p.n f
    | .ok ls => match s.leavesLocs d p.asid (leafStep g.page) (s.readDesc d p.asid) (dirtyLeaves g ls) with
      | .error f => s.pktFault ch p.n f
      | .ok ps =>
        (((s.evictPieces d ps).countRow ch (ps.map Prod.snd) [] (ps.map (fun q => q.2.2)).sum).writeBackFlash d g.va fl ps).retag ch p g ls 1 0
          (fun va => fl + (va - g.va)) (s.hostFrames d p.asid g.page ls)))

end Sys2Proof.Machine
end

