-- ==== Sys2Proof/Machine/Queue.lean ====
section
/-! DEFINITION. Queues: descriptors, bindings, creation, closing, abort, taking packets, completing them, their faults
(R47 to R54, R59, R61 to R66, R226, R227, R437). -/

namespace Sys2Proof.Machine

/-! ### Descriptors and bindings (R47, R48, R437) -/

def descKey (fn i : Nat) : Nat := 4096 * fn + i
def State.descWord (s : State) (fn i k : Nat) : Word := (Tab.get [] s.qdesc (descKey fn i)).getD k 0
def State.setDescWord (s : State) (fn i k : Nat) (w : Word) : State :=
  { s with qdesc := Tab.put s.qdesc (descKey fn i) ((List.range 8).map (fun j => if j = k then w else s.descWord fn i j)) }

def State.bindWord (s : State) (vf i : Nat) : Word := Tab.get 0 s.binds (16 * vf + i)
/-- The channel of a descriptor (R47): nothing where a VF's binding does not hold. -/
def State.descChan (s : State) (fn i : Nat) : Option Nat :=
  if fn = 0 then (if i < 2048 then some i else none)
  else
    let b := s.bindWord fn i
    if i < 16 ∧ b.getLsbD 63 then some (bitsOf b 26 11) else none

def State.descAsid (s : State) (fn i : Nat) : Nat :=
  if fn = 0 then bitsOf (s.descWord 0 i 5) 16 10 else bitsOf (s.bindWord fn i) 16 10

def State.descValid (s : State) (fn i : Nat) : Bool := (s.descWord fn i 6).getLsbD 0

/-- A channel that a binding word holds (R437). -/
def State.boundChan (s : State) (ch : Nat) : Bool := s.binds.any (fun b => b.2.getLsbD 63 && decide (bitsOf b.2 26 11 = ch))

/-- The last descriptor write was accepted: ERR clears (R48). -/
def State.descOk (s : State) (fn i : Nat) : State := s.setDescWord fn i 6 (s.descWord fn i 6 &&& 1)

/-- A function's read of a descriptor's word (R48): RIDX, TL, CHAN and ASID come from the channel and the binding. -/
def State.descRead (s : State) (fn i k : Nat) : Word :=
  let c := match s.descChan fn i with
    | some ch => if (s.chan ch).owner = some (fn, i) ∨ (s.chan ch).owner = none then s.chan ch else Chan.reset
    | none => Chan.reset
  match k with
  | 2 => BitVec.ofNat 64 c.ridx
  | 4 => BitVec.ofNat 64 c.tl
  | 5 => setBits (setBits (s.descWord fn i 5) 26 11 ((s.descChan fn i).getD 0)) 16 10 (s.descAsid fn i)
  | _ => s.descWord fn i k

/-- A descriptor write is refused: ERR is set, VALID stays (R47, R48, R50). -/
def State.descErr (s : State) (fn i : Nat) : State := s.setDescWord fn i 6 (s.descWord fn i 6 ||| 2)

/-! ### Creation (R47, R49) -/

/-- The ring after RING_INIT: w0 = 0x4000 in every slot. -/
def ringInit (log : Nat) : Nat := sumBits (fun i => 0x4000 <<< (512 * i)) (2 ^ log)

/-- Create the queue of a descriptor whose VALID is written to 1; or refuse with ERR. A LOG outside 6 to 16 sets ERR at this write, not at
the write of word 5 that puts it there (R48, log 85). Ring and index are written as the engine's die writes (R89). -/
def State.createQueue (s : State) (fn i : Nat) : State :=
  let log := bitsOf (s.descWord fn i 5) 0 5
  let ring := bitsOf (s.descWord fn i 0) 0 54
  let widx := bitsOf (s.descWord fn i 1) 0 54
  let stat := bitsOf (s.descWord fn i 3) 0 54
  let asid := s.descAsid fn i
  match s.descChan fn i with
  | none => s.descErr fn i
  | some ch =>
    if (s.chan ch).owner.isSome ∨ (fn = 0 ∧ s.boundChan ch) ∨ log < 6 ∨ 16 < log then s.descErr fn i
    else
      let e := engOf ch
      let n := 64 * 2 ^ log
      match s.engPieces e asid ring n .write with
      | (.error _, _) => s.descErr fn i
      | (.ok rp, s1) => match s1.engPieces e asid widx 64 .write with
        | (.error _, _) => s.descErr fn i
        | (.ok wp, s2) => match s2.engPieces e asid stat (8 * 2 ^ log) .write with
          | (.error _, _) => s.descErr fn i
          | (.ok _, s3) =>
            let s := (s3.pieceWrite (e / 8) (ringInit log) rp).pieceWrite (e / 8) 0 (wp.take 1 |>.map (fun q => (q.1, 8)))
            let c := { Chan.reset with
              owner := some (fn, i), ring := ring, widx := widx, stat := stat, log := log, asid := asid
              vec := bitsOf (s.descWord fn i 5) 37 11 }
            (s.setChan ch c).setDescWord fn i 6 1

/-- QUEUE_CREATE (R47): VALID goes from 0 to 1. -/
def execQueueCreate (fn i : Nat) (s : State) : Host.Outcome State Fault Refusal :=
  if s.descValid fn i then .next s else .next (s.createQueue fn i)

/-! ### Completion (R62, R64, R65, R67) -/

/-- The status word of packet n. -/
def statusWord (n op code : Nat) : Nat := ((n % 2 ^ 32) <<< 32) + (op <<< 24) + code

/-- Write a status word: true where the completion goes on. A fault parks the access, and the word is lost where the queue
stays stopped (R47); the pin-retired fault only waits (R86). -/
def State.writeStatus (s : State) (ch n op code : Nat) : Bool × State :=
  match s.feWrite ch ((s.chan ch).statVa n) (statusWord n op code) 8 with
  | (.ok _, s) => (true, s)
  | (.error f, s) => if (s.chan ch).halted ∧ f ≠ 0x08 then (true, s) else (false, s.parkFe ch f)

/-- A close may end the queue: one that stays stopped ends by an abort only (R47), and the write index must have been read. -/
def Chan.mayEnd (c : Chan) : Bool := (!c.halted || c.aborted) && !c.unread

/-- Cores whose `post` to a channel is held for its claim (R363). -/
def State.claimHeld (s : State) (ch : Nat) : List Nat :=
  (s.cores.map Prod.fst ++ s.pcores.map Prod.fst).filter (fun g => match s.heldAs g with
    | some h => decide (h.op = .post ∧ h.val.toNat = ch)
    | none => false)

/-- The channel is released once a close has nothing left to complete (R50) and no held `post` has its claim to make, so that no claim
reaches another queue of the channel (R363, R383, log 44); VALID is then clear (R54). What its packets wrote and their faults stay for a
`twait` that is still held (R149, R227). -/
def State.settleClose (s : State) (ch : Nat) : State :=
  let c := s.chan ch
  match c.closing with
  | some w =>
    if c.pkts.isEmpty && decide (w ≤ c.tl) && c.mayEnd && (s.claimHeld ch).isEmpty then
      let s := s.setChan ch { Chan.reset with
        tl := c.tl, ridx := c.ridx, widx := c.widx, asid := c.asid, pending := c.pending, faulted := c.faulted, wrote := c.wrote }
      match c.owner with
      | some (fn, i) => s.setDescWord fn i 6 (s.descWord fn i 6 &&& 2)
      | none => s
    else s
  | none => s

/-- Step 2: the release of hasp IDX writes n, at its home (R62, R145). -/
def State.pktRelease (s : State) (ch : Nat) (p : Pkt) : State :=
  if p.rel then
    match s.hasp p.asid p.hidx with
    | some h => (s.meetRow p [(h.loc, 8)]).writeHasp (ch / 512) h (BitVec.ofNat 64 p.n)
    | none => s
  else s

/-- Step 3: one arrival on barrier IDX. -/
def State.pktArrive (s : State) (p : Pkt) : State :=
  if p.acq ∨ p.rel ∨ p.hidx = 0xFFFFFFFF then s else s.arrive p.asid p.hidx

/-- Step 5: the notification (R65). -/
def State.pktNotify (s : State) (ch : Nat) (p : Pkt) : State :=
  if p.ntf = false then s
  else match p.poster with
    | none =>
      let r := s.raiseVec ch
      if r.1 then r.2.setNd ch p.n true else r.2
    | some g =>
      if s.takesInterrupts g p.asid then
        let r := s.userInterrupt g (BitVec.ofNat 64 (((p.n % 2 ^ 48) <<< 16) + ch))
        if r.1 then r.2.setNd ch p.n true else r.2
      else s

/-- A packet leaves the pinned translations that it holds; one that had left the TLB ends with its last packet (R81, R86). -/
def State.dropPins (s : State) (ch n : Nat) : State :=
  let e := engOf ch
  let c := s.ce e
  let drop := fun (t : TlbEnt) => { t with holders := t.holders.filter (fun h => h ≠ (ch, n)) }
  s.setCe e { c with
    tlb := c.tlb.map (fun t => (t.1, drop t.2)), gone := (c.gone.map drop).filter (fun t => !t.holders.isEmpty) }

/-- The release of a packet would write a hasp word in a shut scratchpad, which only a privileged queue may (R246). -/
def State.relShut (s : State) (ch : Nat) (p : Pkt) : Bool :=
  p.rel && !(s.chan ch).priv ch && (match s.hasp p.asid p.hidx with | some h => s.shutAt h.loc | none => false)

/-- The packet at the head completes (R62). A malformed one, or one that ends with 0x05, performs steps 1 and 4 only. One whose release a
shutter holds waits (R246). -/
def State.completeHead (s : State) (ch : Nat) (p : Pkt) : State :=
  let dead := p.bad || decide (p.code = 0x05)
  if !dead && s.relShut ch p then s else
  match s.writeStatus ch p.n p.op p.code with
  | (false, s) => s
  | (true, s) =>
    let s := if dead then s else (s.pktRelease ch p).pktArrive p
    let s := s.modChan ch (fun c => { c with
      tl := p.n, pkts := c.pkts.filter (fun q => q.n ≠ p.n), wrote := c.wrote ++ p.lines.map (fun l => (p.n, p.extent, l)) })
    let s := if dead then s else s.pktNotify ch p
    let s := match p.group with
      | some g => { s with grps := Tab.del s.grps g }
      | none => s
    ((s.dropPins ch p.n).countChan ch 0x0301 1).settleClose ch

/-- An index that was claimed and never taken completes with 0x07 and OP 0x00 (R50, R54, R62). -/
def State.completeUntaken (s : State) (ch : Nat) : State :=
  let n := (s.chan ch).tl + 1
  match s.writeStatus ch n 0x00 0x07 with
  | (false, s) => s
  | (true, s) => (s.modChan ch (fun c => { c with tl := n, posters := Tab.del c.posters (n - 1) })).settleClose ch

/-- Has the head packet met every condition of R62? A reliable SEND that has sent a flit needs its acknowledgement, whatever its code. -/
def Pkt.complete (p : Pkt) : Bool :=
  p.done && (decide (p.op ≠ 0x06) || !p.opnd.getLsbD 0 || p.sent.isNone || p.acked)

/-- The write index as a close reads it, or nothing: the fault parks the access, but for the pin-retired one, or where another access is
parked or the queue stays stopped and is not aborted (R47, R50). -/
def State.readWidx (s : State) (ch : Nat) : Option Nat × State :=
  match s.feRead ch (s.chan ch).widx 8 with
  | (.ok x, s) => (some x, s)
  | (.error f, s) => (none, if (s.chan ch).parked.isSome ∨ ((s.chan ch).halted ∧ (s.chan ch).aborted = false) then s else s.parkFe ch f)

/-- A close that has yet to read the write index reads it, whatever other access of the front-end is parked (R50). A fault is parked, or
retried where a pin is retired, and the index is read once it is resolved (R79, R86, log 44). -/
def State.closeRead (s : State) (ch : Nat) : State :=
  if (s.chan ch).unread = false then s
  else match s.readWidx ch with
    | (some x, s) => s.modChan ch (fun c => { c with closing := some (max x c.ridx), unread := false })
    | (none, s) => s

/-- The next completion of a channel, if one can be made. While an access of the front-end is parked, the completions of packets that
it has taken wait too: each writes a status word (R47, log 85). -/
def State.completeNext (s : State) (ch : Nat) : State :=
  let c := s.chan ch
  let s := if c.parked.isSome ∧ (c.halted = false ∨ c.aborted) then s else s.closeRead ch
  let c := s.chan ch
  if c.parked.isSome ∧ c.halted = false then s
  else match c.pkts with
    | p :: _ => if p.complete then s.completeHead ch p else s
    | [] => match c.closing with
      | some w => if c.tl < w ∧ c.mayEnd then s.completeUntaken ch else s.settleClose ch
      | none => s

/-- PACKET_COMPLETE (R62). -/
def execPacketComplete (ch : Nat) (s : State) : Host.Outcome State Fault Refusal := .next (s.completeNext ch)

/-! ### Closing and abort (R50, R54, R122) -/

/-- A write that clears VALID (R50): no further index is taken, and what is claimed by now completes. -/
def State.closeQueue (s : State) (fn i : Nat) : State :=
  match s.chans.find? (fun c => decide (c.2.owner = some (fn, i))) with
  | none => s
  | some (ch, c) =>
    if c.closing.isSome then s
    else
      let s := s.setDescWord fn i 6 0
      ((s.modChan ch (fun c => { c with closing := some c.ridx, unread := true, claims := [] })).closeRead ch).settleClose ch

/-- QUEUE_CLOSE (R50). -/
def execQueueClose (fn i : Nat) (s : State) : Host.Outcome State Fault Refusal :=
  if s.descValid fn i then .next (s.closeQueue fn i) else .next s

/-- What an abort does to a packet that has been taken (R54, R122): it has finished with 0x07, but for a move that has begun
its retag, which finishes first. -/
def abortPkt (p : Pkt) : Pkt :=
  if p.bad ∨ (p.done ∧ p.code = 0x05) then { p with fault := none, retry := false }
  else if (p.op = 0x07 ∨ p.op = 0x08) ∧ p.phase = 2 ∧ p.done = false then { p with code := 0x07 }
  else { p with done := true, code := 0x07, acked := true, fault := none, retry := false }

/-- Complete everything that can complete. -/
def State.completeAll (s : State) (ch : Nat) : Nat → State
  | 0 => s
  | k + 1 => (s.completeNext ch).completeAll ch k

/-- On the engine's die d, the map entry of the segment of a move that has set MOV and not begun its retag is left as a failed move leaves it (R122). -/
def State.failMove (s : State) (d : Nat) (p : Pkt) (code : Nat) : State :=
  if (p.op = 0x07 ∨ p.op = 0x08) ∧ p.phase = 3 ∧ p.done = false then
    match s.moveSeg p with
    | some g => s.setSeg d g (segFailed (s.segWord g) code)
    | none => s
  else s

/-- Moves of the channel that have set MOV and not begun their retag: the map as a move that failed with 0x07 leaves it
(R122). -/
def State.abortMoves (s : State) (ch : Nat) : State :=
  (s.chan ch).pkts.foldl (fun (s : State) p => s.failMove (engOf ch / 8) p 0x07) s

/-- QUEUE_ABORT (R54): every claimed packet not yet completed completes with 0x07, and then VALID clears; a move that has begun its
retag finishes first (R122). A status word that cannot be written is lost. The write index of a queue that stays stopped is read all the
same: a fault of that read is parked, and only one that is declared unrecoverable leaves the claims unknown (R54, log 44). -/
def execQueueAbort (ch : Nat) (s : State) : Host.Outcome State Fault Refusal :=
  match (s.chan ch).owner with
  | none => .next s
  | some _ =>
    let s := ((s.abortMoves ch).modChan ch (fun c => { c with
      closing := some (c.closing.getD c.ridx), unread := c.unread || c.closing.isNone, claims := [], aborted := true
      parked := if c.halted then none else c.parked, pkts := c.pkts.map abortPkt })).closeRead ch
    let c := s.chan ch
    .next ((s.completeAll ch ((c.closing.getD 0) - c.tl + 1)).settleClose ch)

/-- CHANNEL_BIND (R437): PF0 writes binding word i of VF `vf`. -/
def execChannelBind (vf i : Nat) (w : BitVec 64) (s : State) : Host.Outcome State Fault Refusal :=
  let ch := bitsOf w 26 11
  let others : Bool := s.binds.any (fun b => b.2.getLsbD 63 && decide (bitsOf b.2 26 11 = ch ∧ b.1 ≠ 16 * vf + i))
  let pf : Bool := match (s.chan ch).owner with | some (0, _) => true | _ => false
  let bad : Bool := decide (w &&& 0x7FFFFFE00000FFFF ≠ 0)
  if vf = 0 ∨ 64 < vf ∨ 16 ≤ i ∨ s.descValid vf i then .next s
  else if w.getLsbD 63 && (decide (ch % 64 = 63) || others || pf || decide (descVm (s.readDesc (ch / 512) (bitsOf w 16 10)) ≠ vf) || bad) then .next s
  else .next { s with binds := Tab.put s.binds (16 * vf + i) (w &&& ~~~0x7FFFFFE00000FFFF) }

/-! ### Taking packets (R53, R54, R59) -/

def Pkt.zero (p : Pkt) (l : List Nat) : Bool := l.all (fun i => decide (p.w i = 0))

/-- Fields, spaces and operand words by opcode (R55 to R58, R60, R63, R117, R209, R210, R264). Fields of a word that an opcode uses in part
are ignored where no rule makes them zero (FILL's SP; w4 of PROMOTE, DEMOTE, LAUNCH and ICINV), but those of ATOM and WAITTL, and so are
read as log 41 says. -/
def Pkt.formBad (p : Pkt) : Bool :=
  let two := !p.addrOk 1 || !p.addrOk 2
  let overlap := decide (1 < p.rows ∧ p.dp < p.rb)
  match p.op with
  | 0x00 => !p.zero [1, 2, 3, 4, 5, 6]
  | 0x01 => two || overlap || decide (bitsOf (p.w 5) 48 16 ≠ 0 ∨ bitsOf (p.w 5) 14 2 ≠ 0) || p.convBad ||
      (if p.scl = 0 then decide (p.w 6 ≠ 0) else p.sclLoc.isNone)
  | 0x02 => !p.zero [1, 5] || !p.addrOk 2 || overlap
  | 0x03 => two || overlap || !p.zero [5] || p.listLoc.isNone
  | 0x04 => two || !p.zero [5] || p.listLoc.isNone
  | 0x05 => two || decide (p.space 2 ≠ 0 ∧ p.space 2 ≠ 4) || !atomOk (p.sp % 256) p.rb ||
      decide (1 < p.rows ∨ p.dp ≠ 0 ∨ 256 ≤ p.sp)
  | 0x06 => two || overlap || !p.zero [5] || decide (3 < p.space 1 ∨ p.space 2 ≠ 4 ∨ 1 < p.opnd.toNat)
  | 0x07 | 0x08 => !p.addrOk 1 || !p.zero [2, 5, 6]
  | 0x09 => two || decide (p.space 1 ≠ 0 ∨ (p.rb ≠ 64 ∧ p.rb ≠ 0)) || !p.zero [5]
  | 0x0A => !p.addrOk 2 || !p.zero [1, 3, 4, 5]
  | 0x0B => !p.zero [1, 2, 3, 5] || decide (2048 ≤ (p.w 4).toNat)
  | 0x0C => !p.addrOk 1 || decide (p.space 1 ≠ 0 ∨ 1 < p.rows ∨ 16 ≤ p.opnd.toNat) || !p.zero [2, 5]
  | _ => true

/-- Rows in scratchpad spaces lie wholly within them (R59); so does the completion word of a LAUNCH, with or without records (log 41). -/
def Pkt.rowsBad (p : Pkt) : Bool :=
  let src := fun (o : Int) => p.within 1 o (o + (p.srcBytes : Nat))
  let dst := fun (o : Int) => p.within 2 o (o + (p.dstBytes : Nat))
  let lin := fun (f : Int → Bool) (pitch : Nat) => f 0 && f ((p.rows - 1) * pitch : Nat)
  let idx := fun (f : Int → Bool) (pitch : Nat) => p.list.all (fun i => f (i * (pitch : Int)))
  if p.op = 0x0A then !p.within 2 0 8
  else if p.op = 0x09 then decide (p.w 2 ≠ 0) && !p.within 2 0 8
  else if p.rows = 0 ∨ p.rb = 0 then false
  else match p.op with
    | 0x01 => !(lin src p.sp && lin dst p.dp)
    | 0x02 => !lin dst p.dp
    | 0x03 => !(idx src p.sp && lin dst p.dp)
    | 0x04 => !(lin src p.sp && idx dst p.dp)
    | 0x05 => decide (p.w 1 ≠ 0) && !p.within 1 0 p.rb
    | 0x06 => !lin src p.sp
    | _ => false

/-- A gear S or M core's packet with names that portable code may not use (R398); a gear C core's is seen to at its `post`. -/
def Pkt.portBad (p : Pkt) : Bool :=
  match p.poster with
  | some g => decide (512 ≤ g) && p.foreign
  | none => false

/-- Every check of R59, with the index list read. -/
def State.pktBad (s : State) (ch : Nat) (p : Pkt) : Bool :=
  p.formBad || p.portBad || p.rowsBad ||
    decide (bitsOf (p.w 0) 26 6 ≠ 0 ∨ (p.w 0).getLsbD 15 = true ∨ p.ch ≠ ch) ||
    (decide (p.op ≠ 0x07 ∧ p.op ≠ 0x08) && decide (p.segIdx ≠ 0)) ||
    ((decide (p.op = 0x07 ∨ p.op = 0x08)) && (s.moveSeg p).isNone) ||
    (!(s.chan ch).priv ch && decide (p.asid ≠ (s.chan ch).asid)) ||
    ((p.acq || p.rel) && (s.hasp p.asid p.hidx).isNone)

/-- The packet of index j from its words; `lost` where it is taken as malformed with a failing CRC. -/
def State.mkPkt (s : State) (ch j : Nat) (ws : List Word) (lost : Bool) : Pkt :=
  let p := Pkt.ofWords (j + 1) ws (Tab.find (s.chan ch).posters j)
  let p := if (p.op = 0x03 ∨ p.op = 0x04) ∧ lost = false then
      { p with list := match p.listLoc with | some l => s.readList l p.rows | none => [] } else p
  if lost ∨ s.pktBad ch p then { p with bad := true, done := true, code := 0x05 } else p

/-- Reading the index list of a packet may meet an uncorrectable word (R228). -/
def State.meetList (s : State) (p : Pkt) : State :=
  match p.listLoc with
  | some l => if p.list = [] then s else s.meetRow p [(l, 4 * p.rows)]
  | none => s

/-- The front-end takes index j: RIDX moves on, and claimed slots that may now be written are (R54, R363). -/
def State.takeIndex (s : State) (ch : Nat) (ws : List Word) (lost : Bool) : State :=
  let j := (s.chan ch).ridx
  let p := s.mkPkt ch j ws lost
  let s := (s.meetList p).modChan ch (fun c => { c with
    ridx := j + 1, matched := none, pkts := c.pkts ++ [p], posters := Tab.del c.posters j })
  s.fillSlots ch (s.chan ch).claims.length

/-- What the front-end finds at its next index: the slot's words where the write index exceeds it and the phase matches, and
whether the CRC matches too. A slot that a producer wrote too early is read as the ring then holds it: R52 leaves the behaviour of both
packets open, and the ring's words decide it (DESIGN CHOICE, log 95). -/
def State.frontEnd (s : State) (ch : Nat) : Option (List Word × Bool) × State :=
  let c := s.chan ch
  if c.valid = false ∨ c.parked.isSome ∨ c.halted then (none, s)
  else match s.feRead ch c.widx 8 with
    | (.error f, s) => (none, s.parkFe ch f)
    | (.ok w, s) =>
      if w ≤ c.ridx then (none, s)
      else match s.feRead ch (c.slotVa c.ridx) 64 with
        | (.error f, s) => (none, s.parkFe ch f)
        | (.ok x, s) =>
          let ws := toWords x 8
          if bitsOf (ws.getD 0 0) 14 1 ≠ c.parity c.ridx then (none, s)
          else (some (ws, decide (bitsOf (ws.getD 7 0) 32 32 = (pktCrc ws).toNat)), s)

/-- TAKE_PACKET (R53, R54): a matching phase with a failing CRC is a write still in progress. A front-end that finds nothing to take writes
the claimed slots that it still owes, such as one whose write met a retired pin (R86, R363). -/
def execTakePacket (ch : Nat) (s : State) : Host.Outcome State Fault Refusal :=
  match s.frontEnd ch with
  | (none, s) => .next (s.fillSlots ch (s.chan ch).claims.length)
  | (some (ws, true), s) => .next (s.takeIndex ch ws false)
  | (some (_, false), s) =>
    .next (s.modChan ch (fun c => { c with matched := some (match c.matched with | some t => t | none => s.now) }))

/-- PACKET_CRC_TIMEOUT (R53): 100 µs after the phase first matched the packet is taken as malformed. -/
def execPacketCrcTimeout (ch : Nat) (s : State) : Host.Outcome State Fault Refusal :=
  match s.frontEnd ch with
  | (some (ws, false), s) => match (s.chan ch).matched with
    | some t => if t + 100000 ≤ s.now then .next (s.takeIndex ch ws true) else .next s
    | none => .next s
  | (_, s) => .next s

/-! ### Faults (R47, R226) -/

/-- Declare a parked packet's fault unrecoverable: it has finished with 0x04, and the channel's pending-fault bit is set; a move fails
(log 46). -/
def State.declare (s : State) (ch n : Nat) : State :=
  match s.pkt ch n with
  | none => s
  | some p => match p.fault with
    | none => s
    | some (f, _) =>
      ((s.failMove (engOf ch / 8) p 0x04).modPkt ch n (fun p => { p with done := true, code := 0x04, fault := none })).modChan ch (fun c =>
        { c with pending := true, faulted := c.faulted ++ [(n, f)] })

/-- Cores whose claim on a channel has faulted (R363). -/
def State.claimers (s : State) (ch : Nat) : List Nat :=
  (s.claimHeld ch).filter (fun g => match s.heldAs g with
    | some h => decide (h.st ≠ 0)
    | none => false)

/-- Such a core stops at its `post`: DETAIL names the channel and the fault, and no packet (R363). -/
def State.stopClaim (s : State) (ch g : Nat) : State :=
  match s.heldAs g with
  | some h => s.stopHeld g 0x20 (faultDetail ch (0, h.st))
  | none => s

/-- A parked access of the front-end, which packet number 0 stands for, is declared unrecoverable: the queue stays stopped, and
cores whose claims have faulted stop (R47, R363). An aborted queue that stays stopped has only its write index to read: that read is
given up, and what was taken completes (R54, log 44). -/
def State.declareFe (s : State) (ch : Nat) : State :=
  let c := s.chan ch
  let s := if c.parked.isNone then s
    else if c.halted = false then
      s.modChan ch (fun c => { c with
        halted := true, pending := true, faulted := c.faulted ++ [(c.ridx + 1, (c.parked.map Prod.fst).getD 0)]
        parked := if c.aborted then none else c.parked })
    else if c.aborted then s.modChan ch (fun c => { c with unread := false, parked := none })
    else s
  ((s.claimers ch).foldl (fun s g => s.stopClaim ch g) s).settleClose ch

/-- FAULT_RESOLVED (R226): the row, or with n = 0 the front-end's access or a faulted claim, is retried and translates anew. -/
def execFaultResolved (ch n : Nat) (s : State) : Host.Outcome State Fault Refusal :=
  if n = 0 then
    (if (s.chan ch).halted && !(s.chan ch).aborted then .next s
     else .next (((s.claimers ch).foldl (fun s g => s.holdSt g 0) (s.modChan ch (fun c => { c with parked := none }))).fillSlots ch
       (s.chan ch).claims.length))
  else .next (s.modPkt ch n (fun p => { p with fault := none }))

/-- FAULT_UNRECOVERABLE (R226, R47). -/
def execFaultUnrecoverable (ch n : Nat) (s : State) : Host.Outcome State Fault Refusal :=
  if n = 0 then .next (s.declareFe ch) else .next (s.declare ch n)

/-- FAULT_TIMEOUT (R226): a fault unresolved for 100 ms is declared unrecoverable. -/
def execFaultTimeout (ch n : Nat) (s : State) : Host.Outcome State Fault Refusal :=
  let due := fun (x : Option (Nat × Nat)) => match x with
    | some (_, t) => decide (t + 100000000 ≤ s.now)
    | none => false
  if n = 0 then (if due (s.chan ch).parked then .next (s.declareFe ch) else .next s)
  else if due ((s.pkt ch n).bind Pkt.fault) then .next (s.declare ch n) else .next s

end Sys2Proof.Machine
end

