-- ==== Sys2Proof/Machine/Release.lean ====
section
/-! DEFINITION. The events that end held operations of a core: grants, staging, timelines, hasps, barriers, claims, posts,
entropy, the SAE, tandems (R140, R142 to R149, R169, R309, R310, R363 to R382). -/

namespace Sys2Proof.Machine

/-- Act on core g's held operation if it is one of some kinds. -/
def onHold (g : Nat) (s : State) (ok : HoldOp → Bool) (act : Hold → State) : Host.Outcome State Fault Refusal :=
  match s.heldAs g with
  | some h => if ok h.op then .next (act h) else .next s
  | none => .next s

/-! ### Cluster scratchpad (R140, R169, R356) -/

/-- The lines of core g's held `cld` whose banks it is first to win: no other waiting `cld` comes before it in the ring (R169). -/
def State.cldWins (s : State) (g : Nat) (h : Hold) : List Nat :=
  h.cldWants.filter (fun i => !s.cldFirst (clusterOf g) (srcLs g) [bitsOf h.t.word 0 28 + 64 * i])

/-- CLUSTER_GRANT (R169): a held `cld` wins each bank it is first at; its lines come from the banks and enter read staging, and with the
later grant the hold ends (R356). -/
def execClusterGrant (g : Nat) (s : State) : Host.Outcome State Fault Refusal :=
  match ((s.coreC g).slot 5).hold with
  | some h =>
    if h.op = .cld then
      let r := s.cldTakes g h (s.cldWins g h)
      if r.1.cldWants = [] then .next ((r.2.cldDone g 5 h.idx r.1.img h.k).release g 5)
      else .next (r.2.modC g (fun c => c.modSlot 5 (fun q => { q with hold := some r.1 })))
    else .next s
  | none => .next s

/-- WRITE_STAGING_DRAIN (R140): the oldest line is performed at group scope, once no waiting `cld` comes before it at its bank
(R169). -/
def execWriteStagingDrain (g : Nat) (s : State) : Host.Outcome State Fault Refusal :=
  .next (if s.cldFirst (clusterOf g) (srcLs g) (((s.coreC g).wst.map StLine.addr).take 1) then s else s.drainLine g)

/-- READ_STAGING_EXPIRE (R140): a line leaves read staging. -/
def execReadStagingExpire (g line : Nat) (s : State) : Host.Outcome State Fault Refusal :=
  .next (s.modC g (fun c => { c with rst := c.rst.filter (fun l => l.addr ≠ line) }))

/-! ### Timelines (R149, R227) -/

/-- TWAIT_RELEASE (R149): the condition holds; an unrecoverable fault of a covered packet stops the core at the `twait`
with cause 0x20 (R227), otherwise the core acquires. -/
def execTwaitRelease (g : Nat) (s : State) : Host.Outcome State Fault Refusal :=
  onHold g s (fun o => decide (o = .twait)) (fun h =>
    let ch := h.a.word.toNat
    let n := h.t.word.toNat
    let tl := (s.chan ch).tl
    if reached tl n = false then s
    else
      -- the packets numbered n or below, n taken as the value in the timeline's range
      let top := tl - (tl % 2 ^ 48 + 2 ^ 48 - n % 2 ^ 48) % 2 ^ 48
      match s.coveredFault (s.asidOf g) ch top with
      | some f => (s.modChan ch (fun c => { c with pending := false })).stopHeld g 0x20 (faultDetail ch f)
      | none => (s.acquireTo g ch top).answer g none)

/-! ### Hasps (R142, R143, R146) -/

/-- The condition of an acquire (R143). -/
def haspCond (c : Nat) (val v : Word) : Bool :=
  match c with
  | 0 => decide (val ≠ 0)
  | 1 => decide (val = v)
  | _ => decide ((val - v).toNat < 2 ^ 63)

/-- Descriptor, index and operand of a held `hacq` or `hrel`. -/
def Hold.desc (h : Hold) : Word := h.a.word

/-- Has core g still a write to one of some places to perform at a scope code: in write staging, on its way to a window, or in an SAE's
queue (R142)? -/
def State.stages (s : State) (g scope : Nat) (ps : List (Nat × Nat)) : Bool :=
  let meets := fun (a n : Nat) => ps.any (fun p => decide (a < p.1 + p.2) && decide (p.1 < a + n))
  isGearC g && ((s.saePending g).any (fun w => meets w.1 w.2) ||
    (if scope = 0 then s.ownWindow g else s.windowPending g).any (fun w => meets (locCore w.1 w.2.1) w.2.2) ||
    (decide (scope ≠ 0) && (s.coreC g).wst.any (fun l => meets (locClus (clusterOf g) l.addr) 64)))

/-- HACQ_RELEASE (R143): the word at the hasp's home meets the condition, and the core has no own write to it under way, which the
acquire may not return past (R139); stale copies of the bound regions go, and those of the word itself, which later reads may not return
older (R136). -/
def execHacqRelease (g : Nat) (s : State) : Host.Outcome State Fault Refusal :=
  onHold g s (fun o => decide (o = .hacq)) (fun h =>
    match s.hasp (s.asidOf g) h.t.word.toNat with
    | none => s
    | some e =>
      let s := s.meetMem (some g) [(e.loc, 8)]
      if haspCond (bitsOf h.a.word 4 2) (BitVec.ofNat 64 (s.read e.loc 8)) h.b.word && !s.stages g 1 [(e.loc, 8)] then
        (s.dropCopies g (bitsOf h.a.word 0 3) ((e.loc, 8) :: s.boundLocs (dieOf g) e)).answer g none
      else s)

/-- Does core g still have a write to perform at a scope code that a release of the hasp covers (R142)? -/
def State.covers (s : State) (g scope : Nat) (e : HaspEnt) : Bool := s.stages g scope (s.boundLocs (dieOf g) e)

/-- HREL_DONE (R142): the covered writes are performed at S, and the hasp word is written; the core's older copy of it goes, and
its older writes to the word's line come first (R139). A word in a scratchpad whose shutter is closed waits for it (R246). -/
def execHrelDone (g : Nat) (s : State) : Host.Outcome State Fault Refusal :=
  onHold g s (fun o => decide (o = .hrel)) (fun h =>
    match s.hasp (s.asidOf g) h.a.word.toNat with
    | none => s
    | some e =>
      if s.covers g h.b.word.toNat e || s.stages g 1 [(e.loc, 8)] || s.shutAt e.loc then s
      else (((s.meetMem (some g) [(e.loc, 8)]).writeHasp (dieOf g) e h.t.word).dropCopies g 0 [(e.loc, 8)]).answer g none)

/-- HPUB_DONE (R146): a publication is complete, or an observation discards its copies; a FENCE does both at group
scope. -/
def execHpubDone (g : Nat) (s : State) : Host.Outcome State Fault Refusal :=
  onHold g s (fun o => decide (o = .hpub ∨ o = .hobs ∨ o = .fence)) (fun h =>
    match h.op with
    | .hpub => if s.published g h.t.word.toNat then s.answer g none else s
    | .hobs => (s.observe g h.t.word.toNat).answer g none
    | _ => if s.published g 1 then (s.observe g 1).answer g none else s)

/-- The word of a hasp name (R362, R370): location and die of its home. -/
def State.haspLoc (s : State) (g : Nat) (name : Word) : Except Nat (Nat × Nat) × State :=
  let a := bitsOf name 0 56
  match bitsOf name 56 8 with
  | 0 =>
    let r := if isGearC g then s.translate (quadOf g) (s.asidOf g) a .read none else s.xlate (dieOf g) (s.asidOf g) a .read
    match r with
    | (.error f, s) => (.error f, s)
    | (.ok p, s) => (.ok (p.loc, if p.tier = 0 then s.homeOf p.loc else dieOf g), s)
  | 1 =>
    let c := if isGearC g then paBits a 32 9 else g
    (.ok (locCore c (a % 2 ^ 28), dieOf c), s)
  | _ => (.ok (locClus (clusterOf (paBits a 32 9)) (a % 2 ^ 28), dieOf (paBits a 32 9)), s)

/-- The lowest free entry of a table, `lim` entries long. -/
def lowestFree {α : Type} (t : Tab α) (lim : Nat) : Option Nat :=
  (List.range (min lim (t.length + 1))).find? (fun i => (Tab.find t i).isNone)

/-- The entry of a hasp word, in any die's table (R370: it stays where it was created). -/
def State.findHasp (s : State) (asid loc : Nat) : Option (Nat × Nat × HaspEnt) :=
  (List.range 4).findSome? (fun d => ((s.die d).hasps.find? (fun p => decide (p.2.asid = asid ∧ p.2.loc = loc))).map
    (fun p => (d, p.1, p.2)))

/-- Core g binds a region, or unbinds all with length 0 (R141, R408). A local buffer's name is the binder's (R396). -/
def HaspEnt.bind (e : HaspEnt) (r : Word) (n g : Nat) : HaspEnt :=
  if n = 0 then { e with regions := [] }
  else if e.regions.contains (r, n, g) then e else { e with regions := e.regions ++ [(r, n, g)] }

def haspStatus (why d e : Nat) : Word :=
  if why = 0 then BitVec.ofNat 64 ((((d <<< 19) + e) <<< 32) + 1) else BitVec.ofNat 64 (why <<< 8)

/-- A translation for core g's held operation faults: parked, it may be made again, and the core holds on; a fault that is still there at
the next attempt has been declared unrecoverable, and the operation answers (R79, R226, log 33). A retired pin only waits. -/
def State.heldFault (s : State) (g f : Nat) (h : Hold) (ans : Word) : State :=
  if f = 0x08 then s else if h.st = 0 then s.holdSt g 1 else s.answer g (some ans)

/-- HBIND_DONE (R370): the binding is performed at device scope. `sram` says that firmware gives the die no spill chunk, so
that only the entries in SRAM can be taken. -/
def execHbindDone (g : Nat) (sram : Bool) (s : State) : Host.Outcome State Fault Refusal :=
  onHold g s (fun o => decide (o = .hbind)) (fun h =>
    match s.haspLoc g h.t.word with
    | (.error f, s) => s.heldFault g f h (haspStatus 2 0 0)
    | (.ok (loc, d), s) =>
      match s.findHasp (s.asidOf g) loc with
      | some (d, i, e) =>
        (s.setDie d { s.die d with hasps := Tab.put (s.die d).hasps i (e.bind h.a.word h.b.word.toNat g) }).answer g
          (some (haspStatus 0 d i))
      | none => match lowestFree (s.die d).hasps (if sram then 16384 else 278528) with
        | none => s.answer g (some (haspStatus 1 0 0))
        | some i =>
          let e : HaspEnt := ⟨s.asidOf g, h.t.word, g, loc, []⟩
          (s.setDie d { s.die d with hasps := Tab.put (s.die d).hasps i (e.bind h.a.word h.b.word.toNat g) }).answer g
            (some (haspStatus 0 d i)))

/-! ### Barriers (R367, R368) -/

/-- BALLOC_DONE (R367). -/
def execBallocDone (g : Nat) (s : State) : Host.Outcome State Fault Refusal :=
  onHold g s (fun o => decide (o = .balloc)) (fun h =>
    let d := dieOf g
    let x := s.die d
    match lowestFree x.barriers 4096 with
    | none => s.answer g (some 0)
    | some i =>
      let tag := Tab.get 0 x.tags i + 1
      let b : Barrier := ⟨bitsOf h.t.word 0 16, 0, 0, bitsOf h.t.word 16 3, s.asidOf g⟩
      (s.setDie d { x with barriers := Tab.put x.barriers i b, tags := Tab.put x.tags i tag }).answer g
        (some (BitVec.ofNat 64 ((((tag % 256) <<< 24) + (d <<< 12) + i) <<< 32 + 1))))

/-- BWAIT_RELEASE (R368): the generation has passed the target; stale copies go as `hobs` at S discards them. -/
def execBwaitRelease (g : Nat) (s : State) : Host.Outcome State Fault Refusal :=
  onHold g s (fun o => decide (o = .bwait)) (fun h =>
    match s.barrierAt (bitsOf h.t.word 0 32) with
    | none => s.answer g none
    | some b =>
      if (b.gen - h.t.word.extractLsb' 32 32).toNat < 2 ^ 31 then (s.observe g b.sc).answer g none else s)

/-! ### Claims and posts (R363, R378) -/

/-- The claim of core g's packet faults: it is parked with the front-end's accesses, but for the pin-retired fault, and the
core holds on; `st` keeps the fault code (R363). -/
def State.claimFault (s : State) (g ch f : Nat) : State :=
  if f = 0x08 then s
  else (if (s.chan ch).parked.isSome then s else s.parkFe ch f).holdSt g f

/-- POST_CLAIM (R363): the front-end claims an index for core g's packet, once the core's earlier window stores have landed (R148), by a
write of its die (R89). A claim that has faulted waits until the fault is declared resolved (R226). A packet of an aborted queue
completes with 0x07 (R383); one claimed after a close has begun has an index that no packet fills (R50). -/
def execPostClaim (g : Nat) (s : State) : Host.Outcome State Fault Refusal :=
  onHold g s (fun o => decide (o = .post)) (fun h =>
    let ch := h.val.toNat
    let c := s.chan ch
    if h.st ≠ 0 ∨ (isGearC g && !(s.windowPending g).isEmpty) then s
    else match s.engPieces (engOf ch) c.asid c.widx 8 .write with
    | (.error f, s) => s.claimFault g ch f
    | (.ok l, s) =>
      let i := s.readLocs l
      let s := s.pieceWrite (engOf ch / 8) ((i + 1) % 2 ^ 64) l
      let grp := ((s.taskOf g).bind s.task).map Task.grp
      let s := if (s.chan ch).valid then (s.modChan ch (fun c => { c with claims := c.claims ++ [⟨i, h.img, g, grp⟩] })).fillSlots ch 1
        else if (s.chan ch).aborted then s.modChan ch (fun c => { c with closing := c.closing.map (fun w => max w (i + 1)) })
        else s
      (s.answer g (some (BitVec.ofNat 64 (i + 1)))).settleClose ch)

/-- TPOST_DONE (R378): the record is inserted or refused. A KEY whose translation faults is parked, and the core holds on; a fault
that is still there at the next attempt has been declared unrecoverable (R79, R101, R226, log 33). -/
def execTpostDone (g : Nat) (s : State) : Host.Outcome State Fault Refusal :=
  onHold g s (fun o => decide (o = .tpost)) (fun h =>
    let r := s.postRec g (Rec.ofWords h.img)
    if r.1 = 2 ∧ h.st = 0 then r.2.holdSt g 1
    else r.2.answer g (some (if r.1 = 0 then 1 else BitVec.ofNat 64 (r.1 <<< 8))))

/-! ### Entropy (R380) -/

/-- Cores of a die that hold on `rnd`, in ascending number. -/
def State.wantsDraw (s : State) (d : Nat) : List Nat :=
  ((s.cores.map Prod.fst) ++ (s.pcores.map Prod.fst)).filter (fun g => decide (dieOf g = d) &&
    (match s.heldAs g with | some h => decide (h.op = .rnd) | none => false))

/-- ENTROPY_READY (R380): a draw enters the pool, or goes to the first held `rnd` of the die. -/
def execEntropyReady (d : Nat) (draw : BitVec 64) (s : State) : Host.Outcome State Fault Refusal :=
  match s.wantsDraw d with
  | [] => .next (s.setDie d { s.die d with draws := (s.die d).draws ++ [draw] })
  | g :: _ =>
    let s' := if isGearC g then s.modC g (fun c => { c with drawn := c.drawn + 1 })
              else s.modP g (fun c => { c with drawn := c.drawn + 1 })
    .next (s'.answer g (some draw))

/-! ### The SAE (R374, R375) -/

/-- The new value at a location (R374). -/
def saeNew (op old v cmp : Nat) : Nat :=
  let i32 := fun x => toSigned 32 x
  let i64 := fun x => toSigned 64 x
  match op with
  | 0 => (old + v) % 2 ^ 32
  | 1 => (old + v) % 2 ^ 64
  | 2 => (addFl fp32 (decodeFl fp32 old) (decodeFl fp32 v)).1
  | 3 => if i32 v < i32 old then v else old
  | 4 => if i32 old < i32 v then v else old
  | 5 => if i64 v < i64 old then v else old
  | 6 => if i64 old < i64 v then v else old
  | 7 => minElem 0x01 old v
  | 8 => maxElem 0x01 old v
  | 9 => v
  | 10 => v
  | _ => if old = cmp then v else old

def saeMerges (op : Nat) : Bool := decide (op < 9)

/-- A pending group of a window: the core that enqueued its first operation, address, OP, value, compare, whether it returns its old value (core), whether it may
still absorb. -/
structure SaeGrp where
  core : Nat
  addr : Nat
  op   : Nat
  val  : Nat
  cmp  : Nat
  ret  : Option Nat
  opn  : Bool
  deriving DecidableEq, Repr

/-- A group's bytes meet those of an operation at an address. -/
def SaeGrp.meets (x : SaeGrp) (op a : Nat) : Bool := decide (x.addr < a + saeSize op) && decide (a < x.addr + saeSize x.op)

/-- Add one operation to a window (R375): it joins its address's open group of the same OP, or closes every group that any of its bytes
lies in, and stands alone or begins a group. -/
def saeJoin (l : List SaeGrp) (core op : Nat) (ret : Option Nat) (strict : Bool) (o : Nat × Nat × Nat) : List SaeGrp :=
  let can := saeMerges op && ret.isNone && !strict
  let hit := fun (x : SaeGrp) => can && decide (x.addr = o.1) && decide (x.op = op) && x.opn
  if l.any hit then l.map (fun y => if hit y then { y with val := saeNew op y.val o.2.1 0 } else y)
  else l.map (fun y => if y.meets op o.1 then { y with opn := false } else y) ++ [⟨core, o.1, op, o.2.1, o.2.2, ret, can⟩]

def saeWindow (ts : List SaeTrig) : List SaeGrp :=
  ts.foldl (fun l t => t.ops.foldl (fun l o => saeJoin l t.core t.op (if t.ret then some t.core else none) t.strict o) l) []

/-- Fill the first entry of core g that is reserved and empty (R376). -/
def fillEntry (l : List (Nat × Option Word)) (g : Nat) (w : Word) : List (Nat × Option Word) :=
  match l with
  | [] => []
  | (c, x) :: t => if c = g ∧ x.isNone then (c, some w) :: t else (c, x) :: fillEntry t g w

/-- Apply one operation at the bank, then fill its result entry (R153, R375). -/
def State.saeOne (s : State) (cl : Nat) (x : SaeGrp) : State :=
  let sz := saeSize x.op
  let a := locClus cl x.addr
  let old := s.read a sz
  let s := s.meetMem (some x.core) [(a, sz)]
  let s := (s.write a (saeNew x.op old x.val x.cmp) sz).won cl x.addr srcSae
  match x.ret with
  | none => s
  | some g =>
    let c := s.cluster cl
    s.setCluster cl { c with results := fillEntry c.results g (BitVec.ofNat 64 old) }

/-- The arrivals of a saved context's lane that waited for its SAE operations are counted, once none is left: everything else was
published at the save (R150, R368). -/
def State.settleSaved (s : State) (mark : Nat) : State :=
  if (s.saePending mark).isEmpty = false then s
  else match s.task ((mark - 2 ^ 20) / 16) with
    | none => s
    | some t => match t.ctx with
      | none => s
      | some x =>
        let i := (mark - 2 ^ 20) % 16
        let c := x.cores.getD i CoreC.reset
        (s.setTask ((mark - 2 ^ 20) / 16) { t with ctx := some { x with cores := x.cores.modify i (fun c => { c with arr := [] }) } }).arriveAll
          t.r.asid c.arr

/-- The arrivals of an owner of SAE operations, a core or a lane of a saved context, are counted where nothing holds them (R368, R375). -/
def State.settleAny (s : State) (m : Nat) : State := if 2 ^ 20 ≤ m then s.settleSaved m else s.settle m

/-- The lines of the operations that a window applies, one bank access each. -/
def saeLines (l : List SaeGrp) : List Nat := l.map (fun x => x.addr / 64 * 64)

/-- SAE_APPLY (R375, R376): a window of the `n` triggers at the head, at most 64 operations, once every `cst` before them
is performed and no waiting `cld` comes before it at a bank (R169); arrivals that waited for the operations are counted (R368). -/
def execSaeApply (c n : Nat) (s : State) : Host.Outcome State Fault Refusal :=
  let q := (s.cluster c).queue
  let w := q.take n
  let fits := decide ((w.map (fun t => t.ops.length)).sum ≤ 64)
  let wait := w.any (fun t => (s.coreC t.core).wst.any (fun l => decide (l.at_ ≤ t.at_)))
  if w = [] ∨ q.length < n ∨ fits = false ∨ wait ∨ s.cldFirst c srcSae (saeLines (saeWindow w)) then .next s
  else
    let s := s.setCluster c { s.cluster c with queue := q.drop n }
    let s := (saeWindow w).foldl (fun s x => s.saeOne c x) s
    .next ((((w.map SaeTrig.core).dedup).foldl State.settleAny s).saeWake c)

/-! ### Instruction caches (R382) -/

/-- Dispatch of the issuing core fetches afresh every bundle after `idx`: bundles that no slot has issued are dropped,
the others read again and checked as at their dispatch; where the fetch is refused or a check fails, the group stops there (R281, R303). -/
def State.refetch (s : State) (g idx : Nat) : State :=
  let lead := s.leader g
  let c := s.coreC lead
  let top := c.slots.foldl (fun m q => max m q.next) (idx + 1)
  match c.win.find? (fun b => b.idx = top) with
  | some b =>
    let s := s.modC lead (fun c => { c with win := c.win.filter (fun x => x.idx < top), fidx := top, fetch := b.addr, loop := b.loop })
    refresh s lead c top
  | none => refresh s lead c top
where
  refresh (s : State) (lead : Nat) (c : CoreC) (top : Nat) : State :=
    (c.win.filter (fun b => decide (idx < b.idx ∧ b.idx < top))).foldl (fun s b =>
      let stopAt := fun (s : State) slot code detail => s.requestStop lead ⟨b.idx, b.addr, causeWord false slot code detail, none, none⟩
      match s.fetchCode lead b.addr with
      | (some x, s) => match dispatchCheck x (s.die (dieOf lead)).step b.inKernel with
        | some (slot, code, detail) => stopAt s slot code detail
        | none => s.modC lead (fun c => { c with win := c.win.map (fun y => if y.idx = b.idx then { y with bits := x } else y) })
      | (none, s) => stopAt s 0 0x01 0) s

/-- ICACHE_DISCARD_DONE (R382). -/
def execIcacheDiscardDone (g : Nat) (s : State) : Host.Outcome State Fault Refusal :=
  onHold g s (fun o => decide (o = .icinv)) (fun h =>
    ((s.discardCode (dieOf g) (s.asidOf g) h.a.word.toNat h.t.word.toNat).refetch g h.idx).answer g none)

/-! ### Profiling counts (R249) -/

/-- Add each `k.prof`n of core g to its total, and zero it. -/
def State.flushProf (s : State) (g : Nat) : State :=
  let asid := s.asidOf g
  let t := if isGearC g then (s.coreC g).prof else (s.coreP g).prof
  let tot := bitsOf (s.profWord asid 0) 6 42 * 64
  let s := t.foldl (fun s e => if e.2 = 0 then s else s.devWrite (dieOf g) (tot + 8 * e.1) (s.read (tot + 8 * e.1) 8 + e.2.toNat) 8) s
  if isGearC g then s.modC g (fun c => { c with prof := [] }) else s.modP g (fun c => { c with prof := [] })

/-! ### Tandems (R309, R310) -/

/-- Core g waits in slot 6 at an operation, with every slot past its bundle, nothing held in another slot and no stop fixed. -/
def CoreC.waitsAt (c : CoreC) (op : HoldOp) : Bool :=
  match (c.slot 6).hold with
  | some h => decide (h.op = op) && decide (c.trailing = h.idx + 1) &&
      (List.range 8).all (fun k => decide (k = 6) || (c.slot k).hold.isNone) && decide (c.phase = .start) && c.stop.isNone
  | none => false

/-- The number of the bundle at which slot 6 holds. -/
def CoreC.waitIdx (c : CoreC) : Nat := (((c.slot 6).hold).map Hold.idx).getD 0

def rejoinAddr (c : CoreC) : Nat := c.addrOf c.waitIdx

/-- A member's `rejoin` traps: it stands at its bundle (R310). -/
def State.rejoinTrap (s : State) (m : Nat) : State :=
  let c := s.coreC m
  (s.modC m (fun c => c.modSlot 6 (fun q => { q with hold := none, next := c.waitIdx }))).requestStop m
    ⟨c.waitIdx, rejoinAddr c, causeWord false 6 0x01 0, some m, none⟩

/-- REJOIN_RELEASE (R310): lock-step resumes at the bundle after the `rejoin` with zero slip, and window stores that are due have
landed (R152). Every member whose address differs from lane 0's traps with cause 0x01. Bundles are numbered on from the highest number
of any member, so that results in flight keep their place in bundle order (R159). -/
def execRejoinRelease (g : Nat) (s : State) : Host.Outcome State Fault Refusal :=
  let grp := (s.coreC g).group
  let lead := (s.coreC g).lead
  if grp = [] ∨ (s.coreC g).dec = false ∨ grp.all (fun m => (s.coreC m).waitsAt .rejoin) = false then .next s
  else
    let L := s.coreC lead
    let addr := rejoinAddr L
    let bad := grp.filter (fun m => decide (rejoinAddr (s.coreC m) ≠ addr))
    if bad ≠ [] then .next (bad.foldl State.rejoinTrap s)
    else
      let clk := grp.foldl (fun m x => max m (s.coreC x).clk) 0
      let top := grp.foldl (fun m x => max m (s.coreC x).fidx) 0
      let f := fun (c : CoreC) =>
        { c with dec := false, clk := clk, cad := L.cad, win := [], fidx := top, fetch := (addr + 32) % 2 ^ 48, fbase := 0
                 loop := L.loop, todo := [], phase := .start
                 infl := c.infl.map (fun r => { r with land := r.land + clk - c.clk })
                 slots := c.slots.map (fun q => { SlotSeq.reset with next := top, avail := clk, div := q.div + clk - c.clk }) }
      .next (grp.foldl (fun s m => s.landBefore m clk) (s.modAll f grp))

/-- FUSE_RELEASE (R309): every slot has issued the `fuse`, the aligned group is idle and reserved, and the members start after the `fuse`
as at the dispatch of a tandem (R171): `k.cad` and what R172 lists begin anew, the profiling counts in their totals. Requests that are
pending stay with the continuation (R127; DESIGN CHOICE, log 100). -/
def execFuseRelease (g : Nat) (s : State) : Host.Outcome State Fault Refusal :=
  let c := s.coreC g
  match (c.slot 6).hold with
  | none => .next s
  | some h =>
    let w := 2 ^ h.t.word.toNat
    let base := g / w * w
    let grp := (List.range w).map (fun i => base + i)
    if c.waitsAt .fuse = false ∨ c.group ≠ [] ∨ grp.any (fun m => decide (m ≠ g) && !s.vacant m) then .next s
    else
      let addr := (c.addrOf h.idx + 32) % 2 ^ 48
      let r := (c.cont.getD Rec.zero)
      let r := { r with w0 := setBits r.w0 35 3 h.t.word.toNat }
      let n := s.fresh
      let start := fun (m : Nat) (x : CoreC) =>
        { x.dispatched (n + 6 * (m - base)) r 0 c.sys grp (m - base) addr s.now with
          task := c.task, tw := h.t.word.toNat, soft := c.soft, shift := c.shift }
      let s := (s.flushProf g).dropInterrupts g
      let s' := grp.foldl (fun s m => s.modC m (start m)) { s with fresh := n + 6 * w }
      let s' := match c.task.bind s'.task with
        | some t => s'.setTask (c.task.getD 0) { t with r := r }
        | none => s'
      .next s'

end Sys2Proof.Machine
end

