-- ==== Sys2Proof/Machine/Ends.lean ====
section
/-! DEFINITION. The ends of a continuation: `susp`, `yield`, hand-over, retirement, write-back (R104, R127 to R130, R150,
R196, R249, R312, R313). -/

namespace Sys2Proof.Machine

/-- How a continuation leaves its core: it retires, is written back from an image, or hands over with LOOP and ITER. -/
inductive EndMode where
  | retire
  | back (img : Rec)
  | hand (loop iter : Nat)
  deriving DecidableEq, Repr

/-! ### The carry image (R128, R129) -/

/-- Its size: the entry's `.carry`, 8 bytes where that is 0. -/
def State.carrySize (s : State) (r : Rec) : Nat := max 8 (((s.entry r).map Entry.carry).getD 0)

/-- Write word 0 into the local buffer of core g, and the image to CARRY at device scope; nothing where CARRY does not
translate yet. -/
def State.carryOut (s : State) (g : Nat) (r : Rec) (loop iter : Nat) : Option State :=
  let s := s.write (locCore g 0) ((loop <<< 32) + iter % 2 ^ 32) 8
  let n := s.carrySize r
  match s.vaWrite (dieOf g) r.asid r.carry (s.read (locCore g 0) n) n with
  | (.ok _, s) => some s
  | (.error _, _) => none

/-- Load the carry image into the local buffer of every core of a list, from the homes (R406, R423). -/
def State.carryIn (s : State) (d : Nat) (r : Rec) (cores : List Nat) : Option State :=
  let n := s.carrySize r
  match s.vaRead d r.asid r.carry n with
  | (.ok x, s) => some (cores.foldl (fun s g => s.write (locCore g 0) x n) s)
  | (.error _, _) => none

/-! ### Leaving the core -/

/-- The core becomes free: its state ends (R130), its caches, engine banks and pending device state stay; its engine has no command,
and goes on counting how long it has had none (R36). -/
def CoreC.freed (c : CoreC) : CoreC :=
  { CoreC.reset with
    l1 := c.l1, rst := c.rst, wst := c.wst
    eng := { Engine.reset with tiles := c.eng.tiles, idle := c.eng.idle, since := c.eng.since, asleep := c.eng.asleep } }
def CoreP.freed (c : CoreP) : CoreP := { CoreP.reset with lines := c.lines }

def State.freeCore (s : State) (g : Nat) : State :=
  if isGearC g then s.modC g CoreC.freed else s.modP g CoreP.freed

/-- Unread SAE result entries of a core are discarded, which may make room for another core's `sae` (R375, R376). -/
def State.dropSae (s : State) (g : Nat) : State :=
  if isGearC g then
    let c := s.cluster (clusterOf g)
    (s.setCluster (clusterOf g) { c with results := c.results.filter (fun r => r.1 ≠ g) }).saeWake (clusterOf g)
  else s

/-- The record of a written-back continuation is placed again (R97, R99, R104) and enters its next state (R92). Where its KEY does not
translate, the fault is parked: the record keeps its partition until it is placed again (R79, log 33). -/
def State.writeBack (s : State) (t g : Nat) (r : Rec) : State :=
  match s.task t with
  | none => s
  | some x =>
    let e := s.entryState r
    let y : Task := { x with
      r := r, st := e.1, acq := e.2, since := s.now, order := s.nextOrder, ctx := none
      pause := s.now, halted := none, late := false, asked := false }
    match s.place r (posterDie g) x.hint with
    | (.error _, s) => s.setTask t { y with late := true }
    | (.ok pl, s) => s.moveTask t y pl

/-- What continuations leave in cluster scratchpads as they leave their cores (R130): the contents of each cluster of a list none of whose
cores runs, holds or keeps a continuation (log 65). -/
def State.loseClusters (s : State) (l : List Nat) : State :=
  (l.filter (fun cl => (List.range 4).all (fun k => decide (s.runOf (4 * cl + k) = .idle)))).foldl
    (fun s cl => s.loseBytes (locClus cl 0) 0x400000) s

/-- The operands that a translation of a tandem has staged in the cluster scratchpads of its cores end with it (R402). -/
def State.loseStaging (s : State) (r : Rec) (grp : List Nat) : State :=
  let g := grp.headD 0
  if isGearC g && decide (4 ≤ grp.length) && ((s.entry r).bind (fun e => Tab.find e.recs (dieOf g))).isSome then
    ((grp.map clusterOf).dedup).foldl (fun s cl => s.loseBytes (locClus cl 0x300000) 0x100000) s
  else s

/-- The debug commands of the cores of a list are over, and a step that ended the continuation sets ENDED and clears HALTED (R240, R243). -/
def State.endCommands (s : State) (grp : List Nat) (stepped : Bool) : State :=
  grp.foldl (fun s g =>
    let b := Tab.get Block.reset s.blocks g
    if stepped then { s with blocks := Tab.put s.blocks g { b with ended := true, halted := false, busy := false } }
    else if b.busy then { s with blocks := Tab.put s.blocks g { b with busy := false } } else s) s

/-- The continuation that core g leads leaves its cores: every write is published (R150), the carry image written where the mode has
one, and with it the scratchpads' bytes end (R130); profiling counts added, the time charged (R107), interrupts and SAE entries dropped, the cores freed,
and the record retired or written back. Nothing happens while CARRY does not translate, nor where a word of the image is uncorrectable,
which stops the core (R228). -/
def State.finishCont (s : State) (g : Nat) (m : EndMode) : State :=
  let grp := s.groupOf g
  -- a step that ends the continuation sets ENDED and clears HALTED (R243)
  let stepped := if isGearC g then (s.coreC g).step1 else (s.coreP g).step1
  let old := if isGearC g then (s.coreC g).cont.getD Rec.zero else (s.coreP g).cont.getD Rec.zero
  let r := match m with
    | .retire => old
    | .back img => { img with w0 := setBits img.w0 49 1 old.held.toNat, w1 := setBits img.w1 54 10 old.asid }
    | .hand _ _ => { old with w0 := setBits old.w0 50 1 1 }
  let carries := match m with
    | .retire => false
    | .back _ => r.cv
    | .hand _ _ => true
  let img := (locCore g 0, s.carrySize r)
  if carries && !(s.badMet (fun b => b.hit img)).isEmpty then s.meetMem none [img] else
  let s1 := grp.foldl (fun s g => (if isGearC g then s.finishWindow g else s).publish g) s
  let out := match m with
    | .retire => some s1
    | .back _ => if r.cv then s1.carryOut g r 0xFFFE 0 else some s1
    | .hand l i => s1.carryOut g r l i
  match out with
  | none => s
  | some s =>
    let s := grp.foldl (fun s g => ((s.flushProf g).dropInterrupts g).dropSae g) s
    let t := (s.taskOf g).getD 0
    let s := s.charge t grp.length
    let name := s.nameAt g (if isGearC g then (s.coreC g).fetch else (s.coreP g).pc)
    let s := match m with
      | .retire => s.removeTask t
      | _ => s.writeBack t g r
    let s := match m with
      | .hand _ _ =>
        let gear := ((s.task t).map (fun (x : Task) => (partGear x.part).code)).getD 0
        s.traceRec (dieOf g) name 6 0 r.asid (BitVec.ofNat 64 gear)
      | _ => s
    let s := grp.foldl State.freeCore (s.endCommands grp stepped)
    let s := s.loseStaging old grp
    let cls := if isGearC g then (grp.map clusterOf).dedup else []
    -- the carry image is all that goes on (R130)
    match m with
    | .retire => s
    | _ => (grp.foldl State.losePad s).loseClusters cls

/-! ### `susp` and `yield` on gear C (R312, R313) -/

/-- The image of a write-back, checked under R91 with the running record's ASID and HELD (R312): its words, or the trap. -/
def State.suspImage (s : State) (g asid : Nat) (sys : Bool) (t : Word) : Except Trap (List Word) :=
  let a := bitsOf t 0 32
  if bitsOf t 28 4 ≠ 0 ∨ 0x80000 < bitsOf t 0 28 + 64 then .error (0x09, a)
  else if a % 64 ≠ 0 then .error (0x0A, a)
  else
    let img := Rec.ofWords (toWords (s.read (locCore g a) 64) 8)
    let r := { img with w0 := setBits img.w0 49 1 0, w1 := setBits img.w1 54 10 asid }
    if s.recOk r none sys then .ok r.words else .error (0x01, 0)

/-- In a lock-step tandem a `susp` or `yield` acts once, with the operands of lane 0, which issues first (R311): another member whose move
runs holds where lane 0 does, with what it holds. Where lane 0's is guarded off, it only asks for the end, if it would end anything
(`ends`), so that the members are seen to disagree (R311, R322). -/
def State.asLaneZero (s : State) (g : Nat) (off ends : Bool) : State :=
  match ((s.coreC (s.leader g)).slot 6).hold with
  | some h =>
    if h.op = .susp then s.modC g (fun c => { c.modSlot 6 (fun q => { q with hold := some h }) with ctl := some .susp }) else s
  | none => if off && ends then s.modC g (fun c => { c with ctl := some .susp }) else s

/-- A move of `susp` or `yield`: lane 0 makes it, and the other members of a lock-step tandem whose guards are on follow (R296, R311). -/
def suspMove (gd : BitVec 3) (src : BitVec 10) (s : State) (ends : CoreC → Bun → Bool) (act : MoveCtx → State) :
    Host.Outcome State Fault Refusal :=
  let g := s.focus
  let lead := s.leader g
  if lead = g then runMove 6 gd src s act
  else
    let x := (s.coreC g).context 6
    if (s.coreC g).guard x.1 x.2 gd then
      .next (s.asLaneZero g (!(s.coreC lead).guard x.1 x.2 gd) (ends (s.coreC g) x.2))
    else .next s

/-- Is a `yield` honoured: a request is pending, no loop is active, CARRY is not 0, no handler, in lock-step (R313)? -/
def CoreC.yields (c : CoreC) (b : Bun) : Bool := c.mayHonour && !b.loop.act

/-- `susp` (R312): slot 6 holds until HAND_OVER ends the continuation. -/
def execCtSusp (gd : BitVec 3) (src : BitVec 10) (k : BitVec 1) (s : State) : Host.Outcome State Fault Refusal :=
  suspMove gd src s (fun _ _ => true) (fun x =>
    let t := x.val.word
    if (x.c.group ≠ [] ∧ x.c.dec) ∨ x.c.inH ∨ bitsOf t 32 31 ≠ 0 ∨ (t.getLsbD 63 = false ∧ t ≠ 0) then x.trap s (0x01, 0)
    else if t = 0 then x.ask (x.hold s .susp k) .susp
    else match s.suspImage x.g x.c.asid x.c.sys t with
      | .error tr => x.trap s tr
      | .ok img =>
        let h := Hold.mk .susp x.val (x.c.port x.slot 0) (x.c.port x.slot 1) (x.c.port x.slot 2) (decide (k = 1)) x.bun.idx
          0 0 0 img
        x.ask (s.modC x.g (fun c => c.modSlot x.slot (fun q => { q with hold := some h }))) .susp)

/-- `yield` (R313): where it is honoured, slot 6 holds for HAND_OVER with LOOP 0xFFFF and the resume index. -/
def execCtYield (gd : BitVec 3) (src : BitVec 10) (k : BitVec 1) (s : State) : Host.Outcome State Fault Refusal :=
  suspMove gd src s CoreC.yields (fun x =>
    let t := x.val.word
    if 2 ^ 32 ≤ t.toNat then x.trap s (0x01, 0)
    else if x.c.yields x.bun then
      let h := Hold.mk .susp x.val (x.c.port x.slot 0) (x.c.port x.slot 1) (x.c.port x.slot 2) (decide (k = 1)) x.bun.idx
        0 2 t []
      x.ask (s.modC x.g (fun c => c.modSlot x.slot (fun q => { q with hold := some h }))) .susp
    else s)

/-- The engine and the SAE have nothing of the core's left (R196, R376). -/
def State.quietCore (s : State) (g : Nat) : Bool :=
  (s.coreC g).eng.idleNow && (s.saePending g).isEmpty

/-- The end that the group of `lead` has reached: every slot has issued what it must, nothing is held but the ending
`susp` or `yield`, engines and SAE are done (R129, R196, R312, R313). A stop that meets it finds its wait finished (R320). -/
def State.endReached (s : State) (lead : Nat) : Option EndMode :=
  let c := s.coreC lead
  let ms := s.members lead
  let others := fun k0 => ms.all (fun g => (List.range 8).all (fun k => decide (k = k0) || ((s.coreC g).slot k).hold.isNone))
  if c.run ≠ .running ∨ c.phase ≠ .start ∨ ms.all (fun g => s.quietCore g) = false then none
  else match (c.slot 6).hold with
    | some h =>
      if h.op = .susp ∧ c.trailing = h.idx + 1 ∧ others 6 ∧
          ms.all (fun g => (((s.coreC g).slot 6).hold.map Hold.op) = some .susp) then
        some (if h.st = 2 then .hand 0xFFFF h.val.toNat
          else if h.img = [] then .retire else .back (Rec.ofWords h.img))
      else none
    | none => match c.honour with
      | some (l, i) => if c.trailing = c.fidx ∧ others 8 then some (.hand l i) else none
      | none => none

/-- The end that comes now: it does not wait for CARRY to translate while a stop is fixed, which is then taken. -/
def State.endsNow (s : State) (lead : Nat) : Option EndMode :=
  match s.endReached lead with
  | none => none
  | some m =>
    if (s.coreC lead).stop.isNone ∨ ((s.finishCont lead m).coreC lead).run ≠ .running then some m else none

/-- A fatal cause that meets an end that completes still tears down the ASID, or enters the chain of a teardown (R320, R236). -/
def State.endWithCause (s : State) (asid lead : Nat) (c : CoreC) : State :=
  match c.stop with
  | none => s
  | some r =>
    if causeResumable r.cause ∨ causeCode r.cause = 0x32 then s
    else
      s.beginTeardown asid (chainEntry c.cad (c.addrOf r.idx) 0 (causeCode r.cause) (coordOf (r.who.getD lead)) 0xFFFF
        (BitVec.ofNat 64 (bitsOf r.cause 0 48)))

/-- A request is pending that a gear S or M core may honour here (R127, R230). -/
def CoreP.mayHonour (c : CoreP) : Bool :=
  (c.soft.isSome || c.shift) && decide (c.run = .running) && c.hold.isNone && c.stop.isNone && c.mmac.isNone &&
    (match c.cont with | some r => decide (r.carry ≠ 0) | none => false)

/-- The `.suspend` boundary at which a gear S or M core stands: LOOP and arrival count (R127, R438). -/
def State.boundary (s : State) (g : Nat) : Option (Nat × Nat) :=
  let c := s.coreP g
  if c.mayHonour && c.arrived then
    ((s.spans g).find? (fun l => decide (l.2.1 = c.pc))).map (fun l => (l.1, Tab.get 0 c.loops l.1))
  else none

/-- HAND_OVER (R129, R312, R313): the continuation reaches its end and leaves the core. -/
def execHandOver (g : Nat) (s : State) : Host.Outcome State Fault Refusal :=
  let lead := s.leader g
  if isGearC g = false then
    match s.boundary g with
    | some (l, i) => .next (s.finishCont g (.hand l i))
    | none => .next s
  else match s.endsNow lead with
    | none => .next s
    | some m => .next ((s.finishCont lead m).endWithCause (s.asidOf lead) lead (s.coreC lead))

end Sys2Proof.Machine
end

