-- ==== Sys2Proof/Machine/Integer.lean ====
section
/-! DEFINITION. The integer units ia0 and ia1 (R296 to R302). -/

namespace Sys2Proof.Machine

/-- The frame of an integer trigger: `f` gives the result from the core, a, b and t, or nothing where an operand is
illegal (cause 0x01, R296); `fl` the flags. -/
def iaMove (gd : BitVec 3) (src : BitVec 10) (u k : BitVec 1) (s : State) (lat : Nat)
    (f : CoreC → Word → Word → Word → Option (Word × Flags)) : Host.Outcome State Fault Refusal :=
  runMove u.toNat gd src s (fun x =>
    x.finish s lat k (match f x.c (x.c.port x.slot 0).word (x.c.port x.slot 1).word x.val.word with
      | some (r, fl) => .ok (TVal.ofWord r) fl
      | none => .trap 0x01 0))

/-- An operation that neither traps nor raises a flag. -/
def iaPlain (gd : BitVec 3) (src : BitVec 10) (u k : BitVec 1) (s : State) (lat : Nat) (f : Word → Word → Word) :
    Host.Outcome State Fault Refusal :=
  iaMove gd src u k s lat (fun _ a _ t => some (f a t, 0))

/-- Zero bits from the top of the `n` low bits of a number. -/
def leadZeros (x : Nat) : Nat → Nat
  | 0 => 0
  | n + 1 => if x.testBit n then 0 else 1 + leadZeros x n

/-- Zero bits from bit `i` up, for at most `n` bits. -/
def trailZeros (x i : Nat) : Nat → Nat
  | 0 => 0
  | n + 1 => if x.testBit i then 0 else 1 + trailZeros x (i + 1) n

def oneBits (x : Nat) : Nat → Nat
  | 0 => 0
  | n + 1 => (x.testBit n).toNat + oneBits x n

/-- Quotient and remainder of R299, and IDZ (R207). -/
def divide (signed : Bool) (a t : Word) : Word × Word × Flags :=
  if t = 0 then (BitVec.allOnes 64, a, fIDZ)
  else if signed then
    (BitVec.ofInt 64 (Int.tdiv a.toInt t.toInt), BitVec.ofInt 64 (Int.tmod a.toInt t.toInt), 0)
  else (BitVec.ofNat 64 (a.toNat / t.toNat), BitVec.ofNat 64 (a.toNat % t.toNat), 0)

/-- A divide also occupies its unit for 20 cycles (R158, R299). -/
def iaDivide (gd : BitVec 3) (src : BitVec 10) (u k : BitVec 1) (s : State) (signed quot : Bool) :
    Host.Outcome State Fault Refusal :=
  runMove u.toNat gd src s (fun x =>
    let r := divide signed (x.c.port x.slot 0).word x.val.word
    (x.finish s 20 k (.ok (TVal.ofWord (if quot then r.1 else r.2.1)) r.2.2)).modC x.g
      (fun c => c.modSlot x.slot (fun q => { q with div := c.clk + 20 })))

/-- The field of R302: `f` for `bfx`, and its mask for `bfi`. -/
def bitField (a t : Word) : Nat := (a.toNat >>> bitsOf t 0 6) % 2 ^ bitsOf t 6 7
def fieldOk (t : Word) : Bool := decide (t.toNat < 2 ^ 14 ∧ 1 ≤ bitsOf t 6 7 ∧ bitsOf t 6 7 ≤ 64)

def bfxWord (a t : Word) : Option Word :=
  if fieldOk t = false then none
  else
    let f := bitField a t
    let len := bitsOf t 6 7
    some (if t.getLsbD 13 ∧ 2 ^ (len - 1) ≤ f then BitVec.ofInt 64 ((f : Int) - 2 ^ len) else BitVec.ofNat 64 f)

def bfiWord (a b t : Word) : Option Word :=
  if fieldOk t = false ∨ t.getLsbD 13 then none
  else
    let msk := BitVec.ofNat 64 ((2 ^ bitsOf t 6 7 - 1) <<< bitsOf t 0 6)
    some ((a &&& ~~~msk) ||| ((b <<< bitsOf t 0 6) &&& msk))

/-- Bits n and above replaced by copies of bit n − 1, or by zeros (R302). -/
def extWord (signed : Bool) (a t : Word) : Option Word :=
  if t.toNat < 1 ∨ 64 < t.toNat then none
  else some (if signed then BitVec.ofInt 64 (toSigned t.toNat a.toNat) else BitVec.ofNat 64 (a.toNat % 2 ^ t.toNat))

/-- `add`: a + t (R297). -/
def execIaAdd (gd : BitVec 3) (src : BitVec 10) (u k : BitVec 1) (s : State) : Host.Outcome State Fault Refusal :=
  iaPlain gd src u k s 1 (fun a t => a + t)

/-- `sub`: a − t (R297). -/
def execIaSub (gd : BitVec 3) (src : BitVec 10) (u k : BitVec 1) (s : State) : Host.Outcome State Fault Refusal :=
  iaPlain gd src u k s 1 (fun a t => a - t)

/-- `and`: a and t (R297). -/
def execIaAnd (gd : BitVec 3) (src : BitVec 10) (u k : BitVec 1) (s : State) : Host.Outcome State Fault Refusal :=
  iaPlain gd src u k s 1 (fun a t => a &&& t)

/-- `or`: a or t (R297). -/
def execIaOr (gd : BitVec 3) (src : BitVec 10) (u k : BitVec 1) (s : State) : Host.Outcome State Fault Refusal :=
  iaPlain gd src u k s 1 (fun a t => a ||| t)

/-- `xor`: a xor t (R297). -/
def execIaXor (gd : BitVec 3) (src : BitVec 10) (u k : BitVec 1) (s : State) : Host.Outcome State Fault Refusal :=
  iaPlain gd src u k s 1 (fun a t => a ^^^ t)

/-- `andn`: a and not t (R297). -/
def execIaAndn (gd : BitVec 3) (src : BitVec 10) (u k : BitVec 1) (s : State) : Host.Outcome State Fault Refusal :=
  iaPlain gd src u k s 1 (fun a t => a &&& ~~~t)

/-- `shl`: a shifted left by t[5:0] (R297). -/
def execIaShl (gd : BitVec 3) (src : BitVec 10) (u k : BitVec 1) (s : State) : Host.Outcome State Fault Refusal :=
  iaPlain gd src u k s 1 (fun a t => a <<< (t.toNat % 64))

/-- `shr`: a shifted right by t[5:0], unsigned (R297). -/
def execIaShr (gd : BitVec 3) (src : BitVec 10) (u k : BitVec 1) (s : State) : Host.Outcome State Fault Refusal :=
  iaPlain gd src u k s 1 (fun a t => a >>> (t.toNat % 64))

/-- `sra`: a shifted right by t[5:0], signed (R297). -/
def execIaSra (gd : BitVec 3) (src : BitVec 10) (u k : BitVec 1) (s : State) : Host.Outcome State Fault Refusal :=
  iaPlain gd src u k s 1 (fun a t => a.sshiftRight (t.toNat % 64))

/-- `rol`: a rotated left by t[5:0] (R297). -/
def execIaRol (gd : BitVec 3) (src : BitVec 10) (u k : BitVec 1) (s : State) : Host.Outcome State Fault Refusal :=
  iaPlain gd src u k s 1 (fun a t => a.rotateLeft (t.toNat % 64))

/-- `min`: the signed minimum (R297). -/
def execIaMin (gd : BitVec 3) (src : BitVec 10) (u k : BitVec 1) (s : State) : Host.Outcome State Fault Refusal :=
  iaPlain gd src u k s 1 (fun a t => if a.toInt ≤ t.toInt then a else t)

/-- `max`: the signed maximum (R297). -/
def execIaMax (gd : BitVec 3) (src : BitVec 10) (u k : BitVec 1) (s : State) : Host.Outcome State Fault Refusal :=
  iaPlain gd src u k s 1 (fun a t => if a.toInt ≤ t.toInt then t else a)

/-- `minn`: the unsigned minimum (R297). -/
def execIaMinn (gd : BitVec 3) (src : BitVec 10) (u k : BitVec 1) (s : State) : Host.Outcome State Fault Refusal :=
  iaPlain gd src u k s 1 (fun a t => if a.toNat ≤ t.toNat then a else t)

/-- `maxn`: the unsigned maximum (R297). -/
def execIaMaxn (gd : BitVec 3) (src : BitVec 10) (u k : BitVec 1) (s : State) : Host.Outcome State Fault Refusal :=
  iaPlain gd src u k s 1 (fun a t => if a.toNat ≤ t.toNat then t else a)

/-- `mul`: bits [63:0] of the product (R298). -/
def execIaMul (gd : BitVec 3) (src : BitVec 10) (u k : BitVec 1) (s : State) : Host.Outcome State Fault Refusal :=
  iaPlain gd src u k s 3 (fun a t => a * t)

/-- `mulh`: bits [127:64] of the signed product (R298). -/
def execIaMulh (gd : BitVec 3) (src : BitVec 10) (u k : BitVec 1) (s : State) : Host.Outcome State Fault Refusal :=
  iaPlain gd src u k s 3 (fun a t => BitVec.ofInt 64 (a.toInt * t.toInt / 2 ^ 64))

/-- `mulhn`: bits [127:64] of the unsigned product (R298). -/
def execIaMulhn (gd : BitVec 3) (src : BitVec 10) (u k : BitVec 1) (s : State) : Host.Outcome State Fault Refusal :=
  iaPlain gd src u k s 3 (fun a t => BitVec.ofNat 64 (a.toNat * t.toNat / 2 ^ 64))

/-- `div`: the signed quotient (R299). -/
def execIaDiv (gd : BitVec 3) (src : BitVec 10) (u k : BitVec 1) (s : State) : Host.Outcome State Fault Refusal :=
  iaDivide gd src u k s true true

/-- `divn`: the unsigned quotient (R299). -/
def execIaDivn (gd : BitVec 3) (src : BitVec 10) (u k : BitVec 1) (s : State) : Host.Outcome State Fault Refusal :=
  iaDivide gd src u k s false true

/-- `rem`: the signed remainder (R299). -/
def execIaRem (gd : BitVec 3) (src : BitVec 10) (u k : BitVec 1) (s : State) : Host.Outcome State Fault Refusal :=
  iaDivide gd src u k s true false

/-- `remn`: the unsigned remainder (R299). -/
def execIaRemn (gd : BitVec 3) (src : BitVec 10) (u k : BitVec 1) (s : State) : Host.Outcome State Fault Refusal :=
  iaDivide gd src u k s false false

/-- `cmpeq` (R300). -/
def execIaCmpeq (gd : BitVec 3) (src : BitVec 10) (u k : BitVec 1) (s : State) : Host.Outcome State Fault Refusal :=
  iaPlain gd src u k s 1 (fun a t => ofBool (decide (a = t)))

/-- `cmpne` (R300). -/
def execIaCmpne (gd : BitVec 3) (src : BitVec 10) (u k : BitVec 1) (s : State) : Host.Outcome State Fault Refusal :=
  iaPlain gd src u k s 1 (fun a t => ofBool (decide (a ≠ t)))

/-- `cmplt` (R300). -/
def execIaCmplt (gd : BitVec 3) (src : BitVec 10) (u k : BitVec 1) (s : State) : Host.Outcome State Fault Refusal :=
  iaPlain gd src u k s 1 (fun a t => ofBool (decide (a.toInt < t.toInt)))

/-- `cmpltn` (R300). -/
def execIaCmpltn (gd : BitVec 3) (src : BitVec 10) (u k : BitVec 1) (s : State) : Host.Outcome State Fault Refusal :=
  iaPlain gd src u k s 1 (fun a t => ofBool (decide (a.toNat < t.toNat)))

/-- `cmple` (R300). -/
def execIaCmple (gd : BitVec 3) (src : BitVec 10) (u k : BitVec 1) (s : State) : Host.Outcome State Fault Refusal :=
  iaPlain gd src u k s 1 (fun a t => ofBool (decide (a.toInt ≤ t.toInt)))

/-- `cmplen` (R300). -/
def execIaCmplen (gd : BitVec 3) (src : BitVec 10) (u k : BitVec 1) (s : State) : Host.Outcome State Fault Refusal :=
  iaPlain gd src u k s 1 (fun a t => ofBool (decide (a.toNat ≤ t.toNat)))

/-- `sel`: a where predicate t is 1, else b; t names p4 to p7 (R301). -/
def execIaSel (gd : BitVec 3) (src : BitVec 10) (u k : BitVec 1) (s : State) : Host.Outcome State Fault Refusal :=
  iaMove gd src u k s 1 (fun c a b t =>
    if t.toNat < 4 ∨ 7 < t.toNat then none else some (if c.pred t.toNat then a else b, 0))

/-- `lea`: a + b·2^t[5:0] (R302). -/
def execIaLea (gd : BitVec 3) (src : BitVec 10) (u k : BitVec 1) (s : State) : Host.Outcome State Fault Refusal :=
  iaMove gd src u k s 1 (fun _ a b t => some (a + (b <<< (t.toNat % 64)), 0))

/-- `bfx` (R302). -/
def execIaBfx (gd : BitVec 3) (src : BitVec 10) (u k : BitVec 1) (s : State) : Host.Outcome State Fault Refusal :=
  iaMove gd src u k s 1 (fun _ a _ t => (bfxWord a t).map (fun r => (r, 0)))

/-- `bfi` (R302). -/
def execIaBfi (gd : BitVec 3) (src : BitVec 10) (u k : BitVec 1) (s : State) : Host.Outcome State Fault Refusal :=
  iaMove gd src u k s 1 (fun _ a b t => (bfiWord a b t).map (fun r => (r, 0)))

/-- `clz` (R297). -/
def execIaClz (gd : BitVec 3) (src : BitVec 10) (u k : BitVec 1) (s : State) : Host.Outcome State Fault Refusal :=
  iaPlain gd src u k s 1 (fun _ t => BitVec.ofNat 64 (leadZeros t.toNat 64))

/-- `ctz` (R297). -/
def execIaCtz (gd : BitVec 3) (src : BitVec 10) (u k : BitVec 1) (s : State) : Host.Outcome State Fault Refusal :=
  iaPlain gd src u k s 1 (fun _ t => BitVec.ofNat 64 (trailZeros t.toNat 0 64))

/-- `popc` (R297). -/
def execIaPopc (gd : BitVec 3) (src : BitVec 10) (u k : BitVec 1) (s : State) : Host.Outcome State Fault Refusal :=
  iaPlain gd src u k s 1 (fun _ t => BitVec.ofNat 64 (oneBits t.toNat 64))

/-- `mov`: t (R297). -/
def execIaMov (gd : BitVec 3) (src : BitVec 10) (u k : BitVec 1) (s : State) : Host.Outcome State Fault Refusal :=
  iaPlain gd src u k s 1 (fun _ t => t)

/-- `sext`: a sign-extended from bit t − 1 (R302). -/
def execIaSext (gd : BitVec 3) (src : BitVec 10) (u k : BitVec 1) (s : State) : Host.Outcome State Fault Refusal :=
  iaMove gd src u k s 1 (fun _ a _ t => (extWord true a t).map (fun r => (r, 0)))

/-- `zext`: a with bits t and above cleared (R302). -/
def execIaZext (gd : BitVec 3) (src : BitVec 10) (u k : BitVec 1) (s : State) : Host.Outcome State Fault Refusal :=
  iaMove gd src u k s 1 (fun _ a _ t => (extWord false a t).map (fun r => (r, 0)))

end Sys2Proof.Machine
end

