-- ==== Sys2Proof/Machine/Portable.lean ====
section
/-! DEFINITION. The portable layer on gear S and gear M cores: registers, the frame of an instruction, and the RV64I, M and
Zicsr base (R384 to R387, R401). -/

namespace Sys2Proof.Machine

/-! ### Registers -/

/-- x[n]; x0 reads zero (R384). -/
def CoreP.xr (c : CoreP) (n : Nat) : Word := if n = 0 then 0 else c.x.get 0 Config.freeWord n
/-- q[n] (R388). -/
def CoreP.qr (c : CoreP) (n : Nat) : TVal := c.q.get ⟨0, 0⟩ freeTVal n
def CoreP.setQ (c : CoreP) (n : Nat) (v : TVal) : CoreP := { c with q := c.q.put n v }

/-! ### The frame -/

/-- A base instruction on the focused core. -/
def baseOp (s : State) (body : Nat → CoreP → State) : Host.Outcome State Fault Refusal :=
  .next (body s.focus (s.coreP s.focus))

/-- An Xpol instruction (R267, R389): a hint of 5 to 7, which no implementation defines here, traps with cause 0x07. -/
def xpolOp (h : BitVec 3) (s : State) (body : Nat → CoreP → State) : Host.Outcome State Fault Refusal :=
  .next (if 5 ≤ h.toNat then s.trapP s.focus 0x07 h.toNat else body s.focus (s.coreP s.focus))

/-- A trap that a check gave. -/
def State.failP (s : State) (g : Nat) (t : Trap) : State := s.trapP g t.1 t.2

/-- Write x[rd] and go on. -/
def State.doneX (s : State) (g rd : Nat) (w : Word) : State := (s.modP g (fun c => c.setX rd w)).advance g
/-- Write q[rd], raise flags and go on; or trap. -/
def State.doneQ (s : State) (g rd : Nat) : VRes → State
  | .ok v fl => (s.modP g (fun c => (c.setQ rd v).raise fl)).advance g
  | .trap code detail => s.trapP g code detail

/-! ### Loads and stores (R384, R385) -/

/-- Effective address: modulo 2^64. -/
def effAddr (base : Word) (imm : BitVec 12) : Nat := (base + imm.signExtend 64).toNat

/-- An access of `n` bytes to the local buffer: range before alignment (R385, R389). -/
def localCheck (a n : Nat) : Option Trap :=
  if 0x80000 ≤ a then some (0x09, a % 2 ^ 32) else if a % n ≠ 0 then some (0x0A, a % 2 ^ 32) else none

/-- Bytes of a load or store by funct3. -/
def memBytes (f3 : BitVec 3) : Nat := 2 ^ (f3.toNat % 4)

/-- The value of a load: sign-extended for LB to LD, zero-extended for LBU to LWU. -/
def loadValue (f3 : BitVec 3) (x : Nat) : Word :=
  if f3.toNat < 4 then BitVec.ofInt 64 (toSigned (8 * memBytes f3) x) else BitVec.ofNat 64 x

/-- PORTABLE_LOAD: LB, LH, LW, LD, LBU, LHU, LWU. -/
def execPortableLoad (f3 : BitVec 3) (rd rs1 : BitVec 5) (imm : BitVec 12) (s : State) :
    Host.Outcome State Fault Refusal :=
  baseOp s (fun g c =>
    let a := effAddr (c.xr rs1.toNat) imm
    match localCheck a (memBytes f3) with
    | some t => s.failP g t
    | none => s.doneX g rd.toNat (loadValue f3 (s.read (locCore g a) (memBytes f3))))

/-- PORTABLE_STORE: SB, SH, SW, SD. -/
def execPortableStore (f3 : BitVec 3) (rs1 rs2 : BitVec 5) (imm : BitVec 12) (s : State) :
    Host.Outcome State Fault Refusal :=
  baseOp s (fun g c =>
    let a := effAddr (c.xr rs1.toNat) imm
    match localCheck a (memBytes f3) with
    | some t => s.failP g t
    | none => (s.write (locCore g a) (c.xr rs2.toNat).toNat (memBytes f3)).advance g)

/-! ### Fences, calls, breaks (R384) -/

/-- FENCE: `hpub` then `hobs`, both at group scope, which acts as core scope on gears S and M (R135, R403): every earlier
write is performed and no copy is discarded. -/
def execFence (_fm _pred _succ : BitVec 4) (_rs1 _rd : BitVec 5) (s : State) : Host.Outcome State Fault Refusal :=
  baseOp s (fun g _ => s.advance g)

/-- FENCE.I: no operation. -/
def execFenceI (_imm : BitVec 12) (_rs1 _rd : BitVec 5) (s : State) : Host.Outcome State Fault Refusal :=
  baseOp s (fun g _ => s.advance g)

/-- ECALL: cause 0x0D with x17[15:0]. -/
def execEcall (s : State) : Host.Outcome State Fault Refusal :=
  baseOp s (fun g c => s.trapP g 0x0D (bitsOf (c.xr 17) 0 16))

/-- EBREAK: cause 0x0C. -/
def execEbreak (s : State) : Host.Outcome State Fault Refusal := baseOp s (fun g _ => s.trapP g 0x0C 0)

/-! ### Computation (RV64I, M) -/

/-- Sign extension of the low 32 bits. -/
def sextW (w : Word) : Word := (w.setWidth 32).signExtend 64

/-- Quotient or remainder of a division, and IDZ: DIV, DIVU, REM, REMU by funct3, on 64 or 32 bits. -/
def portDivide (w : Bool) (f3 : BitVec 3) (a b : Word) : Word × Flags :=
  let signed := decide (f3 = 4 ∨ f3 = 6)
  let ext := fun (x : Word) => if w then (if signed then sextW x else (x.setWidth 32).setWidth 64) else x
  let r := divide signed (ext a) (ext b)
  let v := if f3.toNat < 6 then r.1 else r.2.1
  (if w then sextW v else v, r.2.2)

/-- PORTABLE_DIVIDE: DIV, DIVU, REM, REMU and their W forms; division by zero also sets IDZ. -/
def execPortableDivide (w : BitVec 1) (f3 : BitVec 3) (rd rs1 rs2 : BitVec 5) (s : State) :
    Host.Outcome State Fault Refusal :=
  baseOp s (fun g c =>
    let r := portDivide (decide (w = 1)) f3 (c.xr rs1.toNat) (c.xr rs2.toNat)
    (s.modP g (fun c => (c.setX rd.toNat r.1).raise r.2)).advance g)

/-- The 64-bit ALU by funct3; `alt` is bit 30. -/
def alu (f3 : BitVec 3) (alt : Bool) (a b : Word) : Word :=
  match f3.toNat with
  | 0 => if alt then a - b else a + b
  | 1 => a <<< (b.toNat % 64)
  | 2 => ofBool (decide (a.toInt < b.toInt))
  | 3 => ofBool (decide (a.toNat < b.toNat))
  | 4 => a ^^^ b
  | 5 => if alt then a.sshiftRight (b.toNat % 64) else a >>> (b.toNat % 64)
  | 6 => a ||| b
  | _ => a &&& b

/-- The 32-bit ALU: ADDW, SUBW, SLLW, SRLW, SRAW. -/
def aluW (f3 : BitVec 3) (alt : Bool) (a b : Word) : Word :=
  let x := a.setWidth 32
  let n := b.toNat % 32
  (match f3.toNat with
    | 0 => if alt then x - b.setWidth 32 else x + b.setWidth 32
    | 1 => x <<< n
    | _ => if alt then x.sshiftRight n else x >>> n).signExtend 64

/-- MUL, MULH, MULHSU, MULHU by funct3. -/
def mulWord (f3 : BitVec 3) (a b : Word) : Word :=
  match f3.toNat with
  | 0 => a * b
  | 1 => BitVec.ofInt 64 (a.toInt * b.toInt / 2 ^ 64)
  | 2 => BitVec.ofInt 64 (a.toInt * (b.toNat : Int) / 2 ^ 64)
  | _ => BitVec.ofNat 64 (a.toNat * b.toNat / 2 ^ 64)

/-- Destination and value of a computation. -/
def intResult (c : CoreP) : IntOp → BitVec 5 × Word
  | .lui rd imm => (rd, (imm ++ 0#12).signExtend 64)
  | .auipc rd imm => (rd, BitVec.ofNat 64 c.pc + (imm ++ 0#12).signExtend 64)
  | .opImm f3 rd rs1 imm =>
    -- a shift takes imm[5:0], and imm[10] selects SRAI
    let alt := decide (f3 = 5) && imm.getLsbD 10
    (rd, alu f3 alt (c.xr rs1.toNat) (if f3 = 1 ∨ f3 = 5 then (imm.setWidth 6).setWidth 64 else imm.signExtend 64))
  | .opImm32 f3 rd rs1 imm =>
    let alt := decide (f3 = 5) && imm.getLsbD 10
    (rd, aluW f3 alt (c.xr rs1.toNat) (imm.signExtend 64))
  | .op f7 f3 rd rs1 rs2 =>
    (rd, if f7 = 1 then mulWord f3 (c.xr rs1.toNat) (c.xr rs2.toNat)
      else alu f3 (decide (f7 = 0x20)) (c.xr rs1.toNat) (c.xr rs2.toNat))
  | .op32 f7 f3 rd rs1 rs2 =>
    (rd, if f7 = 1 then sextW (c.xr rs1.toNat * c.xr rs2.toNat)
      else aluW f3 (decide (f7 = 0x20)) (c.xr rs1.toNat) (c.xr rs2.toNat))

/-- PORTABLE_INTEGER_OP. -/
def execPortableIntegerOp (op : IntOp) (s : State) : Host.Outcome State Fault Refusal :=
  baseOp s (fun g c => s.doneX g (intResult c op).1.toNat (intResult c op).2)

/-! ### Jumps and branches -/

/-- Condition of a branch by funct3. -/
def branchTaken (f3 : BitVec 3) (a b : Word) : Bool :=
  match f3.toNat with
  | 0 => decide (a = b)
  | 1 => decide (a ≠ b)
  | 4 => decide (a.toInt < b.toInt)
  | 5 => decide (b.toInt ≤ a.toInt)
  | 6 => decide (a.toNat < b.toNat)
  | _ => decide (b.toNat ≤ a.toNat)

/-- An offset in units of two bytes. -/
def halfOff {n : Nat} (imm : BitVec n) : Word := imm.signExtend 64 <<< 1

/-- Where a jump or branch goes (none: not taken), and its link register (0: none). -/
def jumpTarget (c : CoreP) : JumpOp → Option Word × Nat
  | .jal rd imm => (some (BitVec.ofNat 64 c.pc + halfOff imm), rd.toNat)
  | .jalr rd rs1 imm => (some ((c.xr rs1.toNat + imm.signExtend 64) &&& ~~~(1 : Word)), rd.toNat)
  | .branch f3 rs1 rs2 imm =>
    (if branchTaken f3 (c.xr rs1.toNat) (c.xr rs2.toNat) then some (BitVec.ofNat 64 c.pc + halfOff imm) else none, 0)

/-- PORTABLE_BRANCH_JUMP: a taken target with bits [1:0] not zero traps as cause 0x0A. -/
def execPortableBranchJump (j : JumpOp) (s : State) : Host.Outcome State Fault Refusal :=
  baseOp s (fun g c =>
    match jumpTarget c j with
    | (none, _) => s.advance g
    | (some t, rd) =>
      if t.toNat % 4 ≠ 0 then s.trapP g 0x0A (t.toNat % 2 ^ 32)
      else (s.modP g (fun x => x.setX rd (BitVec.ofNat 64 c.pc + 4))).goTo g t.toNat)

/-! ### Zicsr (R387) -/

/-- A CSR's value. -/
def State.csrRead (s : State) (g : Nat) (n : Nat) : Word :=
  let c := s.coreP g
  let r := c.cont.getD Rec.zero
  match n with
  | 0x800 => c.flg.setWidth 64
  | 0x801 => c.tiles.mst.setWidth 64
  | 0x802 => c.tiles.agv.setWidth 64
  | 0x803 => c.tiles.agc.setWidth 64
  | 0xCC0 => coordOf g
  | 0xCC1 => BitVec.ofNat 64 r.stage
  | 0xCC2 => BitVec.ofNat 64 (r.tw <<< 4)
  | 0xCC3 => BitVec.ofNat 64 r.asid
  | 0xCC4 => c.retired
  | 0xCC5 => (s.die (dieOf g)).step.setWidth 64
  | 0xCC6 => BitVec.ofNat 64 ((min 0xFFFF (s.die (dieOf g)).draws.length <<< 16) + c.drawn.toNat)
  | _ => 0

/-- Write a CSR; bits that lie in no field are ignored, as R317 gives for the native registers. -/
def CoreP.csrWrite (c : CoreP) (n : Nat) (w : Word) : CoreP :=
  match n with
  | 0x800 => { c with flg := w.setWidth 7 }
  | 0x801 => { c with tiles := { c.tiles with mst := w.setWidth 8 &&& 0xF3 } }
  | 0x802 => { c with tiles := { c.tiles with agv := w.setWidth 32 } }
  | 0x803 => { c with tiles := { c.tiles with agc := w.setWidth 16 } }
  | _ => c

/-- CSR_ACCESS: CSRRW, CSRRS, CSRRC and their immediate forms. Another number, or a write to a read-only CSR, is an illegal
instruction; CSRRS and CSRRC with a zero source field write nothing. -/
def execCsrAccess (csr : BitVec 12) (f3 : BitVec 3) (rd src : BitVec 5) (s : State) : Host.Outcome State Fault Refusal :=
  baseOp s (fun g c =>
    if csrLegal csr f3 src = false then s.trapP g 0x01 0
    else
      let old := s.csrRead g csr.toNat
      let v := if f3.toNat < 4 then c.xr src.toNat else src.setWidth 64
      let c' := match f3.toNat % 4 with
        | 1 => c.csrWrite csr.toNat v
        | 2 => if src = 0 then c else c.csrWrite csr.toNat (old ||| v)
        | _ => if src = 0 then c else c.csrWrite csr.toNat (old &&& ~~~v)
      (s.setP g (c'.setX rd.toNat old)).advance g)

end Sys2Proof.Machine
end

