-- ==== Sys2Proof/Machine/Start.lean ====
section
/-! DEFINITION. DISPATCH, RESUME and the saved context (R93, R94, R106, R129, R171, R172, R174, R227, R231 to R234, R386,
R406). -/

namespace Sys2Proof.Machine

/-! ### Fresh cores (R171, R172, R386) -/

/-- A gear S or gear M core at dispatch (R386). -/
def CoreP.dispatched (c : CoreP) (r : Rec) (t addr now : Nat) : CoreP :=
  let x := [(10, r.arg0), (11, r.arg1), (12, r.arg2), (13, r.arg3), (14, BitVec.ofNat 64 r.key), (15, BitVec.ofNat 64 r.carry)]
  { CoreP.reset with
    run := .running, cont := some r, task := some t, pc := addr, x := ⟨x, none⟩, lines := c.lines, arrived := true, issAt := now }

/-- Address of the first instruction on a core (R262, R401). -/
def State.entryAddr (s : State) (r : Rec) (g : Nat) : Option Nat :=
  (s.entry r).bind (fun e => if isGearC g then Tab.find e.pub (dieOf g) else some e.code)

/-- Does core g run the portable list of a record, or its translation (R385, R402)? -/
def State.translated (s : State) (r : Rec) (g : Nat) : Bool :=
  !isGearC g || ((s.entry r).bind (fun e => Tab.find e.recs (dieOf g))).isSome

/-- Acquires before the first instruction (R93, R129, R406): the waited packets, and at device scope with CV. -/
def State.startAcquire (s : State) (g : Nat) (r : Rec) (acq : Option Nat) : State :=
  let s := match acq with
    | some n => s.acquireTo g r.wch n
    | none => s
  if r.cv then s.observe g 3 else s

/-- Deliver a pending copy fault at the dispatch (R227): a hard stop at the entry, before any move. -/
def State.dispatchFault (s : State) (g : Nat) (r : Rec) (acq : Option Nat) : State :=
  match acq with
  | none => s
  | some n => match s.coveredFault r.asid r.wch n with
    | none => s
    | some f =>
      let s := s.modChan r.wch (fun c => { c with pending := false })
      if isGearC g then
        s.requestStop (s.leader g) ⟨0, (s.coreC g).fetch, causeWord true 0 0x20 (faultDetail r.wch f), none, none⟩
      else s.stopP g (causeWord true 0 0x20 (faultDetail r.wch f))

/-- Dispatch record t to a list of cores (R94, R110, R129). -/
def State.launchOn (s1 : State) (tid : Nat) (t : Task) (grp : List Nat) : State :=
  let g := grp.headD 0
  match s1.entryAddr t.r g with
  | none => s1
  | some addr =>
    -- the local buffer, on gear C the scratchpad of a translated entry, holds unknown bytes but for the carry image (R385, R386)
    let s := if s1.translated t.r g then grp.foldl State.losePad s1 else s1
    let s0 := if t.r.cv then s.carryIn (dieOf g) t.r grp else some s
    match s0 with
    | none => s1
    | some s =>
      let n := s.fresh
      let s := if isGearC g then
          grp.foldl (fun s m => s.modC m (fun c => c.dispatched (n + 6 * (m - g)) t.r tid t.fw grp (m - g) addr s.now))
            { s with fresh := n + 6 * grp.length }
        else s.modP g (fun c => c.dispatched t.r tid addr s.now)
      let s := s.setTask tid { t with st := .running, prio := t.eff s.now, start := s.now, disp := s.nextDisp, asked := false }
      let s := grp.foldl (fun s m => s.startAcquire m t.r t.acq) s
      ((s.dispatchFault g t.r t.acq).countPart t.r.asid 0x0501).endGather t.part

/-- DISPATCH (R106, R93): partition p picks a record for its free core g. -/
def execDispatch (p g : Nat) (s : State) : Host.Outcome State Fault Refusal :=
  let r := s.pick p g
  match r.1 with
  | none => .next s
  | some (tid, t) =>
    if t.ctx.isSome then .next s
    else match s.coresFor p g t with
      | none => .next s
      | some grp => .next (r.2.launchOn tid t grp)

/-! ### Contexts -/

/-- Bytes of a core's scratchpad or local buffer, by offset, within the live ranges rounded up to 4 KiB; all of it with
none declared (R232, R234). -/
def State.padOf (s : State) (g : Nat) (live : List (Nat × Nat)) : Memory :=
  let lo := locCore g 0
  let keep := fun o => live = [] || live.any (fun r => decide (r.1 / 4096 * 4096 ≤ o ∧ o < (r.1 + r.2 + 4095) / 4096 * 4096))
  ((s.mem.filter (fun c => decide (lo ≤ c.1 ∧ c.1 < lo + 0x80000) && keep (c.1 - lo)))).map (fun c => (c.1 - lo, c.2))

/-- Write a saved scratchpad back: listed bytes, and zero where the saved ranges list nothing. -/
def State.padIn (s : State) (g : Nat) (live : List (Nat × Nat)) (m : Memory) : State :=
  let lo := locCore g 0
  let s := (s.padOf g live).foldl (fun s c => s.write (lo + c.1) 0 1) s
  m.foldl (fun s c => s.write (lo + c.1) c.2.toNat 1) s

def State.liveOf (s : State) (r : Rec) : List (Nat × Nat) := ((s.entry r).map Entry.live).getD []

/-- Mark of the SAE entries of lane `i` of a saved context (R375). -/
def saeMark (tid i : Nat) : Nat := 2 ^ 20 + 16 * tid + i

/-- The owner that no core and no saved context is. -/
def saeNobody : Nat := 2 ^ 40

/-- Operations that a continuation has enqueued and that outlive it are applied for nobody, and fill no entry (R375, R376). -/
def State.orphanSae (s : State) (hit : Nat → Bool) : State :=
  { s with clus := s.clus.map (fun p => (p.1, { p.2 with
      queue := p.2.queue.map (fun t => if hit t.core then { t with core := saeNobody, ret := false } else t)
      results := p.2.results.filter (fun r => !hit r.1) })) }

/-- SAE entries and queued operations of one owner, in every cluster, pass to another mark (R375). -/
def State.retagSae (s : State) (old new : Nat) : State :=
  { s with clus := s.clus.map (fun p => (p.1, { p.2 with
      queue := p.2.queue.map (fun t => if t.core = old then { t with core := new } else t)
      results := p.2.results.map (fun r => if r.1 = old then (new, r.2) else r) })) }

/-- The context of a stopped continuation (R232, R234); SAE entries of any of its cores tie it to the clusters it stands in, of which it
keeps the first (R375). -/
def State.context (s : State) (g : Nat) : Ctx :=
  if isGearC g then
    let grp := s.groupOf g
    let live := s.liveOf ((s.coreC g).cont.getD Rec.zero)
    let tied := grp.any (fun m => (s.cluster (clusterOf m)).results.any (fun r => decide (r.1 = m)))
    { cores := grp.map s.coreC, pcore := none, pads := grp.map (fun m => s.padOf m live), step := (s.die (dieOf g)).step
      clus := if tied then some (clusterOf (grp.headD g)) else none, area := (0, 0) }
  else
    { cores := [], pcore := some (s.coreP g), pads := [s.padOf g (s.liveOf ((s.coreP g).cont.getD Rec.zero))]
      step := (s.die (dieOf g)).step, clus := none, area := (0, 0) }

/-- Put a core's slots and results back as R174 says, at clock `clk`, which the members of a tandem share (R152): each slot stands at its
next bundle, snapshots land REM cycles after the resume, results that had no landing yet keep their distance. -/
def CoreC.resumed (c : CoreC) (clk now : Nat) : CoreC :=
  let f6 := ((c.slot 6).frz).getD c.clk
  let z := c.snaps.map (fun x => Infl.mk x.unit (clk + x.rem - 1) 0 x.val 0 true x.hb)
  { c with
    clk := clk, run := .running, stop := none, mine := none, soft := none, shift := false, snaps := [], infl := c.infl ++ z
    phase := .start, todo := [], cur := none, ctl := none
    -- the time spent stopped does not count for the watchdog (R229)
    issAt := now - c.stall, eng := { c.eng with quiet := false, woken := false }, tick := (c.eng.tickClass, false)
    tickOf := c.eng.tickCmd.map (fun m => (m.cad, m.addr))
    fbase := clk + (c.fbase - f6), win := c.win.map (fun b => { b with base := clk + (b.base - f6) })
    slots := c.slots.map (fun q =>
      let f := q.frz.getD c.clk
      { q with frz := none, avail := clk + (q.avail - f), div := clk + (q.div - f) }) }

/-- The clock at which a tandem goes on: the furthest that any member has come. -/
def sharedClk (l : List CoreC) : Nat := l.foldl (fun m c => max m c.clk) 0

/-- A saved context comes onto the engine of a core: how long that has had no command is the engine's own, and the commands that come with
the context, a sequence that goes on among them, are its first ones after a gap (R36). -/
def CoreC.onEngine (c : CoreC) (e : Engine) (now : Nat) : CoreC :=
  { c with eng := { c.eng with
      idle := e.idle, asleep := e.asleep || e.gap now, since := if e.gap now && !c.eng.fifo.isEmpty then now else e.since } }

/-- A shift request that was pending at a stop is raised again at the resume, where R126 still applies (R133). -/
def State.shiftAgain (s : State) (g : Nat) (was : Bool) : State := if was && s.wouldShift g then s.askShift g else s

/-- Resume a context on the cores of a list (R174, R233, R234); R109's `most recently dispatched` counts it as a dispatch (log 88). -/
def State.resumeOn (s : State) (tid : Nat) (t : Task) (x : Ctx) (grp : List Nat) : State :=
  let g := grp.headD 0
  let live := s.liveOf t.r
  let s := match x.pcore with
    | some c =>
      let lines := (s.coreP g).lines
      (s.modP g (fun _ => { c with run := .running, stop := none, soft := none, shift := false, issAt := s.now - c.stall, again := false, lines := lines })).padIn g live (x.pads.headD [])
    | none => ((grp.zip (List.range grp.length)).zip (x.cores.zip x.pads)).foldl (fun (s : State) (e : (Nat × Nat) × CoreC × Memory) =>
        let m := e.1.1
        let l1 := (s.coreC m).l1
        let grp' := if grp.length = 1 then [] else grp
        let c := e.2.1.onEngine (s.coreC m).eng s.now |>.resumed (sharedClk x.cores) s.now
        ((s.modC m (fun _ => { c with lead := g, group := grp', l1 := l1 })).padIn m live e.2.2).retagSae (saeMark tid e.1.2) m) s
  let s := s.setTask tid { t with st := .running, prio := t.eff s.now, start := s.now, disp := s.nextDisp, ctx := none }
  (s.shiftAgain g (x.cores.any CoreC.shift || x.pcore.any CoreP.shift)).endGather t.part

/-- RESUME (R174, R233, R234): the pick of partition p is a saved context. -/
def execResume (p g : Nat) (s : State) : Host.Outcome State Fault Refusal :=
  let r := s.pick p g
  match r.1 with
  | none => .next s
  | some (tid, t) => match t.ctx with
    | none => .next s
    | some x => match s.coresFor p g t with
      | none => .next s
      | some grp => .next (r.2.resumeOn tid t x grp)

end Sys2Proof.Machine
end

