-- ==== Sys2Proof/Machine/Image.lean ====
section
/-! DEFINITION. The layout of a context: the core part and its variable parts, written to a save area, a dump or an image, and
read back from an image (R173, R193, R195, R231, R232, R234, R235, R241, R242). -/

namespace Sys2Proof.Machine

/-! ### Items

The fields whose place R232 and R234 give are written and read; the order of elements in a part and the interiors of the header, of
a handshake entry, of the staged slices and of the block at 0x49C0 are the model's (log 47). -/

/-- Items of a context: offset, bytes, value. -/
abbrev Items := List (Nat × Nat × Nat)

def tvalItems (o : Nat) (l : List TVal) : Items :=
  (l.zip (List.range l.length)).map (fun x => (o + 128 * x.2, 128, x.1.bits.toNat))
def tagItems (o : Nat) (l : List TVal) : Items :=
  (l.zip (List.range l.length)).map (fun x => (o + x.2, 1, x.1.tag.toNat))
def wordItems (o : Nat) (l : List Word) : Items :=
  (l.zip (List.range l.length)).map (fun x => (o + 8 * x.2, 8, x.1.toNat))
def halfItems (o : Nat) (l : List (BitVec 16)) : Items :=
  (l.zip (List.range l.length)).map (fun x => (o + 2 * x.2, 2, x.1.toNat))

def State.putItems (s : State) (a : Nat) (l : Items) : State := l.foldl (fun s x => s.write (a + x.1) x.2.2 x.2.1) s

/-! ### Variable parts -/

/-- An item for every element of a tile. -/
def eachElem (f : Nat → Nat → Nat × Nat × Nat) : Items :=
  (List.range 96).flatMap (fun r => (List.range 160).map (f r))

/-- The banks: FP32 codes row by row. -/
def bankItems (t : Tiles) (o : Nat) : Items :=
  (List.range 4).flatMap (fun i => eachElem (fun r c => (o + 61440 * i + 640 * r + 4 * c, 4, (t.elem i r c).v.toNat)))

/-- The two count planes of pair q. -/
def planeItems (t : Tiles) (q o : Nat) : Items :=
  (List.range 2).flatMap (fun h => eachElem (fun r c =>
    (o + 30720 * h + 320 * r + 2 * c, 2, (t.elem (2 * q + h) r c).cnt.toNat)))

/-- An open block in normal class: its partial sums, in 32 bits each. -/
def blockItems (t : Tiles) (i o : Nat) : Items :=
  eachElem (fun r c => (o + 640 * r + 4 * c, 4, (BitVec.ofInt 32 (t.elem i r c).part).toNat))

/-- An open block of a pair in split class: per element pos, cp, neg and cn in 24, 8, 24 and 8 bits. -/
def pairItems (t : Tiles) (q o : Nat) : Items :=
  eachElem (fun r c =>
    let e := t.elem (2 * q) r c
    (o + 1280 * r + 8 * c, 8, e.pos % 2 ^ 24 + (e.cp % 2 ^ 8) <<< 24 + (e.neg % 2 ^ 24) <<< 32 + (e.cn % 2 ^ 8) <<< 56))

/-- A variable part: its flag in the header, its bytes, its items from an offset. -/
structure VarPart where
  flag  : Nat
  bytes : Nat
  items : Nat → Items

/-- The parts of four banks or tiles that are present: all that their classes have in an image (`full`), else those that R232 and R234
name. -/
def Tiles.parts (t : Tiles) (full : Bool) : List VarPart :=
  ⟨0, 0x3C000, bankItems t⟩ ::
  (List.range 2).filterMap (fun q => if full || t.split q then some ⟨1 + q, 0xF000, planeItems t q⟩ else none) ++
  (List.range 2).flatMap (fun q =>
    if t.split q then (if full || (t.bank (2 * q)).fmt.isSome then [⟨7 + q, 0x1E000, pairItems t q⟩] else [])
    else [2 * q, 2 * q + 1].filterMap (fun i => if full || (t.bank i).fmt.isSome then some ⟨3 + i, 0xF000, blockItems t i⟩ else none))

/-- Parts one after another from an offset: their items and the end. -/
def layParts : List VarPart → Nat → Items × Nat
  | [], o => ([], o)
  | p :: t, o => let r := layParts t (o + p.bytes); (p.items o ++ r.1, r.2)

/-- Pages of 4 KiB of the scratchpad or local buffer that are saved: those of the live ranges, all with none declared. -/
def padPages (live : List (Nat × Nat)) : List Nat :=
  (List.range 128).filter (fun p => live.isEmpty || live.any (fun r =>
    decide (r.1 / 4096 ≤ p ∧ p < (r.1 + r.2 + 4095) / 4096)))

/-- The part flags of the header. -/
def partFlags (l : List VarPart) : Nat := l.foldl (fun m p => m ||| 1 <<< p.flag) 0

/-! ### The core part of gear C (R232) -/

def imagePartC : Nat := 0x5000
def imagePartP : Nat := 0x2000

def hdrCause (w : Word) : Nat := causeCode w + causeSlot w <<< 8

/-- Latches, vectors and ports of a core in number order. -/
def CoreC.latches (c : CoreC) (second : Bool) : List TVal :=
  (List.range 16).map (fun n => if second then readLatch c.l2 2 n else readLatch c.l 1 n)
/-- In a handler, the ports that R176 saved. -/
def CoreC.allPorts (c : CoreC) : List TVal :=
  (List.range 32).map (fun i => if c.inH then c.psave.get ⟨0, 0⟩ freeTVal i else c.port (i / 4) (i % 4))

/-- A snapshot register as 136 bytes (R173). -/
def Snap.word (x : Snap) : Nat :=
  x.val.bits.toNat + (x.val.tag.toNat <<< 1064) + (x.unit <<< 1069) + (x.rem <<< 1072) + (1 <<< 1087)

/-- Codes of the engine's operations in an image. -/
def MeOp.code : MeOp → Nat
  | .pa => 0 | .pb => 1 | .acc => 2 | .sh => 3 | .dr => 4 | .clr => 5 | .cls => 6 | .thr => 7 | .seq => 8
def MeOp.ofCode : Nat → MeOp
  | 0 => .pa | 1 => .pb | 2 => .acc | 3 => .sh | 4 => .dr | 5 => .clr | 6 => .cls | 7 => .thr | _ => .seq

/-- Flags of an entry of the handshake FIFO, with bit 63 set. -/
def Cmd.flags (c : Cmd) : Nat :=
  c.op.code + c.k.toNat <<< 4 + c.tok.toNat <<< 5 + c.hb.toNat <<< 6 +
  (match c.bank with | some b => 1 <<< 7 + (b % 4) <<< 8 | none => 0) +
  (match c.regs with | some r => 1 <<< 10 + r.tag.toNat <<< 11 + r.rows.length <<< 16 | none => 0) + 1 <<< 63

/-- An entry of 512 bytes: trigger, captured ports, flags, address, cadence, captured registers. -/
def Cmd.items (c : Cmd) (o : Nat) : Items :=
  wordItems o [c.t, c.pa, c.pb, c.pc, c.pd, BitVec.ofNat 64 c.flags, BitVec.ofNat 64 c.addr, c.cad] ++
  halfItems (o + 64) ((c.regs.map Slice.rows).getD [])

/-- Commands in the FIFO at a stop, a running sequence at its head (R193). -/
def Engine.queued (e : Engine) : List Cmd := e.cur.toList ++ e.fifo

/-- The staged slices: A's rows and scales, then B's. -/
def Engine.stagedItems (e : Engine) (o : Nat) : Items :=
  let f := fun (x : Option Slice) (p n : Nat) => match x with
    | some sl => halfItems p (sl.rows.take n) ++ halfItems (p + 2 * n) (sl.scales.take n)
    | none => []
  f e.a o 96 ++ f e.b (o + 384) 160

/-- Word 0 of the block at 0x49C0: classes, staged formats, the sequence's flags, the interrupt queue's overflow and length. -/
def CoreC.seqWord (c : CoreC) : Nat :=
  let e := c.eng
  let st := fun (x : Option Slice) => match x with | some sl => 1 + sl.tag.toNat <<< 1 | none => 0
  e.tiles.split0.toNat + e.tiles.split1.toNat <<< 1 + st e.a <<< 2 + st e.b <<< 8 +
  (match e.seq with | some q => 1 + q.drain.toNat <<< 1 + q.quit.toNat <<< 2 + q.ph <<< 3 | none => 0) <<< 14 +
  c.uovf.toNat <<< 19 + c.uq.length <<< 20

/-- The open blocks' formats and element counts, 16 bits a bank. -/
def Tiles.openWord (t : Tiles) : Nat :=
  (List.range 4).foldl (fun m i =>
    let b := t.bank i
    m + (match b.fmt with | some f => b.n % 256 + f.toNat <<< 8 + 1 <<< 15 | none => 0) <<< (16 * i)) 0

/-- The block at 0x49C0: classes, the sequencer's position, the open blocks, the five oldest pending interrupts. The captured
descriptors of a sequence are those of its entry at the FIFO's head. -/
def CoreC.seqItems (c : CoreC) (o : Nat) : Items :=
  let q := c.eng.seq.getD ⟨0, 0, 0, false, false, 0⟩
  wordItems o ([BitVec.ofNat 64 c.seqWord, BitVec.ofNat 64 (q.j + q.row <<< 20 + q.cg <<< 32), BitVec.ofNat 64 c.eng.tiles.openWord] ++ c.uq.take 5)

/-- The core part of a gear C core, with its part flags and its saved scratchpad bytes. -/
def State.itemsC (s : State) (g flags pad : Nat) : Items :=
  let c := s.coreC g
  let fifo := c.eng.queued.take 4
  [(0, imagePartC, 0), (0, 64, ofWords (c.cont.getD Rec.zero).words)] ++
  wordItems 0x40 [BitVec.ofNat 64 (hdrCause c.cause + flags <<< 16 + c.inH.toNat <<< 32), BitVec.ofNat 64 pad,
    BitVec.ofNat 64 ((s.die (dieOf g)).step.toNat + g <<< 16 + c.lane <<< 32)] ++
  wordItems 0x80 ((List.range 0x25).map (fun n => (s.kreg g (s.loopOf g) n).getD 0)) ++
  wordItems 0x200 ((List.range 64).map c.regG) ++ wordItems 0x400 ((List.range 16).map c.regO) ++
  (List.range 8).map (fun n => (0x480 + n, 1, (c.pred n).toNat)) ++
  tagItems 0x488 ((List.range 32).map c.regV ++ c.latches false ++ c.latches true) ++
  tvalItems 0x500 (c.latches false) ++ tvalItems 0xD00 (c.latches true) ++
  wordItems 0x1500 ((List.range 8).map c.regH) ++ tvalItems 0x1540 c.allPorts ++
  tvalItems 0x2540 ((List.range 32).map c.regV) ++
  (List.range 16).map (fun i => (0x3540 + 136 * i, 136, match c.snaps[i]? with | some x => x.word | none => 0)) ++
  (fifo.zip (List.range 4)).flatMap (fun x => x.1.items (0x3DC0 + 512 * x.2)) ++
  c.eng.stagedItems 0x45C0 ++ c.seqItems 0x49C0

/-! ### The core part of gears S and M (R234) -/

/-- The gear S or gear M core part. The held instruction that a stop abandoned is named by its address, with bit 63 set. -/
def State.itemsP (s : State) (g flags pad : Nat) : Items :=
  let c := s.coreP g
  let q := (List.range 32).map c.qr
  [(0, imagePartP, 0), (0, 64, ofWords (c.cont.getD Rec.zero).words)] ++
  wordItems 0x40 [BitVec.ofNat 64 (causeCode c.cause + flags <<< 16), BitVec.ofNat 64 pad,
    BitVec.ofNat 64 (bitsOf (coordOf g) 16 2 + (bitsOf (coordOf g) 0 8) <<< 8 + (s.die (dieOf g)).step.toNat <<< 16),
    BitVec.ofNat 64 (match c.mmac with | some m => m.next + m.tile <<< 16 + m.nk <<< 32 + 1 <<< 63 | none => 0),
    BitVec.ofNat 64 (c.tiles.split0.toNat + c.tiles.split1.toNat <<< 1), BitVec.ofNat 64 c.tiles.openWord] ++
  wordItems 0x80 (BitVec.ofNat 64 c.pc :: (List.range 32).map c.xr) ++
  wordItems 0x188 [c.flg.setWidth 64, c.tiles.mst.setWidth 64, c.tiles.agv.setWidth 64, c.tiles.agc.setWidth 64] ++
  tagItems 0x1A8 q ++
  wordItems 0x1C8 [if c.again then BitVec.ofNat 64 (c.pc + 1 <<< 63) else 0] ++ tvalItems 0x200 q

/-! ### Writing a context -/

/-- Bytes of core g's context, with every part its classes have (`full`) or those present. -/
def State.contextBytes (s : State) (full : Bool) (g : Nat) : Nat :=
  let c := isGearC g
  let t := if c then (s.coreC g).eng.tiles else (s.coreP g).tiles
  let r := ((if c then (s.coreC g).cont else (s.coreP g).cont).getD Rec.zero)
  (layParts (t.parts full) (if c then imagePartC else imagePartP)).2 + 4096 * (padPages (if full then [] else s.liveOf r)).length

/-- Write core g's context from location a, with every part its classes have (`full`) or those present: the state and the bytes
written. -/
def State.contextOut (s : State) (full : Bool) (g a : Nat) : State × Nat :=
  let c := isGearC g
  let t := if c then (s.coreC g).eng.tiles else (s.coreP g).tiles
  let r := ((if c then (s.coreC g).cont else (s.coreP g).cont).getD Rec.zero)
  let pages := padPages (if full then [] else s.liveOf r)
  let parts := t.parts full
  let pad := 4096 * pages.length
  let items := if c then s.itemsC g (partFlags parts) pad else s.itemsP g (partFlags parts) pad
  let v := layParts parts (if c then imagePartC else imagePartP)
  let s := s.putItems a (items ++ v.1)
  ((pages.zip (List.range pages.length)).foldl (fun (s : State) (x : Nat × Nat) =>
    s.write (a + v.2 + 4096 * x.2) (s.read (locCore g (4096 * x.1)) 4096) 4096) s, v.2 + pad)

/-- The contexts of several cores one after another. -/
def State.contextsOut (s : State) (full : Bool) : List Nat → Nat → State × Nat
  | [], a => (s, a)
  | g :: l, a => let x := s.contextOut full g a; x.1.contextsOut full l (a + x.2)

/-- Where firmware keeps n bytes of a context in chunks local to a die (R69, R231): at the lowest free place, else in chunks that it makes
present, the lowest that are absent and free; nowhere where the die has no backing left. R69 gives no addresses (log 36). -/
def State.saveRoom (s : State) (d n : Nat) : Option Nat × State :=
  match (s.localPages d).find? (fun pa => s.localFree d (pa, n)) with
  | some pa => (some pa, s)
  | none =>
    let k := (n + 2 ^ 21 - 1) / 2 ^ 21
    let new := fun (c : Nat) => decide (c + k ≤ 2 ^ 18 ∧ 4 * k ≤ s.room d) &&
      (List.range k).all (fun i => !homePresent (Tab.get 0 s.home (c + i))) && s.dataFree (2 ^ 21 * c, 2 ^ 21 * k)
    match (s.home.map (fun c => c.1 + 1)).find? new with
    | some c => (some (2 ^ 21 * c), { s with home := (List.range k).foldl (fun t i => Tab.put t (c + i) (BitVec.ofNat 4 (12 + d))) s.home })
    | none => (none, s)

/-! ### Reading an image back (R241, R242) -/

/-- Bytes of one core's image. -/
def imagePad (part : Nat) : Nat := part + 0x3C000 + 0x1E000 + 0x3C000
def imageSize (part : Nat) : Nat := imagePad part + 0x80000

/-- Words of an image. -/
def State.imgWord (s : State) (a : Nat) : Word := BitVec.ofNat 64 (s.read a 8)
def State.imgTVal (s : State) (a tag : Nat) : TVal := ⟨BitVec.ofNat 1024 (s.read a 128), BitVec.ofNat 5 (s.read tag 1)⟩
def State.imgHalves (s : State) (a n : Nat) : List (BitVec 16) := (List.range n).map (fun i => BitVec.ofNat 16 (s.read (a + 2 * i) 2))

/-- A file whose n registers are read from an image. -/
def fileOf {α : Type} (n : Nat) (f : Nat → α) : File α := ⟨(List.range n).map (fun i => (i, f i)), none⟩

/-- The banks or tiles of an image whose variable parts begin at a, with the classes and the open blocks' word. -/
def State.tilesIn (s : State) (a : Nat) (cls ob : Word) (t : Tiles) : Tiles :=
  let t := { t with split0 := cls.getLsbD 0, split1 := cls.getLsbD 1 }
  let opened := fun i => (List.range 4).any (fun k => decide (k = i) && ob.getLsbD (16 * k + 15))
  { t with banks := (List.range 4).map (fun i =>
      let q := i / 2
      let blk := a + 0x3C000 + 0x1E000 + 0x1E000 * q
      let pair := fun r c => s.read (blk + 1280 * r + 8 * c) 8
      { rows := mkRows (fun r c =>
          { v := BitVec.ofNat 32 (s.read (a + 61440 * i + 640 * r + 4 * c) 4)
            cnt := BitVec.ofNat 16 (s.read (a + 0x3C000 + 30720 * i + 320 * r + 2 * c) 2)
            part := if t.split q || !opened i then 0 else toSigned 32 (s.read (blk + 0xF000 * (i % 2) + 640 * r + 4 * c) 4)
            pos := if t.split q && i % 2 = 0 then pair r c % 2 ^ 24 else 0
            cp := if t.split q && i % 2 = 0 then (pair r c >>> 24) % 2 ^ 8 else 0
            neg := if t.split q && i % 2 = 0 then (pair r c >>> 32) % 2 ^ 24 else 0
            cn := if t.split q && i % 2 = 0 then (pair r c >>> 56) % 2 ^ 8 else 0 })
        unk := none
        n := bitsOf ob (16 * i) 8
        fmt := if opened i then some (BitVec.ofNat 5 (bitsOf ob (16 * i + 8) 5)) else none }) }

/-- An entry of the handshake FIFO, where it is valid. -/
def State.cmdIn (s : State) (a : Nat) : Option Cmd :=
  let w := fun n => s.imgWord (a + 8 * n)
  let f := w 5
  if f.getLsbD 63 then
    some { op := MeOp.ofCode (bitsOf f 0 4), t := w 0, pa := w 1, pb := w 2, pc := w 3, pd := w 4
           regs := if f.getLsbD 10 then some ⟨BitVec.ofNat 5 (bitsOf f 11 5), s.imgHalves (a + 64) (bitsOf f 16 16), []⟩ else none
           bank := if f.getLsbD 7 then some (bitsOf f 8 2) else none
           k := f.getLsbD 4, tok := f.getLsbD 5, addr := (w 6).toNat, cad := w 7, hb := f.getLsbD 6 }
  else none

/-- A staged slice, whose word holds its presence and format from bit `b`. -/
def State.sliceIn (s : State) (a n : Nat) (w : Word) (b : Nat) : Option Slice :=
  let tag := BitVec.ofNat 5 (bitsOf w (b + 1) 5)
  if w.getLsbD b then some ⟨tag, s.imgHalves a n, if isBni tag then s.imgHalves (a + 2 * n) n else []⟩ else none

/-- The engine of an image. -/
def State.engIn (s : State) (a : Nat) (e : Engine) : Engine :=
  let k := fun n => s.imgWord (a + 0x80 + 8 * n)
  let w := fun n => s.imgWord (a + 0x49C0 + 8 * n)
  let l := (List.range 4).filterMap (fun i => s.cmdIn (a + 0x3DC0 + 512 * i))
  let run := (w 0).getLsbD 14
  { e with
    -- a running sequence's command stands at the head of the FIFO (R193)
    cur := none, fifo := l
    seq := if run then some ⟨bitsOf (w 1) 0 20, bitsOf (w 1) 20 12, bitsOf (w 1) 32 12, (w 0).getLsbD 15, (w 0).getLsbD 16, bitsOf (w 0) 17 2⟩ else none
    a := s.sliceIn (a + 0x45C0) 96 (w 0) 2, b := s.sliceIn (a + 0x45C0 + 384) 160 (w 0) 8
    iss := bitsOf (k 0x06) 16 16, ret := bitsOf (k 0x06) 0 16
    tiles := { s.tilesIn (a + imagePartC) (w 0) (w 2) e.tiles with
      mst := (k 0x09).setWidth 8, agv := (k 0x0A).setWidth 32, agc := (k 0x0B).setWidth 16 } }

/-- Does the header of core g's image at a name this core (R241, R242)? -/
def State.imageFits (s : State) (g a : Nat) : Bool :=
  let h := s.imgWord (a + 0x50)
  if isGearC g then decide (h = BitVec.ofNat 64 ((s.die (dieOf g)).step.toNat + g <<< 16 + (s.coreC g).lane <<< 32))
  else decide (bitsOf h 0 16 = bitsOf (coordOf g) 16 2 + (bitsOf (coordOf g) 0 8) <<< 8)

/-- `k.loop` and `k.lcnt` as the loop engine's state (R167). -/
def LoopSt.ofWords (old : LoopSt) (w n : Word) : LoopSt :=
  { old with act := w.getLsbD 63, drn := w.getLsbD 62, susp := w.getLsbD 61, nst := bitsOf w 58 3, len := bitsOf w 50 8 + 1
             start := bitsOf w 0 50, n := bitsOf n 32 32, pass := bitsOf n 0 32 }

/-- A snapshot from its 136 bytes, where V is set; `hb` is what its register held beside them (R174). -/
def snapOf (x : Nat) (hb : Bool) : Option Snap :=
  if x.testBit 1087 then
    some ⟨(x >>> 1072) % 256, (x >>> 1069) % 8, ⟨BitVec.ofNat 1024 x, BitVec.ofNat 5 (x >>> 1064)⟩, hb⟩
  else none

/-- Slot k at bundle `n` again: a `tokw` that waits there in some member goes on waiting (R320), any other hold ends. -/
def SlotSeq.standAt (q : SlotSeq) (waits : Bool) (n : Nat) : SlotSeq :=
  let keep : Bool := match q.hold with | some h => decide (h.op = .tokw) && decide (h.idx = n) | none => false
  { q with next := if waits then n + 1 else n, hold := if keep then q.hold else none, kept := q.kept.filter (fun h => decide (h.idx = n)) }

/-- Read a gear C core's image back. -/
def State.imageInC (s : State) (g a : Nat) : State :=
  let c := s.coreC g
  let k := fun n => s.imgWord (a + 0x80 + 8 * n)
  let w0 := s.imgWord (a + 0x49C0)
  let tag := fun n => a + 0x488 + n
  let e := ((c.stop.map StopReq.idx).getD c.trailing)
  let moved := decide (k 0x14 ≠ c.epc)
  let at_ := fun (i : Nat) => ((e : Int) + toSigned 6 ((k 0x13).toNat >>> (6 * i))).toNat
  let waits := fun (i n : Nat) => (s.members (s.leader g)).any (fun m => match ((s.coreC m).slot i).hold with
    | some h => decide (h.op = .tokw) && decide (h.idx = n)
    | none => false)
  let ports := fileOf 32 (fun i =>
    ⟨BitVec.ofNat 1024 (s.read (a + 0x1540 + 128 * i) 128), (if c.inH then c.psave.get ⟨0, 0⟩ freeTVal i else c.port (i / 4) (i % 4)).tag⟩)
  let inH := (s.imgWord (a + 0x40)).getLsbD 32
  s.setC g { c with
    cont := some (Rec.ofWords (toWords (s.read a 64) 8))
    cad := k 0x04, col := (k 0x07).setWidth 9, flg := (k 0x08).setWidth 7, uivec := k 0x0C, uicause := k 0x0D, uiepc := k 0x0E
    drawn := (k 0x0F).setWidth 16, loop := c.loop.ofWords (k 0x10) (k 0x11), bank := (k 0x12).setWidth 8
    slip := k 0x13, epc := k 0x14, cause := k 0x15
    prof := (List.range 8).map (fun n => (n, k (0x18 + n)))
    g := fileOf 64 (fun n => s.imgWord (a + 0x200 + 8 * n)), o := fileOf 16 (fun n => s.imgWord (a + 0x400 + 8 * n))
    p := fileOf 8 (fun n => decide (s.read (a + 0x480 + n) 1 % 2 = 1))
    v := fileOf 32 (fun n => s.imgTVal (a + 0x2540 + 128 * n) (tag n))
    l := fileOf 16 (fun n => s.imgTVal (a + 0x500 + 128 * n) (tag (32 + n)))
    l2 := fileOf 16 (fun n => s.imgTVal (a + 0xD00 + 128 * n) (tag (48 + n)))
    h := fileOf 8 (fun n => s.imgWord (a + 0x1500 + 8 * n))
    ports := if inH then c.ports else ports
    psave := if inH then ports else c.psave
    inH := inH
    uovf := w0.getLsbD 19
    uq := (List.range (min 5 (bitsOf w0 20 8))).map (fun i => s.imgWord (a + 0x49C0 + 24 + 8 * i)) ++ c.uq.drop 5
    snaps := (List.range 16).filterMap (fun i =>
      snapOf (s.read (a + 0x3540 + 136 * i) 136) (match c.snaps[i]? with | some x => x.hb | none => inH))
    -- E and the offsets of the slots from it
    slots := (c.slots.zip (List.range 8)).map (fun x => x.1.standAt (waits x.2 (at_ x.2)) (at_ x.2))
    win := if moved then c.win.filter (fun b => b.idx < e) else c.win
    fetch := if moved then (k 0x14).toNat else c.fetch, fidx := if moved then e else c.fidx
    eng := s.engIn a c.eng }

/-- Read a gear S or gear M core's image back. -/
def State.imageInP (s : State) (g a : Nat) : State :=
  let c := s.coreP g
  let w := fun n => s.imgWord (a + 0x188 + 8 * n)
  let m := s.imgWord (a + 0x58)
  s.setP g { c with
    cont := some (Rec.ofWords (toWords (s.read a 64) 8)), pc := (s.imgWord (a + 0x80)).toNat
    x := fileOf 32 (fun n => s.imgWord (a + 0x88 + 8 * n)), flg := (w 0).setWidth 7
    q := fileOf 32 (fun n => s.imgTVal (a + 0x200 + 128 * n) (a + 0x1A8 + n))
    mmac := if m.getLsbD 63 then some ⟨bitsOf m 16 16, bitsOf m 0 16, bitsOf m 32 16⟩ else none
    again := (w 8).getLsbD 63
    tiles := { s.tilesIn (a + imagePartP) (s.imgWord (a + 0x60)) (s.imgWord (a + 0x68)) c.tiles with
      mst := (w 1).setWidth 8, agv := (w 2).setWidth 32, agc := (w 3).setWidth 16 } }

def State.imageIn (s : State) (g a : Nat) : State :=
  let part := if isGearC g then imagePartC else imagePartP
  let x := s.read (a + imagePad part) 0x80000
  (if isGearC g then s.imageInC g a else s.imageInP g a).write (locCore g 0) x 0x80000

end Sys2Proof.Machine
end

