-- ==== Sys2Proof/Machine/Stopping.lean ====
section
/-! DEFINITION. Taking a stop: snapshots, quiescence, cause and disposition; the chain of causes; watchdog, deadlines,
soft errors, breakpoints (R173, R195, R223 to R225, R228 to R231, R235 to R237, R244). -/

namespace Sys2Proof.Machine

/-! ### Debug blocks and words (R239, R240) -/

def State.block (s : State) (g : Nat) : Block := Tab.get Block.reset s.blocks g
def State.setBlock (s : State) (g : Nat) (b : Block) : State := { s with blocks := Tab.put s.blocks g b }
def State.modBlock (s : State) (g : Nat) (f : Block → Block) : State := s.setBlock g (f (s.block g))
def State.attached (s : State) (asid : Nat) : Bool := (Tab.get 0 s.dbg asid).getLsbD 0

/-! ### The engine at a stop (R195) -/

/-- The state that an event leaves. -/
def after (s : State) (o : Host.Outcome State Fault Refusal) : State :=
  match o with
  | .next s => s
  | _ => s

/-- The current step of a running sequence completes (R195); one that has been told to stop ends with it (R194). One that the limiter holds
is in no step (R36). -/
def State.settleSeq (s : State) (g : Nat) : State :=
  let e := (s.coreC g).eng
  match e.seq, e.fifo with
  | some q, c :: _ => if e.quiet || e.needsAdmit s.now then s else s.seqStep g c q
  | _, _ => s

/-- The command in flight completes, with its token and result; so do `me.sqs` whose turn has come. -/
def State.settleEngine (s : State) (g : Nat) : Nat → State
  | 0 => s
  | k + 1 =>
    let e := (s.coreC g).eng
    let go := after s
    match e.cur with
    | some c => (go (if c.tok then execTokenReturn g s else execCommandInFlightComplete g s)).settleEngine g k
    | none => match e.sqs with
      | ⟨0, _, some _, _, _⟩ :: _ => (go (execTokenReturn g s)).settleEngine g k
      | _ => s

/-! ### STOP (R173) -/

/-- Snapshots of one member: results not landed, in order of landing, ties by unit; the engine's that have returned land. -/
def CoreC.snapshot (c : CoreC) (frz : Nat → Nat) : CoreC :=
  let c := c.landMe
  let rem := fun (r : Infl) => r.land + 1 - frz r.unit
  let l := sortBy (fun a b => decide (a.land < b.land ∨ (a.land = b.land ∧ a.unit ≤ b.unit))) (c.infl.filter Infl.wr)
  let fl := c.infl.foldl (fun (f : Flags) r => f ||| r.fl) 0
  { c.raise fl with infl := [], snaps := l.map (fun r => ⟨rem r, r.unit, r.val, r.hb⟩) }

/-- OFFk as six bits, and `k.slip` (R173). -/
def slipWord (next : Nat → Nat) (e : Nat) : Word :=
  BitVec.ofNat 64 ((List.range 8).foldl (fun m k => m + ((next k + 64 - e) % 64) <<< (6 * k)) 0)

/-- The next bundle of slot k of a group: that of a `tokw` it stands at (R320), else the one it will issue next. -/
def State.standsAt (s : State) (lead k : Nat) : Nat :=
  match (s.members lead).findSome? (fun g => ((s.coreC g).slot k).hold) with
  | some h => if h.op = .tokw then h.idx else ((s.coreC lead).slot k).next
  | none => ((s.coreC lead).slot k).next

/-- The cause that a member records (R223): its own where it has one at E, that of a stop which no member raised, or 0x32. -/
def CoreC.ownStop (c : CoreC) (r : StopReq) : Word :=
  match c.mine with
  | some m => if m.1 = r.idx ∧ (r.who.isSome ∨ causeAsync m.2 = false) then m.2 else if r.who.isSome then causeWord true 0 0x32 0 else r.cause
  | none => if r.who.isSome then causeWord true 0 0x32 0 else r.cause

/-- Steps 3 to 6 of R173 on every member, with its cause (R223); read staging is discarded (R359). Each member keeps when its slots came
to stand, by the clock of the one that drives them (R174). -/
def State.standStill (s : State) (lead : Nat) (r : StopReq) : State :=
  let L := s.coreC lead
  let epc := L.addrOf r.idx
  let slip := slipWord (s.standsAt lead) r.idx
  (s.members lead).foldl (fun s g =>
    let frz := fun k => ((L.slot k).frz).getD L.clk
    let s := s.modC g (fun c => c.snapshot frz)
    let s := ((s.finishWindow g).settleSeq g).settleEngine g 300
    s.modC g (fun c => { c.landMe with
      slots := c.slots.mapIdx (fun k q => { q with frz := (L.slot k).frz })
      rst := [], run := .stopped, epc := BitVec.ofNat 64 epc, slip := slip, cause := if r.who = some g then r.cause else c.ownStop r
      mine := none, stall := s.now - L.issAt, eng := { c.eng with quiet := true, woken := false } })) s

/-- The record of the continuation on core g gets or loses HELD. -/
def State.markHeld (s : State) (g : Nat) (b : Bool) : State :=
  let f := fun (r : Rec) => { r with w0 := setBits r.w0 49 1 b.toNat }
  let s := (s.groupOf g).foldl (fun s g =>
    if isGearC g then s.modC g (fun c => { c with cont := c.cont.map f }) else s.modP g (fun c => { c with cont := c.cont.map f })) s
  match (s.taskOf g).bind s.task with
  | some x => s.setTask ((s.taskOf g).getD 0) { x with r := f x.r }
  | none => s

/-- The context stays resident for the debugger: HALTED (R237, R241, R244). Its halted time is not charged (R107). -/
def State.holdResident (s : State) (g : Nat) : State :=
  let s := s.markHeld g true
  let t := (s.taskOf g).getD 0
  let s := match s.task t with
    | some x => s.setTask t { x with halted := some s.now }
    | none => s
  (s.groupOf g).foldl (fun s g => s.modBlock g (fun b => { b with halted := true, busy := false })) s

/-- Steps 3 and 4 of R231: the context is saved with the record, and the cores are free (R107, R249). -/
def State.saveContext (s : State) (g : Nat) : State :=
  let grp := s.groupOf g
  let tid := (s.taskOf g).getD 0
  let s := grp.foldl (fun s g => (s.publish g).flushProf g) s
  let s := s.charge tid grp.length
  let n := (grp.map (s.contextBytes false)).sum
  let a := s.saveRoom (dieOf g) n
  let x := { a.2.context g with area := (a.1.getD 0, if a.1.isSome then n else 0) }
  let s := match a.1 with
    | some pa => (a.2.contextsOut false grp pa).1
    | none => a.2
  let s := if isGearC g then (grp.zip (List.range grp.length)).foldl (fun (s : State) (m : Nat × Nat) =>
      s.retagSae m.1 (saeMark tid m.2)) s else s
  let s := match s.task tid with
    | some t => s.setTask tid { t with st := .runnable, since := s.now, order := s.nextOrder, ctx := some x, pause := s.now, halted := none }
    | none => s
  grp.foldl (fun s g => s.freeCore g) s

/-- A fatal cause (R236): it enters the chain, and where it is the first, every other continuation of the ASID stops. -/
def State.fatal (s : State) (g : Nat) (w : Word) (also : Option Word) : State :=
  let asid := s.asidOf g
  let new := !s.inTeardown asid
  let grp := s.groupOf g
  -- the packet behind a copy fault stands before it (R227, R235)
  let ch := bitsOf w 32 16
  let n := match (s.chan ch).faulted.find? (fun f => decide (f.1 % 2 ^ 24 = bitsOf w 0 24)) with
    | some f => f.1
    | none => bitsOf w 0 24
  let s := if new && decide (causeCode w = 0x20) && decide (bitsOf w 0 24 ≠ 0) then
      s.enter asid (chainEntry 0 0 1 0x04 0 ch (BitVec.ofNat 64 ((bitsOf w 24 8 <<< 56) + n % 2 ^ 56))) else s
  let s := s.enter asid (s.coreEntry g w)
  let s := match also with
    | some a => s.enter asid (s.coreEntry g a)
    | none => s
  let own := fun m => let w := (s.coreC m).cause; if causeResumable w then causeWord true 0 0x32 0 else w
  let s := grp.foldl (fun s m => if m = g then s else s.enter asid (s.coreEntry m (own m))) s
  if new then s.stopOthers asid grp else s

/-- A member of a group with an uncorrectable word in the scratchpad pages that a save, or all that an image (`full`), reads (R228). -/
def State.badPad (s : State) (full : Bool) (grp : List Nat) : Option (Nat × BadWord) :=
  grp.findSome? (fun g =>
    let r := (if isGearC g then (s.coreC g).cont else (s.coreP g).cont).getD Rec.zero
    let pages := padPages (if full then [] else s.liveOf r)
    (s.bad.find? (fun b => decide (b.code = 1 ∧ b.unit = g) && b.met.isNone && pages.contains (8 * b.idx / 4096))).map (fun b => (g, b)))

/-- A save meets that word: cause 0x21 on its core, which is fatal and stands instead of the save (R228, R236). -/
def State.spoiled (s : State) (x : Nat × BadWord) : State :=
  let w := causeWord true 0 0x21 (sramDetail 1 x.2.idx)
  let s := { s with bad := s.bad.map (fun b => if b = x.2 then { b with met := some s.now } else b) }
  let s := if isGearC x.1 then s.modC x.1 (fun c => { c with cause := w }) else s.modP x.1 (fun c => { c with cause := w })
  s.fatal x.1 w none

/-- The context of a stopped group is saved, unless its scratchpads have an uncorrectable word. -/
def State.saveOrSpoil (s : State) (g : Nat) : State :=
  match s.badPad false (s.groupOf g) with
  | some x => s.spoiled x
  | none => s.saveContext g

/-- What a stopped context becomes (R224). -/
def State.dispose (s : State) (g : Nat) (w : Word) (also : Option Word) : State :=
  let asid := s.asidOf g
  let code := causeCode w
  if code = 0x30 then (s.saveOrSpoil g).countPart asid 0x0504
  else if code = 0x31 then (s.holdResident g).countPart asid 0x0504
  else if (code = 0x0C ∨ code = 0x0D) ∧ s.attached asid ∧ also.isNone ∧ s.inTeardown asid = false then s.holdResident g
  else if code = 0x33 then s
  else (s.fatal g w also).countPart asid 0x0504

/-- Enabled breakpoint words of an ASID that match an address, with TRC or without (R244). -/
def State.bpMatch (s : State) (asid addr : Nat) (trc : Bool) : Bool :=
  (List.range 8).any (fun n =>
    let w := Tab.get 0 s.bps (8 * asid + n)
    w.getLsbD 63 && decide (w.getLsbD 62 = trc) && decide (bitsOf w 2 46 = addr / 4))

/-- An asynchronous stop whose E no slot has passed, where a breakpoint stands: the two fix the same E, and the stop is the breakpoint's
(R225, R256). The second stop of a step is none (R243). -/
def State.breakBeside (s : State) (lead : Nat) (r : StopReq) : StopReq :=
  let c := s.coreC lead
  if causeAsync r.cause && !c.step1 && c.slots.all (fun q => decide (q.next ≤ r.idx)) && s.bpMatch c.asid r.addr false then
    r.merge ⟨r.idx, r.addr, causeWord false 0 0x0C 0, none, none⟩
  else r
/-- The same of a gear S or M core that has begun nothing of its next instruction. -/
def State.breakBesideP (s : State) (g : Nat) (w : Word × Option Word) : Word × Option Word :=
  let c := s.coreP g
  if causeAsync w.1 && !c.step1 && c.hold.isNone && c.mmac.isNone && s.bpMatch c.asid c.pc false then
    (causeWord false 0 0x0C 0, if causeResumable w.1 then w.2 else some w.1)
  else w

/-- A command that waited for a stop has ended (R240). -/
def State.idleBlocks (s : State) (l : List Nat) : State :=
  l.foldl (fun s g => if (s.block g).busy then s.modBlock g (fun b => { b with busy := false }) else s) s

/-- May the portable core stop now: nothing held, or a hold that a stop abandons (R234, R397)? -/
def CoreP.mayStop (c : CoreP) : Bool := match c.hold with | some h => abandoned h | none => true

/-- The member that decides the group's disposition. -/
def StopReq.by (r : StopReq) (lead : Nat) : Nat := r.who.getD lead

/-- STOP (R173, R195, R225, R231, R236): the stop that was fixed is taken once every slot stands. -/
def execStop (g : Nat) (s : State) : Host.Outcome State Fault Refusal :=
  if isGearC g then
    let lead := s.leader g
    let c := s.coreC lead
    match c.stop with
    | none => .next s
    | some r =>
      if c.run ≠ .running ∨ c.phase ≠ .start ∨ c.allFrozen = false then .next s
      else
        let r := s.breakBeside lead r
        let s := (s.standStill lead r).modAll (fun c => { c with step1 := false }) (s.members lead)
        let s := (s.members lead).foldl (fun s g => s.publish g) s
        -- a decoupled member's stop stops its group (R112)
        let rest := c.group.filter (fun m => !(s.members lead).contains m && decide (s.runOf m = .running))
        if rest ≠ [] then
          .next ((rest.foldl (fun s m => if (s.coreC m).stop.isSome then s
            else s.asyncStopC m (if causeResumable r.cause then causeCode r.cause else 0x32) 0) s))
        else
          -- a member whose cause no debugger holds decides first
          let bad := fun m => let w := (s.coreC m).cause; !causeResumable w && decide (causeCode w ≠ 0x32)
          let held := fun m => let w := (s.coreC m).cause; decide (causeCode w = 0x0C ∨ causeCode w = 0x0D)
          let w := ((c.group.find? (fun m => bad m && !held m)).or (c.group.find? bad)).getD (r.by lead)
          .next (s.dispose w (s.coreC w).cause r.also |>.idleBlocks (s.groupOf lead))
  else
    let c := s.coreP g
    match c.stop with
    | none => .next s
    | some x =>
      if c.run ≠ .running ∨ c.mayStop = false then .next s
      else
        let (w, also) := s.breakBesideP g x
        let s := s.modP g (fun c => { c with
          run := .stopped, stop := none, hold := none, again := c.hold.isSome, cause := w, arrived := false, step1 := false, stall := s.now - c.issAt })
        .next ((s.dispose g w also).idleBlocks [g])

/-! ### Watchdog, deadlines (R229, R230) -/

def State.vmOf (s : State) (asid : Nat) : Nat := descVm (s.readDesc 0 asid)
def State.limitOf (s : State) (asid : Nat) : Word := Tab.get (BitVec.ofNat 64 ((100 <<< 32) + 200)) s.limits (s.vmOf asid)

/-- WATCHDOG (R229): the trailing slot has issued nothing for WDT ms. -/
def execWatchdog (g : Nat) (s : State) : Host.Outcome State Fault Refusal :=
  let wdt := bitsOf (s.limitOf (s.asidOf g)) 32 16
  let at_ := if isGearC g then (s.coreC (s.leader g)).issAt else (s.coreP g).issAt
  if s.runOf g = .running ∧ wdt ≠ 0 ∧ at_ + 1000000 * wdt ≤ s.now then .next (s.asyncStop g 0x22 0) else .next s

/-- A honouring point has been reached: a loop drains or has drained for the request, a `yield` holds for its hand-over, or a
gear S or M core stands at a boundary (R127, R230). -/
def State.honouring (s : State) (g : Nat) : Bool :=
  if isGearC g then
    let c := s.coreC (s.leader g)
    c.honour.isSome || c.drainFor.isSome || (match (c.slot 6).hold with | some h => decide (h.op = .susp ∧ h.st = 2) | none => false)
  else (s.boundary g).isSome

/-- PREEMPTION_DEADLINE (R230): DL µs after a soft pre-emption that has met no honouring point. -/
def execPreemptionDeadline (g : Nat) (s : State) : Host.Outcome State Fault Refusal :=
  let dl := let x := bitsOf (s.limitOf (s.asidOf g)) 0 20; if x = 0 then 200 else x
  let soft := if isGearC g then (s.coreC g).soft else (s.coreP g).soft
  match soft with
  | none => .next s
  | some t =>
    if s.runOf g = .running ∧ t + 1000 * dl ≤ s.now ∧ s.honouring g = false then .next (s.asyncStop g 0x30 0) else .next s

/-! ### Soft errors (R228) -/

/-- A structure whose copy is discarded and fetched again (R228): `kind` 0 an L1 line of core `unit`, 1 a second-level line, 2 an
RLC line, 4 a walk-cache entry of die `unit`, 3 a TLB entry of engine `unit`, 5 a bundle fetch buffer of core `unit`. -/
def State.discardCopy (s : State) (kind unit idx : Nat) : State :=
  match kind with
  | 0 => s.evictTurn (.evictL1 unit idx)
  | 1 => s.evictTurn (.evictL2 (unit % 4) idx)
  | 2 => s.evictTurn (.evictRlc (unit % 4) idx)
  | 3 => match Tab.find (s.ce unit).tlb idx with
    | some t => s.setCe unit ((s.ce unit).dropEnt idx t)
    | none => s
  | 4 => s.evictTurn (.evictWalk (unit % 4) idx)
  | _ => if isGearC unit ∧ s.runOf unit = .running then s.refetch unit idx else s

/-- An uncorrectable word waits in its structure for the access, the save or the command that meets it; at once where the scratchpad is
part of a context that a stop is about to save (R228, R231). -/
def State.putBad (s : State) (code unit idx : Nat) : State :=
  let saving : Bool := if isGearC unit then (match (s.coreC (s.leader unit)).stop with | some r => decide (causeCode r.cause = 0x30) | none => false)
    else (match (s.coreP unit).stop with | some r => decide (causeCode r.1 = 0x30) | none => false)
  let s := { s with bad := s.bad ++ [⟨code, unit, idx, none⟩] }
  if code = 1 ∧ saving ∧ s.runOf unit = .running then s.meetBad none (fun b => decide (b.code = 1 ∧ b.unit = unit ∧ b.idx = idx)) else s

/-- The error of an operation in an SAE's queue that a saved context has enqueued, named by the mark of its lane: the cause is fatal to
that continuation (R228, R236). -/
def State.savedSaeError (s : State) (mark idx : Nat) : State :=
  match s.task ((mark - 2 ^ 20) / 16) with
  | none => s
  | some t => match (t.ctx.map Ctx.cores).bind (fun l => l[(mark - 2 ^ 20) % 16]?) with
    | none => s
    | some c => s.beginTeardown t.r.asid (chainEntry c.cad c.epc.toNat 0 0x21 (coordOf (c.lead + c.lane)) 0xFFFF
        (BitVec.ofNat 64 (sramDetail 7 idx)))

/-- SRAM_ERROR (R228): `structure_` is the code of R228's table; 0 stands for the structures whose line is discarded, where `g` is
2^16 times the kind plus the unit. Else `g` is the core (0x01, 0x03, 0x04, 0x07 with a core), the cluster (0x02), the record (0x05),
the die (0x06), 2^16 + channel or the mark of a saved context's lane (0x07). -/
def execSramError (structure_ idx g : Nat) (correctable : Bool) (s : State) : Host.Outcome State Fault Refusal :=
  if correctable then .next ((List.range 1024).foldl (fun s a =>
      if s.profSlots a 0x0601 = [] then s else s.countTotal a 0x0601 1) s)
  else match structure_ with
    | 0 => .next (s.discardCopy (g / 2 ^ 16) (g % 2 ^ 16) idx)
    | 1 | 2 | 4 => .next (s.putBad structure_ g idx)
    | 3 => .next (s.causeOn g 0x21 (sramDetail 3 idx))
    | 5 => match s.task g with
      | none => .next s
      | some t => .next ((s.removeTask g).beginTeardown t.r.asid (chainEntry 0 0 2 5 0 0xFFFF (BitVec.ofNat 64 idx)))
    | 6 => match Tab.find (s.die (g % 4)).hasps idx with
      | none => .next s
      | some h => .next (s.beginTeardown h.asid (chainEntry 0 0 2 6 0 0xFFFF (BitVec.ofNat 64 idx)))
    | 7 =>
      if g < 2 ^ 16 then .next (s.causeOn g 0x21 (sramDetail 7 idx))
      else if 2 ^ 20 ≤ g then .next (s.savedSaeError g idx)
      else
        let ch := g - 2 ^ 16
        .next (s.modChan ch (fun c =>
          let hit := c.pkts.any (fun p => decide (p.n = idx) && !p.done)
          { c with
            pkts := c.pkts.map (fun p => if p.n = idx ∧ p.done = false then { p with done := true, code := 0x04, fault := none } else p)
            pending := c.pending || hit, faulted := if hit then c.faulted ++ [(idx, 0)] else c.faulted }))
    | _ => .next s

/-! ### Breakpoints (R244) -/

/-- The bundle that the leading slot of a group is about to issue, with no slot past it before this cycle. -/
def State.leadingBundle (s : State) (lead : Nat) : Option Bun :=
  let c := s.coreC lead
  let ks := (c.todo.map Prod.snd).dedup
  c.win.find? (fun b => ks.any (fun k => decide ((c.slot k).next = b.idx + 1)) &&
    (List.range 8).all (fun k => ks.contains k || decide ((c.slot k).next ≤ b.idx)) &&
    decide (c.slots.foldl (fun m q => max m q.next) 0 = b.idx + 1))

def State.breakpointDue (s : State) (g : Nat) : Option (Nat × Bool) :=
  if isGearC g then
    let lead := s.leader g
    let c := s.coreC lead
    if c.phase ≠ .issue ∨ c.bpSkip then none
    else match s.leadingBundle lead with
      | none => none
      | some b =>
        if s.bpMatch c.asid b.addr false then some (b.idx, false)
        else if s.bpMatch c.asid b.addr true then some (b.idx, true) else none
  else
    let c := s.coreP g
    if c.run ≠ .running ∨ c.bpSkip ∨ c.hold.isSome ∨ c.stop.isSome then none
    else if s.bpMatch c.asid c.pc false then some (0, false)
    else if s.bpMatch c.asid c.pc true then some (0, true) else none

/-- BREAKPOINT (R244): the bundle becomes E before any move of it takes effect; with TRC a trace record of kind 1. -/
def execBreakpoint (g : Nat) (s : State) : Host.Outcome State Fault Refusal :=
  match s.breakpointDue g with
  | none => .next s
  | some (idx, trc) =>
    if isGearC g then
      let lead := s.leader g
      let c := s.coreC lead
      let addr := c.addrOf idx
      if trc then
        .next ((s.traceRec (dieOf lead) (s.nameAt lead addr) 1 0 c.asid 0).modC lead (fun c => { c with bpSkip := true }))
      else
        let mine := fun k => decide ((c.slot k).next = idx + 1)
        let s := s.modC lead (fun c => { c with
          todo := c.todo.filter (fun x => !mine x.2)
          slots := c.slots.map (fun q => if q.next = idx + 1 then { q with next := idx } else q) })
        -- a bundle that does not issue now is not counted now (R247)
        let tr := (s.coreC lead).trailing
        let s := s.modAll (fun c => if c.adv && decide (tr < c.counted) then { c with adv := false, counted := tr } else c) (s.members lead)
        .next (s.requestStop lead ⟨idx, addr, causeWord false 0 0x0C 0, none, none⟩)
    else
      let c := s.coreP g
      if trc then .next ((s.traceRec (dieOf g) (s.nameAt g c.pc) 1 0 c.asid 0).modP g (fun c => { c with bpSkip := true }))
      else .next (s.trapP g 0x0C 0)

/-- The cadence breakpoint fires (R240): the count of cycles, or of instructions on gears S and M, has reached CADV. -/
def State.cadenceDue (s : State) (g : Nat) : Bool :=
  let b := s.block g
  let cad := if isGearC g then (s.coreC g).cad else (s.coreP g).retired
  b.cen && decide (s.runOf g = .running) && decide (b.cadv ≤ cad.toNat) &&
    (if isGearC g then decide ((s.coreC (s.leader g)).phase = .start) else (s.coreP g).hold.isNone)

/-- CADENCE_BREAKPOINT (R240, R244): a stop with cause 0x31; CEN of this core's block clears. -/
def execCadenceBreakpoint (g : Nat) (s : State) : Host.Outcome State Fault Refusal :=
  if s.cadenceDue g then .next ((s.asyncStop g 0x31 0).modBlock g (fun b => { b with cen := false })) else .next s

end Sys2Proof.Machine
end

