-- ==== Sys2Proof/Machine/Boot.lean ====
section
/-! DEFINITION. Bring-up, the boot journal, measured boot, attestation, power (R29 to R44, R253, R254). -/

namespace Sys2Proof.Machine

/-! ### Journal and measurement (R38, R42, R43) -/

/-- What is reported to the driver, or to the external management controller: 1 bring-up failed (256·step + instance),
2 an outcome by alternate method or a peer port's (the same), 3 a peer port down, 4 a throttle event (island), 5 a thermal
fault (island), 6 the record is truncated, 7 a flash channel retired (16·S-die + channel), 8 a cluster disabled, 9 a replay that
refuses to start. -/
def State.note (s : State) (what detail : Nat) : State := { s with host := s.host ++ [.note what detail] }

/-- Extend measurement register r of die d with an image (R42); none once the registers are sealed. -/
def State.extend (s : State) (d r : Nat) (image : List Byte) : State :=
  if s.boot.sealed then s
  else
    let x := s.die d
    let old := Tab.get (0 : BitVec 384) x.meas r
    s.setDie d { x with meas := Tab.put x.meas r (sha384 (bytesOf 48 old.toNat ++ sha384Bytes image)) }

def State.extendAll (s : State) (r : Nat) (image : List Byte) : State :=
  (List.range 4).foldl (fun s d => s.extend d r image) s

/-- The 256 bits of a record but for CHK, from bit 32 (R38). -/
def JRec.body (r : JRec) : Nat :=
  (r.boot % 2 ^ 32) <<< 192 + (r.step % 2 ^ 16) <<< 176 + (r.inst % 256) <<< 168 + (r.out % 256) <<< 160 + (r.meth % 256) <<< 152 +
    (r.time % 2 ^ 32) <<< 120 + (r.detail % 2 ^ 32) <<< 88
def JRec.sum (r : JRec) : BitVec 32 := crc32 r.body 28
/-- Its CRC is right. -/
def JRec.ok (r : JRec) : Bool := decide (r.chk = r.sum)

/-- The records as they are read: one whose CRC fails in one copy comes from the other (R38). One whose CRC fails in both is passed over,
so that an older one decides (the model's choice, log 91). -/
def Boot.records (b : Boot) : List JRec :=
  (b.journal.zip b.copy).filterMap (fun p => if p.1.ok then some p.1 else if p.2.ok then some p.2 else none)

/-- Write one step record: the journal keeps 8,192 in each of its copies, and register 5 of every die is extended (R38, R43). -/
def State.journalStep (s : State) (st i out meth : Nat) : State :=
  let n := s.fresh
  let fail := decide (out = 2)
  let r : JRec := ⟨s.boot.no, st, i, out, meth, (Config.journalTime n).toNat,
    if fail then (Config.journalDetail n).toNat else 0, 0⟩
  let r := { r with chk := r.sum }
  let b := s.boot
  let keep := fun (l : List JRec) => (l ++ [r]).drop (l.length + 1 - 8192)
  let s := { s with fresh := n + 1, boot := { b with journal := keep b.journal, copy := keep b.copy } }
  s.extendAll 5 [BitVec.ofNat 8 st, BitVec.ofNat 8 (st / 256), BitVec.ofNat 8 i, BitVec.ofNat 8 out, BitVec.ofNat 8 meth]

/-- An entry of the journal whose record form the spec does not give (R33, R255). -/
def State.journalEvent (s : State) (what detail : Nat) : State :=
  { s with boot := { s.boot with events := s.boot.events ++ [(what, detail)] } }

/-! ### Bring-up (R37, R39, R40) -/

/-- Step, instances, methods, required. The alternates of step 0x60 are the six rates below 128 GT/s that R45 lists. -/
def bootSteps : List (Nat × Nat × Nat × Bool) :=
  [(0x01, 1, 1, true), (0x02, 1, 2, true), (0x03, 4, 1, true), (0x10, 16, 2, true), (0x18, 4, 2, true), (0x20, 8, 3, true),
   (0x28, 4, 2, true), (0x30, 4, 2, true), (0x34, 4, 2, true), (0x38, 8, 1, true), (0x40, 16, 1, true), (0x50, 16, 3, false),
   (0x60, 1, 7, true), (0x70, 1, 1, true)]

/-- The step instances in order: step, instance, methods, required. -/
def bootInsts : List (Nat × Nat × Nat × Bool) :=
  bootSteps.flatMap (fun r => (List.range r.2.1).map (fun i => (r.1, i, r.2.2.1, r.2.2.2)))

/-- Bring-up has run its last step, so the module serves (R37). -/
def State.served (s : State) : Bool := decide (bootInsts.length ≤ s.boot.pos)

/-- The most recent record of a step instance from an earlier boot. -/
def Boot.prior (b : Boot) (st i : Nat) : Option JRec :=
  b.records.reverse.find? (fun r => decide (r.step = st ∧ r.inst = i ∧ r.boot < b.no))

/-- What firmware does with a step: skip it, run it with a method, or find no method left (R39, R40). -/
inductive BootPlan where
  | skip
  | run (m : Nat)
  | stop (m : Nat)
  deriving DecidableEq, Repr

def bootPlan (p : Option JRec) (methods : Nat) (req : Bool) : BootPlan :=
  match p with
  | none => .run 0
  | some r =>
    if r.out = 3 then .skip
    else if r.out = 2 then
      (if req = false then .skip else if r.meth + 1 < methods then .run (r.meth + 1) else .stop r.meth)
    else if r.out = 1 then .run r.meth else .run 0

/-- Firmware images of a step instance by method, with the register each extends (R42): 0 the module's, 1 a management
core's, 2 an S-die's, 3 an M-base's, 4 the Polliton loader's, on all four dies in step 0x70, before sealing (logs 7, 74). -/
def bootReg (st : Nat) : Option Nat :=
  match st with
  | 0x02 => some 0 | 0x03 => some 1 | 0x34 => some 2 | 0x38 => some 3 | 0x70 => some 4
  | _ => none

def Boot.image (b : Boot) (st i m : Nat) : List Byte := Tab.get [] b.images (65536 * st + 256 * i + m)

/-- An image is accepted (R41): both signatures verify over it, the keys of its header hash to the fuses, and its security version is not
below the fused one. -/
def Boot.accepts (b : Boot) (im : List Byte) : Bool :=
  Config.rsaVerifies im && Config.slhVerifies im && decide (sha384 (Config.imageRsaKey im) = b.fuseRsa) &&
    decide (sha384 (Config.imageSlhKey im) = b.fuseSlh) && decide (b.fuseVer ≤ Config.imageVersion im)

/-- Does a method of a step instance pass: its image is accepted (R41), and the input says so (log 7)? -/
def Boot.passes (b : Boot) (st i m : Nat) : Bool :=
  ((bootReg st).isNone || b.accepts (b.image st i m)) && decide (Tab.get 0 b.health (256 * st + i) ≤ m)

/-- The image is measured before any of its code runs (R42). -/
def State.measure (s : State) (st i m : Nat) : State :=
  match bootReg st with
  | none => s
  | some r =>
    let im := s.boot.image st i m
    if s.boot.accepts im = false then s
    else if st = 0x02 ∨ st = 0x70 then s.extendAll r im
    else s.extend (if st = 0x38 then i / 2 else i) r im

/-- What a step instance leaves when it passes by a method (R29, R37). -/
def State.bootEffect (s : State) (st i m : Nat) : State :=
  match st with
  | 0x10 =>
    let x := Tab.get Island.reset s.islands i
    { s with islands := Tab.put s.islands i (if m = 1 then { x with cap := 1600, mhz := 1600 } else x) }
  | 0x18 =>
    let c := 32 * i + Tab.get 0 s.boot.broken i
    if m = 1 then ({ s with boot := { s.boot with off := s.boot.off ++ [c] } } : State).note 8 c else s
  | 0x34 =>
    let l := Tab.get [] s.boot.badChan i
    if m = 1 then l.foldl (fun s c => s.note 7 (16 * i + c))
      ({ s with boot := { s.boot with retired := s.boot.retired ++ l.map (fun c => (i, c)) } } : State) else s
  | 0x50 =>
    let p := Tab.get Port.reset s.peers i
    { s with peers := Tab.put s.peers i { p with lanes := if m = 0 then 8 else 4 } }
  -- firmware takes its local chunk on every die, and the ASID table stands there (R69, R77, log 84)
  | 0x70 => (List.range 4).foldl (fun (s : State) d =>
    ({ s with home := Tab.put s.home (fwChunk d / 2 ^ 21) (BitVec.ofNat 4 (12 + d)) } : State).setDie d
      { s.die d with asidtab := BitVec.ofNat 64 (fwChunk d) }) s
  | _ => s

/-- The measurement registers of the four dies. -/
def State.measured (s : State) : List (BitVec 384) :=
  (List.range 32).map (fun i => Tab.get (0 : BitVec 384) (s.die (i / 8)).meas (i % 8))

/-- Replay refuses to start where the measurements differ from those of the record (R254). -/
def State.replayRefused (s : State) : Bool :=
  decide (s.boot.mode = 2) &&
    decide (s.measured ≠ s.boot.want)

/-- A body with its two signatures under the identity keys (R44). -/
def signBoth (keys : List Byte × List Byte) (body : List Byte) : List Byte × List Byte :=
  (Config.signRsa keys.1 body, Config.signSlh keys.2 body)

/-- The last step has passed: the identity keys are derived and certified, the registers sealed, and recording begins in record mode
(R42, R44, R253). In record mode the region keeps the registers, which a replay must meet: one that does not refuses to start, and no
turn comes from the record (R254, log 56). -/
def State.sealUp (s : State) : State :=
  let b := s.boot
  let ks := (Config.identityRsa b.no, Config.identitySlh b.no)
  let s := { s with boot := { b with sealed := true, keys := some ks, cert := some (Config.certificate b.no, signBoth ks (Config.certificate b.no)) },
                      recording := decide (b.mode = 1) }
  let s := if b.mode = 1 then { s with boot := { s.boot with want := s.measured } } else s
  if s.replayRefused then ({ s with record := [] } : State).note 9 0 else s

/-- Run a step instance with the methods from m on: every one left for a peer port (R29), one for the others. METH of a port that no form
trains is the last one tried, 2: R29 and R37 give only OUT 2 (DESIGN CHOICE, log 74). -/
def State.bootRun (s : State) (st i m methods : Nat) (req : Bool) : State :=
  let try_ := if st = 0x50 then (List.range methods).filter (fun k => m ≤ k) else [m]
  let s := s.measure st i m
  match try_.find? (fun k => s.boot.passes st i k) with
  | some k =>
    let s := (s.bootEffect st i k).journalStep st i (if k = 0 then 0 else 1) k
    let s := if k ≠ 0 ∨ st = 0x50 then s.note 2 (256 * st + i) else s
    let s := { s with boot := { s.boot with pos := s.boot.pos + 1 } }
    if st = 0x70 then s.sealUp else s
  | none =>
    let s := s.journalStep st i 2 (try_.getLastD m)
    if req then ({ s with boot := { s.boot with failed := some (st, i) } } : State).note 1 (256 * st + i)
    else ({ s with boot := { s.boot with pos := s.boot.pos + 1 } } : State).note 2 (256 * st + i)

/-- Power comes back: the machine after reset, with flash, the journal and the inputs as they were (R30). The mode word decides whether
a record begins, from the first bring-up step, or the one in the record region stands (R253, R254); time counts from here. -/
def State.powerUp (s : State) : State :=
  let b := s.boot
  { State.reset with
    agenda := s.agenda, recording := decide (b.mode = 1), record := if b.mode = 1 then [] else s.record, streams := if b.mode = 1 then [] else s.streams, recAt := if b.mode = 1 then 0 else s.recAt
    fresh := s.fresh, host := s.host, irqs := s.irqs
    mem := s.mem.filter (fun c => decide (locFlash 0 ≤ c.1 ∧ c.1 < locCore 0 0)), flashBad := s.flashBad
    boot := { Boot.reset with
      no := b.no + 1, journal := if b.cleared then [] else b.journal, copy := if b.cleared then [] else b.copy
      fuseRsa := b.fuseRsa, fuseSlh := b.fuseSlh, fuseVer := b.fuseVer, badChan := b.badChan, mode := b.mode, region := b.region, health := b.health
      images := b.images, broken := b.broken, want := b.want, events := if b.cleared then [] else b.events } }

/-- BRING_UP (R37 to R43): one step instance; without power, power comes back first. A skipped step's record has METH 0 (log 74). -/
def execBringUp (s : State) : Host.Outcome State Fault Refusal :=
  if s.power = false then .next s.powerUp
  else match s.boot.failed, bootInsts[s.boot.pos]? with
    | none, some (st, i, methods, req) => match bootPlan (s.boot.prior st i) methods req with
      | .skip =>
        let s := s.journalStep st i 3 0
        .next (({ s with boot := { s.boot with pos := s.boot.pos + 1 } } : State).note 2 (256 * st + i))
      | .run m => .next (s.bootRun st i m methods req)
      | .stop m =>
        let s := s.journalStep st i 2 m
        .next (({ s with boot := { s.boot with failed := some (st, i) } } : State).note 1 (256 * st + i))
    | _, _ => .next s

/-- JOURNAL_CLEAR (R39): the next boot runs every step with its primary method. -/
def execJournalClear (s : State) : Host.Outcome State Fault Refusal :=
  .next { s with boot := { s.boot with journal := [], copy := [], events := [], cleared := true } }

/-- DRIVER_MEASUREMENT_EXTEND (R42): registers 6 and 7, until sealing. -/
def execDriverMeasurementExtend (d reg : Nat) (image : List (BitVec 8)) (s : State) : Host.Outcome State Fault Refusal :=
  if d < 4 ∧ (reg = 6 ∨ reg = 7) then .next (s.extend d reg image) else .next s

/-- Body of an attestation report (R44): the registers die by die, the boot number in 4 bytes, the nonce, each least significant byte
first (log 75). -/
def State.reportBody (s : State) (nonce : BitVec 256) : List Byte :=
  (List.range 32).flatMap (fun i => bytesOf 48 (Tab.get (0 : BitVec 384) (s.die (i / 8)).meas (i % 8)).toNat) ++
    bytesOf 4 s.boot.no ++ bytesOf 32 nonce.toNat

/-- ATTESTATION_REPORT (R44): the sealed registers of the four dies, the boot number and the nonce, with both signatures under the keys
derived in step 0x70. -/
def execAttestationReport (nonce : BitVec 256) (s : State) : Host.Outcome State Fault Refusal :=
  match s.boot.sealed, s.boot.keys with
  | true, some ks =>
    let sig := signBoth ks (s.reportBody nonce)
    .next { s with host := s.host ++ [.report (s.reportBody nonce) sig.1 sig.2] }
  | _, _ => .next s

/-! ### Power and heat (R30 to R34) -/

def State.island (s : State) (i : Nat) : Island := Tab.get Island.reset s.islands i
def State.setIsland (s : State) (i : Nat) (x : Island) : State := { s with islands := Tab.put s.islands i x }
/-- Is a clock one that R31 permits? -/
def clockOk (mhz : Nat) : Bool := decide (1200 ≤ mhz ∧ mhz ≤ 2400 ∧ mhz % 100 = 0)

/-- Cores of an island (R30): quads 2i and 2i + 1 of its die. -/
def islandCores (i : Nat) : List Nat := (List.range 32).map (fun k => 128 * (i / 4) + 32 * (i % 4) + k)

/-- The island takes a frequency between bundles; every core that runs on it writes a kind 5 record (R31, R252). -/
def State.setClock (s : State) (i mhz : Nat) : State :=
  let x := s.island i
  if x.mhz = mhz then s
  else (islandCores i).foldl (fun s g =>
      if s.runOf g = .running then
        s.traceRec (dieOf g) (s.nameAt g ((s.coreC (s.leader g)).addrOf (s.coreC (s.leader g)).trailing)) 5 0 (s.asidOf g)
          (BitVec.ofNat 64 mhz)
      else s) (s.setIsland i { x with mhz := mhz })

/-- FREQUENCY_CHANGE (R31, R33): the island's commanded clock. Between 97 and 100 °C the island keeps its frequency, and at 100 °C or
above it does not rise; it goes to the commanded one once it is cooler, as a throttled island does. -/
def execFrequencyChange (i mhz : Nat) (s : State) : Host.Outcome State Fault Refusal :=
  if i < 16 ∧ clockOk mhz then
    let x := s.island i
    let m := min mhz x.cap
    if x.hot < 97 then .next ((s.setIsland i { x with want := mhz }).setClock i (if x.slow then min m x.mhz else m))
    else if x.hot < 100 then .next (s.setIsland i { x with want := mhz, slow := x.slow || decide (m ≠ x.mhz) })
    else .next ((s.setIsland i { x with want := mhz, slow := true }).setClock i (min m x.mhz))
  else .next s

/-- Power goes: nothing runs until it comes back. -/
def State.powerOff (s : State) : State := { s with power := false }

/-- THERMAL_SAMPLE (R33): the hottest sensor governs; 115 °C removes power at once. -/
def execThermalSample (i : Nat) (temps : List Nat) (s : State) : Host.Outcome State Fault Refusal :=
  let hot := temps.foldl max 0
  if 16 ≤ i ∨ temps.length < 4 then .next s
  else if 115 ≤ hot then .next ((((s.setIsland i { s.island i with hot := hot }).journalEvent 5 i).note 5 i).powerOff)
  else
    let x := s.island i
    let tooHot := decide (105 ≤ hot ∧ x.mhz = 1200)
    .next (s.setIsland i { x with
      hot := hot, slow := if 100 ≤ hot then true else x.slow
      fatal := if tooHot then (match x.fatal with | some t => some t | none => some s.now) else none })

/-- THROTTLE_STEP (R33): every 1 ms 100 MHz down at 100 °C or above, 100 MHz up below 97 °C. -/
def execThrottleStep (i : Nat) (s : State) : Host.Outcome State Fault Refusal :=
  let x := s.island i
  if 16 ≤ i then .next s
  else if 100 ≤ x.hot ∧ 1200 < x.mhz then
    .next ((((s.setIsland i { x with slow := true }).setClock i (max 1200 (x.mhz - 100))).journalEvent 4 i).note 4 i)
  else if x.hot < 97 ∧ x.slow then
    let top := min x.want x.cap
    let m := min top (x.mhz + 100)
    .next ((s.setIsland i { x with slow := decide (m < top) }).setClock i m)
  else .next s

/-- POWER_LIMIT (R34): 1,500 W to 3,000 W. -/
def execPowerLimit (w : Nat) (s : State) : Host.Outcome State Fault Refusal :=
  if 1500 ≤ w ∧ w ≤ 3000 then .next { s with plimit := w } else .next s

/-- MODULE_POWER_DOWN (R30). -/
def execModulePowerDown (s : State) : Host.Outcome State Fault Refusal := .next s.powerOff

end Sys2Proof.Machine
end

