-- ==== Sys2Proof/Machine/Teardown.lean ====
section
/-! DEFINITION. Dumps and teardown, held records, address spaces, the fatal thermal fault (R33, R77, R103, R235 to R237,
R239). -/

namespace Sys2Proof.Machine

/-! ### Dumps (R235) -/

def State.dslot (s : State) (asid : Nat) : Word := Tab.get 0 s.dslots asid

/-- The first cores of an ASID's stopped or resident groups. -/
def State.headsOf (s : State) (asid : Nat) : List Nat := (s.coresOf asid).filter (fun g => decide ((s.groupOf g).headD g = g))

/-- Words of a channel in a dump: number and parked packets, its descriptor as a function reads it, each parked packet's number and words,
then the packets that have faulted unrecoverably, with their fault codes (R227, log 36). -/
def State.dumpChan (s : State) (ch : Nat) (c : Chan) : List Word :=
  let parked := c.pkts.filter (fun p => p.fault.isSome && !p.done)
  let o := c.owner.getD (0, 0)
  [BitVec.ofNat 64 ch, BitVec.ofNat 64 (parked.length + c.faulted.length <<< 32)] ++ (List.range 8).map (s.descRead o.1 o.2) ++
  parked.flatMap (fun p => BitVec.ofNat 64 p.n :: (p.words ++ List.replicate (8 - p.words.length) 0).take 8) ++
  c.faulted.map (fun f => BitVec.ofNat 64 (f.1 % 2 ^ 56 + f.2 <<< 56))

/-- Words of a hasp binding entry in a dump: ASID and owner, name, location, its regions with their bytes and binders (log 36). -/
def HaspEnt.dump (h : HaspEnt) : List Word :=
  [BitVec.ofNat 64 (h.asid + h.owner <<< 32), h.name, BitVec.ofNat 64 h.loc, BitVec.ofNat 64 h.regions.length] ++
  h.regions.flatMap (fun r => [r.1, BitVec.ofNat 64 (r.2.1 + r.2.2 <<< 32)])

/-- Copies of saved contexts, one after another: the state and the end. -/
def State.copySaved (s : State) : List (Nat × Ctx) → Nat → State × Nat
  | [], a => (s, a)
  | (tid, x) :: l, a =>
    let live := match s.task tid with | some t => s.liveOf t.r | none => []
    let size := fun (part : Nat) (t : Tiles) => (layParts (t.parts false) part).2 + 4096 * (padPages live).length
    let n := (x.cores.map (fun c => size imagePartC c.eng.tiles)).sum + (match x.pcore with | some c => size imagePartP c.tiles | none => 0)
    (if x.area.2 = n then s.write a (s.read x.area.1 n) n else s).copySaved l (a + n)

/-- DUMP_WRITE (R235, R236): the dump is written at `pa`, or counted as lost where the slot is not empty: the contexts of some cores
and saved contexts. The state and the dump's end. -/
def State.writeDump (s : State) (asid pa : Nat) (saved : List (Nat × Ctx)) : State × Nat :=
  let w := s.dslot asid
  if bitsOf w 62 2 ≠ 0 then
    ({ s with dslots := Tab.put s.dslots asid (setBits w 48 14 (min 0x3FFF (bitsOf w 48 14 + 1))) }, pa)
  else
    let l := s.chain asid
    let d : Dump := { pa := pa, bytes := 0, boot := s.boot.no, chain := l.filter (fun e => e ≠ []), more := (l.filter (fun e => e = [])).length
                      ctxs := (s.headsOf asid).map s.context ++ saved.map Prod.snd
                      chans := s.chans.filter (fun c => c.2.owner.isSome && decide (c.2.asid = asid))
                      hasps := (List.range 4).flatMap (fun i =>
                        ((s.die i).hasps.map Prod.snd).filter (fun h => decide (h.asid = asid))) }
    let hdr := [BitVec.ofNat 64 asid, BitVec.ofNat 64 d.boot, BitVec.ofNat 64 d.chain.length, BitVec.ofNat 64 d.more]
    let s := s.putItems pa ([(0, 256, 0)] ++ wordItems 0 hdr ++ wordItems 256 d.chain.flatten)
    let x := s.contextsOut false (s.coresOf asid) (pa + 256 + 32 * d.chain.length)
    let y := x.1.copySaved saved x.2
    let rest := d.chans.flatMap (fun c => s.dumpChan c.1 c.2) ++ d.hasps.flatMap HaspEnt.dump
    let s := y.1.putItems y.2 (wordItems 0 rest)
    ({ s with dumps := Tab.put s.dumps asid { d with bytes := y.2 + 8 * rest.length - pa }, dslots := Tab.put s.dslots asid (setBits (setBits w 12 36 (pa / 4096)) 62 2 2) },
      y.2 + 8 * rest.length)

/-! ### Release of an ASID's resources (R236 step 3) -/

/-- Cores: interrupts and SAE entries are dropped, debug blocks let go, and the cores freed; what a tandem had staged ends (R402). -/
def State.releaseCores (s : State) (asid : Nat) : State :=
  let gs := s.coresOf asid
  let s := (s.headsOf asid).foldl (fun s g =>
    s.loseStaging ((if isGearC g then (s.coreC g).cont else (s.coreP g).cont).getD Rec.zero) (s.groupOf g)) s
  gs.foldl (fun s g =>
    (((((s.publish g).dropInterrupts g).orphanSae (fun m => decide (m = g))).dropSae g).modBlock g
      (fun b => { b with halted := false, busy := false })).freeCore g) s

/-- Queues: aborted as in R54. -/
def State.releaseQueues (s : State) (asid : Nat) : State :=
  (s.chans.filter (fun c => c.2.owner.isSome && decide (c.2.asid = asid))).foldl (fun s c =>
    match execQueueAbort c.1 s with
    | .next s => s
    | _ => s) s

/-- Barriers and hasp binding entries. -/
def State.releaseSync (s : State) (asid : Nat) : State :=
  (List.range 4).foldl (fun s d =>
    let x := s.die d
    s.setDie d { x with
      barriers := x.barriers.filter (fun b => decide (b.2.asid ≠ asid))
      hasps := x.hasps.filter (fun h => decide (h.2.asid ≠ asid)) }) s

/-- Records in every partition, saved contexts with the SAE entries that wait for them, and the ASID's groups. -/
def State.releaseRecords (s : State) (asid : Nat) : State :=
  let mine := s.tasks.filter (fun t => decide (t.2.r.asid = asid))
  let s := s.orphanSae (fun m => decide (2 ^ 20 ≤ m) && mine.any (fun t => decide ((m - 2 ^ 20) / 16 = t.1)))
  let s := (s.clus.map Prod.fst).foldl State.saeWake s
  let s := mine.foldl (fun s t => s.removeTask t.1) s
  { s with grps := s.grps.filter (fun g => decide (g.2.asid ≠ asid)) }

/-- Every continuation of the ASID has stopped. -/
def State.allStopped (s : State) (asid : Nat) : Bool := (s.coresOf asid).all (fun g => decide (s.runOf g = .stopped))

/-- A saved context that a debugger holds (R237, R241): that of an attached ASID's record with HELD. -/
def State.heldSaved (s : State) (asid : Nat) : List (Nat × Task) :=
  if s.attached asid then s.tasks.filter (fun t => decide (t.2.r.asid = asid) && t.2.ctx.isSome && t.2.r.held) else []

/-- Contexts that a request tears down: held ones of a debugged ASID, resident or saved (R237), and saved ones of gear C whose stepping no
C-die of their partition has (R233). -/
def State.mayRequest (s : State) (asid : Nat) : Bool :=
  (s.attached asid && (s.coresOf asid).any (fun g => (s.block g).halted)) || !(s.heldSaved asid).isEmpty ||
  s.tasks.any (fun t => decide (t.2.r.asid = asid) && (match t.2.ctx with
    | some x => x.pcore.isNone && decide ((s.die (t.2.part / 8)).step ≠ x.step)
    | none => false))

/-- Chain entry of a saved context's stop: of its first core; a gear S or M context keeps no core's number (log 69). -/
def Ctx.stopEntry (x : Ctx) : List Word :=
  match x.cores with
  | c :: _ => chainEntry c.cad c.epc.toNat 0 (causeCode c.cause) (coordOf (c.lead + c.lane)) 0xFFFF (BitVec.ofNat 64 (bitsOf c.cause 0 48))
  | [] => match x.pcore with
    | some c => chainEntry c.retired c.pc 0 (causeCode c.cause) 0 0xFFFF (BitVec.ofNat 64 (bitsOf c.cause 0 48))
    | none => []

/-- The debugger or the driver requests the teardown (R233, R237): step 1 of R236, with the held contexts' stops as its chain. -/
def State.requestTeardown (s : State) (asid : Nat) : State :=
  let s := { s with chains := Tab.put s.chains asid [] }
  let s := ((s.coresOf asid).filter (fun g => (s.block g).halted)).foldl (fun s g =>
    s.enter asid (s.coreEntry g (if isGearC g then (s.coreC g).cause else (s.coreP g).cause))) s
  let s := (s.heldSaved asid).foldl (fun s t => match t.2.ctx with | some x => s.enter asid x.stopEntry | none => s) s
  s.stopOthers asid []

/-- Firmware may put n bytes of dumps at `pa`: whole pages of chunks local to a die, where nothing else lies (R69). -/
def State.dumpArea (s : State) (pa n : Nat) : Bool := (List.range 4).any (fun d => s.localFree d (pa, max n 4096))

/-- Bytes of the dump of a teardown. -/
def State.dumpBytes (s : State) (asid pa : Nat) : Nat := (s.writeDump asid pa []).2 - pa

/-- Every queue of the ASID that is being aborted has completed its packets (R54). -/
def State.queuesGone (s : State) (asid : Nat) : Bool :=
  s.chans.all (fun c => !(c.2.owner.isSome && decide (c.2.asid = asid) && c.2.aborted))

/-- The rest of a teardown once its queues are gone, and the driver's notice: each release is complete before the next begins (R236). -/
def State.tearRest (s : State) (asid : Nat) : State :=
  if s.queuesGone asid then
    let s := (s.releaseSync asid).releaseRecords asid
    { s with chains := Tab.del s.chains asid, torn := s.torn.filter (fun a => decide (a ≠ asid)) }.irq 0 0
  else s

/-- TEARDOWN (R236): steps 2 to 4, once every continuation has stopped; `pa` is where the dump goes, a dump area (R69). While a queue's
abort has packets left, a later TEARDOWN goes on. With no fatal cause it is the request of the debugger or of the driver (log 69). -/
def execTeardown (asid pa : Nat) (s : State) : Host.Outcome State Fault Refusal :=
  if s.inTeardown asid = false then .next (if s.mayRequest asid then s.requestTeardown asid else s)
  else if s.torn.contains asid then .next (s.tearRest asid)
  else if s.allStopped asid = false ∨ s.dumpArea pa (s.dumpBytes asid pa) = false then .next s
  else
    let s := (s.writeDump asid pa []).1
    let s := (s.releaseCores asid).releaseQueues asid
    .next ({ s with torn := asid :: s.torn }.tearRest asid)

/-- DUMP_SLOT_RELEASE (R235): the driver writes ST 0. -/
def execDumpSlotRelease (asid : Nat) (s : State) : Host.Outcome State Fault Refusal :=
  .next { s with dslots := Tab.put s.dslots asid (setBits (s.dslot asid) 62 2 0), dumps := Tab.del s.dumps asid }

/-! ### The debug word (R239) -/

def Rec.unhold (r : Rec) : Rec := { r with w0 := setBits r.w0 49 1 0 }

/-- RELEASE_HELD (R239): REL clears HELD in every held record of the ASID, saved contexts included; the time that it was held is no
age (R105, R113). -/
def execReleaseHeld (asid : Nat) (s : State) : Host.Outcome State Fault Refusal :=
  let fc := fun (c : CoreC) => { c with cont := c.cont.map Rec.unhold }
  let fp := fun (c : CoreP) => { c with cont := c.cont.map Rec.unhold }
  let fx := fun (x : Ctx) => { x with cores := x.cores.map fc, pcore := x.pcore.map fp }
  .next { s with
    tasks := s.tasks.map (fun t => if t.2.r.asid = asid ∧ t.2.r.held then
      (t.1, { t.2 with r := t.2.r.unhold, since := t.2.since + (s.now - t.2.pause), ctx := t.2.ctx.map fx }) else t)
    cores := s.cores.map (fun c => if c.2.asid = asid then (c.1, fc c.2) else c)
    pcores := s.pcores.map (fun c => if c.2.asid = asid then (c.1, fp c.2) else c) }

/-- DEBUGGER_DETACH (R239): ATT is cleared, with HOLDP and every breakpoint of the ASID. -/
def execDebuggerDetach (asid : Nat) (s : State) : Host.Outcome State Fault Refusal :=
  .next { s with dbg := Tab.put s.dbg asid 0, bps := s.bps.filter (fun b => decide (b.1 / 8 ≠ asid)) }

/-! ### Address spaces (R77, R103) -/

/-- Firmware writes a descriptor into the table of every die. -/
def State.writeDesc (s : State) (asid : Nat) (f : Nat → Nat) : State :=
  (List.range 4).foldl (fun s d =>
    let a := (s.die d).asidtab.toNat + 64 * asid
    s.write a (f (s.read a 64)) 64) s

/-- Firmware puts a second-stage array into chunks local to a die, where nothing else lies (R69, R78). -/
def State.stage2Ok (s : State) (words : List Word) : Bool :=
  !descS2 words || (List.range 4).any (fun d => s.localFree d (descS2Base words, 8 * descS2Lim words))

/-- ADDRESS_SPACE_CREATE (R77): the descriptor with V set. -/
def execAddressSpaceCreate (asid : Nat) (words : List (BitVec 64)) (s : State) : Host.Outcome State Fault Refusal :=
  if 1024 ≤ asid ∨ s.live.contains asid ∨ s.stage2Ok words = false then .next s
  else
    let s := s.writeDesc asid (fun _ => ofWords ((words.getD 0 0 ||| 1) :: (words.drop 1).take 7))
    .next { s with live := asid :: s.live }

/-- ADDRESS_SPACE_DELETE (R77): V is cleared. -/
def execAddressSpaceDelete (asid : Nat) (s : State) : Host.Outcome State Fault Refusal :=
  if s.live.contains asid then
    let s := s.writeDesc asid (fun x => x / 2 * 2)
    .next { s with live := s.live.filter (fun a => a ≠ asid) }
  else .next s

/-! ### FATAL_THERMAL_FAULT (R33, R224, R235) -/

/-- Every continuation on the module takes a hard stop with cause 0x33. -/
def State.stopModule (s : State) : State :=
  let gs := (s.cores.filter (fun p => decide (p.2.run = .running) && decide (s.leader p.1 = p.1))).map Prod.fst ++
    (s.pcores.filter (fun p => decide (p.2.run = .running))).map Prod.fst
  gs.foldl (fun s g =>
    let has := if isGearC g then (match (s.coreC g).stop with | some r => decide (causeCode r.cause = 0x33) | none => false)
      else (match (s.coreP g).stop with | some r => decide (causeCode r.1 = 0x33) | none => false)
    if has then s else s.asyncStop g 0x33 0) s

/-- Every context of an ASID is dumped: those on cores, with their entries in the chain, and saved ones. -/
def State.dumpAll (s : State) (asid pa : Nat) : State × Nat :=
  let hs := s.coresOf asid
  let s := hs.foldl (fun s g =>
    let w := if isGearC g then (s.coreC g).cause else (s.coreP g).cause
    s.enter asid (s.coreEntry g w)) s
  s.writeDump asid pa ((s.tasks.filter (fun t => decide (t.2.r.asid = asid))).filterMap (fun t => t.2.ctx.map (fun x => (t.1, x))))

/-- FATAL_THERMAL_FAULT (R33): more than 10 ms at 105 °C and 1.2 GHz. Contexts that still run stop; once none runs, every
context is dumped, one ASID after another from `pa`, and power goes. -/
def execFatalThermalFault (i pa : Nat) (s : State) : Host.Outcome State Fault Refusal :=
  match (s.island i).fatal with
  | none => .next s
  | some t =>
    if s.now ≤ t + 10000000 then .next s
    else if s.cores.any (fun p => decide (p.2.run = .running)) || s.pcores.any (fun p => decide (p.2.run = .running)) then
      .next s.stopModule
    else
      let asids := ((s.cores.filter (fun p => decide (p.2.run ≠ .idle))).map (fun p => p.2.asid) ++
        (s.pcores.filter (fun p => decide (p.2.run ≠ .idle))).map (fun p => p.2.asid) ++
        (s.tasks.filter (fun t => t.2.ctx.isSome)).map (fun t => t.2.r.asid)).dedup
      let r := asids.foldl (fun (x : State × Nat) a => let y := x.1.dumpAll a x.2; (y.1, (y.2 + 4095) / 4096 * 4096)) (s, pa)
      if s.dumpArea pa (r.2 - pa) = false then .next s else .next (((r.1.journalEvent 5 i).note 5 i).powerOff)

end Sys2Proof.Machine
end

