-- ==== Sys2Proof/Machine/Peer.lean ====
section
/-! DEFINITION. Peer links: SEND, flits, replay, retraining (R25 to R29, R57, R62, R64). -/

namespace Sys2Proof.Machine

def State.port (s : State) (i : Nat) : Port := Tab.get Port.reset s.peers i
def State.setPort (s : State) (i : Nat) (p : Port) : State := { s with peers := Tab.put s.peers i p }

/-! ### Flits (R25, R26) -/

/-- The header fields that a message fixes: TYPE, VC and MTAG. -/
def flitHdr (type vc tag : Nat) : Word := BitVec.ofNat 64 ((type % 256) <<< 56 + (vc % 4) <<< 54 + tag % 2 ^ 16)
def flitType (h : Word) : Nat := bitsOf h 56 8
def flitVc (h : Word) : Nat := bitsOf h 54 2

/-- A message in flits of 232 payload bytes, the last one padded with zeros: start, continue, last. -/
def msgFlits (vc tag : Nat) (first : Bool) : Nat → List Byte → List Flit
  | 0, _ => []
  | k + 1, l =>
    let pay := l.take 232
    let pay := pay ++ List.replicate (232 - pay.length) 0
    let type := if k = 0 then 3 else if first then 1 else 2
    ⟨flitHdr type vc tag, pay⟩ :: msgFlits vc tag false k (l.drop 232)

/-- Flits of a message of n bytes. -/
def flitCount (n : Nat) : Nat := max 1 ((n + 231) / 232)

/-! ### Sending (R26, R27) -/

/-- Send waiting flits while the port is up and fewer than 2,048 are kept: SEQ, ACKSEQ and CRED are filled in, at most 255 credits in
one flit. The spec gives no count of credits to begin with, and none limits what is sent (log 45). -/
def Port.pump (p : Port) (now : Nat) : Nat → Port
  | 0 => p
  | k + 1 => match p.outq with
    | [] => p
    | f :: t =>
      if p.lanes = 0 ∨ 2048 ≤ p.unack.length then p
      else
        let n := (p.seq + 1) % 4096
        let c := min 255 p.owed
        let h := setBits (setBits (setBits f.hdr 36 12 n) 24 12 p.got) 16 8 c
        let moved := if p.unack = [] then now else p.moved
        Port.pump { p with seq := n, owed := p.owed - c, outq := t, unack := p.unack ++ [{ f with hdr := h }], moved := moved, out := h } now k

def Port.run (p : Port) (now : Nat) : Port := p.pump now p.outq.length

/-- An acknowledge-only flit returns ACKSEQ and the credits that no other flit has taken (R26). It has no place in the sequence (log
45). -/
def Port.ack (p : Port) : Port :=
  if p.owed = 0 ∨ p.lanes = 0 then p
  else
    let c := min 255 p.owed
    { p with owed := p.owed - c, out := setBits (setBits (setBits (flitHdr 4 0 0) 36 12 p.seq) 24 12 p.got) 16 8 c }

/-- Flits that an ACKSEQ acknowledges. -/
def Port.ackCount (p : Port) (a : Nat) : Nat :=
  let n := p.unack.length
  let k := (a + 8192 - (p.seq + 4096 - n)) % 4096
  if n < k then 0 else k

/-- ACKSEQ acknowledges the flits up to it: they are no longer kept, SENDs whose last flit is among them are done, and rows delivered. -/
def Port.acked (p : Port) (a now : Nat) : Port :=
  let k := p.ackCount a
  if k = 0 then p
  else { p with unack := p.unack.drop k, moved := now, replay := 0
                sends := (p.sends.filter (fun x => k < x.1)).map (fun x => (x.1 - k, x.2))
                wire := p.wire.map (fun x => { x with left := x.left - k }) }

/-! ### Messages (log 45) -/

/-- Payload of a message: 16 bytes of head (its kind, an operation code, the aperture offset; the byte count), then its data. -/
def msgBytes (kind op off n : Nat) (data : List Byte) : List Byte :=
  bytesOf 8 ((kind <<< 56) + ((op % 256) <<< 48) + off % 2 ^ 48) ++ bytesOf 8 n ++ data

/-- The number that bytes stand for, little-endian (R19). -/
def ofBytes (l : List Byte) : Nat := l.foldr (fun b x => b.toNat + 256 * x) 0

/-- Hand a message to a port on a virtual channel. -/
def State.sendMsg (s : State) (i vc tag : Nat) (l : List Byte) : State :=
  let q := s.port i
  let q := { q with outq := q.outq ++ msgFlits vc tag true (flitCount l.length) l }
  s.setPort i (q.run s.now)

/-! ### SEND (R57, R62, R64) -/

/-- One row of a SEND: one message on the request channel; it stands at the peer when its last flit has been delivered there (R28,
R218). -/
def State.sendRow (s : State) (ch : Nat) (p : Pkt) (r : Nat) : RowOut × State :=
  match s.rowLocs ch p 1 (r * p.sp : Nat) p.rb .read with
  | (.error x, s) => (.stop, s.pktFault ch p.n x)
  | (.ok sp, s) =>
    if s.piecesLose srcCopy sp then (.stop, s)
    else if s.flashFails sp then (.stop, (s.countLines ch sp).pktDone ch p.n 0x01)
    else
      let s := ((s.meetRow p sp).wonRow sp).countRow ch sp [] p.rb
      let x := s.pieceRead (engOf ch / 8) sp
      let i := bitsOf (p.w 2) 48 4
      let off := (p.addr 2 % 2 ^ 48 + r * p.dp) % 2 ^ 48
      let s := x.2.sendMsg i 0 (p.n % 2 ^ 16) (msgBytes 1 0 off p.rb (bytesOf p.rb x.1))
      let q := s.port i
      let last := q.unack.length + q.outq.length
      let s := s.setPort i { q with
        wire := q.wire ++ [⟨last, off, p.rb, x.1, if p.opnd.getLsbD 0 then some (ch, p.n) else none⟩]
        sends := if p.opnd.getLsbD 0 then q.sends.filter (fun y => y.2 ≠ (ch, p.n)) ++ [(last, ch, p.n)] else q.sends }
      (.go, s.modPkt ch p.n (fun q => { q with row := q.row + 1, retry := false, sent := some s.now }))

/-- SEND: rows as COPY, in flits; a reliable one then waits for the acknowledgement of its last flit. -/
def execSend (ch n : Nat) (s : State) : Host.Outcome State Fault Refusal :=
  s.onPkt ch n 0x06 (fun s p => s.rowsFrom ch p (fun s r => s.sendRow ch p r))

/-- A reliable SEND that has sent its rows and is not yet acknowledged. -/
def State.waitsAck (s : State) (ch n : Nat) : Option Pkt :=
  match s.pkt ch n with
  | some p => if p.op = 0x06 ∧ p.opnd.getLsbD 0 ∧ p.done ∧ p.bad = false ∧ p.sent.isSome ∧ p.acked = false then some p else none
  | none => none

/-- Is the SEND that a row belongs to whole: all its rows issued and acknowledged? One that is not reliable waits for nothing. -/
def State.sendWhole (s : State) (i : Nat) : Option (Nat × Nat) → Bool
  | none => true
  | some (ch, n) => ((s.pkt ch n).all Pkt.done) && !(s.port i).sends.any (fun x => decide (x.2 = (ch, n)))

/-- Rows that an ACKSEQ shows delivered stand at the peer, in the order in which they were sent (R28); those of a reliable SEND only with
the whole of it, since one that ends with status 0x03 has given no step-n flag (R222, log 45). -/
def State.landWire (s : State) (i : Nat) : List WireRow → State
  | [] => s
  | x :: t =>
    if decide (x.left = 0) && s.sendWhole i x.owner then
      ((s.write (locPeer i x.off) x.data x.len).setPort i { s.port i with wire := t }).landWire i t
    else s
def State.landPort (s : State) (i : Nat) : State := s.landWire i (s.port i).wire

/-- SEND_ACKNOWLEDGED (R62). -/
def execSendAcknowledged (ch n : Nat) (s : State) : Host.Outcome State Fault Refusal :=
  match s.waitsAck ch n with
  | none => .next s
  | some p =>
    let i := bitsOf (p.w 2) 48 4
    if (s.port i).sends.any (fun x => decide (x.2 = (ch, n))) then .next s
    else .next ((s.modPkt ch n (fun q => { q with acked := true })).landPort i)

/-- SEND_ACK_TIMEOUT (R64): 10 ms without the acknowledgement: code 0x03, and the peer port is reported down. No row of it stands at the
peer (R222). -/
def execSendAckTimeout (ch n : Nat) (s : State) : Host.Outcome State Fault Refusal :=
  match s.waitsAck ch n with
  | none => .next s
  | some p =>
    let i := bitsOf (p.w 2) 48 4
    let t := s.port i
    if s.now < (p.sent.getD 0) + 10000000 ∨ t.sends.any (fun x => decide (x.2 = (ch, n))) = false then .next s
    else
      let s := s.setPort i { t with
        sends := t.sends.filter (fun x => x.2 ≠ (ch, n)), wire := t.wire.filter (fun x => x.owner ≠ some (ch, n)) }
      .next (((s.modPkt ch n (fun q => { q with code := if q.code = 0 then 0x03 else q.code, acked := true })).note 3 i).landPort i)

/-! ### Receiving (R26 to R28) -/

/-- Corrupt flits (R27): the check fails, a reserved TYPE or VC, a reserved field that is not zero. -/
def flitCorrupt (h : Word) (good : Bool) : Bool :=
  !good || decide (flitType h = 0 ∨ 6 < flitType h ∨ flitVc h = 3 ∨ bitsOf h 48 6 ≠ 0)

/-- Deliver one flit in order: a message is whole with its last flit. -/
def Port.deliver (p : Port) (h : Word) (pay : List Byte) : Port :=
  let key := 65536 * flitVc h + bitsOf h 0 16
  match flitType h with
  | 1 => { p with parts := Tab.put p.parts key pay }
  | 2 => { p with parts := Tab.put p.parts key (Tab.get [] p.parts key ++ pay) }
  | 3 => { p with parts := Tab.del p.parts key, inbox := p.inbox ++ [(key, Tab.get [] p.parts key ++ pay)] }
  | _ => { p with inbox := p.inbox ++ [(key, pay)] }

/-- What the header says of the other direction. -/
def Port.back (p : Port) (h : Word) (now : Nat) : Port :=
  (({ p with cred := p.cred + bitsOf h 16 8 } : Port).acked (bitsOf h 24 12) now).run now

/-- A flit as the port takes it: a corrupt one and every later one are discarded until the sender replays; the flit whose
SEQ is next is delivered; acknowledge-only and idle flits carry no place in the sequence (log 45). -/
def Port.take (p : Port) (h : Word) (pay : List Byte) (good : Bool) (now : Nat) : Port :=
  if flitCorrupt h good then { p with drop := true }
  else if flitType h = 4 ∨ flitType h = 5 then (if p.drop then p else p.back h now)
  else if bitsOf h 36 12 = (p.got + 1) % 4096 then
    (({ p with drop := false, got := (p.got + 1) % 4096, owed := p.owed + 1 } : Port).deliver h pay).back h now
  else p

/-! ### What a message does at this module (R28, R51, R60, R134, R218, R219) -/

/-- Locations of n bytes at an offset of this module's receive aperture: device memory by PA, and above it the scratchpads, as R56 names
them (log 45). A window stands in every member of the tandem. -/
def State.apertureLocs (s : State) (o n : Nat) : List Nat :=
  let core := paBits o 32 9
  let a := o % 2 ^ 28
  if o < 2 ^ 39 then (if o + n ≤ 2 ^ 39 ∧ homePresent (s.homeEnt o) ∧ homePresent (s.homeEnt (o + n - 1)) then [o] else [])
  else match o >>> 44 with
    | 9 => if a + n ≤ padSize 1 then [locCore core a] else []
    | 10 => if a + n ≤ padSize 2 then [locClus (clusterOf core) a] else []
    | 11 => if a + n ≤ padSize 3 then (s.coreC core).group.map (fun m => locCore m (0x70000 + a)) else []
    | _ => []

/-- Perform a message of a peer: kind 1 writes a row, 2 reads, 3 is an ATOM at the home; reads and ATOMs are answered on the response
channel. -/
def State.perform (s : State) (i tag : Nat) (l : List Byte) : State :=
  let num := fun (o n : Nat) => ofBytes ((l.drop o).take n)
  let kind := num 7 1
  let off := num 0 6
  let n := num 8 8
  match s.apertureLocs off n with
  | [] => s
  | a :: rest =>
    let old := s.read a n
    match kind with
    | 1 => (a :: rest).foldl (fun s a => s.write a (num 16 n) n) s
    | 2 => s.sendMsg i 1 tag (msgBytes 0x82 0 off n (bytesOf n old))
    | 3 =>
      if atomOk (num 6 1) n && decide (off % n = 0 ∧ off < 2 ^ 39) then
        (s.write a (atomNew (num 6 1) old (num 16 8) (num 24 8)) n).sendMsg i 1 tag (msgBytes 0x83 0 off n (bytesOf n old))
      else s
    | _ => s

/-- A peer's row would land in a scratchpad whose shutter is closed, which clamps it (R246). -/
def State.shutMsg (s : State) (l : List Byte) : Bool :=
  let num := fun (o n : Nat) => ofBytes ((l.drop o).take n)
  decide (num 7 1 = 1) && (s.apertureLocs (num 0 6) (num 8 8)).any s.shutAt

/-- Requests that have been delivered whole are performed, oldest first, up to one that a shutter clamps; it and those after it stay with
the port, as responses and management messages do. The state and what stays. -/
def State.performAll (s : State) (i : Nat) : List (Nat × List Byte) → State × List (Nat × List Byte)
  | [] => (s, [])
  | m :: t =>
    if 65536 ≤ m.1 then
      let r := s.performAll i t
      (r.1, m :: r.2)
    else if s.shutMsg m.2 then (s, m :: t)
    else (s.perform i m.1 m.2).performAll i t

/-- A port keeps requests that a shutter has clamped. -/
def Port.waits (p : Port) : Bool := p.inbox.any (fun m => decide (m.1 < 65536))

/-- Clamped requests of a port go on once shutters open (R246). -/
def State.performHeld (s : State) (i : Nat) : State :=
  if (s.port i).waits then
    let r := (s.setPort i { s.port i with inbox := [] }).performAll i (s.port i).inbox
    r.1.setPort i { r.1.port i with inbox := r.2 }
  else s

/-- FLIT_RECEIVE (R27, R28): the flits it acknowledges have been delivered, and a message that it completes is performed. What no other
flit has acknowledged is acknowledged by itself. -/
def execFlitReceive (port : Nat) (hdr : BitVec 64) (payload : List (BitVec 8)) (good : Bool) (s : State) :
    Host.Outcome State Fault Refusal :=
  let p := s.port port
  if 16 ≤ port ∨ p.lanes = 0 then .next s
  else
    let q := p.take hdr payload (good && decide (payload.length = 232)) s.now
    let new := q.inbox.drop p.inbox.length
    let v := (s.setPort port { q with inbox := p.inbox }).landPort port
    let r := if p.waits then (v, new) else v.performAll port new
    .next (r.1.setPort port ({ r.1.port port with inbox := (r.1.port port).inbox ++ r.2 } : Port).ack)

/-- FLIT_REPLAY (R27): 8 µs without progress of ACKSEQ. -/
def execFlitReplay (port : Nat) (s : State) : Host.Outcome State Fault Refusal :=
  let p := s.port port
  if p.lanes ≠ 0 ∧ p.unack ≠ [] ∧ p.replay < 16 ∧ p.moved + 8000 ≤ s.now then
    .next (s.setPort port { p with replay := p.replay + 1, moved := s.now })
  else .next s

/-- PORT_RETRAIN (R27, R29): after 16 replays; the outcome 0 is eight lanes, 1 and 2 the four-lane forms, others down. -/
def execPortRetrain (port outcome : Nat) (s : State) : Host.Outcome State Fault Refusal :=
  let p := s.port port
  if p.lanes ≠ 0 ∧ 16 ≤ p.replay then
    let lanes := if outcome = 0 then 8 else if outcome < 3 then 4 else 0
    let s := s.setPort port { p with lanes := lanes, replay := 0, moved := s.now }
    let s := s.journalStep 0x50 port (if outcome = 0 then 0 else if outcome < 3 then 1 else 2) (min outcome 2)
    .next (s.note 2 (256 * 0x50 + port))
  else .next s

end Sys2Proof.Machine
end

