-- ==== Sys2Proof/Machine/Invalidate.lean ====
section
/-! DEFINITION. Walks, invalidation of translations, the home map (R69 to R72, R77, R82 to R86). -/

namespace Sys2Proof.Machine

/-- PAGE_WALK (R82, R83): the walker resolves a lookup of engine e, and installs the translation. -/
def execPageWalk (e asid va : Nat) (acc : Acc) (s : State) : Host.Outcome State Fault Refusal :=
  .next (s.translate e asid va acc none).2

/-! ### INVCMD, INVVA, INVSTAT (R84) -/

/-- Does a command of a KIND match an entry? -/
def invMatch (kind vm asid va : Nat) (t : TlbEnt) : Bool :=
  match kind with
  | 0 => decide (t.asid = asid ∧ t.base ≤ va ∧ va < t.base + 2 ^ t.size)
  | 1 => decide (t.asid = asid) && !leafG t.leaf
  | 2 => decide (t.vm = vm)
  | _ => true

/-- Apply a function to every translation of the module, those included that left a TLB while packets hold them; `none` removes it. -/
def State.mapTlbs (s : State) (f : TlbEnt → Option TlbEnt) : State :=
  { s with ces := s.ces.map (fun e => (e.1, { e.2 with
    tlb := e.2.tlb.filterMap (fun t => (f t.2).map (fun x => (t.1, x))), gone := e.2.gone.filterMap f })) }

/-- Some packet holds a retired translation that `hit` accepts (R86). -/
def State.retiredHeld (s : State) (hit : TlbEnt → Bool) : Bool :=
  s.ces.any (fun e => (e.2.tlb.map Prod.snd ++ e.2.gone).any (fun t => t.retired && hit t && !t.holders.isEmpty))

def invBusy (w : Word) : Bool := w.getLsbD 0

/-- Walk-cache entries that a command drops: those of the ASID or VM that it names; all of them for KIND 11. -/
def State.invWalk (s : State) (kind vm asid : Nat) : State :=
  (List.range 4).foldl (fun s d =>
    let x := s.die d
    let hit := fun (k : Nat) => match kind with
      | 0 | 1 => decide ((k >>> 64) % 2 ^ 16 = asid)
      | 2 => decide (k >>> 80 = vm)
      | _ => true
    s.setDie d { x with wc := x.wc.filter (fun e => !hit e.1) }) s

/-- What a command makes every later walk read anew: the walk-cache entries it names are dropped, and KIND 01 has the loaded descriptor
of the ASID read anew (R77, R84, R85). -/
def State.invAnew (s : State) (kind vm asid : Nat) : State :=
  let s := s.invWalk kind vm asid
  if kind = 1 then
    { s with
      ces := s.ces.map (fun e => (e.1, { e.2 with descs := Tab.del e.2.descs asid }))
      dies := s.dies.map (fun d => (d.1, { d.2 with descs := Tab.del d.2.descs asid })) }
  else s

/-- GO (R84, R86 phase 1): refused with ERR, and INVCMD keeps what it held, since a refused command has no effect (log 82); or started:
matching pinned entries are retired. A walk after GO reads tables and descriptors anew, so that an entry which it installs, and which the
command does not remove, has seen every table write made before GO (R85, log 82). -/
def State.invGo (s : State) (w : Word) : State :=
  if invBusy s.invstat ∨ bitsOf w 19 44 ≠ 0 ∨ bitsOf s.invva 54 10 ≠ 0 ∨ bitsOf s.invva 0 12 ≠ 0 then
    { s with invstat := s.invstat ||| 4 }
  else
    let kind := bitsOf w 17 2
    let vm := bitsOf w 10 7
    let asid := bitsOf w 0 10
    let va := s.invva.toNat
    let s := s.mapTlbs (fun t => some (if invMatch kind vm asid va t && leafPin t.leaf then { t with retired := true } else t))
    let held := s.retiredHeld (invMatch kind vm asid va)
    { s.invAnew kind vm asid with
      invcmd := w &&& 0x7FFFFFFFFFFFFFFF, invnow := some (kind, vm, asid, va)
      invstat := (s.invstat &&& ~~~(7 : Word)) ||| (if held then 3 else 1) }

/-- INVALIDATE_VA: KIND 00. -/
def execInvalidateVa (w : BitVec 64) (s : State) : Host.Outcome State Fault Refusal := .next (s.invGo (setBits w 17 2 0))
/-- INVALIDATE_ASID: KIND 01. -/
def execInvalidateAsid (w : BitVec 64) (s : State) : Host.Outcome State Fault Refusal := .next (s.invGo (setBits w 17 2 1))
/-- INVALIDATE_VM: KIND 10. -/
def execInvalidateVm (w : BitVec 64) (s : State) : Host.Outcome State Fault Refusal := .next (s.invGo (setBits w 17 2 2))
/-- INVALIDATE_ALL: KIND 11. -/
def execInvalidateAll (w : BitVec 64) (s : State) : Host.Outcome State Fault Refusal := .next (s.invGo (setBits w 17 2 3))

/-- INVALIDATE_COMPLETE (R85, R86): with no packet left that holds a retired entry, the entries are removed and DONE advances; a
pinned one that was walked after GO stays. A KIND 01 command has loaded descriptors of the ASID read anew (R77). -/
def execInvalidateComplete (s : State) : Host.Outcome State Fault Refusal :=
  match s.invnow with
  | none => .next s
  | some (kind, vm, asid, va) =>
    let hit := invMatch kind vm asid va
    if s.retiredHeld hit then
      .next { s with invstat := s.invstat ||| 2 }
    else
      let s := s.mapTlbs (fun t => if hit t && (t.retired || !leafPin t.leaf) then none else some t)
      let s := s.invAnew kind vm asid
      let done := bitsOf s.invstat 32 32 + 1
      .next { s with invnow := none, invstat := setBits (s.invstat &&& ~~~(3 : Word)) 32 32 done }

/-! ### The home map (R69, R70, R72) -/

/-- Some translation maps the chunk: by its frame, or by the second-stage entries that it has used (R72, R78). -/
def State.chunkMapped (s : State) (chunk : Nat) : Bool :=
  s.ces.any (fun e => (e.2.tlb.map Prod.snd ++ e.2.gone).any (fun t => decide (t.tier = 0) &&
    (if t.host = [] then decide (t.frame < (chunk + 1) <<< 21 ∧ chunk <<< 21 < t.frame + 2 ^ t.size)
     else t.host.any (fun h => decide (h.2.1 / 2 ^ 21 = chunk)))))

/-- HOME_MAP_CHANGE (R72): only while backing remains, and for a present chunk only once no translation maps it; every die
takes it, and the RLC lines of the chunk are discarded. -/
def execHomeMapChange (chunk : Nat) (ent : BitVec 4) (s : State) : Host.Outcome State Fault Refusal :=
  let s' := { s with home := Tab.put s.home chunk ent }
  if 2 ^ 18 ≤ chunk ∨ (homePresent (Tab.get 0 s.home chunk) ∧ s.chunkMapped chunk) ∨
      (List.range 4).any (fun d => decide (backingMax < s'.backing d)) then .next s
  else .next ((List.range 4).foldl (fun s d =>
    s.setDie d { s.die d with rlc := (s.die d).rlc.filter (fun l => decide (l.1 >>> 21 ≠ chunk)) }) s')

end Sys2Proof.Machine
end

