-- ==== Sys2Proof/Machine/Debug.lean ====
section
/-! DEFINITION. The debugger's commands and the shutter (R239 to R246). -/

namespace Sys2Proof.Machine

/-- The block's word at +0x08 (R240). -/
def State.blockStatus (s : State) (g : Nat) : Word :=
  let b := s.block g
  BitVec.ofNat 64 (b.busy.toNat <<< 63 + b.err.toNat <<< 62 + b.halted.toNat <<< 61 + b.shut.toNat <<< 60 + b.shack.toNat <<< 59 +
    b.ended.toNat <<< 58 + (if s.runOf g = .idle then 0 else s.asidOf g) <<< 48)

/-! ### The frame of a command (R240, R241) -/

/-- A command at core g acts on every core of its continuation; a refused one sets ERR and changes nothing else. -/
def State.command (s : State) (g : Nat) (ok : Bool) (act : State → List Nat → State) : Host.Outcome State Fault Refusal :=
  if ok && !(s.block g).busy then
    let grp := s.groupOf g
    .next (act (grp.foldl (fun s m => s.modBlock m (fun b => { b with err := false })) s) grp)
  else .next (s.modBlock g (fun b => { b with err := true }))

def State.halted (s : State) (g : Nat) : Bool := (s.block g).halted

/-- HALT: a hard stop with cause 0x31, after which the context stays resident (R241, R242). -/
def execHalt (g : Nat) (s : State) : Host.Outcome State Fault Refusal :=
  s.command g (decide (s.runOf g = .running) && s.attached (s.asidOf g)) (fun s grp =>
    (grp.foldl (fun s m => s.modBlock m (fun b => { b with busy := true })) s).asyncStop g 0x31 0)

/-- Open the shutter: held packets, and peers' rows, go on (R246). -/
def State.open_ (s : State) (grp : List Nat) : State :=
  (List.range 16).foldl State.performHeld (grp.foldl (fun s m => s.modBlock m (fun b => { b with shut := false, shack := false })) s)

/-- The resident context runs again (R174); the time that it stood halted is not charged (R107). -/
def State.runResident (s : State) (g : Nat) (grp : List Nat) : State :=
  let was := grp.any (fun m => if isGearC m then (s.coreC m).shift else (s.coreP m).shift)
  let t := (s.taskOf g).getD 0
  let s := match s.task t with
    | some x => s.setTask t { x with start := x.start + (s.now - x.halted.getD s.now), halted := none }
    | none => s
  let clk := sharedClk (grp.map s.coreC)
  let s := grp.foldl (fun s m =>
    if isGearC m then s.modC m (fun c => c.resumed clk s.now)
    else s.modP m (fun c => { c with run := .running, stop := none, soft := none, shift := false, again := false, issAt := s.now - c.stall })) s
  let s := grp.foldl (fun s m => s.modBlock m (fun b => { b with halted := false, ended := false })) s
  s.shiftAgain g was

/-- RUN (R241): the shutter opens first, and the record loses HELD (log 48). -/
def execRunHalted (g : Nat) (s : State) : Host.Outcome State Fault Refusal :=
  s.command g (s.halted g) (fun s grp => ((s.open_ grp).markHeld g false).runResident g grp)

/-- STEP (R242, R243): the context resumes with its stop fixed at the bundle after E, or after one instruction. -/
def execStepHalted (g : Nat) (s : State) : Host.Outcome State Fault Refusal :=
  s.command g (s.halted g) (fun s grp =>
    let old := grp.map (fun m => (s.coreC m).stop)
    let s := (s.runResident g grp).modAll (fun c => { c with step1 := true }) (grp.filter isGearC)
    let s := grp.foldl (fun s m => s.modBlock m (fun b => { b with busy := true })) s
    if isGearC g then
      (grp.zip old).foldl (fun (s : State) (x : Nat × Option StopReq) => match x.2 with
        | some r => s.requestStop x.1 ⟨r.idx + 1, r.addr, causeWord true 0 0x31 0, none, none⟩
        | none => s) s
    else s.modP g (fun c => { c with step1 := true }))

/-- SHUT (R246). -/
def execShut (g : Nat) (s : State) : Host.Outcome State Fault Refusal :=
  s.command g (s.halted g && !(s.block g).shut) (fun s grp =>
    grp.foldl (fun s m => s.modBlock m (fun b => { b with shut := true, shack := false })) s)

/-- SHUTTER_ACK (R246): the packets that had written into the scratchpad before have finished, those of privileged queues apart, which
the shutter does not clamp. -/
def execShutterAck (g : Nat) (s : State) : Host.Outcome State Fault Refusal :=
  let b := s.block g
  if b.shut = false ∨ b.shack ∨ s.chans.any (fun c => !c.2.priv c.1 && c.2.pkts.any (fun p => !p.done && p.into.contains g)) then .next s
  else .next (s.modBlock g (fun b => { b with shack := true }))

/-- OPEN (R241, R246). -/
def execOpenShutter (g : Nat) (s : State) : Host.Outcome State Fault Refusal :=
  s.command g (s.block g).shut (fun s grp => s.open_ grp)

/-- IMGOUT (R241, R242): one image after another for the members of a tandem; an uncorrectable word of a scratchpad ends the
continuation instead (R228). -/
def execImgout (g : Nat) (s : State) : Host.Outcome State Fault Refusal :=
  s.command g (s.halted g) (fun s grp =>
    let a := (s.block g).dpa
    let n := imageSize (if isGearC g then imagePartC else imagePartP)
    if let some x := s.badPad true grp then s.spoiled x else
    (grp.zip (List.range grp.length)).foldl (fun (s : State) (x : Nat × Nat) => (s.contextOut true x.1 (a + n * x.2)).1) s)

/-- IMGIN (R241, R242): refused where a header names another stepping, core or lane. -/
def execImgin (g : Nat) (s : State) : Host.Outcome State Fault Refusal :=
  let a := (s.block g).dpa
  let n := imageSize (if isGearC g then imagePartC else imagePartP)
  let l := (s.groupOf g).zip (List.range (s.groupOf g).length)
  s.command g (s.halted g && l.all (fun x => s.imageFits x.1 (a + n * x.2))) (fun s _ =>
    l.foldl (fun (s : State) (x : Nat × Nat) => s.imageIn x.1 (a + n * x.2)) s)

/-- EVICT (R241): the context is saved with its record, which keeps HELD. -/
def execEvict (g : Nat) (s : State) : Host.Outcome State Fault Refusal :=
  s.command g (s.halted g) (fun s grp =>
    (grp.foldl (fun s m => s.modBlock m (fun b => { b with halted := false })) s).saveOrSpoil g)

end Sys2Proof.Machine
end

