-- ==== Sys2Proof/Machine/Tracing.lean ====
section
/-! DEFINITION. Profiling sessions, samples, record and replay (R247 to R255). -/

namespace Sys2Proof.Machine

/-- The event catalogue (R247). -/
def eventKnown (e : Nat) : Bool :=
  decide ((0x0101 ≤ e ∧ e ≤ 0x0102) ∨ (0x0110 ≤ e ∧ e ≤ 0x0117) ∨ e = 0x0120 ∨ (0x0201 ≤ e ∧ e ≤ 0x0207) ∨
    (0x0301 ≤ e ∧ e ≤ 0x0304) ∨ (0x0401 ≤ e ∧ e ≤ 0x0404) ∨ (0x0501 ≤ e ∧ e ≤ 0x0504) ∨ e = 0x0601)

/-- PROFILE_SESSION_WRITE (R248, R250): word 0, or slot i − 1; an identifier that the catalogue lacks is unavailable. -/
def execProfileSessionWrite (asid i : Nat) (w : BitVec 64) (s : State) : Host.Outcome State Fault Refusal :=
  let put := fun (x : Word) => Host.Outcome.next { s with prof := Tab.put s.prof (16 * asid + i) x }
  if 1024 ≤ asid ∨ 8 < i then .next s
  else if i = 0 then put (w &&& 0x8000FFFFFFFFFFC0)
  else put ((if eventKnown (bitsOf w 0 16) then w else setBits w 62 2 2) &&& 0xC00000000000FFFF)

/-! ### Samples (R251, R252) -/

/-- The cadence count of a core: cycles on gear C, instructions on gears S and M (R163, R238). -/
def State.cadOf (s : State) (g : Nat) : Word := if isGearC g then (s.coreC g).cad else (s.coreP g).retired
/-- A core takes one sample at each cadence. -/
def State.markSample (s : State) (g : Nat) : State :=
  if isGearC g then s.modC g (fun c => { c with sampled := some c.cad }) else s.modP g (fun c => { c with sampled := some c.retired })
def State.sampledAt (s : State) (g : Nat) : Option Word := if isGearC g then (s.coreC g).sampled else (s.coreP g).sampled

/-- Sampling of a kind is on for core g's die, its cadence counter stands at a period, and it has no sample of that cadence yet. -/
def State.sampleDue (s : State) (g kind : Nat) : Bool :=
  let w := Tab.get 0 (s.die (dieOf g)).trace 4
  w.getLsbD 63 && decide ((w.getLsbD 62).toNat = kind ∧ bitsOf w 0 20 ≠ 0 ∧ (s.cadOf g).toNat % bitsOf w 0 20 = 0) &&
    decide (s.runOf g = .running) && decide (s.sampledAt g ≠ some (s.cadOf g))

/-- Address of the next bundle of core g's trailing slot, or of its next instruction. -/
def State.nextAddr (s : State) (g : Nat) : Nat :=
  if isGearC g then (s.coreC (s.leader g)).addrOf (s.coreC (s.leader g)).trailing else (s.coreP g).pc

/-- BUNDLE_SAMPLE (R252): kind 3. -/
def execBundleSample (g : Nat) (s : State) : Host.Outcome State Fault Refusal :=
  if s.sampleDue g 0 then .next ((s.traceRec (dieOf g) (s.nameAt g (s.nextAddr g)) 3 0 (s.asidOf g) 0).markSample g) else .next s

/-- ENGINE_SAMPLE (R252, R198): kind 4, with the class of the tick as it began and the name of the bundle that it is charged to, as that
issued (R238). With no command in flight and none waiting, the record is written when the next one is consumed, which it names (log
49). -/
def execEngineSample (g : Nat) (s : State) : Host.Outcome State Fault Refusal :=
  if isGearC g && s.sampleDue g 1 then
    let c := s.coreC g
    let s := s.markSample g
    match c.tickOf with
    | some m => .next (s.traceRec (dieOf g) (bundleName m.1 (coordOf g) m.2) 4 c.tick.1 (s.asidOf g) 0)
    | none => .next (s.modC g (fun c => { c with unnamed := c.unnamed + 1 }))
  else .next s

/-- The sample that a core of a list takes now (R252). -/
def State.sampleNow (s : State) (l : List Nat) : Option (Host.Outcome State Fault Refusal) :=
  match l.find? (fun g => s.sampleDue g 0 || (isGearC g && s.sampleDue g 1)) with
  | none => none
  | some g => some (if s.sampleDue g 0 then execBundleSample g s else execEngineSample g s)

/-! ### Record and replay (R253 to R255) -/

/-- Every running core takes a hard stop with cause 0x31. -/
def State.stopAll31 (s : State) : State :=
  ((s.cores.filter (fun p => decide (p.2.run = .running) && decide (s.leader p.1 = p.1))).map Prod.fst ++
    (s.pcores.filter (fun p => decide (p.2.run = .running))).map Prod.fst).foldl (fun s g => s.asyncStop g 0x31 0) s

/-- REPLAY_DIVERGENCE (R254): the forced winner g is not a requester. -/
def execReplayDivergence (g : Nat) (s : State) : Host.Outcome State Fault Refusal :=
  if s.boot.mode = 2 then
    .next ((s.traceRec (dieOf g) (s.nameAt g (s.nextAddr g)) 7 0 (s.asidOf g) 0).stopAll31)
  else .next s

/-- RECORD_BUFFER_FULL (R255): the die's cores pause. -/
def execRecordBufferFull (d : Nat) (s : State) : Host.Outcome State Fault Refusal :=
  if s.recording ∧ d < 4 then .next (s.setDie d { s.die d with recFull := true }) else .next s

/-- RECORD_BUFFER_DRAINED (R255): they go on. -/
def execRecordBufferDrained (d : Nat) (s : State) : Host.Outcome State Fault Refusal :=
  if d < 4 then .next (s.setDie d { s.die d with recFull := false }) else .next s

/-- RECORD_REGION_FULL (R255): recording ends, and the journal says so; a replay stops there with cause 0x31. -/
def execRecordRegionFull (s : State) : Host.Outcome State Fault Refusal :=
  if s.boot.mode = 2 then .next s.stopAll31
  else if s.recording then
    .next ((({ s with recording := false } : State).journalEvent 6 0).note 6 0)
  else .next s

end Sys2Proof.Machine
end

