-- ==== Sys2Proof/Machine/HostIo.lean ====
section
/-! DEFINITION. The host: BAR2 windows, PCIe atomics, the registers of BAR0 (R45 to R48, R84, R95, R108, R118, R155, R229,
R235, R239, R240, R244, R248, R251, R437). -/

namespace Sys2Proof.Machine

def State.tell (s : State) (m : HostMsg) : State := { s with host := s.host ++ [m] }

/-! ### BAR2 (R46, R155) -/

/-- Locations of n bytes at an offset of a function's BAR2, or what the access completes with. A VF's window is the VA space
of its ASID, the lowest live one of its VM (log 51), walked at C-die 0. -/
def State.bar2Locs (s : State) (fn addr n : Nat) (acc : Acc) : Except HostMsg (List (Nat × Nat)) × State :=
  if fn = 0 then
    if s.bar2 < addr + n then (.error .unsupported, s)
    else if (List.range (n / 2 ^ 21 + 2)).all (fun i => homePresent (s.homeEnt (min (addr + 2 ^ 21 * i) (addr + n - 1)))) then
      (.ok [(addr, n)], s)
    else (.error .abort, s)
  else if 64 < fn ∨ 2 ^ 34 < addr + n then (.error .unsupported, s)
  else match (List.range 1024).find? (fun a => s.live.contains a && decide (descVm (s.readDesc 0 a) = fn)) with
    | none => (.error .abort, s)
    | some asid => match s.vaLocs 0 asid addr n acc (n / 4096 + 2) with
      | (.error _, s) => (.error .abort, s)
      | (.ok l, s) => (.ok l, s)

/-- HOST_BAR2_WRITE (R46, R155): performed at the homes, whole or not at all. -/
def execHostBar2Write (fn addr : Nat) (data : List (BitVec 8)) (s : State) : Host.Outcome State Fault Refusal :=
  match s.bar2Locs fn addr data.length .write with
  | (.error m, s) => .next (s.tell m)
  | (.ok l, s) => .next ((s.writeLocs (data.foldr (fun b x => b.toNat + 256 * x) 0) l).tell .done)

/-- HOST_BAR2_READ (R46, R155): served at the homes, never from an RLC. -/
def execHostBar2Read (fn addr n : Nat) (s : State) : Host.Outcome State Fault Refusal :=
  match s.bar2Locs fn addr n .read with
  | (.error m, s) => .next (s.tell m)
  | (.ok l, s) => .next (s.tell (.data (s.readLocs l) n))

/-- Atomics that the Ecune completes (R45), naturally aligned. -/
def hostAtomOk (op : HostAtom) (addr width : Nat) : Bool :=
  decide (addr % width = 0) && (match op with
    | .cas => decide (width = 8)
    | _ => decide (width = 4 ∨ width = 8))

/-- HOST_ATOMIC (R45, R46): one read-modify-write at the home; the host receives the old value. Where a function's leaf lies in host memory
there is no home, and the Ecune requests no atomic of the host (R45, R60): it completes as a fault does (DESIGN CHOICE, log 101). -/
def execHostAtomic (fn addr width : Nat) (op : HostAtom) (val cmp : BitVec 64) (s : State) :
    Host.Outcome State Fault Refusal :=
  if hostAtomOk op addr width = false then .next (s.tell .unsupported)
  else match s.bar2Locs fn addr width .write with
    | (.error m, s) => .next (s.tell m)
    | (.ok l, s) =>
      if l.any (fun x => decide (locHost 0 ≤ x.1 ∧ x.1 < locPeer 0 0)) then .next (s.tell .abort) else
      let old := s.readLocs l
      let new := match op with
        | .fetchAdd => (old + val.toNat) % 2 ^ (8 * width)
        | .swap => val.toNat % 2 ^ (8 * width)
        | .cas => if old = cmp.toNat then val.toNat else old
      .next ((s.writeLocs new l).tell (.data old width))

/-- The host sets the size of PF0's BAR2 through the Resizable BAR capability (R45). -/
def State.resizeBar (s : State) (size : Nat) : State :=
  if [36, 37, 38, 39].any (fun k => decide (size = 2 ^ k)) then { s with bar2 := size } else s

/-! ### BAR0 (R46) -/

/-- The state of an outcome that goes on. -/
def outState (s : State) (o : Host.Outcome State Fault Refusal) : State := match o with
  | .next s => s
  | _ => s

/-- Bits that software writes in a descriptor's words (R48). -/
def descMask (fn k : Nat) : Word :=
  match k with
  | 0 | 1 => 0x003FFFFFFFFFFFC0
  | 3 => 0x003FFFFFFFFFFFF8
  | 5 => if fn = 0 then 0x0000FFE003FF001F else 0x0000FFE00000001F
  | _ => 0

/-- A write to word k of descriptor i (R47, R48, R50): word 6 creates or closes the queue; any other change while VALID is 1
is refused with ERR. -/
def State.descWrite (s : State) (fn i k : Nat) (val : Word) : State :=
  if k = 6 then
    (if val.getLsbD 0 = s.descValid fn i then s.descOk fn i
     else if val.getLsbD 0 then s.createQueue fn i else s.closeQueue fn i)
  else
    let m := descMask fn k
    let new := val &&& m
    if s.descWord fn i k &&& m = new then s.descOk fn i
    else if s.descValid fn i then s.descErr fn i else (s.setDescWord fn i k new).descOk fn i

/-- A write to word k of a core's debug block (R240). -/
def State.blockWrite (s : State) (g k : Nat) (val : Word) : State :=
  match k with
  | 0 => outState s (match bitsOf val 0 4 with
      | 1 => execHalt g s
      | 2 => execRunHalted g s
      | 3 => execStepHalted g s
      | 4 => execShut g s
      | 5 => execOpenShutter g s
      | 6 => execImgout g s
      | 7 => execImgin g s
      | 8 => execEvict g s
      | _ => .next (s.modBlock g (fun b => { b with err := true })))
  | 2 => s.modBlock g (fun b => { b with dpa := bitsOf val 12 36 <<< 12 })
  | 3 => s.modBlock g (fun b => { b with cen := val.getLsbD 63, cadv := bitsOf val 0 63 })
  | _ => s

/-- A write to an ASID's debug word (R239). -/
def State.debugWrite (s : State) (asid : Nat) (val : Word) : State :=
  let s := if val.getLsbD 2 then outState s (execReleaseHeld asid s) else s
  if s.attached asid && !val.getLsbD 0 then outState s (execDebuggerDetach asid s)
  else { s with dbg := Tab.put s.dbg asid (val &&& 3) }

/-- A write to word k of the trace ring of die d (R251). -/
def State.traceWrite (s : State) (d k : Nat) (val : Word) : State :=
  let x := s.die d
  let put := fun (w : Word) => s.setDie d { x with trace := Tab.put x.trace k w }
  match k with
  | 0 =>
    let log := bitsOf val 0 5
    let w := val &&& 0x8000FFFFFFFFFFFF
    put (if 10 ≤ log ∧ log ≤ 24 then w else setBits w 63 1 0)
  | 3 => put val
  | 4 =>
    let w := val &&& 0xC0000000000FFFFF
    put (if bitsOf val 0 20 = 0 then setBits w 63 1 0 else w)
  | _ => s

/-- The word of a function's MSI-X table at an offset of its BAR0 past the registers that the spec places (R46, log 73): 2,048 vectors of two
words in PF0, 64 in a VF (R45). -/
def msixIdx (fn off : Nat) : Option Nat :=
  let a := Config.msixAt fn
  let room := if fn = 0 then decide (0x210000 ≤ off ∧ off < 0x1000000) else decide (0x400 ≤ off ∧ off < 0x10000)
  if room && decide (a ≤ off ∧ off < a + 16 * (if fn = 0 then 2048 else 64) ∧ (off - a) % 8 = 0) then some (8192 * fn + (off - a) / 8)
  else none

/-- A word of the table; a vector is masked until it is written (log 73). -/
def State.msixWord (s : State) (i : Nat) : Word := Tab.get (if i % 2 = 1 then 1 <<< 32 else 0) s.msix i

/-- The counter of R87 that an offset past those registers reads. -/
def State.countWord (s : State) (off : Nat) : Option Word :=
  if 0x210000 ≤ off ∧ off < 0x1000000 then
    (List.range 32).findSome? (fun e =>
      if off = Config.countAt e 0 then some (s.ce e).lreq else if off = Config.countAt e 1 then some (s.ce e).rreq else none)
  else none

/-- PF0's registers by offset; nothing where the offset is not implemented. -/
def State.pfWrite (s : State) (off : Nat) (val : Word) : Option State :=
  let word := off % 8 = 0
  if off < 0x20000 ∧ word then some (s.descWrite 0 (off / 64) (off % 64 / 8) val)
  else if off = 0x100000 then
    some (if val.getLsbD 63 then s.invGo val else { s with invcmd := val &&& 0x7FFFFFFFFFFFFFFF })
  else if off = 0x100008 then some { s with invva := val }
  else if off = 0x100010 then some s
  else if 0x110000 ≤ off ∧ off < 0x110400 then
    some { s with weights := Tab.put s.weights (off - 0x110000) (val.setWidth 8 &&& 0x0F) }
  else if 0x120000 ≤ off ∧ off < 0x120400 ∧ off % 4 = 0 then
    some { s with stagemap := Tab.put s.stagemap ((off - 0x120000) / 4) (val.setWidth 32) }
  else if 0x130000 ≤ off ∧ off < 0x130208 ∧ word then
    some { s with qlimit := Tab.put s.qlimit ((off - 0x130000) / 8) (bitsOf val 0 32) }
  else if 0x140000 ≤ off ∧ off < 0x140208 ∧ word then
    some { s with limits := Tab.put s.limits ((off - 0x140000) / 8) (val &&& 0x0000FFFF000FFFFF) }
  else if 0x150000 ≤ off ∧ off < 0x152000 ∧ word then
    some (if bitsOf val 62 2 = 0 then outState s (execDumpSlotRelease ((off - 0x150000) / 8) s) else s)
  else if 0x160000 ≤ off ∧ off < 0x16A000 ∧ word then some (s.blockWrite ((off - 0x160000) / 64) (off % 64 / 8) val)
  else if 0x170000 ≤ off ∧ off < 0x172000 ∧ word then some (s.debugWrite ((off - 0x170000) / 8) val)
  else if 0x180000 ≤ off ∧ off < 0x190000 ∧ word then
    some { s with bps := Tab.put s.bps ((off - 0x180000) / 8) (val &&& 0xC000FFFFFFFFFFFC) }
  else if 0x1A0000 ≤ off ∧ off < 0x1C0000 ∧ word then
    some (outState s (execProfileSessionWrite ((off - 0x1A0000) / 128) (off % 128 / 8) val s))
  else if 0x1C0000 ≤ off ∧ off < 0x1C0100 ∧ word then some (s.traceWrite ((off - 0x1C0000) / 64) (off % 64 / 8) val)
  else if 0x200000 ≤ off ∧ off < 0x210000 ∧ off % 1024 < 128 ∧ word then
    some (outState s (execChannelBind ((off - 0x200000) / 1024 + 1) (off % 1024 / 8) val s))
  else match msixIdx 0 off with
    | some i => some { s with msix := Tab.put s.msix i val }
    | none => (s.countWord off).map (fun _ => s)

/-- REGISTER_WRITE (R46): a write to BAR0 of a function; one to an unimplemented offset is an Unsupported Request. -/
def execRegisterWrite (fn off : Nat) (val : BitVec 64) (s : State) : Host.Outcome State Fault Refusal :=
  if fn = 0 then
    match s.pfWrite off val with
    | some s => .next s
    | none => .next (s.tell .unsupported)
  else if fn ≤ 64 ∧ off < 1024 ∧ off % 8 = 0 then .next (s.descWrite fn (off / 64) (off % 64 / 8) val)
  else match if fn ≤ 64 then msixIdx fn off else none with
    | some i => .next { s with msix := Tab.put s.msix i val }
    | none => .next (s.tell .unsupported)

/-- PF0's registers as it reads them, by offset; nothing where the offset is not implemented. A weight and a stage-map entry read as they
stand, a 0 too, which the scheduler takes for 1 and for all ones (R95, R108, log 90). -/
def State.pfRead (s : State) (off : Nat) : Option Word :=
  let word := off % 8 = 0
  let k := off % 64 / 8
  if off < 0x20000 ∧ word then some (s.descRead 0 (off / 64) k)
  else if off = 0x100000 then some s.invcmd
  else if off = 0x100008 then some s.invva
  else if off = 0x100010 then some s.invstat
  else if 0x110000 ≤ off ∧ off < 0x110400 then some ((Tab.get 1 s.weights (off - 0x110000)).setWidth 64)
  else if 0x120000 ≤ off ∧ off < 0x120400 ∧ off % 4 = 0 then some ((Tab.get 0xFFFFFFFF s.stagemap ((off - 0x120000) / 4)).setWidth 64)
  else if 0x130000 ≤ off ∧ off < 0x130208 ∧ word then
    let v := (off - 0x130000) / 8
    some (setBits (BitVec.ofNat 64 (Tab.get 0xFFFFFFFF s.qlimit v)) 32 32 (Tab.get 0 s.qused v))
  else if 0x140000 ≤ off ∧ off < 0x140208 ∧ word then
    some (Tab.get (BitVec.ofNat 64 ((100 <<< 32) + 200)) s.limits ((off - 0x140000) / 8))
  else if 0x150000 ≤ off ∧ off < 0x152000 ∧ word then some (Tab.get 0 s.dslots ((off - 0x150000) / 8))
  else if 0x160000 ≤ off ∧ off < 0x16A000 ∧ word then
    let g := (off - 0x160000) / 64
    some (match k with
      | 1 => s.blockStatus g
      | 2 => BitVec.ofNat 64 (s.block g).dpa
      | 3 => setBits (BitVec.ofNat 64 (s.block g).cadv) 63 1 (s.block g).cen.toNat
      | _ => 0)
  else if 0x170000 ≤ off ∧ off < 0x172000 ∧ word then some (Tab.get 0 s.dbg ((off - 0x170000) / 8))
  else if 0x180000 ≤ off ∧ off < 0x190000 ∧ word then some (Tab.get 0 s.bps ((off - 0x180000) / 8))
  else if 0x1A0000 ≤ off ∧ off < 0x1C0000 ∧ word then some (s.profWord ((off - 0x1A0000) / 128) (off % 128 / 8))
  else if 0x1C0000 ≤ off ∧ off < 0x1C0100 ∧ word then some (Tab.get 0 (s.die ((off - 0x1C0000) / 64)).trace k)
  else if 0x200000 ≤ off ∧ off < 0x210000 ∧ off % 1024 < 128 ∧ word then some (s.bindWord ((off - 0x200000) / 1024 + 1) (off % 1024 / 8))
  else ((msixIdx 0 off).map s.msixWord).or (s.countWord off)

/-- The host reads 8 bytes of a function's BAR0; a read of an unimplemented offset is an Unsupported Request (R46). -/
def State.hostRead (s : State) (fn off : Nat) : State :=
  let r := if fn = 0 then s.pfRead off
    else if fn ≤ 64 ∧ off < 1024 ∧ off % 8 = 0 then some (s.descRead fn (off / 64) (off % 64 / 8))
    else if fn ≤ 64 then (msixIdx fn off).map s.msixWord else none
  s.tell (match r with
    | some w => .data w.toNat 8
    | none => .unsupported)

end Sys2Proof.Machine
end

