-- ==== Sys2Proof/Machine/Loader.lean ====
section
/-! DEFINITION. Code objects: the loader's checks, mapping, registration, publication, unloading (R114, R115, R118, R125,
R257 to R263, R438). -/

namespace Sys2Proof.Machine

/-! ### Reading an image (R257 to R260) -/

/-- n bytes at offset o. -/
def imgField (x o n : Nat) : Nat := (x >>> (8 * o)) % 2 ^ (8 * n)

structure Sect where
  type : Nat
  step : Nat
  idx  : Nat
  res  : Nat
  off  : Nat
  len  : Nat
  deriving DecidableEq, Repr

def imgEntries (x : Nat) : Nat := imgField x 0x0C 2
def imgBuffers (x : Nat) : Nat := imgField x 0x0E 2
def imgSects (x : Nat) : List Sect :=
  (List.range (imgField x 0x06 2)).map (fun i =>
    let f := fun o n => imgField x (0x40 + 16 * i + o) n
    ⟨f 0 2, f 2 2, f 4 2, f 6 2, f 8 4, f 12 4⟩)
def sectsOf (l : List Sect) (type : Nat) : List Sect := l.filter (fun s => s.type = type)
def sectOf (l : List Sect) (type idx : Nat) : Option Sect := l.find? (fun s => decide (s.type = type ∧ s.idx = idx))

/-- Offset of entry e's record and of buffer b's. -/
def entOff (l : List Sect) (e : Nat) : Nat := ((sectOf l 1 0).map Sect.off).getD 0 + 64 * e
def bufOff (l : List Sect) (b : Nat) : Nat := ((sectOf l 2 0).map Sect.off).getD 0 + 64 * b

/-! ### Checks (R261 step 1) -/

def pageOf (code : Nat) : Nat := match code with | 0 => 0x1000 | 1 => 0x10000 | 2 => 0x200000 | _ => 0x40000000

/-- A section lies in the image past the descriptors, and has the shape of its type. -/
def sectOk (x len : Nat) (l : List Sect) (s : Sect) : Bool :=
  decide (s.res = 0 ∧ 0x40 + 16 * l.length ≤ s.off ∧ s.off + s.len ≤ len) &&
    (match s.type with
     | 1 => decide (s.idx = 0 ∧ s.len = 64 * imgEntries x)
     | 2 => decide (s.idx = 0 ∧ s.len = 64 * imgBuffers x)
     | 3 => decide (s.idx < imgEntries x)
     | 4 => decide (s.idx < imgEntries x ∧ s.len % 32 = 0)
     | 5 => decide (s.idx < imgBuffers x ∧ s.len ≤ imgField x (bufOff l s.idx + 0x08) 8)
     | 6 => decide (s.idx = 0)
     | 7 => decide (s.idx = 0 ∧ s.len % 16 = 0)
     | _ => false)

/-- No two sections overlap, and each type stands as often as R257 says. -/
def sectsOk (x len : Nat) (l : List Sect) : Bool :=
  let pairs := (l.zip (List.range l.length))
  let apart := pairs.all (fun a => pairs.all (fun b => decide (a.2 = b.2) ||
    decide (a.1.off + a.1.len ≤ b.1.off) || decide (b.1.off + b.1.len ≤ a.1.off)))
  let one := fun (t i : Nat) => decide ((l.filter (fun s => decide (s.type = t ∧ s.idx = i))).length = 1)
  let few := fun (t i : Nat) => decide ((l.filter (fun s => decide (s.type = t ∧ s.idx = i))).length ≤ 1)
  l.all (sectOk x len l) && apart && one 1 0 && one 6 0 && few 7 0 &&
    (if imgBuffers x = 0 then decide (sectsOf l 2 = []) else one 2 0) &&
    (List.range (imgEntries x)).all (fun e => one 3 e) && (List.range (imgBuffers x)).all (fun b => few 5 b) &&
    (sectsOf l 4).all (fun s => decide (((sectsOf l 4).filter (fun t => decide (t.idx = s.idx ∧ t.step = s.step))).length = 1))

/-- An entry record (R258). -/
def entOk (x o : Nat) : Bool :=
  let f := fun a n => imgField x (o + a) n
  decide (f 4 4 % 64 = 0 ∧ f 4 4 ≤ 0x10000 ∧ f 8 1 ≤ 8 ∧ f 9 1 ≤ 2 ∧ f 0x0A 2 = 0 ∧ f 0x3C 4 = 0)

/-- A buffer record's reserved fields and codes (R259). -/
def bufOk (x o : Nat) : Bool :=
  let f := fun a n => imgField x (o + a) n
  decide (f 4 1 ≤ 3 ∧ f 5 1 < 32 ∧ f 5 1 % 8 ≠ 3 ∧ f 6 2 = 0 ∧ f 0x28 24 = 0) &&
    ((f 5 1).testBit 3 || decide (f 0x10 8 = 0))

def bufSeg (x o : Nat) : Nat := if (imgField x (o + 5) 1).testBit 3 then imgField x (o + 0x10) 8 else 0

/-- Sizes in whole pages, segments that divide the buffer, at most 65,536 of them. -/
def bufSizeOk (x o : Nat) : Bool :=
  let size := imgField x (o + 0x08) 8
  let page := pageOf (imgField x (o + 4) 1)
  let seg := bufSeg x o
  decide (0 < size ∧ size % page = 0) &&
    (!(imgField x (o + 5) 1).testBit 3 || decide (0 < seg ∧ seg % page = 0 ∧ size % seg = 0 ∧ size / seg ≤ 65536))

def bufBniOk (x o : Nat) : Bool := bufSeg x o % 128 = 0 || !(imgField x (o + 5) 1).testBit 4

/-- A hasp or window entry (R260). -/
def hwOk (x : Nat) (l : List Sect) (o : Nat) : Bool :=
  let kind := imgField x (o + 4) 1
  let form := imgField x (o + 5) 1
  let b := imgField x (o + 6) 2
  let a := imgField x (o + 8) 4
  let n := imgField x (o + 12) 4
  match kind, form with
  | 0, 0 => decide (b = 0 ∧ n = 0 ∧ a % 8 = 0 ∧ (a / 2 ^ 28 = 0 ∧ a % 2 ^ 28 + 8 ≤ 0x80000 ∨ a / 2 ^ 28 = 1 ∧ a % 2 ^ 28 + 8 ≤ 0x400000))
  | 0, 1 => decide (n = 0 ∧ b < imgBuffers x ∧ a % 8 = 0 ∧ a + 8 ≤ imgField x (bufOff l b + 0x08) 8)
  | 1, 0 => decide (b = 0 ∧ a / 2 ^ 28 = 2 ∧ a % 8 = 0 ∧ n % 8 = 0 ∧ a % 2 ^ 28 + n ≤ 0x10000)
  | _, _ => false

/-- Offsets of the entries of section type 7. -/
def hwOffs (l : List Sect) : List Nat :=
  (sectsOf l 7).flatMap (fun s => (List.range (s.len / 16)).map (fun i => s.off + 16 * i))

/-- The image's CRC, with its field taken as zero. -/
def imgCrc (x len : Nat) : BitVec 32 := crc32 (x - imgField x 0x3C 4 <<< (8 * 0x3C)) len

/-- Refusals that rest on the image alone (R261), and code 0x07's on the handle. -/
def imgRefused (x len : Nat) : Option Nat :=
  let l := imgSects x
  let hdr := decide (64 ≤ len ∧ imgField x 0 4 = 0x4E544C50 ∧ imgField x 4 2 = 1 ∧ imgField x 0x0A 1 % 32 = 0 ∧ imgField x 0x0B 1 = 0 ∧
    0 < imgEntries x ∧ imgEntries x ≤ 4096 ∧ imgBuffers x ≤ 4096 ∧ imgField x 0x10 8 = len ∧ imgField x 0x1C 32 = 0) &&
    decide (imgField x 0x3C 4 = (imgCrc x len).toNat)
  let bufs := (List.range (imgBuffers x)).map (fun b => bufOff l b)
  if (hdr && sectsOk x len l && (List.range (imgEntries x)).all (fun e => entOk x (entOff l e)) && bufs.all (bufOk x) &&
      (hwOffs l).all (hwOk x l)) = false then some 0x01
  else if 256 < 256 * imgField x 8 1 + imgField x 9 1 then some 0x02
  else if imgField x 0x0A 1 ≠ 0 then some 0x03
  else if bufs.all (bufSizeOk x) = false then some 0x04
  else if bufs.all (bufBniOk x) = false then some 0x05
  else none

/-! ### The portable list (R438) -/

/-- Target of a branch or jump at an address, as an offset in the list. -/
def listTarget (pc : Nat) (w : BitVec 32) : Option Int :=
  match decodeWord w with
  | .ok (.portableBranchJump (.jal _ imm)) => some (pc + 2 * imm.toInt)
  | .ok (.portableBranchJump (.branch _ _ _ imm)) => some (pc + 2 * imm.toInt)
  | _ => none

/-- The last branch or jump of a list to a label, from its words in order. -/
def lastJump (x off len label : Nat) : Option Nat :=
  ((List.range (len / 4)).filter (fun i =>
    listTarget (4 * i) (BitVec.ofNat 32 (imgField x (off + 4 * i) 4)) = some (label : Int))).getLast?.map (fun i => 4 * i)

/-- Spans of an entry's `.suspend` loops: LOOP, label, last branch. A label at offset 0 has the same word as an unused number;
the lowest numbers with a zero word are taken for it, as the count asks (log 53). -/
def entSpans (x o : Nat) (s : Sect) (code : Nat) : List (Nat × Nat × Nat) :=
  let w := fun i => imgField x (o + 0x0C + 4 * i) 4
  let used := (List.range 8).filter (fun i => w i ≠ 0)
  let zero := ((List.range 8).filter (fun i => w i = 0)).take (imgField x (o + 8) 1 - used.length)
  (List.range 8).filterMap (fun i =>
    if used.contains i || zero.contains i then
      (lastJump x s.off s.len (w i)).map (fun e => (i, code + w i, code + e))
    else none)

/-! ### Publication (R69, R262, R263, R267, R420) -/

/-- Code pages of n bytes at an address. -/
def codePages (va n : Nat) : List Nat := (List.range ((va + n - 1) / 4096 + 1 - va / 4096)).map (fun i => 4096 * (va / 4096 + i))

/-- A code page's place in a die's bundle cache: where it stands already, else in order from `pa` for the page of `va`. -/
def State.cachePage (s : State) (d asid va pa page : Nat) : Nat :=
  (Tab.find (s.die d).bcache (codeKey asid page)).getD (pa + (page - va / 4096 * 4096))

/-- The bundle cache of die d has room there (R69): pages that object `o` has in it already, or pages of a local chunk of the die that
neither an object's data nor other bundles occupy. -/
def State.cacheRoom (s : State) (d asid va pa n : Nat) (o : CodeObj) : Bool :=
  decide (pa % 4096 = 0) && (codePages va n).all (fun page => match Tab.find (s.die d).bcache (codeKey asid page) with
    | some _ => o.pages.contains (codeKey asid page)
    | none =>
      let loc := s.cachePage d asid va pa page
      s.localPage d loc && s.dataFree (loc, 4096))

/-- The bundle cache of die d has room nowhere (R262). -/
def State.cacheFull (s : State) (d asid va n : Nat) (o : CodeObj) : Bool :=
  (s.localPages d).all (fun pa => !s.cacheRoom d asid va pa n o)

/-- Bundles that an object has published stay until it is unloaded: no others are written over them (R262). -/
def CodeObj.clear (o : CodeObj) (d va n : Nat) : Bool := o.spans.all (fun x => decide (x.1 ≠ d) || apart x.2 (va, n))

/-- A portable list lies in the pages from `va` on: they stay the list's own, which gear S and gear M cores fetch (R263). -/
def Entry.within (e : Entry) (va n : Nat) : Bool :=
  !apart (e.code / 4096 * 4096, (e.code % 4096 + 4 * e.list.length + 4095) / 4096 * 4096) (va / 4096 * 4096, (va % 4096 + n + 4095) / 4096 * 4096)

/-- A code address where bundles of object `o` may lie on die d: no page of them holds another object's bundles there, nor words of a
portable list of the address space (R262, R263). -/
def State.vaClear (s : State) (d asid va n : Nat) (o : CodeObj) : Bool :=
  (codePages va n).all (fun page =>
    (Tab.find (s.die d).bcache (codeKey asid page)).isNone || o.pages.contains (codeKey asid page)) &&
  s.objs.all (fun x => decide (x.1 / 2 ^ 20 ≠ asid) || x.2.ents.all (fun e => !e.within va n))

/-- Write bundles at a code address into the bundle cache of one die. -/
def State.cacheBundles (s : State) (d asid va : Nat) : List (BitVec 256) → State
  | [] => s
  | b :: t =>
    match Tab.find (s.die d).bcache (codeKey asid (va / 4096 * 4096)) with
    | some loc => (s.write (loc + va % 4096) b.toNat 32).cacheBundles d asid (va + 32) t
    | none => s

/-- Every page of a list of portable lists and bundles is clear of the bundles that a die's cache holds for the address space: what is
mapped there is what is fetched (R261, R262). -/
def State.codeFree (s : State) (asid va n : Nat) : Bool :=
  (List.range 4).all (fun d => (codePages va n).all (fun page => (Tab.find (s.die d).bcache (codeKey asid page)).isNone))

/-- Give the pages of bundles a place in the bundle cache of die d, and mark their slots that stand for hinted instructions. -/
def State.placeBundles (s : State) (d asid va pa n : Nat) (marks : List (Nat × Nat × Nat)) : State :=
  let x := s.die d
  s.setDie d { x with
    bcache := (codePages va n).foldl (fun t page => Tab.put t (codeKey asid page) (s.cachePage d asid va pa page)) x.bcache
    marks := marks.foldl (fun t m => Tab.put t (8 * codeKey asid (va + 32 * m.1) + m.2.1) m.2.2) x.marks }

/-- Mark entry `ent` published for a die at an address, in n bytes and some code pages, with the loader's records if any. -/
def CodeObj.mark (o : CodeObj) (ent d va n : Nat) (pages : List Nat) (recs : Option (List BunRec)) : CodeObj :=
  { o with
    ents := o.ents.modify ent (fun e => { e with
      pub := Tab.put e.pub d va, recs := match recs with | some l => Tab.put e.recs d l | none => e.recs })
    pages := (o.pages ++ pages).dedup, spans := o.spans ++ [(d, va, n)] }

/-- Steps 1 to 3 of R262: the bundles are written, ICINV for the die, the entry is marked. -/
def State.publishAt (s : State) (d asid handle ent va pa : Nat) (bundles : List (BitVec 256)) (marks : List (Nat × Nat × Nat))
    (recs : Option (List BunRec)) : State :=
  let n := 32 * bundles.length
  let s := ((s.placeBundles d asid va pa n marks).cacheBundles d asid va bundles).discardCode d asid va n
  { s with objs := s.objs.map (fun o =>
    if o.1 = objKey asid handle then (o.1, o.2.mark ent d va n ((codePages va n).map (codeKey asid)) recs) else o) }

/-- The portable instruction that a bundle of a translation stands for, and where the portable registers live: the loader's record of the
bundle at an address, which debuggers, dumps and the names of R238 go through (R402). -/
def Entry.recAt (e : Entry) (d addr : Nat) : Option BunRec :=
  match Tab.find e.pub d, Tab.find e.recs d with
  | some va, some l => if addr < va then none else l.find? (fun r => decide (r.bun = (addr - va) / 32))
  | _, _ => none
/-- The portable address of the instruction that a native bundle stands for. -/
def State.portableAddr (s : State) (r : Rec) (d addr : Nat) : Option Nat :=
  (s.entry r).bind (fun e => (e.recAt d addr).map (fun x => e.code + x.off))

/-- A scalar, a vector register and a tile of a continuation on gear C as its record of the bundle at E says where they live: what
debuggers, dumps and `mubry-replay` read (R402). A bank holds its elements itself. -/
def CoreC.homeX (c : CoreC) (s : State) (g : Nat) (h : RegHome) : Word :=
  match h.file with
  | 0 => c.regG h.at_
  | 1 => c.regO h.at_
  | _ => BitVec.ofNat 64 (s.read (locCore g h.at_) 8)
def CoreC.homeQ (c : CoreC) (s : State) (g : Nat) (h : RegHome) : BitVec 1024 :=
  match h.file with
  | 2 => (c.regV h.at_).bits
  | _ => BitVec.ofNat 1024 (s.read (locCore g h.at_) 128)
def CoreC.homeM (c : CoreC) (h : RegHome) : Option Bank := if h.file = 3 then c.eng.tiles.banks[h.at_]? else none
/-- The home of a portable register of a class for a stopped continuation on a gear C core, through the record of its bundle (R402). -/
def State.homeOf' (s : State) (g cls num : Nat) : Option RegHome :=
  let c := s.coreC g
  c.cont.bind (fun r => (s.entry r).bind (fun e => (e.recAt (dieOf g) c.epc.toNat).bind (fun b =>
    b.homes.find? (fun h => decide (h.cls = cls ∧ h.num = num)))))
def State.portX (s : State) (g num : Nat) : Option Word := (s.homeOf' g 0 num).map ((s.coreC g).homeX s g)
def State.portQ (s : State) (g num : Nat) : Option (BitVec 1024) := (s.homeOf' g 1 num).map ((s.coreC g).homeQ s g)
def State.portM (s : State) (g num : Nat) : Option Bank := (s.homeOf' g 2 num).bind (s.coreC g).homeM

/-- Publication makes the entry's records that are placed by the die be placed again, and shift requests due for those that run (R125,
R126). -/
def State.published' (s : State) (d asid handle ent : Nat) : State :=
  ((s.tasks.filter (fun t => decide (t.2.r.asid = asid ∧ t.2.r.code = handle ∧ t.2.r.ent = ent ∧ t.2.pdie = d))).map Prod.fst).foldl
    (fun s t => match s.task t with
      | some x => s.tierChanged t x
      | none => s) s

/-- Code F of a Q or T form (R389). -/
def funcOf (w : BitVec 32) : Nat := 8 * (w.extractLsb' 25 4).toNat + (w.extractLsb' 12 3).toNat

/-- Slots whose unit has the native operation that an Xpol instruction becomes (R390, R393, R394, R396, R402). -/
def opSlots (w : BitVec 32) : List Nat :=
  let f := funcOf w
  match w.toNat % 128 with
  | 0x0B => if f = 34 then [7] else if f = 40 then List.range 8 else [2, 3]
  | 0x2B => [5]
  | 0x5B => if f = 5 ∨ f = 6 then [5] else [4]
  | _ => if 9 ≤ f ∧ f ≤ 11 then [6] else [7]

/-- A word of a list that decodes to an Xpol instruction: one that becomes native operations (R389, R402). -/
def isXpol (w : BitVec 32) : Bool :=
  [0x0B, 0x2B, 0x5B, 0x7B].contains (w.toNat % 128) && (match decodeWord w with | .ok _ => true | .error _ => false)

/-- The marks that a list asks for, by offset, in list order: undeclared must-understand hints of Xpol instructions that decode (R267,
R389), and 8 for a `qpost` without one (R398). -/
def listMarks (l : List (BitVec 32)) : List (Nat × Nat) :=
  (l.zip (List.range l.length)).filterMap (fun x =>
    let h := (x.1.extractLsb' 29 3).toNat
    if isXpol x.1 then
      if 5 ≤ h then some (4 * x.2, h) else if x.1.toNat % 128 = 0x7B ∧ funcOf x.1 = 0 then some (4 * x.2, 8) else none
    else none)

/-- A register's home exists, in a file that holds its class: scalars in `g`, `o` or the scratchpad, `q` registers in `v` or the
scratchpad, tiles in a bank or the scratchpad (R402). -/
def homeOk (h : RegHome) : Bool :=
  match h.cls, h.file with
  | 0, 0 => decide (h.num < 32 ∧ h.at_ < 64)
  | 0, 1 => decide (h.num < 32 ∧ h.at_ < 16)
  | 1, 2 => decide (h.num < 32 ∧ h.at_ < 32)
  | 2, 3 => decide (h.num < 4 ∧ h.at_ < 4)
  | 0, 4 | 1, 4 => decide (h.num < 32 ∧ h.at_ < 0x80000)
  | 2, 4 => decide (h.num < 4 ∧ h.at_ < 0x80000)
  | _, _ => false

/-- A record says where every `x`, `q` and `m` register lives (R402). -/
def homesOk (l : List RegHome) : Bool :=
  l.all homeOk && (List.range 32).all (fun n => l.any (fun h => decide (h.cls = 0 ∧ h.num = n)) &&
    l.any (fun h => decide (h.cls = 1 ∧ h.num = n)) && (decide (4 ≤ n) || l.any (fun h => decide (h.cls = 2 ∧ h.num = n))))

/-- The loader's records of a translation name its bundles and instructions of the list: one at least for every bundle and for every
Xpol instruction, each with the homes of all portable registers (R402). -/
def recsOk (t : Translation) (l : List (BitVec 32)) : Bool :=
  t.recs.all (fun r => decide (r.bun < t.words.length ∧ r.off % 4 = 0 ∧ r.off < 4 * l.length) && homesOk r.homes) &&
    (List.range t.words.length).all (fun i => t.recs.any (fun r => decide (r.bun = i))) &&
    (List.range l.length).all (fun i => !isXpol (l.getD i 0) || t.recs.any (fun r => decide (r.off = 4 * i)))

/-- A bundle whose slot k starts an operation of its unit, while no other slot's move starts one or writes a register: a trap in slot k
leaves no part of the instruction done (R173, R420). -/
def lonely (b : BitVec 256) (k : Nat) : Bool :=
  isTrigger (bunMove b k) && decide (((moveDst (bunMove b k)).toNat - 0x100) / 64 = k) &&
    (List.range 8).all (fun j => decide (j = k) ||
      (!isTrigger (bunMove b j) && (writesReg (bunMove b j)).isNone))

/-- Marks of a translation: one for each that the list asks for, in the slot that starts the instruction's operation; a hinted
instruction's stands at the first of its bundles, which stands for no other instruction and starts nothing else, after every bundle of
earlier instructions of the list and before those of later ones (R267, R420). -/
def marksOk (t : Translation) (l : List (BitVec 32)) : Bool :=
  let want := listMarks l
  decide (t.marks.map (fun m => m.2.2) = want.map Prod.snd) && (t.marks.zip want).all (fun x =>
    let m := x.1
    let off := x.2.1
    decide (m.1 < t.words.length) && (opSlots (l.getD (off / 4) 0)).contains m.2.1 &&
      decide (((moveDst (bunMove (t.words.getD m.1 0) m.2.1)).toNat - 0x100) / 64 = m.2.1) && isTrigger (bunMove (t.words.getD m.1 0) m.2.1) &&
      t.recs.any (fun r => decide (r.bun = m.1 ∧ r.off = off)) &&
      (decide (m.2.2 = 8) || lonely (t.words.getD m.1 0) m.2.1 && t.recs.all (fun r =>
        if r.off < off then decide (r.bun < m.1) else if r.off = off then decide (m.1 ≤ r.bun) else decide (m.1 < r.bun))))

/-- Entries of the ASID's objects that stand before an entry, by handle and then by index, and are neither published for die d nor given
up there: the management core takes them first (R262). -/
def State.publishFirst (s : State) (d asid handle ent : Nat) : Bool :=
  s.objs.any (fun o => decide (o.1 / 2 ^ 20 = asid ∧ o.1 ≤ objKey asid handle) &&
    (if o.1 = objKey asid handle then o.2.ents.take ent else o.2.ents).any (fun e => (Tab.find e.pub d).isNone && !e.tried.contains d))

/-- The entry found no room in the bundle cache of die d (R262). -/
def State.giveUp (s : State) (d asid handle ent : Nat) : State :=
  { s with objs := s.objs.map (fun o =>
    if o.1 = objKey asid handle then (o.1, { o.2 with ents := o.2.ents.modify ent (fun e => { e with tried := d :: e.tried }) }) else o) }

/-- A translation of an entry that the management core of die d may publish at an address (R262, R263, R402). -/
def State.canPublish (s : State) (d asid : Nat) (o : CodeObj) (e : Entry) (va : Nat) (b : Translation) : Bool :=
  decide (d < 4) && (Tab.find e.pub d).isNone && !e.tried.contains d &&
    decide (va % 32 = 0 ∧ va + 32 * b.words.length < 2 ^ 48 ∧ b.words ≠ []) && o.clear d va (32 * b.words.length) &&
    s.vaClear d asid va (32 * b.words.length) o && recsOk b e.list && marksOk b e.list && Config.translates e.list (s.die d).step.toNat b

/-- BUNDLE_PUBLISH (R262): `b` is the management core's translation of the entry's list for the die's stepping (R263) with its place in
the bundle cache, and `va` its address, which holds no other object's bundles and no portable list. The entries of an address space come
in their order. Where the cache has room nowhere, the entry stays unpublished; a place that is not free is no place for it. -/
def execBundlePublish (d asid handle ent va : Nat) (b : Translation) (s : State) : Host.Outcome State Fault Refusal :=
  match s.obj asid handle with
  | none => .next s
  | some o => match o.ents[ent]? with
    | none => .next s
    | some e =>
      let n := 32 * b.words.length
      if s.canPublish d asid o e va b = false ∨ s.publishFirst d asid handle ent = true then .next s
      else if s.cacheRoom d asid va b.pa n o then
        .next ((s.publishAt d asid handle ent va b.pa b.words b.marks (some b.recs)).published' d asid handle ent)
      else if s.cacheFull d asid va n o then .next (s.giveUp d asid handle ent)
      else .next s

/-! ### Loading (R261) -/

/-- Pieces of a buffer are zero: bytes that no directive writes (R19). Die 0's loader writes them, its own copies with them (R89). -/
def State.zeroPieces (s : State) (l : List (Nat × Nat)) : State :=
  let out := fun (a : Nat) => l.all (fun q => decide (a < q.1 ∨ q.1 + q.2 ≤ a))
  let line := fun (e : Nat × BitVec 512) => (e.1, (List.range 64).foldl (fun w i =>
    if out (e.1 + i) then w else w &&& ~~~((0xFF : BitVec 512) <<< (8 * i))) e.2)
  let s := { s with mem := s.mem.filter (fun c => out c.1) }
  s.setDie 0 { s.die 0 with rlc := (s.die 0).rlc.map line }

/-- Page-table entries and whatever else the loader writes to map the object. -/
def State.storeAll (s : State) (l : List (Nat × Word)) : State := l.foldl (fun s e => s.devWrite 0 e.1 e.2.toNat 8) s

/-- Write n bytes at a mapped VA, whatever its W; nothing where it does not translate. -/
def State.loadAt (s : State) (asid va x n : Nat) : Option State :=
  match s.vaLocs 0 asid va n .read (n / 4096 + 2) with
  | (.ok l, s) => some (s.pieceWrite 0 x l)
  | (.error _, _) => none

/-- The buffers as placed. -/
def imgBufs (x : Nat) (l : List Sect) (places : List Placement) : List (Nat × Placement) :=
  ((List.range (imgBuffers x)).map (fun b => bufOff l b)).zip places

/-- The placement of a buffer: the request's, else its record's (R259, R261). -/
def placeCode (p : Placement) (x o : Nat) : Nat := (p.plc.map BitVec.toNat).getD (imgField x (o + 5) 1 % 8)

/-- HBM frames of the unsegmented buffers (R118). -/
def imgFrames (x : Nat) (l : List Sect) : Nat :=
  ((List.range (imgBuffers x)).map (fun b => bufOff l b)).foldl (fun n o =>
    if bufSeg x o = 0 then n + imgField x (o + 8) 8 / 4096 else n) 0

/-- Flash address of a segment's copy. -/
def segCopy (g : Nat × Nat) : Nat := (g.1 <<< 44) + 4096 * g.2

/-- Flash copies of a placed buffer: address and bytes (R114). -/
def bufCopies (x : Nat) (b : Nat × Placement) : List (Nat × Nat) :=
  if bufSeg x b.1 = 0 then [] else b.2.segs.map (fun g => (segCopy g, bufSeg x b.1))

/-- A placement that the loader may choose: aligned, and its flash copies within the ASID's extent (R76, R77, R114). -/
def State.placementOk (s : State) (asid x o : Nat) (p : Placement) : Bool :=
  let page := pageOf (imgField x (o + 4) 1)
  let seg := bufSeg x o
  decide (p.va % page = 0 ∧ p.va + imgField x (o + 8) 8 ≤ 2 ^ 54) &&
    (if seg = 0 then true
     else decide (p.segs.length = imgField x (o + 8) 8 / seg ∧ p.segMap % 4096 = 0) && p.segs.all (fun g =>
      decide (g.1 < 4 ∧ 4096 * g.2 + seg ≤ flashBytes ∧ segCopy g % page = 0) && s.rangeOk (s.readDesc 0 asid) 1 (segCopy g) (segCopy g) seg))

/-- Ranges that overlap neither each other nor those of a list. -/
def rangesFree (old : List (Nat × Nat)) : List (Nat × Nat) → Bool
  | [] => true
  | q :: t => old.all (fun f => apart f q) && rangesFree (q :: old) t

/-- Is every page that n bytes at a VA touch mapped without W (R115, R261)? -/
def State.mapsReadOnly (s : State) (asid va n : Nat) : Bool :=
  n = 0 || match s.leavesAt 0 asid (s.readDesc 0 asid) (codePages va n) with
    | .ok l => l.all (fun e => !leafW e.2.2)
    | .error _ => false

/-- The host pieces of HBM that a buffer's pages map, where they have exactly its page size and frames aligned to it, so that the entries
of a page name one frame (R75, R76): HBM frames with its placement for an unsegmented buffer, the flash copies of its segments else
(R114, R116). -/
def State.bufPieces (s : State) (asid x o : Nat) (p : Placement) : Option (List (Nat × Nat)) :=
  let page := pageOf (imgField x (o + 4) 1)
  let seg := bufSeg x o
  match s.leaves 0 asid p.va (imgField x (o + 8) 8) page with
  | .error _ => none
  | .ok ls =>
    if ls.any (fun e => decide (pageOf (leafSize e.2.2) ≠ page ∨ leafFrame e.2.2 % page ≠ e.1 % page)) ||
        (ls.zip (ls.drop 1)).any (fun e => decide (e.1.1 / page = e.2.1 / page ∧ leafFrame e.2.2.2 ≠ leafFrame e.1.2.2 + 4096)) then none
    else if seg = 0 then
      if ls.all (fun e => decide (leafTier e.2.2 = 0 ∧ leafPlc e.2.2 = placeCode p x o)) then
        s.hostPieces 0 asid (ls.flatMap (fun e => chunks (leafFrame e.2.2) (leafStep page)))
      else none
    else if ls.all (fun e => decide (leafTier e.2.2 = 1 ∧ leafPlc e.2.2 = 0 ∧
        leafFrame e.2.2 = segCopy (p.segs.getD ((e.1 - p.va) / seg) (0, 0)) + (e.1 - p.va) % seg)) then some []
    else none

/-- The pieces of every buffer of an object, with the placement of each. -/
def State.objPieces (s : State) (asid x : Nat) : List (Nat × Placement) → Option (List ((Nat × Nat) × Nat))
  | [] => some []
  | (o, p) :: t => match s.bufPieces asid x o p, s.objPieces asid x t with
    | some l, some r => some (l.map (fun q => (q, placeCode p x o)) ++ r)
    | _, _ => none

/-- Locations of the pages of a segment map (R115). -/
def State.mapPages (s : State) (asid : Nat) : List Nat → Option (List Nat × State)
  | [] => some ([], s)
  | va :: t => match s.xlate 0 asid va .read with
    | (.error _, _) => none
    | (.ok m, s) => (s.mapPages asid t).map (fun r => (m.loc :: r.1, r.2))

/-- Code pages of the segment map of a placed buffer. -/
def segMapPages (x : Nat) (b : Nat × Placement) : List Nat :=
  if bufSeg x b.1 = 0 then [] else codePages b.2.segMap (16 * b.2.segs.length)

/-- The loader has mapped the object (R261 steps 3 and 5): its buffers in free frames and free flash, each entry of a 64 KiB page at its
own 4 KiB of one frame, segment maps in free HBM of their own; segment maps and buffer table read-only (R115). -/
def State.objMapped (s : State) (asid x tableVa : Nat) (bufs : List (Nat × Placement)) : Option (List (Nat × Nat)) :=
  match s.objPieces asid x bufs, s.mapPages asid (bufs.flatMap (segMapPages x)) with
  | some ps, some (maps, _) =>
    let new := ps.map Prod.fst ++ maps.map (fun m => (m, 4096))
    if new.all s.frameFree && rangesFree [] new && maps.all (fun m => decide (m < 2 ^ 39)) &&
        ps.all (fun q => s.placeOk 0 q.2 q.1.1 && s.noCopies 0 q.1) &&
        rangesFree (s.objs.flatMap (fun o => o.2.copies)) (bufs.flatMap (bufCopies x)) &&
        s.mapsReadOnly asid tableVa (64 * bufs.length) &&
        bufs.all (fun b => decide (bufSeg x b.1 = 0) || s.mapsReadOnly asid b.2.segMap (16 * b.2.segs.length)) then some (ps.map Prod.fst)
    else none
  | _, _ => none

/-- The segment map and the flash copies of a segmented buffer, segment by segment: zero but for its data image (R19). -/
def State.loadSegs (s : State) (b : Buf) (image : Option (Nat × Nat)) : Nat → List (Nat × Nat) → State
  | _, [] => s
  | j, g :: t =>
    let s := (s.devWrite 0 (b.mapAt j) (1 <<< 62) 8).devWrite 0 (b.mapAt j + 8) (g.1 <<< 32 + g.2) 8
    let s := s.zeroPieces [(locFlash (segCopy g), b.seg)]
    let s := match image with
      | none => s
      | some d => s.write (locFlash (segCopy g)) (d.1 >>> (8 * b.seg * j)) (min b.seg (d.2 - b.seg * j))
    s.loadSegs b image (j + 1) t

/-- The buffer table's record and the segment map of one buffer; its bytes, zero but for its data image (R19). -/
def State.loadBuf (s : State) (asid x : Nat) (l : List Sect) (b o tableVa : Nat) (p : Placement) : Option (State × Buf) :=
  let seg := bufSeg x o
  let r := imgField x o 0x18 + p.va <<< (8 * 0x18) + (if seg = 0 then 0 else p.segMap) <<< (8 * 0x20)
  let buf := fun (maps : List Nat) => Buf.mk p.va (imgField x (o + 8) 8) (pageOf (imgField x (o + 4) 1)) (placeCode p x o) seg maps
  match s.loadAt asid (tableVa + 64 * b) r 64 with
  | none => none
  | some s =>
    let image := (sectOf l 5 b).map (fun t => (imgField x t.off t.len, t.len))
    if seg = 0 then
      match s.vaLocs 0 asid p.va (imgField x (o + 8) 8) .read (imgField x (o + 8) 8 / 4096 + 2) with
      | (.error _, _) => none
      | (.ok ps, s) =>
        let s := s.zeroPieces ps
        match image with
        | none => some (s, buf [])
        | some d => (s.loadAt asid p.va d.1 d.2).map (fun s => (s, buf []))
    else (s.mapPages asid (codePages p.segMap (16 * p.segs.length))).map (fun m => (m.2.loadSegs (buf m.1) image 0 p.segs, buf m.1))

def State.loadBufs (s : State) (asid x : Nat) (l : List Sect) (tableVa : Nat) :
    Nat → List (Nat × Placement) → Option (State × List Buf)
  | _, [] => some (s, [])
  | b, (o, p) :: t => match s.loadBuf asid x l b o tableVa p with
    | none => none
    | some (s, f) => match s.loadBufs asid x l tableVa (b + 1) t with
      | none => none
      | some (s, fs) => some (s, f :: fs)

/-- Register the hasps of FORM 1 in the tables of their homes (R260, R370). -/
def State.loadHasps (s : State) (asid x : Nat) (places : List Placement) : List Nat → Option State
  | [] => some s
  | o :: t =>
    if imgField x (o + 4) 1 ≠ 0 ∨ imgField x (o + 5) 1 ≠ 1 then s.loadHasps asid x places t
    else
      let va := ((places[imgField x (o + 6) 2]?).map Placement.va).getD 0 + imgField x (o + 8) 4
      match s.xlate 0 asid va .read with
      | (.error _, _) => none
      | (.ok p, s) =>
        if (s.findHasp asid p.loc).isSome then s.loadHasps asid x places t
        else
          let d := if p.tier = 0 then s.homeOf p.loc else 0
          match lowestFree (s.die d).hasps 278528 with
          | none => none
          | some i =>
            let e : HaspEnt := ⟨asid, BitVec.ofNat 64 va, 0, p.loc, []⟩
            (s.setDie d { s.die d with hasps := Tab.put (s.die d).hasps i e }).loadHasps asid x places t

/-- The entries, with the addresses of their portable lists. -/
def imgEnts (x : Nat) (l : List Sect) (codeVa : Nat) : List Entry :=
  (List.range (imgEntries x)).filterMap (fun e => (sectOf l 3 e).map (fun s =>
    let o := entOff l e
    let live := (List.range (imgField x (o + 9) 1)).map (fun i => (imgField x (o + 0x2C + 8 * i) 4, imgField x (o + 0x30 + 8 * i) 4))
    { carry := imgField x (o + 4) 4, live := live, code := codeVa + s.off
      list := (List.range (s.len / 4)).map (fun i => BitVec.ofNat 32 (imgField x (s.off + 4 * i) 4))
      spans := entSpans x o s (codeVa + s.off), pub := [], tried := [], recs := [] }))

/-- The bytes of a name of the string table, up to its NUL (R257). -/
def imgName (x : Nat) (l : List Sect) (off : Nat) : List Byte :=
  match sectOf l 6 0 with
  | none => []
  | some t => ((List.range (t.len - off)).map (fun i => BitVec.ofNat 8 (imgField x (t.off + off + i) 1))).takeWhile (fun b => decide (b ≠ 0))

/-- Names of section type 7 of a KIND in FORM 0, as the loader records them (R260). -/
def padNames (x : Nat) (l : List Sect) (kind : Nat) : List PadName :=
  ((hwOffs l).filter (fun o => decide (imgField x (o + 4) 1 = kind ∧ imgField x (o + 5) 1 = 0))).map (fun o =>
    ⟨imgName x l (imgField x o 4), imgField x (o + 8) 4, imgField x (o + 12) 4⟩)

/-- Publish the native sections whose stepping is that of a die (R261 step 6), past the image's own pages, which begin at `va0`: in each
die's bundle cache at the address that the loader names, or where that is not free at one that is. One that finds no room stays
unpublished. -/
def State.loadNative (s : State) (asid handle x va0 : Nat) (caches : List Nat) : Nat → List Sect → State
  | _, [] => s
  | va, t :: rest =>
    let bs := (List.range (t.len / 32)).map (fun i => BitVec.ofNat 256 (imgField x (t.off + 32 * i) 32))
    let s := (List.range 4).foldl (fun s d =>
      let pa := caches.getD d 1 + (va / 4096 * 4096 - va0)
      match s.obj asid handle with
      | some o =>
        if (s.die d).step.toNat = t.step ∧ bs ≠ [] ∧ o.clear d va t.len then
          match (pa :: s.localPages d).find? (fun a => s.cacheRoom d asid va a t.len o) with
          | some a => (s.publishAt d asid handle t.idx va a bs [] none).published' d asid handle t.idx
          | none => s
        else s
      | none => s) s
    s.loadNative asid handle x va0 caches (va + t.len) rest

/-- No handle from 1 to 0xF_FFFF is unused in the ASID (R261 step 2). -/
def State.noHandle (s : State) (asid : Nat) : Bool :=
  decide (2 ^ 20 - 1 ≤ (s.objs.filter (fun o => decide (o.1 / 2 ^ 20 = asid))).length)

/-- LOAD_CODE_OBJECT (R261): the image at a VA of the ASID, and what the loader chooses: the handle, where the buffers lie, the stores
that map them, the VA of the buffer table's copy and of the code, and where bundles lie in each die's bundle cache. Nothing happens
where the handle is none that it may assign or the stores do not map the object as R76 and R114 to R116 say. A placement that R70 reserves
is refused as the record's would be (log 89). The code and the native sections after it go where no die's bundle cache holds bundles of
the address space (R262). -/
def execLoadCodeObject (asid image len handle : Nat) (places : List Placement) (stores : Mapping)
    (tableVa codeVa : Nat) (s : State) : Host.Outcome State Fault Refusal :=
  let refuse := fun code => Host.Outcome.next (s.tell (.refused code))
  match (s.vaRead 0 asid image len).1 with
  | .error _ => refuse 0x01
  | .ok x =>
    let l := imgSects x
    let vm := s.vmOf asid
    let bufs := imgBufs x l places
    match imgRefused x len with
    | some c => refuse c
    | none =>
      if s.noHandle asid then refuse 0x07
      else if places.any (fun p => decide (p.plc = some 3)) then refuse 0x01
      else if handle = 0 ∨ 2 ^ 20 ≤ handle ∨ (s.obj asid handle).isSome ∨
          s.codeFree asid codeVa ((len + 4095) / 4096 * 4096 + ((sectsOf l 4).map Sect.len).sum) = false then .next s
      else if places.length ≠ imgBuffers x ∨ bufs.all (fun b => s.placementOk asid x b.1 b.2) = false ∨
          Tab.get 0xFFFFFFFF s.qlimit vm < Tab.get 0 s.qused vm + imgFrames x l ∨ codeVa % 4096 ≠ 0 then refuse 0x06
      else
        let s1 := s.storeAll stores.stores
        match s1.objMapped asid x tableVa bufs with
        | none => .next s
        | some ps => match s1.loadAt asid codeVa x len with
        | none => refuse 0x06
        | some s2 => match s2.loadBufs asid x l tableVa 0 bufs with
          | none => refuse 0x06
          | some (s3, bs) => match s3.loadHasps asid x places (hwOffs l) with
            | none => refuse 0x06
            | some s4 =>
              let o : CodeObj := ⟨imgEnts x l codeVa, bs, imgField x 0x0A 1, padNames x l 0, imgFrames x l, bufs.flatMap (bufCopies x),
                [], padNames x l 1, []⟩
              let s5 := { s4 with
                objs := Tab.put s4.objs (objKey asid handle) o
                frames := s4.frames ++ ps.map (fun q => (objKey asid handle, q))
                qused := Tab.put s4.qused vm (Tab.get 0 s4.qused vm + o.frames) }
              .next ((s5.loadNative asid handle x (codeVa + (len + 4095) / 4096 * 4096) stores.caches (codeVa + (len + 4095) / 4096 * 4096) (sectsOf l 4)).tell (.handle asid handle))

/-- UNLOAD_CODE_OBJECT (R261, R118): only while none of its records exists; its bundles go, and its frames return, those of its unsegmented
buffers and those that its promoted segments hold. -/
def execUnloadCodeObject (asid handle : Nat) (s : State) : Host.Outcome State Fault Refusal :=
  match s.obj asid handle with
  | none => .next s
  | some o =>
    if s.tasks.any (fun t => decide (t.2.r.asid = asid ∧ t.2.r.code = handle)) then .next s
    else
      let vm := s.vmOf asid
      let held := ((s.frames.filter (fun f => decide (f.1 = objKey asid handle))).map (fun f => f.2.2 / 4096)).sum
      let s := (List.range 4).foldl (fun s d => s.setDie d { s.die d with
        bcache := (s.die d).bcache.filter (fun c => !o.pages.contains c.1)
        marks := (s.die d).marks.filter (fun m => !o.pages.contains (m.1 / 8 / 4096 * 4096)) }) s
      .next { s with
        objs := Tab.del s.objs (objKey asid handle)
        frames := s.frames.filter (fun f => decide (f.1 ≠ objKey asid handle))
        qused := Tab.put s.qused vm (Tab.get 0 s.qused vm - held) }

end Sys2Proof.Machine
end

