-- ==== Sys2Proof/Machine/Moves.lean ====
section
/-! DEFINITION. The moves that start no operation (R276 to R280). -/

namespace Sys2Proof.Machine

/-- A move to a register: written at the end of the issue cycle (R279, R280). A `v` destination that the slot may not
write traps (R282); a 64-bit value fills lane 0 with tag 0x00 (R161). -/
def execMoveToRegister (gd : BitVec 3) (src dst : BitVec 10) (s : State) : Host.Outcome State Fault Refusal :=
  runMove 0 gd src s (fun x =>
    let n := dst.toNat
    let w := TVal.ofWord x.val.word
    let put := fun d v => s.modC x.g (fun c => c.later d v x.bun.idx)
    if n < 0x40 then (if x.c.inH ∧ n < 8 then put (.h n) w else put (.g n) w)
    else if n < 0x50 then put (.o (n - 0x40)) w
    else if 0x60 ≤ n ∧ n < 0x80 then
      (if x.c.mayWrite x.slot (n - 0x60) then put (.v (n - 0x60)) x.val else x.trap s (0x04, n - 0x60))
    else if 0x81 ≤ n ∧ n < 0x88 then put (.p (n - 0x80)) w
    else s)

/-- A move to an operand port (R277, R279): the value, cut to the port's width. -/
def execMoveToPort (gd : BitVec 3) (src : BitVec 10) (u : BitVec 4) (p : BitVec 2) (s : State) :
    Host.Outcome State Fault Refusal :=
  runMove (u.toNat - 4) gd src s (fun x =>
    let unit := u.toNat - 4
    let v := if widePort unit then x.val else TVal.ofWord x.val.word
    s.modC x.g (fun c => { c with ports := c.ports.put (4 * unit + p.toNat) v }))

/-- A move to the null sink: the source is decoded and not read, so nothing is checked (R279). -/
def execMoveToNullSink (_gd : BitVec 3) (_src : BitVec 10) (s : State) : Host.Outcome State Fault Refusal := .next s

end Sys2Proof.Machine
end

