-- ==== Sys2Proof/Machine/PortableMem.lean ====
section
/-! DEFINITION. The portable memory and tile instructions (R393 to R395). -/

namespace Sys2Proof.Machine

/-! ### Vector loads and stores (R393) -/

/-- Address of `qld` and `qst`: x[rs1] + 128·off4, modulo 2^64. -/
def vecAddr (base : Word) (o : BitVec 4) : Nat := (base + 128 * o.signExtend 64).toNat

/-- `qld.fmt qd, off(xs)`: 128 bytes with the tag. -/
def execQld (h : BitVec 3) (t : BitVec 5) (o : BitVec 4) (a d : BitVec 5) (s : State) :
    Host.Outcome State Fault Refusal :=
  xpolOp h s (fun g c =>
    let A := vecAddr (c.xr a.toNat) o
    if badTag t then s.trapP g 0x06 t.toNat
    else match localCheck A 128 with
      | some x => s.failP g x
      | none => s.doneQ g d.toNat (.ok ⟨BitVec.ofNat 1024 (s.read (locCore g A) 128), t⟩ 0))

/-- `qst qs, off(xs)`: all of qs, without its tag. -/
def execQst (h : BitVec 3) (o : BitVec 4) (a d : BitVec 5) (s : State) : Host.Outcome State Fault Refusal :=
  xpolOp h s (fun g c =>
    let A := vecAddr (c.xr a.toNat) o
    match localCheck A 128 with
    | some x => s.failP g x
    | none => (s.write (locCore g A) (c.qr d.toNat).bits.toNat 128).advance g)

/-- A BASE whose space field is not 0 (R393), after the fields and tags: the first element's address. -/
def spaceBad (d : Word) (off0 : Int) : Option Trap :=
  if bitsOf d 28 4 ≠ 0 then some (0x09, (((bitsOf d 0 32 : Nat) : Int) + off0).emod (2 ^ 32) |>.toNat) else none

/-- `qlds qd, xs1, xs2` (R352): BASE and SZ in x[rs1], the stride in x[rs2]. -/
def execQlds (h : BitVec 3) (b a d : BitVec 5) (s : State) : Host.Outcome State Fault Refusal :=
  xpolOp h s (fun g c =>
    let t := c.xr a.toNat
    let stride := c.xr b.toNat
    match if baseSzOk t ∧ stride.toNat < 2 ^ 32 then spaceBad t 0 else none with
    | some x => s.failP g x
    | none => match strideSet g t stride with
      | .error x => s.failP g x
      | .ok l => s.doneQ g d.toNat (.plain 0 (s.gather (szBytes (bitsOf t 32 2)) l)))

/-- `qgat qd, qi, xs` (R353). -/
def execQgat (h : BitVec 3) (b a d : BitVec 5) (s : State) : Host.Outcome State Fault Refusal :=
  xpolOp h s (fun g c =>
    let w := c.xr b.toNat
    let i := c.qr a.toNat
    let size := szBytes (bitsOf w 32 2)
    match if baseSzOk w ∧ i.tag = 0x12 then spaceBad w (indexOff i size 0) else none with
    | some x => s.failP g x
    | none => match indexSet g w i with
      | .error x => s.failP g x
      | .ok l => s.doneQ g d.toNat (.plain 0 (s.gather size l)))

/-- `qsca qs, qi, xs` (R353): a higher lane's value remains. -/
def execQsca (h : BitVec 3) (b a d : BitVec 5) (s : State) : Host.Outcome State Fault Refusal :=
  xpolOp h s (fun g c =>
    let w := c.xr b.toNat
    let i := c.qr a.toNat
    let size := szBytes (bitsOf w 32 2)
    match if baseSzOk w ∧ i.tag = 0x12 then spaceBad w (indexOff i size 0) else none with
    | some x => s.failP g x
    | none => match indexSet g w i with
      | .error x => s.failP g x
      | .ok l => (s.scatter g 0 size (c.qr d.toNat) l).advance g)

/-- `qmst qs, qm, xs` (R354). -/
def execQmst (h : BitVec 3) (b a d : BitVec 5) (s : State) : Host.Outcome State Fault Refusal :=
  xpolOp h s (fun g c =>
    let w := c.xr b.toNat
    let m := c.qr a.toNat
    match if w.toNat < 2 ^ 34 ∧ m.tag = 0x13 then spaceBad w 0 else none with
    | some x => s.failP g x
    | none => match maskAddr g w m with
      | .error x => s.failP g x
      | .ok l => (s.maskStore g 0 (maskSize w) l.2 m (c.qr d.toNat)).advance g)

/-! ### Tiles (R394) -/

/-- Replace the tiles of core g and go on. -/
def State.doneT (s : State) (g : Nat) (t : Tiles) : State := (s.modP g (fun c => { c with tiles := t })).advance g

/-- `mclr mt`. -/
def execMclr (h : BitVec 3) (d : BitVec 5) (s : State) : Host.Outcome State Fault Refusal :=
  xpolOp h s (fun g c => s.doneT g (c.tiles.clear d.toNat))

/-- `mcls mt, normal` or `split`: the pair of m0 or m2. -/
def execMcls (h : BitVec 3) (b d : BitVec 5) (s : State) : Host.Outcome State Fault Refusal :=
  xpolOp h s (fun g c => s.doneT g (c.tiles.setClass (d.toNat / 2) (decide (b = 1))))

/-- `mthr xs1, xs2`: AGV and AGC. -/
def execMthr (h : BitVec 3) (b a : BitVec 5) (s : State) : Host.Outcome State Fault Refusal :=
  xpolOp h s (fun g c =>
    let v := c.xr a.toNat
    let n := c.xr b.toNat
    if 2 ^ 32 ≤ v.toNat ∨ 2 ^ 16 ≤ n.toNat then s.trapP g 0x01 0
    else s.doneT g { c.tiles with agv := v.setWidth 32, agc := n.setWidth 16 })

/-- The drain descriptor with BANK set to the tile. -/
def tileDesc (w : Word) (tile : Nat) : Word := setBits w 10 2 tile

/-- The tiles as R348's checks see them. -/
def Tiles.view (t : Tiles) : EngView := ({ Engine.reset with tiles := t } : Engine).view

/-- `mdr qd, mt, xs` (R190, R192, R348). -/
def execMdr (h : BitVec 3) (b a d : BitVec 5) (s : State) : Host.Outcome State Fault Refusal :=
  xpolOp h s (fun g c =>
    let w := c.xr b.toNat
    let t := tileDesc w a.toNat
    if bitsOf w 10 2 ≠ 0 ∨ drCheck t c.tiles.view = false then s.trapP g 0x01 0
    else
      let r := c.tiles.drain a.toNat (bitsOf t 12 2) (bitsOf t 0 7) (bitsOf t 7 3) (bitsOf t 14 2) (t.extractLsb' 32 32)
      (s.modP g (fun c => { c.setQ d.toNat r.1 with tiles := c.tiles.setRov a.toNat r.2 })).advance g)

/-- `mrd qd, mt, xs` (`ald`, R357). -/
def execMrd (h : BitVec 3) (b a d : BitVec 5) (s : State) : Host.Outcome State Fault Refusal :=
  xpolOp h s (fun g c =>
    let w := c.xr b.toNat
    if bitsOf w 10 2 ≠ 0 ∨ rowDescOk w = false then s.trapP g 0x01 0
    else s.doneQ g d.toNat (.ok (c.tiles.loadRow a.toNat w) 0))

/-- `mwr mt, qs, xs` (`ast`, R357). -/
def execMwr (h : BitVec 3) (b a d : BitVec 5) (s : State) : Host.Outcome State Fault Refusal :=
  xpolOp h s (fun g c =>
    let w := c.xr b.toNat
    let v := c.qr a.toNat
    if bitsOf w 10 2 ≠ 0 ∨ rowDescOk w = false then s.trapP g 0x01 0
    else if v.tag ≠ (if w.getLsbD 12 then 0x07 else 0x01) then s.trapP g 0x06 v.tag.toNat
    else s.doneT g (c.tiles.storeRow d.toNat w v))

/-! ### `mmac` (R395) -/

/-- Slice count and the two local addresses. -/
def mmacNk (w : Word) : Nat := bitsOf w 32 16

/-- Bytes of one side's run: its slices, and for BNI one scale run per 128 elements along K. -/
def mmacBytes (tag : BitVec 5) (nk row : Nat) : Nat :=
  row * nk + (if isBni tag then row * ((nk * depth tag + 127) / 128) else 0)

/-- First byte of a run [a, a + n) that lies outside the local buffer (R395); the run of A is checked before that of B. -/
def runOutside (a n : Nat) : Option Trap := if 0x80000 < a + n then some (0x09, max a 0x80000) else none

/-- The checks of `mmac`, made before any beat: its format, or the trap. -/
def mmacCheck (t : Tiles) (tile : Nat) (x y : Word) : Except Trap (BitVec 5) :=
  let A := bitsOf x 0 32
  let B := bitsOf y 0 32
  if 2 ^ 48 ≤ x.toNat ∨ mmacNk x = 0 ∨ 2 ^ 36 ≤ y.toNat ∨ (tile % 2 = 1 ∧ t.split (tile / 2)) then .error (0x01, 0)
  else match fmtTag (bitsOf y 32 4) with
    | none => .error (0x06, bitsOf y 32 4)
    | some tag => match runOutside A (mmacBytes tag (mmacNk x) 192) with
      | some e => .error e
      | none => match runOutside B (mmacBytes tag (mmacNk x) 320) with
        | some e => .error e
        | none => if A % 2 = 1 then .error (0x0A, A) else if B % 2 = 1 then .error (0x0A, B) else .ok tag

/-- Slice j of a side of `n` rows at a local address, with its scales. -/
def State.mmacSlice (s : State) (g a n : Nat) (tag : BitVec 5) (nk j : Nat) : Slice :=
  let half := fun o => BitVec.ofNat 16 (s.read (locCore g o) 2)
  ⟨tag, (List.range n).map (fun r => half (a + 2 * n * j + 2 * r)),
    if isBni tag then (List.range n).map (fun r => half (a + 2 * n * nk + 2 * n * (j * depth tag / 128) + 2 * r)) else []⟩

/-- The slice that an `mmac` takes next. -/
def CoreP.slice (c : CoreP) : Nat := (c.mmac.map MmacPos.next).getD 0

/-- `mmac mt, xs1, xs2`: one slice a step, so that a stop is taken after the current slice (R401); the index of the next
slice stands in the core's state. -/
def execMmac (h : BitVec 3) (b a d : BitVec 5) (s : State) : Host.Outcome State Fault Refusal :=
  xpolOp h s (fun g c =>
    let x := c.xr a.toNat
    let y := c.xr b.toNat
    match mmacCheck c.tiles d.toNat x y with
    | .error e => s.failP g e
    | .ok tag =>
      let nk := mmacNk x
      let j := c.slice
      let sa := s.mmacSlice g (bitsOf x 0 32) 96 tag nk j
      let sb := s.mmacSlice g (bitsOf y 0 32) 160 tag nk j
      let close := isBni tag && (decide ((j + 1) * depth tag % 128 = 0) || decide (j + 1 = nk))
      let s := s.modP g (fun c => { c with tiles := c.tiles.beat d.toNat sa sb close
                                           mmac := if j + 1 < nk then some ⟨d.toNat, j + 1, nk⟩ else none })
      if j + 1 = nk then s.advance g
      -- a step ends after one slice (R242)
      else if c.step1 then s.stopP g (causeWord true 0 0x31 0) else s)

end Sys2Proof.Machine
end

