-- ==== Sys2Proof/Machine/PortableSys.lean ====
section
/-! DEFINITION. The portable synchronisation and system instructions (R396 to R400). A held one ends in the release events of
`Machine/Release.lean` (R397). -/

namespace Sys2Proof.Machine

/-- Hold core g on an operation with its operands. -/
def State.holdP (s : State) (g : Nat) (op : HoldOp) (rd : Nat) (t a b val : Word) (img : List Word) : State :=
  let h := Hold.mk op (TVal.ofWord t) (TVal.ofWord a) (TVal.ofWord b) ⟨0, 0⟩ false 0 rd 0 val img
  s.modP g (fun c => { c with hold := some h })

/-- A checked instruction: it traps, or acts. -/
def sysOp (h : BitVec 3) (s : State) (check : Nat → CoreP → Option Trap) (act : Nat → CoreP → State) :
    Host.Outcome State Fault Refusal :=
  xpolOp h s (fun g c => match check g c with
    | some t => s.failP g t
    | none => act g c)

/-- The image at local x[rs1]: an address outside the local buffer is R385's range trap. -/
def State.localImage (s : State) (g : Nat) (w : Word) : Except Trap (List Word) :=
  match localCheck w.toNat 64 with
  | some t => .error t
  | none => s.image g w

/-- `qpost xd, xs1` (R363, R398): the image at local x[rs1] is read, and POST_CLAIM ends the hold. -/
def execQpost (h : BitVec 3) (a d : BitVec 5) (s : State) : Host.Outcome State Fault Refusal :=
  xpolOp h s (fun g c => match s.localImage g (c.xr a.toNat) with
    | .error t => s.failP g t
    | .ok img =>
      if s.postCheck c.asid false img then
        s.holdP g .post d.toNat 0 0 0 (BitVec.ofNat 64 (bitsOf (img.getD 7 0) 0 16)) img
      else s.trapP g 0x01 0)

/-- `twait xs1, xs2` (R364): channel x[rs1], target x[rs2]. -/
def execTwait (h : BitVec 3) (b a : BitVec 5) (s : State) : Host.Outcome State Fault Refusal :=
  sysOp h s (fun _ c =>
      if 2 ^ 16 ≤ (c.xr a.toNat).toNat ∨ 2 ^ 48 ≤ (c.xr b.toNat).toNat ∨ s.chanOf (c.xr a.toNat).toNat c.asid = false
      then illegal else none)
    (fun g c => s.holdP g .twait 0 (c.xr b.toNat) (c.xr a.toNat) 0 0 [])

/-- `tstat xd, xs1` (R365). -/
def execTstat (h : BitVec 3) (a d : BitVec 5) (s : State) : Host.Outcome State Fault Refusal :=
  sysOp h s (fun _ c =>
      if 2 ^ 16 ≤ (c.xr a.toNat).toNat ∨ s.chanOf (c.xr a.toNat).toNat c.asid = false then illegal else none)
    (fun g c => s.doneX g d.toNat (BitVec.ofNat 64 (s.chan (c.xr a.toNat).toNat).tl))

/-- `hbind xd, xs1, xs2` (R370): hasp name x[rs1], region name x[rs2], length x[rd]. -/
def execHbind (h : BitVec 3) (b a d : BitVec 5) (s : State) : Host.Outcome State Fault Refusal :=
  sysOp h s (fun _ c => hbindCheck (c.xr a.toNat) (c.xr b.toNat) (c.xr d.toNat) true)
    (fun g c => s.holdP g .hbind d.toNat (c.xr a.toNat) (c.xr b.toNat) (c.xr d.toNat) 0 [])

/-- Descriptor of `hacq` (R371) from COND and SC. -/
def acqDesc (cond : BitVec 2) (sc : BitVec 3) : Word := (cond.setWidth 64 <<< 4) ||| sc.setWidth 64

/-- `hacq xs1, xs2, cond, scope` (R371): index x[rs1], compare value x[rs2]. -/
def execHacq (h : BitVec 3) (b a : BitVec 5) (c : BitVec 2) (sc : BitVec 3) (s : State) :
    Host.Outcome State Fault Refusal :=
  sysOp h s (fun _ p => s.hacqCheck p.asid (p.xr a.toNat) (acqDesc c sc))
    (fun g p => s.holdP g .hacq 0 (p.xr a.toNat) (acqDesc c sc) (p.xr b.toNat) 0 [])

/-- `hrel xs1, xs2, scope` (R372): index x[rs1], value x[rs2]. -/
def execHrel (h : BitVec 3) (b a : BitVec 5) (sc : BitVec 3) (s : State) : Host.Outcome State Fault Refusal :=
  sysOp h s (fun _ c => s.hrelCheck c.asid (c.xr a.toNat) (sc.setWidth 64))
    (fun g c => s.holdP g .hrel 0 (c.xr b.toNat) (c.xr a.toNat) (sc.setWidth 64) 0 [])

/-- `hpub scope` (R373). -/
def execHpub (h : BitVec 3) (sc : BitVec 3) (s : State) : Host.Outcome State Fault Refusal :=
  sysOp h s (fun _ _ => if 5 ≤ sc.toNat then illegal else none)
    (fun g _ => s.holdP g .hpub 0 (sc.setWidth 64) 0 0 0 [])

/-- `hobs scope` (R373). -/
def execHobs (h : BitVec 3) (sc : BitVec 3) (s : State) : Host.Outcome State Fault Refusal :=
  sysOp h s (fun _ _ => if 5 ≤ sc.toNat then illegal else none)
    (fun g _ => s.holdP g .hobs 0 (sc.setWidth 64) 0 0 0 [])

/-- `tpost xd, xs1` (R378): TPOST_DONE ends the hold with the status. -/
def execTpost (h : BitVec 3) (a d : BitVec 5) (s : State) : Host.Outcome State Fault Refusal :=
  xpolOp h s (fun g c => match s.localImage g (c.xr a.toNat) with
    | .error t => s.failP g t
    | .ok img => s.holdP g .tpost d.toNat 0 0 0 0 img)

/-- `cend` (R312): the continuation retires. -/
def execCend (h : BitVec 3) (s : State) : Host.Outcome State Fault Refusal :=
  xpolOp h s (fun g _ => s.finishCont g .retire)

/-- `csusp xs1` (R312): the record is written back from the image at local x[rs1]. -/
def execCsusp (h : BitVec 3) (a : BitVec 5) (s : State) : Host.Outcome State Fault Refusal :=
  xpolOp h s (fun g c =>
    match localCheck (c.xr a.toNat).toNat 64 with
    | some t => s.failP g t
    | none => match s.suspImage g c.asid false (c.xr a.toNat) with
      | .error t => s.failP g t
      | .ok img => s.finishCont g (.back (Rec.ofWords img)))

/-- Control lies in the span of a `.suspend` loop (R438). -/
def State.inSpan (s : State) (g : Nat) : Bool :=
  (s.spans g).any (fun l => decide (l.2.1 ≤ (s.coreP g).pc ∧ (s.coreP g).pc ≤ l.2.2))

/-- `cyield xs1` (R313): a suspension point outside every active loop. -/
def execCyield (h : BitVec 3) (a : BitVec 5) (s : State) : Host.Outcome State Fault Refusal :=
  sysOp h s (fun _ c => if 2 ^ 32 ≤ (c.xr a.toNat).toNat then illegal else none)
    (fun g c =>
      if c.mayHonour && !s.inSpan g then s.finishCont g (.hand 0xFFFF (c.xr a.toNat).toNat) else s.advance g)

/-- `notify xs1` (R379). -/
def execNotify (h : BitVec 3) (a : BitVec 5) (s : State) : Host.Outcome State Fault Refusal :=
  sysOp h s (fun _ c => s.notifyCheck c.asid (c.xr a.toNat)) (fun g c => (s.notify c.asid (c.xr a.toNat)).advance g)

/-- `pmark xs1` (R381). -/
def execPmark (h : BitVec 3) (a : BitVec 5) (s : State) : Host.Outcome State Fault Refusal :=
  xpolOp h s (fun g c => (s.traceRec (dieOf g) (s.nameAt g c.pc) 2 0 c.asid (c.xr a.toNat)).advance g)

/-- `qrnd xd` (R380): a draw of the die's pool; without one the core holds for ENTROPY_READY. -/
def execQrnd (h : BitVec 3) (d : BitVec 5) (s : State) : Host.Outcome State Fault Refusal :=
  xpolOp h s (fun g _ => match s.draw (dieOf g) with
    | none => s.holdP g .rnd d.toNat 0 0 0 0 []
    | some (w, s) => (s.modP g (fun c => { c with drawn := c.drawn + 1 })).doneX g d.toNat w)

end Sys2Proof.Machine
end

