-- ==== Sys2Proof/Machine/PortableVec.lean ====
section
/-! DEFINITION. The portable vector instructions (R390 to R392): the native operations with the operands that R390 binds. -/

namespace Sys2Proof.Machine

/-- The operation of a vector instruction on its core's registers; its result goes to q[d]. -/
def vecOp (h : BitVec 3) (d : BitVec 5) (s : State) (f : CoreP → VRes) : Host.Outcome State Fault Refusal :=
  xpolOp h s (fun g c => s.doneQ g d.toNat (f c))

/-- q[n] and x[n] by a register field. -/
def CoreP.vq (c : CoreP) (n : BitVec 5) : TVal := c.qr n.toNat
def CoreP.vx (c : CoreP) (n : BitVec 5) : TVal := TVal.ofWord (c.xr n.toNat)

/-- Operand values (0x01) are checked before tags (R389): a descriptor whose block or offset lies outside both tags' elements
traps with 0x01 first. -/
def firstField (bad : Bool) (r : VRes) : VRes := if bad then .badField else r

/-- `qcvtx`'s offsets, each against a tag that has elements to convert. -/
def cvtOffsetsBad (t : TVal) (a : Word) : Bool :=
  let d := a.setWidth 5
  (!noConvTag t.tag && decide (elemN t.tag ≤ bitsOf a 10 10)) || (!noConvTag d && decide (elemN d ≤ bitsOf a 20 10))

/-- The block of `qpln` or `qupl`, where the BNI tag is one. -/
def blockBad (tag : BitVec 5) (a : Word) : Bool := isBni tag && !blkOk tag (bitsOf a 8 2)

/-- `qidx`'s packed operand (R330, R390). -/
def idxOperand (base step : Word) : Option Word :=
  if base.toNat < 2 ^ 32 ∧ step.toNat < 2 ^ 32 then some (base ||| (step <<< 32)) else none

/-- `qadd`: a := qa, t := qb (R325). -/
def execQadd (h : BitVec 3) (b a d : BitVec 5) (s : State) : Host.Outcome State Fault Refusal :=
  vecOp h d s (fun c => opVadd (c.vq b) (c.vq a))

/-- `qsub`: a := qa, t := qb (R325). -/
def execQsub (h : BitVec 3) (b a d : BitVec 5) (s : State) : Host.Outcome State Fault Refusal :=
  vecOp h d s (fun c => opVsub (c.vq b) (c.vq a))

/-- `qmul`: a := qa, t := qb (R325). -/
def execQmul (h : BitVec 3) (b a d : BitVec 5) (s : State) : Host.Outcome State Fault Refusal :=
  vecOp h d s (fun c => opVmul (c.vq b) (c.vq a))

/-- `qfma`: a := qa, b := qb, t := qd (R325). -/
def execQfma (h : BitVec 3) (b a d : BitVec 5) (s : State) : Host.Outcome State Fault Refusal :=
  vecOp h d s (fun c => opVfma (c.vq d) (c.vq a) (c.vq b))

/-- `qmax`: a := qa, t := qb (R326). -/
def execQmax (h : BitVec 3) (b a d : BitVec 5) (s : State) : Host.Outcome State Fault Refusal :=
  vecOp h d s (fun c => opVmax (c.vq b) (c.vq a))

/-- `qmin`: a := qa, t := qb (R326). -/
def execQmin (h : BitVec 3) (b a d : BitVec 5) (s : State) : Host.Outcome State Fault Refusal :=
  vecOp h d s (fun c => opVmin (c.vq b) (c.vq a))

/-- `qabs`: t := qa (R326). -/
def execQabs (h : BitVec 3) (a d : BitVec 5) (s : State) : Host.Outcome State Fault Refusal :=
  vecOp h d s (fun c => opVabs (c.vq a))

/-- `qneg`: t := qa (R326). -/
def execQneg (h : BitVec 3) (a d : BitVec 5) (s : State) : Host.Outcome State Fault Refusal :=
  vecOp h d s (fun c => opVneg (c.vq a))

/-- `qclmp`: a := qa, b := qb, t := qd (R326). -/
def execQclmp (h : BitVec 3) (b a d : BitVec 5) (s : State) : Host.Outcome State Fault Refusal :=
  vecOp h d s (fun c => opVclmp (c.vq d) (c.vq a) (c.vq b))

/-- `qcmpeq`: a := qa, t := qb (R327). -/
def execQcmpeq (h : BitVec 3) (b a d : BitVec 5) (s : State) : Host.Outcome State Fault Refusal :=
  vecOp h d s (fun c => opVcmpeq (c.vq b) (c.vq a))

/-- `qcmplt`: a := qa, t := qb (R327). -/
def execQcmplt (h : BitVec 3) (b a d : BitVec 5) (s : State) : Host.Outcome State Fault Refusal :=
  vecOp h d s (fun c => opVcmplt (c.vq b) (c.vq a))

/-- `qcmple`: a := qa, t := qb (R327). -/
def execQcmple (h : BitVec 3) (b a d : BitVec 5) (s : State) : Host.Outcome State Fault Refusal :=
  vecOp h d s (fun c => opVcmple (c.vq b) (c.vq a))

/-- `qsel`: a := qa, b := qb, the Mask t := qd (R328). -/
def execQsel (h : BitVec 3) (b a d : BitVec 5) (s : State) : Host.Outcome State Fault Refusal :=
  vecOp h d s (fun c => opVsel (c.vq d) (c.vq a) (c.vq b))

/-- `qand`: a := qa, t := qb (R329). -/
def execQand (h : BitVec 3) (b a d : BitVec 5) (s : State) : Host.Outcome State Fault Refusal :=
  vecOp h d s (fun c => opVand (c.vq b) (c.vq a))

/-- `qor`: a := qa, t := qb (R329). -/
def execQor (h : BitVec 3) (b a d : BitVec 5) (s : State) : Host.Outcome State Fault Refusal :=
  vecOp h d s (fun c => opVor (c.vq b) (c.vq a))

/-- `qxor`: a := qa, t := qb (R329). -/
def execQxor (h : BitVec 3) (b a d : BitVec 5) (s : State) : Host.Outcome State Fault Refusal :=
  vecOp h d s (fun c => opVxor (c.vq b) (c.vq a))

/-- `qshl`: a := x[rs2], t := qa (R329). -/
def execQshl (h : BitVec 3) (b a d : BitVec 5) (s : State) : Host.Outcome State Fault Refusal :=
  vecOp h d s (fun c => opVshl (c.vq a) (c.vx b))

/-- `qshr`: a := x[rs2], t := qa (R329). -/
def execQshr (h : BitVec 3) (b a d : BitVec 5) (s : State) : Host.Outcome State Fault Refusal :=
  vecOp h d s (fun c => opVshr (c.vq a) (c.vx b))

/-- `qidx`: BASE x[rs1][31:0], STEP x[rs2][31:0], the rest of both zero (R330). -/
def execQidx (h : BitVec 3) (b a d : BitVec 5) (s : State) : Host.Outcome State Fault Refusal :=
  vecOp h d s (fun c => match idxOperand (c.xr a.toNat) (c.xr b.toNat) with
    | some w => opVidx (TVal.ofWord w)
    | none => .badField)

/-- `qext`: a := x[rs2], t := qa; bits [63:0] of the result go to x[rd] (R331). -/
def execQext (h : BitVec 3) (b a d : BitVec 5) (s : State) : Host.Outcome State Fault Refusal :=
  xpolOp h s (fun g c => match opVext (c.vq a) (c.vx b) with
    | .ok v _ => s.doneX g d.toNat v.word
    | .trap code detail => s.trapP g code detail)

/-- `qins`: a := x[rs2], b := x[rs1], t := qd (R331). -/
def execQins (h : BitVec 3) (b a d : BitVec 5) (s : State) : Host.Outcome State Fault Refusal :=
  vecOp h d s (fun c => opVins (c.vq d) (c.vx b) (c.vx a))

/-- `qperm`: selectors a := qb, t := qa (R332). -/
def execQperm (h : BitVec 3) (b a d : BitVec 5) (s : State) : Host.Outcome State Fault Refusal :=
  vecOp h d s (fun c => opVperm (c.vq a) (c.vq b))

/-- `qshuf`: a := x[rs2], t := qa (R333). -/
def execQshuf (h : BitVec 3) (b a d : BitVec 5) (s : State) : Host.Outcome State Fault Refusal :=
  vecOp h d s (fun c => opVshuf (c.vq a) (c.vx b))

/-- `qredadd`: t := qa; hint 4 reduces in ascending order (R334, R391). -/
def execQredadd (h : BitVec 3) (a d : BitVec 5) (s : State) : Host.Outcome State Fault Refusal :=
  vecOp h d s (fun c => if h = 4 then opQredaddUp (c.vq a) else opVredadd (c.vq a))

/-- `qredmax`: t := qa (R334). -/
def execQredmax (h : BitVec 3) (a d : BitVec 5) (s : State) : Host.Outcome State Fault Refusal :=
  vecOp h d s (fun c => opVredmax (c.vq a))

/-- `qexp2`: t := qa (R335). -/
def execQexp2 (h : BitVec 3) (a d : BitVec 5) (s : State) : Host.Outcome State Fault Refusal :=
  vecOp h d s (fun c => opVexp2 (c.vq a))

/-- `qlog2`: t := qa (R335). -/
def execQlog2 (h : BitVec 3) (a d : BitVec 5) (s : State) : Host.Outcome State Fault Refusal :=
  vecOp h d s (fun c => opVlog2 (c.vq a))

/-- `qrcp`: t := qa (R335). -/
def execQrcp (h : BitVec 3) (a d : BitVec 5) (s : State) : Host.Outcome State Fault Refusal :=
  vecOp h d s (fun c => opVrcp (c.vq a))

/-- `qrsq`: t := qa (R335). -/
def execQrsq (h : BitVec 3) (a d : BitVec 5) (s : State) : Host.Outcome State Fault Refusal :=
  vecOp h d s (fun c => opVrsq (c.vq a))

/-- `qdot2`: a := qa, the addend b := qd, t := qb (R336). -/
def execQdot2 (h : BitVec 3) (b a d : BitVec 5) (s : State) : Host.Outcome State Fault Refusal :=
  vecOp h d s (fun c => opVdot2 (c.vq b) (c.vq a) (c.vq d))

/-- `qscl`: scales a := qb, data t := qa (R337). -/
def execQscl (h : BitVec 3) (b a d : BitVec 5) (s : State) : Host.Outcome State Fault Refusal :=
  vecOp h d s (fun c => opVscl (c.vq a) (c.vq b))

/-- `qpln`: a := x[rs2], t := qa (R338). -/
def execQpln (h : BitVec 3) (b a d : BitVec 5) (s : State) : Host.Outcome State Fault Refusal :=
  vecOp h d s (fun c => firstField (blockBad ((c.xr b.toNat).setWidth 5) (c.xr b.toNat)) (opVpln (c.vq a) (c.vx b)))

/-- `qupl`: a := x[rs2], t := qa (R338). -/
def execQupl (h : BitVec 3) (b a d : BitVec 5) (s : State) : Host.Outcome State Fault Refusal :=
  vecOp h d s (fun c => firstField (blockBad (c.vq a).tag (c.xr b.toNat)) (opVupl (c.vq a) (c.vx b)))

/-- `qcvtx`: a := x[rs2], t := qa (R339). -/
def execQcvtx (h : BitVec 3) (b a d : BitVec 5) (s : State) : Host.Outcome State Fault Refusal :=
  vecOp h d s (fun c => firstField (cvtOffsetsBad (c.vq a) (c.xr b.toNat)) (opVcvt (c.vq a) (c.vx b)))

/-- `qsortx`: the control x[rs2], X := qa, Y := qd (R216). -/
def execQsortx (h : BitVec 3) (b a d : BitVec 5) (s : State) : Host.Outcome State Fault Refusal :=
  vecOp h d s (fun c => opSortx (c.xr b.toNat) (c.vq a) (c.vq d))

/-- `qsplat`: R392. -/
def execQsplat (h : BitVec 3) (t a d : BitVec 5) (s : State) : Host.Outcome State Fault Refusal :=
  vecOp h d s (fun c => opQsplat t (c.xr a.toNat))

/-- `qcvt`: DTAG := tag, SOFF and DOFF 0 (R339). -/
def execQcvt (h : BitVec 3) (t a d : BitVec 5) (s : State) : Host.Outcome State Fault Refusal :=
  vecOp h d s (fun c => convOp (c.vq a) t 0 0)

/-- `qtag`: the tag of R340. -/
def execQtag (h : BitVec 3) (t a d : BitVec 5) (s : State) : Host.Outcome State Fault Refusal :=
  vecOp h d s (fun c => opVtag (c.vq a) (TVal.ofWord (t.setWidth 64)))

end Sys2Proof.Machine
end

