-- ==== Sys2Proof/Machine/Vector.lean ====
section
/-! DEFINITION. The vector units va0 and va1 (R323 to R340). -/

namespace Sys2Proof.Machine

/-- The frame of a vector trigger: `f` is the operation on t and ports a and b as they stand at issue (R323). -/
def vaMove (gd : BitVec 3) (src : BitVec 10) (u k : BitVec 1) (s : State) (lat : Nat)
    (f : TVal → TVal → TVal → VRes) : Host.Outcome State Fault Refusal :=
  runMove (2 + u.toNat) gd src s (fun x => x.finish s lat k (f x.val (x.c.port x.slot 0) (x.c.port x.slot 1)))

/-- `vadd` (R325), latency 2 (R289). -/
def execVadd (gd : BitVec 3) (src : BitVec 10) (u k : BitVec 1) (s : State) : Host.Outcome State Fault Refusal :=
  vaMove gd src u k s 2 (fun t a _ => opVadd t a)

/-- `vsub` (R325), latency 2 (R289). -/
def execVsub (gd : BitVec 3) (src : BitVec 10) (u k : BitVec 1) (s : State) : Host.Outcome State Fault Refusal :=
  vaMove gd src u k s 2 (fun t a _ => opVsub t a)

/-- `vmul` (R325), latency 4 (R289). -/
def execVmul (gd : BitVec 3) (src : BitVec 10) (u k : BitVec 1) (s : State) : Host.Outcome State Fault Refusal :=
  vaMove gd src u k s 4 (fun t a _ => opVmul t a)

/-- `vfma` (R325), latency 4 (R289). -/
def execVfma (gd : BitVec 3) (src : BitVec 10) (u k : BitVec 1) (s : State) : Host.Outcome State Fault Refusal :=
  vaMove gd src u k s 4 (fun t a b => opVfma t a b)

/-- `vmax` (R326), latency 2 (R289). -/
def execVmax (gd : BitVec 3) (src : BitVec 10) (u k : BitVec 1) (s : State) : Host.Outcome State Fault Refusal :=
  vaMove gd src u k s 2 (fun t a _ => opVmax t a)

/-- `vmin` (R326), latency 2 (R289). -/
def execVmin (gd : BitVec 3) (src : BitVec 10) (u k : BitVec 1) (s : State) : Host.Outcome State Fault Refusal :=
  vaMove gd src u k s 2 (fun t a _ => opVmin t a)

/-- `vabs` (R326), latency 2 (R289). -/
def execVabs (gd : BitVec 3) (src : BitVec 10) (u k : BitVec 1) (s : State) : Host.Outcome State Fault Refusal :=
  vaMove gd src u k s 2 (fun t _ _ => opVabs t)

/-- `vneg` (R326), latency 2 (R289). -/
def execVneg (gd : BitVec 3) (src : BitVec 10) (u k : BitVec 1) (s : State) : Host.Outcome State Fault Refusal :=
  vaMove gd src u k s 2 (fun t _ _ => opVneg t)

/-- `vcmpeq` (R327), latency 2 (R289). -/
def execVcmpeq (gd : BitVec 3) (src : BitVec 10) (u k : BitVec 1) (s : State) : Host.Outcome State Fault Refusal :=
  vaMove gd src u k s 2 (fun t a _ => opVcmpeq t a)

/-- `vcmplt` (R327), latency 2 (R289). -/
def execVcmplt (gd : BitVec 3) (src : BitVec 10) (u k : BitVec 1) (s : State) : Host.Outcome State Fault Refusal :=
  vaMove gd src u k s 2 (fun t a _ => opVcmplt t a)

/-- `vcmple` (R327), latency 2 (R289). -/
def execVcmple (gd : BitVec 3) (src : BitVec 10) (u k : BitVec 1) (s : State) : Host.Outcome State Fault Refusal :=
  vaMove gd src u k s 2 (fun t a _ => opVcmple t a)

/-- `vsel` (R328), latency 2 (R289). -/
def execVsel (gd : BitVec 3) (src : BitVec 10) (u k : BitVec 1) (s : State) : Host.Outcome State Fault Refusal :=
  vaMove gd src u k s 2 (fun t a b => opVsel t a b)

/-- `vcvt` (R339), latency 2 (R289). -/
def execVcvt (gd : BitVec 3) (src : BitVec 10) (u k : BitVec 1) (s : State) : Host.Outcome State Fault Refusal :=
  vaMove gd src u k s 2 (fun t a _ => opVcvt t a)

/-- `vsplat` (R330), latency 2 (R289). -/
def execVsplat (gd : BitVec 3) (src : BitVec 10) (u k : BitVec 1) (s : State) : Host.Outcome State Fault Refusal :=
  vaMove gd src u k s 2 (fun t a _ => opVsplat t a)

/-- `vperm` (R332), latency 2 (R289). -/
def execVperm (gd : BitVec 3) (src : BitVec 10) (u k : BitVec 1) (s : State) : Host.Outcome State Fault Refusal :=
  vaMove gd src u k s 2 (fun t a _ => opVperm t a)

/-- `vshuf` (R333), latency 2 (R289). -/
def execVshuf (gd : BitVec 3) (src : BitVec 10) (u k : BitVec 1) (s : State) : Host.Outcome State Fault Refusal :=
  vaMove gd src u k s 2 (fun t a _ => opVshuf t a)

/-- `vredadd` (R334), latency 5 (R289). -/
def execVredadd (gd : BitVec 3) (src : BitVec 10) (u k : BitVec 1) (s : State) : Host.Outcome State Fault Refusal :=
  vaMove gd src u k s 5 (fun t _ _ => opVredadd t)

/-- `vredmax` (R334), latency 5 (R289). -/
def execVredmax (gd : BitVec 3) (src : BitVec 10) (u k : BitVec 1) (s : State) : Host.Outcome State Fault Refusal :=
  vaMove gd src u k s 5 (fun t _ _ => opVredmax t)

/-- `vexp2` (R335), latency 6 (R289). -/
def execVexp2 (gd : BitVec 3) (src : BitVec 10) (u k : BitVec 1) (s : State) : Host.Outcome State Fault Refusal :=
  vaMove gd src u k s 6 (fun t _ _ => opVexp2 t)

/-- `vlog2` (R335), latency 6 (R289). -/
def execVlog2 (gd : BitVec 3) (src : BitVec 10) (u k : BitVec 1) (s : State) : Host.Outcome State Fault Refusal :=
  vaMove gd src u k s 6 (fun t _ _ => opVlog2 t)

/-- `vrcp` (R335), latency 6 (R289). -/
def execVrcp (gd : BitVec 3) (src : BitVec 10) (u k : BitVec 1) (s : State) : Host.Outcome State Fault Refusal :=
  vaMove gd src u k s 6 (fun t _ _ => opVrcp t)

/-- `vrsq` (R335), latency 6 (R289). -/
def execVrsq (gd : BitVec 3) (src : BitVec 10) (u k : BitVec 1) (s : State) : Host.Outcome State Fault Refusal :=
  vaMove gd src u k s 6 (fun t _ _ => opVrsq t)

/-- `vdot2` (R336), latency 4 (R289). -/
def execVdot2 (gd : BitVec 3) (src : BitVec 10) (u k : BitVec 1) (s : State) : Host.Outcome State Fault Refusal :=
  vaMove gd src u k s 4 (fun t a b => opVdot2 t a b)

/-- `vscl` (R337), latency 4 (R289). -/
def execVscl (gd : BitVec 3) (src : BitVec 10) (u k : BitVec 1) (s : State) : Host.Outcome State Fault Refusal :=
  vaMove gd src u k s 4 (fun t a _ => opVscl t a)

/-- `vpln` (R338), latency 2 (R289). -/
def execVpln (gd : BitVec 3) (src : BitVec 10) (u k : BitVec 1) (s : State) : Host.Outcome State Fault Refusal :=
  vaMove gd src u k s 2 (fun t a _ => opVpln t a)

/-- `vupl` (R338), latency 2 (R289). -/
def execVupl (gd : BitVec 3) (src : BitVec 10) (u k : BitVec 1) (s : State) : Host.Outcome State Fault Refusal :=
  vaMove gd src u k s 2 (fun t a _ => opVupl t a)

/-- `vand` (R329), latency 2 (R289). -/
def execVand (gd : BitVec 3) (src : BitVec 10) (u k : BitVec 1) (s : State) : Host.Outcome State Fault Refusal :=
  vaMove gd src u k s 2 (fun t a _ => opVand t a)

/-- `vor` (R329), latency 2 (R289). -/
def execVor (gd : BitVec 3) (src : BitVec 10) (u k : BitVec 1) (s : State) : Host.Outcome State Fault Refusal :=
  vaMove gd src u k s 2 (fun t a _ => opVor t a)

/-- `vxor` (R329), latency 2 (R289). -/
def execVxor (gd : BitVec 3) (src : BitVec 10) (u k : BitVec 1) (s : State) : Host.Outcome State Fault Refusal :=
  vaMove gd src u k s 2 (fun t a _ => opVxor t a)

/-- `vshl` (R329), latency 2 (R289). -/
def execVshl (gd : BitVec 3) (src : BitVec 10) (u k : BitVec 1) (s : State) : Host.Outcome State Fault Refusal :=
  vaMove gd src u k s 2 (fun t a _ => opVshl t a)

/-- `vshr` (R329), latency 2 (R289). -/
def execVshr (gd : BitVec 3) (src : BitVec 10) (u k : BitVec 1) (s : State) : Host.Outcome State Fault Refusal :=
  vaMove gd src u k s 2 (fun t a _ => opVshr t a)

/-- `vidx` (R330), latency 2 (R289). -/
def execVidx (gd : BitVec 3) (src : BitVec 10) (u k : BitVec 1) (s : State) : Host.Outcome State Fault Refusal :=
  vaMove gd src u k s 2 (fun t _ _ => opVidx t)

/-- `vext` (R331), latency 2 (R289). -/
def execVext (gd : BitVec 3) (src : BitVec 10) (u k : BitVec 1) (s : State) : Host.Outcome State Fault Refusal :=
  vaMove gd src u k s 2 (fun t a _ => opVext t a)

/-- `vins` (R331), latency 2 (R289). -/
def execVins (gd : BitVec 3) (src : BitVec 10) (u k : BitVec 1) (s : State) : Host.Outcome State Fault Refusal :=
  vaMove gd src u k s 2 (fun t a b => opVins t a b)

/-- `vclmp` (R326), latency 2 (R289). -/
def execVclmp (gd : BitVec 3) (src : BitVec 10) (u k : BitVec 1) (s : State) : Host.Outcome State Fault Refusal :=
  vaMove gd src u k s 2 (fun t a b => opVclmp t a b)

/-- `vtag` (R340), latency 2 (R289). -/
def execVtag (gd : BitVec 3) (src : BitVec 10) (u k : BitVec 1) (s : State) : Host.Outcome State Fault Refusal :=
  vaMove gd src u k s 2 (fun t a _ => opVtag t a)

end Sys2Proof.Machine
end

