-- ==== Sys2Proof/Machine/Dispatch.lean ====
section
/-! DEFINITION. One arm per instruction: each calls its meaning. -/

namespace Sys2Proof.Machine

/-- The effect of one instruction. -/
def exec (i : Instr) (s : State) : Host.Outcome State Fault Refusal :=
  match i with
  | .iaAdd g xs u k => Sys2Proof.Machine.execIaAdd g xs u k s
  | .iaSub g xs u k => Sys2Proof.Machine.execIaSub g xs u k s
  | .iaAnd g xs u k => Sys2Proof.Machine.execIaAnd g xs u k s
  | .iaOr g xs u k => Sys2Proof.Machine.execIaOr g xs u k s
  | .iaXor g xs u k => Sys2Proof.Machine.execIaXor g xs u k s
  | .iaAndn g xs u k => Sys2Proof.Machine.execIaAndn g xs u k s
  | .iaShl g xs u k => Sys2Proof.Machine.execIaShl g xs u k s
  | .iaShr g xs u k => Sys2Proof.Machine.execIaShr g xs u k s
  | .iaSra g xs u k => Sys2Proof.Machine.execIaSra g xs u k s
  | .iaRol g xs u k => Sys2Proof.Machine.execIaRol g xs u k s
  | .iaMin g xs u k => Sys2Proof.Machine.execIaMin g xs u k s
  | .iaMax g xs u k => Sys2Proof.Machine.execIaMax g xs u k s
  | .iaMinn g xs u k => Sys2Proof.Machine.execIaMinn g xs u k s
  | .iaMaxn g xs u k => Sys2Proof.Machine.execIaMaxn g xs u k s
  | .iaMul g xs u k => Sys2Proof.Machine.execIaMul g xs u k s
  | .iaMulh g xs u k => Sys2Proof.Machine.execIaMulh g xs u k s
  | .iaMulhn g xs u k => Sys2Proof.Machine.execIaMulhn g xs u k s
  | .iaDiv g xs u k => Sys2Proof.Machine.execIaDiv g xs u k s
  | .iaDivn g xs u k => Sys2Proof.Machine.execIaDivn g xs u k s
  | .iaRem g xs u k => Sys2Proof.Machine.execIaRem g xs u k s
  | .iaRemn g xs u k => Sys2Proof.Machine.execIaRemn g xs u k s
  | .iaCmpeq g xs u k => Sys2Proof.Machine.execIaCmpeq g xs u k s
  | .iaCmpne g xs u k => Sys2Proof.Machine.execIaCmpne g xs u k s
  | .iaCmplt g xs u k => Sys2Proof.Machine.execIaCmplt g xs u k s
  | .iaCmpltn g xs u k => Sys2Proof.Machine.execIaCmpltn g xs u k s
  | .iaCmple g xs u k => Sys2Proof.Machine.execIaCmple g xs u k s
  | .iaCmplen g xs u k => Sys2Proof.Machine.execIaCmplen g xs u k s
  | .iaSel g xs u k => Sys2Proof.Machine.execIaSel g xs u k s
  | .iaLea g xs u k => Sys2Proof.Machine.execIaLea g xs u k s
  | .iaBfx g xs u k => Sys2Proof.Machine.execIaBfx g xs u k s
  | .iaBfi g xs u k => Sys2Proof.Machine.execIaBfi g xs u k s
  | .iaClz g xs u k => Sys2Proof.Machine.execIaClz g xs u k s
  | .iaCtz g xs u k => Sys2Proof.Machine.execIaCtz g xs u k s
  | .iaPopc g xs u k => Sys2Proof.Machine.execIaPopc g xs u k s
  | .iaMov g xs u k => Sys2Proof.Machine.execIaMov g xs u k s
  | .iaSext g xs u k => Sys2Proof.Machine.execIaSext g xs u k s
  | .iaZext g xs u k => Sys2Proof.Machine.execIaZext g xs u k s
  | .vadd g xs u k => Sys2Proof.Machine.execVadd g xs u k s
  | .vsub g xs u k => Sys2Proof.Machine.execVsub g xs u k s
  | .vmul g xs u k => Sys2Proof.Machine.execVmul g xs u k s
  | .vfma g xs u k => Sys2Proof.Machine.execVfma g xs u k s
  | .vmax g xs u k => Sys2Proof.Machine.execVmax g xs u k s
  | .vmin g xs u k => Sys2Proof.Machine.execVmin g xs u k s
  | .vabs g xs u k => Sys2Proof.Machine.execVabs g xs u k s
  | .vneg g xs u k => Sys2Proof.Machine.execVneg g xs u k s
  | .vcmpeq g xs u k => Sys2Proof.Machine.execVcmpeq g xs u k s
  | .vcmplt g xs u k => Sys2Proof.Machine.execVcmplt g xs u k s
  | .vcmple g xs u k => Sys2Proof.Machine.execVcmple g xs u k s
  | .vsel g xs u k => Sys2Proof.Machine.execVsel g xs u k s
  | .vcvt g xs u k => Sys2Proof.Machine.execVcvt g xs u k s
  | .vsplat g xs u k => Sys2Proof.Machine.execVsplat g xs u k s
  | .vperm g xs u k => Sys2Proof.Machine.execVperm g xs u k s
  | .vshuf g xs u k => Sys2Proof.Machine.execVshuf g xs u k s
  | .vredadd g xs u k => Sys2Proof.Machine.execVredadd g xs u k s
  | .vredmax g xs u k => Sys2Proof.Machine.execVredmax g xs u k s
  | .vexp2 g xs u k => Sys2Proof.Machine.execVexp2 g xs u k s
  | .vlog2 g xs u k => Sys2Proof.Machine.execVlog2 g xs u k s
  | .vrcp g xs u k => Sys2Proof.Machine.execVrcp g xs u k s
  | .vrsq g xs u k => Sys2Proof.Machine.execVrsq g xs u k s
  | .vdot2 g xs u k => Sys2Proof.Machine.execVdot2 g xs u k s
  | .vscl g xs u k => Sys2Proof.Machine.execVscl g xs u k s
  | .vpln g xs u k => Sys2Proof.Machine.execVpln g xs u k s
  | .vupl g xs u k => Sys2Proof.Machine.execVupl g xs u k s
  | .vand g xs u k => Sys2Proof.Machine.execVand g xs u k s
  | .vor g xs u k => Sys2Proof.Machine.execVor g xs u k s
  | .vxor g xs u k => Sys2Proof.Machine.execVxor g xs u k s
  | .vshl g xs u k => Sys2Proof.Machine.execVshl g xs u k s
  | .vshr g xs u k => Sys2Proof.Machine.execVshr g xs u k s
  | .vidx g xs u k => Sys2Proof.Machine.execVidx g xs u k s
  | .vext g xs u k => Sys2Proof.Machine.execVext g xs u k s
  | .vins g xs u k => Sys2Proof.Machine.execVins g xs u k s
  | .vclmp g xs u k => Sys2Proof.Machine.execVclmp g xs u k s
  | .vtag g xs u k => Sys2Proof.Machine.execVtag g xs u k s
  | .mePa g xs k => Sys2Proof.Machine.execMePa g xs k s
  | .mePb g xs k => Sys2Proof.Machine.execMePb g xs k s
  | .meAcc g xs k => Sys2Proof.Machine.execMeAcc g xs k s
  | .meSh g xs k => Sys2Proof.Machine.execMeSh g xs k s
  | .meDr g xs k => Sys2Proof.Machine.execMeDr g xs k s
  | .meClr g xs k => Sys2Proof.Machine.execMeClr g xs k s
  | .meCls g xs k => Sys2Proof.Machine.execMeCls g xs k s
  | .meThr g xs k => Sys2Proof.Machine.execMeThr g xs k s
  | .meSeq g xs k => Sys2Proof.Machine.execMeSeq g xs k s
  | .meSqs g xs k => Sys2Proof.Machine.execMeSqs g xs k s
  | .lsLd g xs k => Sys2Proof.Machine.execLsLd g xs k s
  | .lsSt g xs k => Sys2Proof.Machine.execLsSt g xs k s
  | .lsVld g xs k => Sys2Proof.Machine.execLsVld g xs k s
  | .lsVst g xs k => Sys2Proof.Machine.execLsVst g xs k s
  | .lsVlds g xs k => Sys2Proof.Machine.execLsVlds g xs k s
  | .lsVgat g xs k => Sys2Proof.Machine.execLsVgat g xs k s
  | .lsVsca g xs k => Sys2Proof.Machine.execLsVsca g xs k s
  | .lsCld g xs k => Sys2Proof.Machine.execLsCld g xs k s
  | .lsCst g xs k => Sys2Proof.Machine.execLsCst g xs k s
  | .lsMst g xs k => Sys2Proof.Machine.execLsMst g xs k s
  | .lsPld g xs k => Sys2Proof.Machine.execLsPld g xs k s
  | .lsTld g xs k => Sys2Proof.Machine.execLsTld g xs k s
  | .lsAld g xs k => Sys2Proof.Machine.execLsAld g xs k s
  | .lsAst g xs k => Sys2Proof.Machine.execLsAst g xs k s
  | .ctBr g xs k => Sys2Proof.Machine.execCtBr g xs k s
  | .ctBrc g xs k => Sys2Proof.Machine.execCtBrc g xs k s
  | .ctCall g xs k => Sys2Proof.Machine.execCtCall g xs k s
  | .ctRet g xs k => Sys2Proof.Machine.execCtRet g xs k s
  | .ctJr g xs k => Sys2Proof.Machine.execCtJr g xs k s
  | .ctLoop g xs k => Sys2Proof.Machine.execCtLoop g xs k s
  | .ctLbrk g xs k => Sys2Proof.Machine.execCtLbrk g xs k s
  | .ctLend g xs k => Sys2Proof.Machine.execCtLend g xs k s
  | .ctFuse g xs k => Sys2Proof.Machine.execCtFuse g xs k s
  | .ctDecouple g xs k => Sys2Proof.Machine.execCtDecouple g xs k s
  | .ctRejoin g xs k => Sys2Proof.Machine.execCtRejoin g xs k s
  | .ctSusp g xs k => Sys2Proof.Machine.execCtSusp g xs k s
  | .ctYield g xs k => Sys2Proof.Machine.execCtYield g xs k s
  | .ctTrap g xs k => Sys2Proof.Machine.execCtTrap g xs k s
  | .ctBrk g xs k => Sys2Proof.Machine.execCtBrk g xs k s
  | .ctKr g xs k => Sys2Proof.Machine.execCtKr g xs k s
  | .ctKw g xs k => Sys2Proof.Machine.execCtKw g xs k s
  | .ctEret g xs k => Sys2Proof.Machine.execCtEret g xs k s
  | .ctPand g xs k => Sys2Proof.Machine.execCtPand g xs k s
  | .ctPor g xs k => Sys2Proof.Machine.execCtPor g xs k s
  | .ctPxor g xs k => Sys2Proof.Machine.execCtPxor g xs k s
  | .ctPnot g xs k => Sys2Proof.Machine.execCtPnot g xs k s
  | .ctTokw g xs k => Sys2Proof.Machine.execCtTokw g xs k s
  | .asPost g xs k => Sys2Proof.Machine.execAsPost g xs k s
  | .asTwait g xs k => Sys2Proof.Machine.execAsTwait g xs k s
  | .asTstat g xs k => Sys2Proof.Machine.execAsTstat g xs k s
  | .asBalloc g xs k => Sys2Proof.Machine.execAsBalloc g xs k s
  | .asBarr g xs k => Sys2Proof.Machine.execAsBarr g xs k s
  | .asBwait g xs k => Sys2Proof.Machine.execAsBwait g xs k s
  | .asBfree g xs k => Sys2Proof.Machine.execAsBfree g xs k s
  | .asHbind g xs k => Sys2Proof.Machine.execAsHbind g xs k s
  | .asHacq g xs k => Sys2Proof.Machine.execAsHacq g xs k s
  | .asHrel g xs k => Sys2Proof.Machine.execAsHrel g xs k s
  | .asHpub g xs k => Sys2Proof.Machine.execAsHpub g xs k s
  | .asHobs g xs k => Sys2Proof.Machine.execAsHobs g xs k s
  | .asSae g xs k => Sys2Proof.Machine.execAsSae g xs k s
  | .asSaer g xs k => Sys2Proof.Machine.execAsSaer g xs k s
  | .asTpost g xs k => Sys2Proof.Machine.execAsTpost g xs k s
  | .asNotify g xs k => Sys2Proof.Machine.execAsNotify g xs k s
  | .asSortx g xs k => Sys2Proof.Machine.execAsSortx g xs k s
  | .asRnd g xs k => Sys2Proof.Machine.execAsRnd g xs k s
  | .asPmark g xs k => Sys2Proof.Machine.execAsPmark g xs k s
  | .asIcinv g xs k => Sys2Proof.Machine.execAsIcinv g xs k s
  | .moveToRegister g xs d => Sys2Proof.Machine.execMoveToRegister g xs d s
  | .moveToPort g xs u p => Sys2Proof.Machine.execMoveToPort g xs u p s
  | .moveToNullSink g xs => Sys2Proof.Machine.execMoveToNullSink g xs s
  | .qadd h b a d => Sys2Proof.Machine.execQadd h b a d s
  | .qsub h b a d => Sys2Proof.Machine.execQsub h b a d s
  | .qmul h b a d => Sys2Proof.Machine.execQmul h b a d s
  | .qfma h b a d => Sys2Proof.Machine.execQfma h b a d s
  | .qmax h b a d => Sys2Proof.Machine.execQmax h b a d s
  | .qmin h b a d => Sys2Proof.Machine.execQmin h b a d s
  | .qabs h a d => Sys2Proof.Machine.execQabs h a d s
  | .qneg h a d => Sys2Proof.Machine.execQneg h a d s
  | .qclmp h b a d => Sys2Proof.Machine.execQclmp h b a d s
  | .qcmpeq h b a d => Sys2Proof.Machine.execQcmpeq h b a d s
  | .qcmplt h b a d => Sys2Proof.Machine.execQcmplt h b a d s
  | .qcmple h b a d => Sys2Proof.Machine.execQcmple h b a d s
  | .qsel h b a d => Sys2Proof.Machine.execQsel h b a d s
  | .qand h b a d => Sys2Proof.Machine.execQand h b a d s
  | .qor h b a d => Sys2Proof.Machine.execQor h b a d s
  | .qxor h b a d => Sys2Proof.Machine.execQxor h b a d s
  | .qshl h b a d => Sys2Proof.Machine.execQshl h b a d s
  | .qshr h b a d => Sys2Proof.Machine.execQshr h b a d s
  | .qidx h b a d => Sys2Proof.Machine.execQidx h b a d s
  | .qext h b a d => Sys2Proof.Machine.execQext h b a d s
  | .qins h b a d => Sys2Proof.Machine.execQins h b a d s
  | .qperm h b a d => Sys2Proof.Machine.execQperm h b a d s
  | .qshuf h b a d => Sys2Proof.Machine.execQshuf h b a d s
  | .qredadd h a d => Sys2Proof.Machine.execQredadd h a d s
  | .qredmax h a d => Sys2Proof.Machine.execQredmax h a d s
  | .qexp2 h a d => Sys2Proof.Machine.execQexp2 h a d s
  | .qlog2 h a d => Sys2Proof.Machine.execQlog2 h a d s
  | .qrcp h a d => Sys2Proof.Machine.execQrcp h a d s
  | .qrsq h a d => Sys2Proof.Machine.execQrsq h a d s
  | .qdot2 h b a d => Sys2Proof.Machine.execQdot2 h b a d s
  | .qscl h b a d => Sys2Proof.Machine.execQscl h b a d s
  | .qpln h b a d => Sys2Proof.Machine.execQpln h b a d s
  | .qupl h b a d => Sys2Proof.Machine.execQupl h b a d s
  | .qcvtx h b a d => Sys2Proof.Machine.execQcvtx h b a d s
  | .qsortx h b a d => Sys2Proof.Machine.execQsortx h b a d s
  | .qsplat h t a d => Sys2Proof.Machine.execQsplat h t a d s
  | .qcvt h t a d => Sys2Proof.Machine.execQcvt h t a d s
  | .qtag h t a d => Sys2Proof.Machine.execQtag h t a d s
  | .qld h t o a d => Sys2Proof.Machine.execQld h t o a d s
  | .qst h o a d => Sys2Proof.Machine.execQst h o a d s
  | .qlds h b a d => Sys2Proof.Machine.execQlds h b a d s
  | .qgat h b a d => Sys2Proof.Machine.execQgat h b a d s
  | .qsca h b a d => Sys2Proof.Machine.execQsca h b a d s
  | .qmst h b a d => Sys2Proof.Machine.execQmst h b a d s
  | .mclr h d => Sys2Proof.Machine.execMclr h d s
  | .mcls h b d => Sys2Proof.Machine.execMcls h b d s
  | .mthr h b a => Sys2Proof.Machine.execMthr h b a s
  | .mmac h b a d => Sys2Proof.Machine.execMmac h b a d s
  | .mdr h b a d => Sys2Proof.Machine.execMdr h b a d s
  | .mrd h b a d => Sys2Proof.Machine.execMrd h b a d s
  | .mwr h b a d => Sys2Proof.Machine.execMwr h b a d s
  | .qpost h a d => Sys2Proof.Machine.execQpost h a d s
  | .twait h b a => Sys2Proof.Machine.execTwait h b a s
  | .tstat h a d => Sys2Proof.Machine.execTstat h a d s
  | .hbind h b a d => Sys2Proof.Machine.execHbind h b a d s
  | .hacq h b a c xs => Sys2Proof.Machine.execHacq h b a c xs s
  | .hrel h b a xs => Sys2Proof.Machine.execHrel h b a xs s
  | .hpub h xs => Sys2Proof.Machine.execHpub h xs s
  | .hobs h xs => Sys2Proof.Machine.execHobs h xs s
  | .tpost h a d => Sys2Proof.Machine.execTpost h a d s
  | .cend h => Sys2Proof.Machine.execCend h s
  | .csusp h a => Sys2Proof.Machine.execCsusp h a s
  | .cyield h a => Sys2Proof.Machine.execCyield h a s
  | .notify h a => Sys2Proof.Machine.execNotify h a s
  | .pmark h a => Sys2Proof.Machine.execPmark h a s
  | .qrnd h d => Sys2Proof.Machine.execQrnd h d s
  | .portableLoad f3 rd rs1 imm => Sys2Proof.Machine.execPortableLoad f3 rd rs1 imm s
  | .portableStore f3 rs1 rs2 imm => Sys2Proof.Machine.execPortableStore f3 rs1 rs2 imm s
  | .fence fm pred succ rs1 rd => Sys2Proof.Machine.execFence fm pred succ rs1 rd s
  | .fenceI imm rs1 rd => Sys2Proof.Machine.execFenceI imm rs1 rd s
  | .ecall => Sys2Proof.Machine.execEcall s
  | .ebreak => Sys2Proof.Machine.execEbreak s
  | .portableDivide w f3 rd rs1 rs2 => Sys2Proof.Machine.execPortableDivide w f3 rd rs1 rs2 s
  | .portableBranchJump j => Sys2Proof.Machine.execPortableBranchJump j s
  | .csrAccess csr f3 rd src => Sys2Proof.Machine.execCsrAccess csr f3 rd src s
  | .portableIntegerOp op => Sys2Proof.Machine.execPortableIntegerOp op s
  | .bundleDispatch g => Sys2Proof.Machine.execBundleDispatch g s
  | .resultLand g => Sys2Proof.Machine.execResultLand g s
  | .loopPassEnd g => Sys2Proof.Machine.execLoopPassEnd g s
  | .engineConsume g => Sys2Proof.Machine.execEngineConsume g s
  | .sequencerStep g => Sys2Proof.Machine.execSequencerStep g s
  | .tokenReturn g => Sys2Proof.Machine.execTokenReturn g s
  | .engineWakeAdmit g => Sys2Proof.Machine.execEngineWakeAdmit g s
  | .clusterGrant g => Sys2Proof.Machine.execClusterGrant g s
  | .writeStagingDrain g => Sys2Proof.Machine.execWriteStagingDrain g s
  | .readStagingExpire g line => Sys2Proof.Machine.execReadStagingExpire g line s
  | .userInterruptTake g => Sys2Proof.Machine.execUserInterruptTake g s
  | .twaitRelease g => Sys2Proof.Machine.execTwaitRelease g s
  | .hacqRelease g => Sys2Proof.Machine.execHacqRelease g s
  | .hrelDone g => Sys2Proof.Machine.execHrelDone g s
  | .hpubDone g => Sys2Proof.Machine.execHpubDone g s
  | .hbindDone g sram => Sys2Proof.Machine.execHbindDone g sram s
  | .bwaitRelease g => Sys2Proof.Machine.execBwaitRelease g s
  | .ballocDone g => Sys2Proof.Machine.execBallocDone g s
  | .postClaim g => Sys2Proof.Machine.execPostClaim g s
  | .tpostDone g => Sys2Proof.Machine.execTpostDone g s
  | .rejoinRelease g => Sys2Proof.Machine.execRejoinRelease g s
  | .fuseRelease g => Sys2Proof.Machine.execFuseRelease g s
  | .entropyReady d draw => Sys2Proof.Machine.execEntropyReady d draw s
  | .saeApply c n => Sys2Proof.Machine.execSaeApply c n s
  | .stop g => Sys2Proof.Machine.execStop g s
  | .resume p g => Sys2Proof.Machine.execResume p g s
  | .watchdog g => Sys2Proof.Machine.execWatchdog g s
  | .preemptionDeadline g => Sys2Proof.Machine.execPreemptionDeadline g s
  | .softPreemption g => Sys2Proof.Machine.execSoftPreemption g s
  | .teardown asid pa => Sys2Proof.Machine.execTeardown asid pa s
  | .sramError structure_ idx g correctable => Sys2Proof.Machine.execSramError structure_ idx g correctable s
  | .handOver g => Sys2Proof.Machine.execHandOver g s
  | .shiftRequest g => Sys2Proof.Machine.execShiftRequest g s
  | .derailleurReevaluate t => Sys2Proof.Machine.execDerailleurReevaluate t s
  | .recordWake t => Sys2Proof.Machine.execRecordWake t s
  | .dispatch p g => Sys2Proof.Machine.execDispatch p g s
  | .level7Preempt p => Sys2Proof.Machine.execLevel7Preempt p s
  | .gatherStart p => Sys2Proof.Machine.execGatherStart p s
  | .gatherPreempt p => Sys2Proof.Machine.execGatherPreempt p s
  | .taskSlotGranted ch => Sys2Proof.Machine.execTaskSlotGranted ch s
  | .launchGroupComplete grp => Sys2Proof.Machine.execLaunchGroupComplete grp s
  | .queueCreate fn n => Sys2Proof.Machine.execQueueCreate fn n s
  | .queueClose fn n => Sys2Proof.Machine.execQueueClose fn n s
  | .queueAbort ch => Sys2Proof.Machine.execQueueAbort ch s
  | .channelBind vf n w => Sys2Proof.Machine.execChannelBind vf n w s
  | .takePacket ch => Sys2Proof.Machine.execTakePacket ch s
  | .packetCrcTimeout ch => Sys2Proof.Machine.execPacketCrcTimeout ch s
  | .nullPacket ch n => Sys2Proof.Machine.execNullPacket ch n s
  | .copy ch n => Sys2Proof.Machine.execCopy ch n s
  | .fill ch n => Sys2Proof.Machine.execFill ch n s
  | .gather ch n => Sys2Proof.Machine.execGather ch n s
  | .scatter ch n => Sys2Proof.Machine.execScatter ch n s
  | .atom ch n => Sys2Proof.Machine.execAtom ch n s
  | .send ch n => Sys2Proof.Machine.execSend ch n s
  | .promote ch n frames => Sys2Proof.Machine.execPromote ch n frames s
  | .demote ch n => Sys2Proof.Machine.execDemote ch n s
  | .launch ch n => Sys2Proof.Machine.execLaunch ch n s
  | .signal ch n => Sys2Proof.Machine.execSignal ch n s
  | .waittl ch n => Sys2Proof.Machine.execWaittl ch n s
  | .icinv ch n => Sys2Proof.Machine.execIcinv ch n s
  | .sendAcknowledged ch n => Sys2Proof.Machine.execSendAcknowledged ch n s
  | .sendAckTimeout ch n => Sys2Proof.Machine.execSendAckTimeout ch n s
  | .packetComplete ch => Sys2Proof.Machine.execPacketComplete ch s
  | .pageWalk e asid va acc => Sys2Proof.Machine.execPageWalk e asid va acc s
  | .faultResolved ch n => Sys2Proof.Machine.execFaultResolved ch n s
  | .faultUnrecoverable ch n => Sys2Proof.Machine.execFaultUnrecoverable ch n s
  | .faultTimeout ch n => Sys2Proof.Machine.execFaultTimeout ch n s
  | .invalidateVa w => Sys2Proof.Machine.execInvalidateVa w s
  | .invalidateAsid w => Sys2Proof.Machine.execInvalidateAsid w s
  | .invalidateVm w => Sys2Proof.Machine.execInvalidateVm w s
  | .invalidateAll w => Sys2Proof.Machine.execInvalidateAll w s
  | .invalidateComplete => Sys2Proof.Machine.execInvalidateComplete s
  | .homeMapChange chunk ent => Sys2Proof.Machine.execHomeMapChange chunk ent s
  | .hostBar2Write fn addr data => Sys2Proof.Machine.execHostBar2Write fn addr data s
  | .hostBar2Read fn addr n => Sys2Proof.Machine.execHostBar2Read fn addr n s
  | .hostAtomic fn addr width op val cmp => Sys2Proof.Machine.execHostAtomic fn addr width op val cmp s
  | .registerWrite fn off val => Sys2Proof.Machine.execRegisterWrite fn off val s
  | .flitReceive port hdr payload good => Sys2Proof.Machine.execFlitReceive port hdr payload good s
  | .flitReplay port => Sys2Proof.Machine.execFlitReplay port s
  | .portRetrain port outcome => Sys2Proof.Machine.execPortRetrain port outcome s
  | .frequencyChange n mhz => Sys2Proof.Machine.execFrequencyChange n mhz s
  | .thermalSample n temps => Sys2Proof.Machine.execThermalSample n temps s
  | .throttleStep n => Sys2Proof.Machine.execThrottleStep n s
  | .fatalThermalFault n pa => Sys2Proof.Machine.execFatalThermalFault n pa s
  | .powerLimit w => Sys2Proof.Machine.execPowerLimit w s
  | .bringUp => Sys2Proof.Machine.execBringUp s
  | .journalClear => Sys2Proof.Machine.execJournalClear s
  | .driverMeasurementExtend d reg image => Sys2Proof.Machine.execDriverMeasurementExtend d reg image s
  | .dumpSlotRelease asid => Sys2Proof.Machine.execDumpSlotRelease asid s
  | .releaseHeld asid => Sys2Proof.Machine.execReleaseHeld asid s
  | .debuggerDetach asid => Sys2Proof.Machine.execDebuggerDetach asid s
  | .halt g => Sys2Proof.Machine.execHalt g s
  | .runHalted g => Sys2Proof.Machine.execRunHalted g s
  | .stepHalted g => Sys2Proof.Machine.execStepHalted g s
  | .shut g => Sys2Proof.Machine.execShut g s
  | .shutterAck g => Sys2Proof.Machine.execShutterAck g s
  | .openShutter g => Sys2Proof.Machine.execOpenShutter g s
  | .imgout g => Sys2Proof.Machine.execImgout g s
  | .imgin g => Sys2Proof.Machine.execImgin g s
  | .evict g => Sys2Proof.Machine.execEvict g s
  | .breakpoint g => Sys2Proof.Machine.execBreakpoint g s
  | .cadenceBreakpoint g => Sys2Proof.Machine.execCadenceBreakpoint g s
  | .profileSessionWrite asid n w => Sys2Proof.Machine.execProfileSessionWrite asid n w s
  | .bundleSample g => Sys2Proof.Machine.execBundleSample g s
  | .engineSample g => Sys2Proof.Machine.execEngineSample g s
  | .replayDivergence g => Sys2Proof.Machine.execReplayDivergence g s
  | .recordBufferFull d => Sys2Proof.Machine.execRecordBufferFull d s
  | .recordRegionFull => Sys2Proof.Machine.execRecordRegionFull s
  | .loadCodeObject asid image len handle places stores tableVa codeVa => Sys2Proof.Machine.execLoadCodeObject asid image len handle places stores tableVa codeVa s
  | .unloadCodeObject asid handle => Sys2Proof.Machine.execUnloadCodeObject asid handle s
  | .bundlePublish d asid handle ent va bundles => Sys2Proof.Machine.execBundlePublish d asid handle ent va bundles s
  | .attestationReport nonce => Sys2Proof.Machine.execAttestationReport nonce s
  | .addressSpaceCreate asid words => Sys2Proof.Machine.execAddressSpaceCreate asid words s
  | .addressSpaceDelete asid => Sys2Proof.Machine.execAddressSpaceDelete asid s
  | .modulePowerDown => Sys2Proof.Machine.execModulePowerDown s
  | .commandInFlightComplete g => Sys2Proof.Machine.execCommandInFlightComplete g s
  | .icacheDiscardDone g => Sys2Proof.Machine.execIcacheDiscardDone g s
  | .recordBufferDrained d => Sys2Proof.Machine.execRecordBufferDrained d s

end Sys2Proof.Machine
end

