-- ==== Sys2Proof/Machine/Touch.lean ====
section
/-! DEFINITION. The bytes of scratchpads and the accumulator elements that a core's next instruction reaches, for the words that
the error code cannot correct (R228). -/

namespace Sys2Proof.Machine

/-- Slot and value of a move that core g would make of this guard and source. -/
def State.moveVal (s : State) (g unit : Nat) (gd : BitVec 3) (src : BitVec 10) : Option (Nat × TVal) :=
  let c := s.coreC g
  let x := c.context unit
  if c.guard x.1 x.2 gd then
    match c.source x.1 x.2 src with
    | .ok (v, _) => some (x.1, v)
    | .error _ => none
  else none

/-- Pieces that a check allows. -/
def allowed (r : Except Trap (List (Nat × Nat))) : List (Nat × Nat) :=
  match r with
  | .ok l => l
  | .error _ => []

def plainPiece (g : Nat) (a : Word) (n : Nat) : Except Trap (List (Nat × Nat)) :=
  match plainAddr g a n with
  | .ok l => .ok [(l.1, n)]
  | .error t => .error t

def sized (n : Nat) (r : Except Trap (List (Nat × Nat))) : Except Trap (List (Nat × Nat)) :=
  match r with
  | .ok l => .ok (l.map (fun p => (p.1, n)))
  | .error t => .error t

/-- A 64-byte image in the core's own space 0. -/
def imagePiece (g : Nat) (a : Nat) : List (Nat × Nat) := [(locCore g (a % 2 ^ 28), 64)]

/-- Bytes of the core's own scratchpad that an ls trigger reaches, from its value and ports. -/
def lsPieces (g : Nat) (c : CoreC) (slot : Nat) (v : TVal) (i : Instr) : List (Nat × Nat) :=
  let t := v.word
  let a := (c.port slot 0).word
  allowed (match i with
    | .lsLd .. => plainPiece g t 8
    | .lsVld .. | .lsTld .. => plainPiece g t 128
    | .lsSt .. => plainPiece g a 8
    | .lsVst .. => plainPiece g a 128
    | .lsVlds .. => sized (szBytes (bitsOf t 32 2)) (strideSet g t a)
    | .lsVgat .. => sized (szBytes (bitsOf a 32 2)) (indexSet g a v)
    | .lsVsca .. => sized (szBytes (bitsOf a 32 2)) (indexSet g a (c.port slot 1))
    | .lsMst .. => match maskAddr g a (c.port slot 1) with
      | .ok l => .ok [(l.1, 128)]
      | .error e => .error e
    | .lsPld .. =>
      let p := bitsOf a 52 4
      let n := (p - 1) * bitsOf a 32 16 + (t.toNat + 64 * bniK p - 1) / 8 + 1
      match coreSpace g (bitsOf a 28 4) (bitsOf a 0 28) n with
      | .ok l => .ok [(l.1, n)]
      | .error e => .error e
    | _ => .ok [])

/-- Bytes of the local buffer that a portable instruction reaches. -/
def portPieces (g : Nat) (c : CoreP) (i : Instr) : List (Nat × Nat) :=
  allowed (match i with
    | .portableLoad f3 _ rs1 imm => .ok [(locCore g (effAddr (c.xr rs1.toNat) imm), memBytes f3)]
    | .portableStore f3 rs1 _ imm => .ok [(locCore g (effAddr (c.xr rs1.toNat) imm), memBytes f3)]
    | .qld _ _ o a _ => .ok [(locCore g (vecAddr (c.xr a.toNat) o), 128)]
    | .qst _ o a _ => .ok [(locCore g (vecAddr (c.xr a.toNat) o), 128)]
    | .qlds _ b a _ => sized (szBytes (bitsOf (c.xr a.toNat) 32 2)) (strideSet g (c.xr a.toNat) (c.xr b.toNat))
    | .qgat _ b a _ | .qsca _ b a _ => sized (szBytes (bitsOf (c.xr b.toNat) 32 2)) (indexSet g (c.xr b.toNat) (c.qr a.toNat))
    | .qmst _ b a _ => match maskAddr g (c.xr b.toNat) (c.qr a.toNat) with
      | .ok l => .ok [(l.1, 128)]
      | .error e => .error e
    | .mmac _ b a _ =>
      let tag := (fmtTag (bitsOf (c.xr b.toNat) 32 4)).getD 0x02
      let nk := mmacNk (c.xr a.toNat)
      .ok [(locCore g (bitsOf (c.xr a.toNat) 0 32), mmacBytes tag nk 192), (locCore g (bitsOf (c.xr b.toNat) 0 32), mmacBytes tag nk 320)]
    | .qpost _ a _ | .tpost _ a _ | .csusp _ a => .ok (imagePiece g (c.xr a.toNat).toNat)
    | _ => .ok [])

/-- Accumulator elements that a portable instruction reads. -/
def portReads (c : CoreP) (i : Instr) : Nat → Bool :=
  match i with
  | .mmac _ _ _ d => c.tiles.readsBank d.toNat
  | .mdr _ b a _ =>
    let w := c.xr b.toNat
    let n := drainCols (bitsOf w 14 2)
    c.tiles.readsRow a.toNat (bitsOf w 0 7) (n * bitsOf w 7 3) n
  | .mrd _ b a _ => c.tiles.readsRow a.toNat (bitsOf (c.xr b.toNat) 0 7) (32 * bitsOf (c.xr b.toNat) 7 3) 32
  | _ => fun _ => false

/-- Words that core g's next instruction meets and that it has not stopped for yet. -/
def State.hitsBad (s : State) (g : Nat) (i : Instr) : BadWord → Bool := fun b =>
  if isGearC g then
    let c := s.coreC g
    let native := fun (unit : Nat) (gd : BitVec 3) (src : BitVec 10) (ps : Nat → TVal → List (Nat × Nat)) =>
      match s.moveVal g unit gd src with
      | some (k, v) => (ps k v).any b.hit
      | none => false
    match i with
    | .lsLd gd src _ | .lsSt gd src _ | .lsVld gd src _ | .lsVst gd src _ | .lsTld gd src _ | .lsVlds gd src _
    | .lsVgat gd src _ | .lsVsca gd src _ | .lsMst gd src _ | .lsPld gd src _ => native 5 gd src (fun k v => lsPieces g c k v i)
    | .asPost gd src _ | .asTpost gd src _ => native 7 gd src (fun _ v => imagePiece g v.word.toNat)
    | .ctSusp gd src _ => native 6 gd src (fun _ v => if v.word.getLsbD 63 then imagePiece g v.word.toNat else [])
    | .lsAld gd src _ => match s.moveVal g 5 gd src with
      | some (_, v) =>
        let d := v.word
        decide (b.code = 4 ∧ b.unit = g) && c.eng.tiles.readsRow (bitsOf d 10 2) (bitsOf d 0 7) (32 * bitsOf d 7 3) 32 b.idx
      | none => false
    | _ => false
  else
    let c := s.coreP g
    (portPieces g c i).any b.hit || (decide (b.code = 4 ∧ b.unit = g) && portReads c i b.idx)

/-- Does core g's next instruction meet an uncorrectable word for the first time? -/
def State.badDue (s : State) (g : Nat) (i : Instr) : Bool := s.bad.any (fun b => b.met.isNone && s.hitsBad g i b)

end Sys2Proof.Machine
end

