-- ==== Sys2Proof/WellFormed.lean ====
section
/-! DEFINITION. Well-formed instructions: every field at a value that its encoding admits. -/

namespace Sys2Proof

/-- What the spec lets each field hold: source codes (R273, R274), destinations (R276), assigned ports (R286), tile
numbers (R394), scope and condition codes (R396), the base's function codes (R384) and the CSRs (R387). The hint field
and format tags are checked when the instruction runs (R267, R389). An agent's step has no bits. -/
def WellFormed (i : Instr) : Bool :=
  match i with
  | .iaAdd _ s _ _ => sourceLegal s
  | .iaSub _ s _ _ => sourceLegal s
  | .iaAnd _ s _ _ => sourceLegal s
  | .iaOr _ s _ _ => sourceLegal s
  | .iaXor _ s _ _ => sourceLegal s
  | .iaAndn _ s _ _ => sourceLegal s
  | .iaShl _ s _ _ => sourceLegal s
  | .iaShr _ s _ _ => sourceLegal s
  | .iaSra _ s _ _ => sourceLegal s
  | .iaRol _ s _ _ => sourceLegal s
  | .iaMin _ s _ _ => sourceLegal s
  | .iaMax _ s _ _ => sourceLegal s
  | .iaMinn _ s _ _ => sourceLegal s
  | .iaMaxn _ s _ _ => sourceLegal s
  | .iaMul _ s _ _ => sourceLegal s
  | .iaMulh _ s _ _ => sourceLegal s
  | .iaMulhn _ s _ _ => sourceLegal s
  | .iaDiv _ s _ _ => sourceLegal s
  | .iaDivn _ s _ _ => sourceLegal s
  | .iaRem _ s _ _ => sourceLegal s
  | .iaRemn _ s _ _ => sourceLegal s
  | .iaCmpeq _ s _ _ => sourceLegal s
  | .iaCmpne _ s _ _ => sourceLegal s
  | .iaCmplt _ s _ _ => sourceLegal s
  | .iaCmpltn _ s _ _ => sourceLegal s
  | .iaCmple _ s _ _ => sourceLegal s
  | .iaCmplen _ s _ _ => sourceLegal s
  | .iaSel _ s _ _ => sourceLegal s
  | .iaLea _ s _ _ => sourceLegal s
  | .iaBfx _ s _ _ => sourceLegal s
  | .iaBfi _ s _ _ => sourceLegal s
  | .iaClz _ s _ _ => sourceLegal s
  | .iaCtz _ s _ _ => sourceLegal s
  | .iaPopc _ s _ _ => sourceLegal s
  | .iaMov _ s _ _ => sourceLegal s
  | .iaSext _ s _ _ => sourceLegal s
  | .iaZext _ s _ _ => sourceLegal s
  | .vadd _ s _ _ => sourceLegal s
  | .vsub _ s _ _ => sourceLegal s
  | .vmul _ s _ _ => sourceLegal s
  | .vfma _ s _ _ => sourceLegal s
  | .vmax _ s _ _ => sourceLegal s
  | .vmin _ s _ _ => sourceLegal s
  | .vabs _ s _ _ => sourceLegal s
  | .vneg _ s _ _ => sourceLegal s
  | .vcmpeq _ s _ _ => sourceLegal s
  | .vcmplt _ s _ _ => sourceLegal s
  | .vcmple _ s _ _ => sourceLegal s
  | .vsel _ s _ _ => sourceLegal s
  | .vcvt _ s _ _ => sourceLegal s
  | .vsplat _ s _ _ => sourceLegal s
  | .vperm _ s _ _ => sourceLegal s
  | .vshuf _ s _ _ => sourceLegal s
  | .vredadd _ s _ _ => sourceLegal s
  | .vredmax _ s _ _ => sourceLegal s
  | .vexp2 _ s _ _ => sourceLegal s
  | .vlog2 _ s _ _ => sourceLegal s
  | .vrcp _ s _ _ => sourceLegal s
  | .vrsq _ s _ _ => sourceLegal s
  | .vdot2 _ s _ _ => sourceLegal s
  | .vscl _ s _ _ => sourceLegal s
  | .vpln _ s _ _ => sourceLegal s
  | .vupl _ s _ _ => sourceLegal s
  | .vand _ s _ _ => sourceLegal s
  | .vor _ s _ _ => sourceLegal s
  | .vxor _ s _ _ => sourceLegal s
  | .vshl _ s _ _ => sourceLegal s
  | .vshr _ s _ _ => sourceLegal s
  | .vidx _ s _ _ => sourceLegal s
  | .vext _ s _ _ => sourceLegal s
  | .vins _ s _ _ => sourceLegal s
  | .vclmp _ s _ _ => sourceLegal s
  | .vtag _ s _ _ => sourceLegal s
  | .mePa _ s _ => sourceLegal s
  | .mePb _ s _ => sourceLegal s
  | .meAcc _ s _ => sourceLegal s
  | .meSh _ s _ => sourceLegal s
  | .meDr _ s _ => sourceLegal s
  | .meClr _ s _ => sourceLegal s
  | .meCls _ s _ => sourceLegal s
  | .meThr _ s _ => sourceLegal s
  | .meSeq _ s _ => sourceLegal s
  | .meSqs _ s _ => sourceLegal s
  | .lsLd _ s _ => sourceLegal s
  | .lsSt _ s _ => sourceLegal s
  | .lsVld _ s _ => sourceLegal s
  | .lsVst _ s _ => sourceLegal s
  | .lsVlds _ s _ => sourceLegal s
  | .lsVgat _ s _ => sourceLegal s
  | .lsVsca _ s _ => sourceLegal s
  | .lsCld _ s _ => sourceLegal s
  | .lsCst _ s _ => sourceLegal s
  | .lsMst _ s _ => sourceLegal s
  | .lsPld _ s _ => sourceLegal s
  | .lsTld _ s _ => sourceLegal s
  | .lsAld _ s _ => sourceLegal s
  | .lsAst _ s _ => sourceLegal s
  | .ctBr _ s _ => sourceLegal s
  | .ctBrc _ s _ => sourceLegal s
  | .ctCall _ s _ => sourceLegal s
  | .ctRet _ s _ => sourceLegal s
  | .ctJr _ s _ => sourceLegal s
  | .ctLoop _ s _ => sourceLegal s
  | .ctLbrk _ s _ => sourceLegal s
  | .ctLend _ s _ => sourceLegal s
  | .ctFuse _ s _ => sourceLegal s
  | .ctDecouple _ s _ => sourceLegal s
  | .ctRejoin _ s _ => sourceLegal s
  | .ctSusp _ s _ => sourceLegal s
  | .ctYield _ s _ => sourceLegal s
  | .ctTrap _ s _ => sourceLegal s
  | .ctBrk _ s _ => sourceLegal s
  | .ctKr _ s _ => sourceLegal s
  | .ctKw _ s _ => sourceLegal s
  | .ctEret _ s _ => sourceLegal s
  | .ctPand _ s _ => sourceLegal s
  | .ctPor _ s _ => sourceLegal s
  | .ctPxor _ s _ => sourceLegal s
  | .ctPnot _ s _ => sourceLegal s
  | .ctTokw _ s _ => sourceLegal s
  | .asPost _ s _ => sourceLegal s
  | .asTwait _ s _ => sourceLegal s
  | .asTstat _ s _ => sourceLegal s
  | .asBalloc _ s _ => sourceLegal s
  | .asBarr _ s _ => sourceLegal s
  | .asBwait _ s _ => sourceLegal s
  | .asBfree _ s _ => sourceLegal s
  | .asHbind _ s _ => sourceLegal s
  | .asHacq _ s _ => sourceLegal s
  | .asHrel _ s _ => sourceLegal s
  | .asHpub _ s _ => sourceLegal s
  | .asHobs _ s _ => sourceLegal s
  | .asSae _ s _ => sourceLegal s
  | .asSaer _ s _ => sourceLegal s
  | .asTpost _ s _ => sourceLegal s
  | .asNotify _ s _ => sourceLegal s
  | .asSortx _ s _ => sourceLegal s
  | .asRnd _ s _ => sourceLegal s
  | .asPmark _ s _ => sourceLegal s
  | .asIcinv _ s _ => sourceLegal s
  | .moveToRegister _ s d => sourceLegal s && regDestLegal d
  | .moveToPort _ s u p => sourceLegal s && portAssigned u p
  | .moveToNullSink _ s => sourceLegal s
  | .qadd _ _ _ _ => true
  | .qsub _ _ _ _ => true
  | .qmul _ _ _ _ => true
  | .qfma _ _ _ _ => true
  | .qmax _ _ _ _ => true
  | .qmin _ _ _ _ => true
  | .qabs _ _ _ => true
  | .qneg _ _ _ => true
  | .qclmp _ _ _ _ => true
  | .qcmpeq _ _ _ _ => true
  | .qcmplt _ _ _ _ => true
  | .qcmple _ _ _ _ => true
  | .qsel _ _ _ _ => true
  | .qand _ _ _ _ => true
  | .qor _ _ _ _ => true
  | .qxor _ _ _ _ => true
  | .qshl _ _ _ _ => true
  | .qshr _ _ _ _ => true
  | .qidx _ _ _ _ => true
  | .qext _ _ _ _ => true
  | .qins _ _ _ _ => true
  | .qperm _ _ _ _ => true
  | .qshuf _ _ _ _ => true
  | .qredadd _ _ _ => true
  | .qredmax _ _ _ => true
  | .qexp2 _ _ _ => true
  | .qlog2 _ _ _ => true
  | .qrcp _ _ _ => true
  | .qrsq _ _ _ => true
  | .qdot2 _ _ _ _ => true
  | .qscl _ _ _ _ => true
  | .qpln _ _ _ _ => true
  | .qupl _ _ _ _ => true
  | .qcvtx _ _ _ _ => true
  | .qsortx _ _ _ _ => true
  | .qsplat _ _ _ _ => true
  | .qcvt _ _ _ _ => true
  | .qtag _ _ _ _ => true
  | .qld _ _ _ _ _ => true
  | .qst _ _ _ _ => true
  | .qlds _ _ _ _ => true
  | .qgat _ _ _ _ => true
  | .qsca _ _ _ _ => true
  | .qmst _ _ _ _ => true
  | .mclr _ d => decide (d.toNat ≤ 3)
  | .mcls _ b d => decide ((d = 0 ∨ d = 2) ∧ b.toNat ≤ 1)
  | .mthr _ _ _ => true
  | .mmac _ _ _ d => decide (d.toNat ≤ 3)
  | .mdr _ _ a _ => decide (a.toNat ≤ 3)
  | .mrd _ _ a _ => decide (a.toNat ≤ 3)
  | .mwr _ _ _ d => decide (d.toNat ≤ 3)
  | .qpost _ _ _ => true
  | .twait _ _ _ => true
  | .tstat _ _ _ => true
  | .hbind _ _ _ _ => true
  | .hacq _ _ _ c s => decide (s.toNat ≤ 4 ∧ c.toNat ≤ 2)
  | .hrel _ _ _ s => decide (s.toNat ≤ 4)
  | .hpub _ s => decide (s.toNat ≤ 4)
  | .hobs _ s => decide (s.toNat ≤ 4)
  | .tpost _ _ _ => true
  | .cend _ => true
  | .csusp _ _ => true
  | .cyield _ _ => true
  | .notify _ _ => true
  | .pmark _ _ => true
  | .qrnd _ _ => true
  | .portableLoad f3 _ _ _ => decide (f3 ≠ 7)
  | .portableStore f3 _ _ _ => decide (f3.toNat ≤ 3)
  | .fence fm pred succ _ _ => !fenceTso fm pred succ
  | .fenceI _ _ _ => true
  | .ecall => true
  | .ebreak => true
  | .portableDivide _ f3 _ _ _ => decide (4 ≤ f3.toNat)
  | .portableBranchJump j => jumpLegal j
  | .csrAccess csr f3 _ src => csrLegal csr f3 src
  | .portableIntegerOp op => intOpLegal op
  | .bundleDispatch _ => true
  | .resultLand _ => true
  | .loopPassEnd _ => true
  | .engineConsume _ => true
  | .sequencerStep _ => true
  | .tokenReturn _ => true
  | .engineWakeAdmit _ => true
  | .clusterGrant _ => true
  | .writeStagingDrain _ => true
  | .readStagingExpire _ _ => true
  | .userInterruptTake _ => true
  | .twaitRelease _ => true
  | .hacqRelease _ => true
  | .hrelDone _ => true
  | .hpubDone _ => true
  | .hbindDone _ _ => true
  | .bwaitRelease _ => true
  | .ballocDone _ => true
  | .postClaim _ => true
  | .tpostDone _ => true
  | .rejoinRelease _ => true
  | .fuseRelease _ => true
  | .entropyReady _ _ => true
  | .saeApply _ _ => true
  | .stop _ => true
  | .resume _ _ => true
  | .watchdog _ => true
  | .preemptionDeadline _ => true
  | .softPreemption _ => true
  | .teardown _ _ => true
  | .sramError _ _ _ _ => true
  | .handOver _ => true
  | .shiftRequest _ => true
  | .derailleurReevaluate _ => true
  | .recordWake _ => true
  | .dispatch _ _ => true
  | .level7Preempt _ => true
  | .gatherStart _ => true
  | .gatherPreempt _ => true
  | .taskSlotGranted _ => true
  | .launchGroupComplete _ => true
  | .queueCreate _ _ => true
  | .queueClose _ _ => true
  | .queueAbort _ => true
  | .channelBind _ _ _ => true
  | .takePacket _ => true
  | .packetCrcTimeout _ => true
  | .nullPacket _ _ => true
  | .copy _ _ => true
  | .fill _ _ => true
  | .gather _ _ => true
  | .scatter _ _ => true
  | .atom _ _ => true
  | .send _ _ => true
  | .promote _ _ _ => true
  | .demote _ _ => true
  | .launch _ _ => true
  | .signal _ _ => true
  | .waittl _ _ => true
  | .icinv _ _ => true
  | .sendAcknowledged _ _ => true
  | .sendAckTimeout _ _ => true
  | .packetComplete _ => true
  | .pageWalk _ _ _ _ => true
  | .faultResolved _ _ => true
  | .faultUnrecoverable _ _ => true
  | .faultTimeout _ _ => true
  | .invalidateVa _ => true
  | .invalidateAsid _ => true
  | .invalidateVm _ => true
  | .invalidateAll _ => true
  | .invalidateComplete => true
  | .homeMapChange _ _ => true
  | .hostBar2Write _ _ _ => true
  | .hostBar2Read _ _ _ => true
  | .hostAtomic _ _ _ _ _ _ => true
  | .registerWrite _ _ _ => true
  | .flitReceive _ _ _ _ => true
  | .flitReplay _ => true
  | .portRetrain _ _ => true
  | .frequencyChange _ _ => true
  | .thermalSample _ _ => true
  | .throttleStep _ => true
  | .fatalThermalFault _ _ => true
  | .powerLimit _ => true
  | .bringUp => true
  | .journalClear => true
  | .driverMeasurementExtend _ _ _ => true
  | .dumpSlotRelease _ => true
  | .releaseHeld _ => true
  | .debuggerDetach _ => true
  | .halt _ => true
  | .runHalted _ => true
  | .stepHalted _ => true
  | .shut _ => true
  | .shutterAck _ => true
  | .openShutter _ => true
  | .imgout _ => true
  | .imgin _ => true
  | .evict _ => true
  | .breakpoint _ => true
  | .cadenceBreakpoint _ => true
  | .profileSessionWrite _ _ _ => true
  | .bundleSample _ => true
  | .engineSample _ => true
  | .replayDivergence _ => true
  | .recordBufferFull _ => true
  | .recordRegionFull => true
  | .loadCodeObject _ _ _ _ _ _ _ _ => true
  | .unloadCodeObject _ _ => true
  | .bundlePublish _ _ _ _ _ _ => true
  | .attestationReport _ => true
  | .addressSpaceCreate _ _ => true
  | .addressSpaceDelete _ => true
  | .modulePowerDown => true
  | .commandInFlightComplete _ => true
  | .icacheDiscardDone _ => true
  | .recordBufferDrained _ => true

end Sys2Proof
end

