-- ==== Sys2Proof/Machine/Run.lean ====
section
/-! DEFINITION. What one step does: a turn of the agenda, a bring-up step, or one action of the core in focus (log 1). -/

namespace Sys2Proof.Machine

/-! ### What a core does next -/

/-- One move stands to be issued: the member and slot at the head of the list, with its bundle. -/
def State.nextMove (s : State) (lead : Nat) : Option (Nat × Nat × Bun) :=
  let c := s.coreC lead
  match c.todo with
  | [] => none
  | (g, k) :: _ => (c.findBun ((c.slot k).next - 1)).map (fun b => (g, k, b))

/-- The member's context of a move. -/
def State.inMove (s : State) (g k : Nat) (b : Bun) : State :=
  ({ s with focus := g } : State).modC g (fun c => { c with cur := some (k, b) })

/-- Take the move off the list and set the member's context. -/
def State.takeMove (s : State) (lead g k : Nat) (b : Bun) : State :=
  (s.modC lead (fun c => { c with todo := c.todo.drop 1 })).inMove g k b

/-- The undeclared must-understand hint of the instruction that slot k of a published bundle stands for, where its move runs (R267, R279,
R420). -/
def State.hintAt (s : State) (g k : Nat) (b : Bun) : Option Nat :=
  if (s.coreC g).guard k b (moveGuard (bunMove b.bits k)) then
    (s.markAt g k b).filter (fun h => decide (h < 8))
  else none

/-- A move of a bundle in a member's context; bits that are no move trap, and so does a slot that stands for a hinted instruction:
cause 0x07, DETAIL the hint (R420). -/
def State.issueMove (s : State) (g k : Nat) (b : Bun) : Host.Outcome State Fault Refusal :=
  match s.hintAt g k b, decodeMove (bunMove b.bits k) with
  | some h, _ => .next (s.trapMove g k b 0x07 h)
  | none, .ok i => exec i s
  | none, .error _ => .next (s.trapMove g k b 0x01 0)

/-- The members that have still to make their moves of slot k. -/
def State.toMove (s : State) (lead k : Nat) : List Nat := ((s.coreC lead).todo.filter (fun x => decide (x.2 = k))).map Prod.fst

/-- The traps of a lock-step group's moves of slot k, found by making them one after another on a copy of the state that has no stop
fixed; a member that traps leaves nothing for the next (R173). -/
def State.trapping (s : State) (lead k : Nat) (b : Bun) : List StopReq :=
  let at_ := s.modC lead (fun c => { c.modSlot k (fun q => { q with next := b.idx + 1 }) with stop := none })
  ((s.toMove lead k).foldl (fun (a : List StopReq × State) g =>
    let t := after a.2 ((a.2.inMove g k b).issueMove g k b)
    if ((t.coreC lead).slot k).next = b.idx then (a.1 ++ (t.coreC lead).stop.toList, a.2)
    else (a.1, t.modC lead (fun c => { c with stop := none }))) ([], at_)).1

/-- Do the traps of some members show that the group does not agree on a transfer or loop, which the others take otherwise or not at all;
or does a trapping `susp` run in some members only (R311, R322)? -/
def State.disagree (s : State) (lead k : Nat) (b : Bun) (l : List StopReq) : Bool :=
  let m := bunMove b.bits k
  let d := (moveDst m).toNat
  let alike := decide (l.length = (s.toMove lead k).length) && l.all (fun r => decide (some r.cause = (l.head?).map StopReq.cause))
  let on := (s.members lead).map (fun g => (s.coreC g).guard k b (moveGuard m))
  decide (k = 6) && ((decide ((0x284 ≤ d ∧ d ≤ 0x28A) ∨ d = 0x295) && !alike) ||
    (decide (d = 0x28F) && on.any (fun x => decide (some x ≠ on.head?))))

/-- A trap in a lock-step tandem (R173, R223): the members whose move of the slot traps take their traps, or every member cause 0x01 where
control does not agree (R311), and no member's move of the slot takes effect. Nothing where no member traps, or where a member has made
the slot's move. -/
def State.trapTogether (s : State) (lead k : Nat) (b : Bun) : Option (Host.Outcome State Fault Refusal) :=
  if (s.coreC lead).locked && (s.members lead).all (fun g => decide ((s.coreC g).cur.map Prod.fst ≠ some k)) then
    match s.trapping lead k b with
    | [] => none
    | l =>
      let l := if s.disagree lead k b l then [⟨b.idx, b.addr, causeWord false 6 0x01 0, none, none⟩] else l
      let s := s.modC lead (fun c => { c.modSlot k (fun q => { q with next := b.idx }) with
        todo := c.todo.filter (fun x => decide (x.2 ≠ k)) })
      some (.next (l.foldl (fun s r => s.requestStop lead r) s))
  else none

/-- What comes before the next move: an uncorrectable word that it meets (R228), or a trap of a lock-step tandem. -/
def State.beforeMove (s : State) (lead : Nat) : Option (Host.Outcome State Fault Refusal) :=
  match s.nextMove lead with
  | none => none
  | some (g, k, b) =>
    let hit := match decodeMove (bunMove b.bits k) with
      | .ok i => (s.hintAt g k b).isNone && s.bad.any (fun w => w.met.isNone && (s.inMove g k b).hitsBad g i w)
      | .error _ => false
    if hit then
      match decodeMove (bunMove b.bits k) with
      | .ok i => some (.next (s.meetBad (some g) ((s.inMove g k b).hitsBad g i)))
      | .error _ => none
    else s.trapTogether lead k b

/-- The group of a gear C core acts: a sample that is due (R252), what dispatch, a stop, an end, a breakpoint or an interrupt asks, in this order; else a
bundle's moves one by one, and the end of the cycle. -/
def State.actionC (s : State) (lead : Nat) : Option (Host.Outcome State Fault Refusal) :=
  let c := s.coreC lead
  if c.run ≠ .running then none
  else if c.phase = .start then
    if let some o := s.sampleNow (s.members lead) then some o
    else if s.passEndDue lead then some (execLoopPassEnd lead s)
    else if c.stop.isSome && c.allFrozen then some (execStop lead s)
    else if (s.endsNow lead).isSome then some (execHandOver lead s)
    else match (s.members lead).find? (fun g => s.cadenceDue g) with
      | some g => some (execCadenceBreakpoint g s)
      | none =>
        if (s.interruptDue lead).isSome then some (execUserInterruptTake lead s) else some (execBundleDispatch lead s)
  else if (s.breakpointDue lead).isSome then some (execBreakpoint lead s)
  else if c.todo = [] then some (execResultLand lead s)
  else s.beforeMove lead

/-- The instruction that a gear S or M core fetches: nothing where its address does not translate (R401). -/
def State.fetchP (s : State) (g : Nat) : Option (Except DecodeErr Instr) × State :=
  let r := s.fetchWord g (s.coreP g).pc
  (r.1.map decodeWord, r.2)

/-- What stands before the next instruction of a gear S or M core: a sample, a stop, a breakpoint, a hand-over. -/
def State.actionP (s : State) (g : Nat) : Option (Host.Outcome State Fault Refusal) :=
  let c := s.coreP g
  if let some o := s.sampleNow [g] then some o
  else if c.stop.isSome && c.mayStop then some (execStop g s)
  else if c.hold.isSome ∨ c.mmac.isSome then none
  else if (s.breakpointDue g).isSome then some (execBreakpoint g s)
  else if s.cadenceDue g then some (execCadenceBreakpoint g s)
  else if (s.boundary g).isSome then some (execHandOver g s)
  else match (s.fetchP g).1 with
    | some (.ok i) => if s.badDue g i then some (.next (s.meetBad (some g) (s.hitsBad g i))) else none
    | _ => none

/-- The die's record buffer is full, and its cores pause (R255). -/
def State.paused (s : State) (g : Nat) : Bool := (s.die (dieOf g)).recFull

/-- One action of a gear C core's group. -/
def State.runC (s : State) (g : Nat) : Host.Outcome State Fault Refusal :=
  let lead := s.leader g
  match s.actionC lead with
  | some o => o
  | none => match s.nextMove lead with
    | none => .next (s.modC lead (fun c => { c with todo := c.todo.drop 1 }))
    | some (m, k, b) => (s.takeMove lead m k b).issueMove m k b

/-- One action of a gear S or M core: an instruction it holds on waits for its release. -/
def State.runP (s : State) (g : Nat) : Host.Outcome State Fault Refusal :=
  match s.actionP g with
  | some o => o
  | none =>
    if (s.coreP g).hold.isSome then .next s
    else match s.fetchP g with
      | (none, s) => .next (s.trapP g 0x01 0)
      | (some (.error _), s) => .next (s.trapP g 0x01 0)
      | (some (.ok i), s) => exec i { s with focus := g }

/-- The members of a decoupled tandem count one clock (R152, log 67): one that stands ahead of another that runs waits for it. -/
def State.ahead (s : State) (g : Nat) : Bool :=
  let c := s.coreC g
  isGearC g && c.dec && c.group.any (fun m => decide ((s.coreC m).run = .running) && decide ((s.coreC m).clk < c.clk))

/-- One action of core g; a core that runs nothing, is paused or stands ahead of its tandem does nothing. -/
def State.runCore (s : State) (g : Nat) : Host.Outcome State Fault Refusal :=
  if s.runOf g ≠ .running ∨ s.paused g ∨ s.ahead g then .next s
  else if isGearC g then s.runC g else s.runP g

/-! ### Turns -/

/-- Events of the table; instructions of programs have words and come only from the cores. -/
def isEvent (i : Instr) : Bool := (encode i).isNone

/-- The core whose cadence a turn is recorded with (log 56). -/
def Turn.agent (t : Turn) (focus : Nat) : Nat :=
  match t with
  | .core g => g
  | _ => focus

/-- The cadence at which core g stands (R165): `k.cad` of its sequencing, or the instructions retired. -/
def State.cadenceOf (s : State) (g : Nat) : Word := if isGearC g then (s.coreC (s.leader g)).cad else (s.coreP g).retired

/-- The state as an event of a time finds it. -/
def State.atTime (s : State) (at_ : Nat) : State := { s with now := max s.now at_ }

/-- What the host and the peers answer to the device's reads: the bytes that stand in their memories. -/
def State.answers (s : State) : Memory := s.mem.filter (fun c => decide (locHost 0 ≤ c.1 ∧ c.1 < locCore 0 0))

/-- The same answers from a record (R254). -/
def State.withAnswers (s : State) (m : Memory) : State :=
  let own := s.mem.filter (fun c => decide (c.1 < locHost 0 ∨ locCore 0 0 ≤ c.1))
  { s with mem := (m.filter (fun c => decide (locHost 0 ≤ c.1 ∧ c.1 < locCore 0 0))).foldl (fun l c => memPut l c.1 c.2) own }

/-- The record that a partition's pop wins, in a turn that is one (R253). -/
def State.popped (s : State) (t : Turn) : Option Nat :=
  match t with
  | .event at_ (.dispatch p g) | .event at_ (.resume p g) => ((s.atTime at_).pick p g).1.map Prod.fst
  | _ => none

/-- A turn as it is recorded (R253): with the cadence of its core, the record that it pops, and what the host answers in it. -/
def State.recorded (s : State) (t : Turn) : Recorded := ⟨t, s.cadenceOf (t.agent s.focus), s.popped t, s.answers⟩

/-- Recorded streams (R253): the turns hold what arrives, what wins, what is released and what is drawn, in the order in which the machine
took them (log 56). -/
def State.recordTurn (s : State) (t : Turn) : State :=
  if s.recording then { s with record := s.record ++ [s.recorded t] } else s

/-- A turn in which an agent would win, and for which nobody asks: no task to pick, no operation queued, no hold that it grants or meets,
no posting and no packet (R253, R254). -/
def State.noRequester (s : State) (t : Turn) : Bool :=
  let held := fun (g : Nat) (op : HoldOp) => match s.heldAs g with | some h => decide (h.op = op) | none => false
  match t with
  | .event at_ i => match i with
    | .dispatch p g | .resume p g => ((s.atTime at_).pick p g).1.isNone
    | .saeApply c _ => (s.cluster c).queue.isEmpty
    | .clusterGrant g => match ((s.coreC g).slot 5).hold with | some h => decide (h.op ≠ .cld) | none => true
    | .hacqRelease g => !held g .hacq
    | .postClaim g => !held g .post
    | .tpostDone g => !held g .tpost
    | .takePacket ch => decide ((s.chan ch).owner = none)
    | _ => false
  | _ => false

/-- Take one turn. -/
def State.turn (s : State) (t : Turn) : Host.Outcome State Fault Refusal :=
  match t with
  | .event at_ i => if isEvent i && WellFormed i then exec i { s with now := max s.now at_ } else .next s
  | .core g => ({ s with focus := g } : State).runCore g
  | .evictL1 g line => .next (s.evictTurn (.evictL1 g line))
  | .evictL2 d line => .next (s.evictTurn (.evictL2 d line))
  | .evictRlc d line => .next (s.evictTurn (.evictRlc d line))
  | .evictTlb e key => .next (s.evictTurn (.evictTlb e key))
  | .evictWalk d key => .next (s.evictTurn (.evictWalk d key))
  | .hostRead at_ fn off => .next (({ s with now := max s.now at_ } : State).hostRead fn off)
  | .resizeBar at_ size => .next (({ s with now := max s.now at_ } : State).resizeBar size)
  | .firmware at_ d words => .next (({ s with now := max s.now at_ } : State).firmwarePost d (Rec.ofWords words))
  | .hold at_ t => .next (({ s with now := max s.now at_ } : State).holdTask t)

/-- The instruction whose move or word core g makes in its next action, where it runs: its group's next move whose guard is on, or what a
gear S or M core fetches. -/
def State.nextInstr (s : State) (g : Nat) : Option Instr :=
  if isGearC g then
    match s.nextMove (s.leader g) with
    | some (m, k, b) => if (s.coreC m).guard k b (moveGuard (bunMove b.bits k)) then (decodeMove (bunMove b.bits k)).toOption else none
    | none => none
  else match (s.fetchP g).1 with
    | some (.ok i) => some i
    | _ => none

/-- Core g's next action decides the arrival order of an SAE or may acquire a hasp at its issue (R253). -/
def State.winsAtIssue (s : State) (t : Turn) : Bool :=
  match t with
  | .core g => match s.nextInstr g with
    | some (.asSae _ _ _) | some (.asHacq _ _ _) => decide (s.runOf g = .running)
    | some i => decide (s.runOf g = .running) && portHacq i
    | none => false
  | _ => false
where
  portHacq (i : Instr) : Bool := match i with | .hacq _ _ _ _ _ => true | _ => false

/-- A turn that decides among agents (R253). -/
def Turn.decides (t : Turn) : Bool :=
  match t with
  | .event _ (.dispatch _ _) | .event _ (.resume _ _) | .event _ (.saeApply _ _) | .event _ (.clusterGrant _) | .event _ (.hacqRelease _)
  | .event _ (.flitReceive _ _ _ _) => true
  | _ => false

/-- Held slots of a core that a turn has released, with its cadence. -/
def State.releasedIn (s t : State) (g : Nat) : List Stream :=
  if isGearC g then
    (List.range 8).filterMap (fun k =>
      if ((s.coreC g).slot k).hold.isSome && ((t.coreC g).slot k).hold.isNone then some (.release g k (t.cadenceOf g)) else none)
  else if (s.coreP g).hold.isSome && (t.coreP g).hold.isNone then [.release g 0 (t.cadenceOf g)] else []

/-- The bundle or instruction that core g is at. -/
def State.nameNow (s : State) (g : Nat) : List Word :=
  s.nameAt g (match (s.coreC g).cur with
    | some x => if isGearC g then x.2.addr else s.nextAddr g
    | none => s.nextAddr g)

/-- The bundle or instruction at which core g holds. -/
def State.nameHeld (s : State) (g : Nat) : List Word :=
  match s.heldAs g with
  | some h => if isGearC g then s.nameAt g ((s.coreC (s.leader g)).addrOf h.idx) else s.nameNow g
  | none => s.nameNow g

/-- The bundle or instruction that draws in a turn: that of the move which is made in it (R253). -/
def State.nameDraws (s : State) (t : Turn) : List Word :=
  match t with
  | .core g => if isGearC g then
      match s.nextMove (s.leader g) with
      | some (m, _, b) => s.nameAt m b.addr
      | none => s.nameNow g
    else s.nameNow g
  | _ => s.nameNow s.focus

/-- The debugger's commands and the other acts of the host's software that arrive over the link (R239 to R241, R253). -/
def Turn.ofDebugger (t : Turn) : Bool :=
  match t with
  | .event _ i => match i with
    | .halt _ | .runHalted _ | .stepHalted _ | .shut _ | .openShutter _ | .imgout _ | .imgin _ | .evict _
    | .releaseHeld _ | .debuggerDetach _ | .profileSessionWrite _ _ _ | .dumpSlotRelease _ | .channelBind _ _ _ => true
    | _ => false
  | .hold _ _ => true
  | _ => false

/-- The host's accesses to the PCIe function. -/
def Turn.ofHost (t : Turn) : Bool :=
  match t with
  | .event _ (.hostBar2Write _ _ _) => true
  | .event _ (.hostBar2Read _ _ _) => true
  | .event _ (.hostAtomic _ _ _ _ _ _) => true
  | .event _ (.registerWrite _ _ _) => true
  | .hostRead _ _ _ => true
  | .resizeBar _ _ => true
  | _ => false

/-- Bring-up failed after its PCIe step, so that the function is up and reads as not ready (R40). -/
def State.notReady (s : State) : Bool :=
  match bootInsts[s.boot.pos]? with
  | some (st, _, _, _) => decide (0x60 < st)
  | none => true

/-- May a module without power (true) or whose bring-up has failed (false) take a turn? Power may come back or go, and the
journal be cleared. -/
def Turn.allowed (t : Turn) (off : Bool) : Bool :=
  match t with
  | .event _ .bringUp => off
  | .event _ .modulePowerDown => true
  | .event _ .journalClear => !off
  | _ => false

/-! ### Replay (R254, R255) -/

/-- What a turn adds to the streams of R253: from the states before and after it. -/
def State.streamsOf (s u : State) (t : Turn) : List Stream :=
  let outcome := match u.boot.journal.getLast? with
    | some r => if u.boot.journal ≠ s.boot.journal then [Stream.boot r.step r.inst r.out r.meth] else []
    | none => []
  let seals := if u.boot.sealed && !s.boot.sealed then (u.measured.zip (List.range 32)).map (fun m => Stream.measured m.2 m.1) else []
  let drawn := (List.range 4).flatMap (fun d =>
    ((s.die d).draws.take ((s.die d).draws.length - (u.die d).draws.length)).map (fun v => Stream.entropy (s.nameDraws t) v))
  let given := match t with
    | .event _ (.entropyReady d v) => ((s.wantsDraw d).take 1).map (fun g => Stream.entropy (s.nameHeld g) v)
    | _ => []
  let image := match u.boot.journal.getLast? with
    | some r => if u.measured ≠ s.measured then [Stream.image (256 * r.step + r.inst) (s.boot.image r.step r.inst r.meth)] else []
    | none => []
  let answers := if s.answers = ((s.record.getLast?).map Recorded.host).getD [] then [] else [Stream.completions s.answers]
  let arrives := if t.ofHost || t.ofDebugger then
      [Stream.host t ((List.range 4).map (fun d => ((s.cores.find? (fun c => decide (dieOf c.1 = d ∧ c.2.run = .running))).map (fun c => c.2.cad)).getD 0))]
    else []
  let peer := match t with
    | .event _ (.flitReceive p h _ _) => if (u.port p).got ≠ (s.port p).got then [Stream.peer p (flitVc h) u.now] else []
    | _ => []
  image ++ outcome ++ seals ++ drawn ++ given ++ answers ++ arrives ++ peer ++
    (if t.decides || s.winsAtIssue t then [Stream.winner t] else []) ++
    (s.cores.map Prod.fst ++ s.pcores.map Prod.fst).flatMap (s.releasedIn u)

/-- One entry goes into the record region, a flash range (R253); where it no longer fits, recording ends as R255 says. -/
def State.putStream (s : State) (x : Stream) : State :=
  let l := Config.streamBytes s.fresh
  if s.recording = false then s
  else if s.boot.region.2 < s.recAt + l.length then after s (execRecordRegionFull s)
  else
    let a := locFlash (s.boot.region.1 + s.recAt)
    { s with
      fresh := s.fresh + 1, recAt := s.recAt + l.length, streams := s.streams ++ [x]
      mem := (l.zip (List.range l.length)).foldl (fun m b => memPut m (a + b.2) b.1) s.mem }

/-- Take a turn, and record it where the module records (R253). A turn of a winner for which nobody asks decides nothing, and is not
recorded. -/
def State.take (s : State) (t : Turn) : Host.Outcome State Fault Refusal :=
  if s.recording && !s.noRequester t then
    match (s.recordTurn t).turn t with
    | .next u => .next ((s.streamsOf u t).foldl State.putStream u)
    | o => o
  else s.turn t

/-- The module runs from a record: every turn comes from it. -/
def State.replaying (s : State) : Bool := decide (s.boot.mode = 2 ∧ s.record ≠ [])

/-- Turns that do not come from the record: the debugger's, power, and what the table says of replay itself. -/
def Turn.inReplay (t : Turn) : Bool :=
  match t with
  | .event _ i => match i with
    | .halt _ | .runHalted _ | .stepHalted _ | .shut _ | .shutterAck _ | .openShutter _ | .imgout _ | .imgin _ | .evict _
    | .breakpoint _ | .cadenceBreakpoint _ | .releaseHeld _ | .debuggerDetach _ | .registerWrite _ _ _ | .modulePowerDown
    | .journalClear | .replayDivergence _ | .recordRegionFull | .recordBufferDrained _ => true
    | _ => false
  | _ => false

/-- What a command of the debugger alters in a replay (R255): IMGIN, the event or command 7 of a block (R240), the cores of its
continuation, a privileged write to another register than the debugger's own (R239, R240, R244, R248, R251) the agents beside them. -/
def State.alters (s : State) (t : Turn) : List Nat :=
  let imgin := fun (g : Nat) => if s.halted g then s.groupOf g else []
  match t with
  | .event _ (.imgin g) => imgin g
  | .event _ (.registerWrite fn off v) =>
    if fn = 0 ∧ 0x160000 ≤ off ∧ off < 0x16A000 ∧ off % 64 = 0 ∧ bitsOf v 0 4 = 7 then imgin ((off - 0x160000) / 64)
    else if fn = 0 ∧ 0x160000 ≤ off ∧ off < 0x1C0100 then [] else [65536]
  | _ => []

/-- The core that an event grants something to, releases or moves on. -/
def eventCore (i : Instr) : Option Nat :=
  match i with
  | .clusterGrant g | .writeStagingDrain g | .readStagingExpire g _ | .twaitRelease g | .hacqRelease g | .hrelDone g | .hpubDone g
  | .hbindDone g _ | .ballocDone g | .bwaitRelease g | .postClaim g | .tpostDone g | .icacheDiscardDone g | .rejoinRelease g
  | .fuseRelease g | .engineWakeAdmit g | .engineConsume g | .sequencerStep g | .tokenReturn g | .commandInFlightComplete g
  | .dispatch _ g | .resume _ g | .handOver g | .userInterruptTake g | .stop g | .watchdog g => some g
  | _ => none

/-- A forced turn that such a command affects: the core's own, one that releases it or grants it something, a window of its SAE's
operations, or any where another agent's state was altered. -/
def State.affected (s : State) (t : Turn) : Bool :=
  s.altered.contains 65536 || (match t with
    | .core g => s.altered.contains g
    | .event _ (.saeApply c n) => ((s.cluster c).queue.take n).any (fun x => s.altered.contains x.core)
    | .event _ i => match eventCore i with | some g => s.altered.contains g | none => false
    | _ => false)

/-- The recorded winner does not ask: the record that a pop won is not eligible, or nobody asks at all (R254). -/
def State.absent (s : State) (r : Recorded) : Bool :=
  match r.turn, r.won with
  | .event at_ (.dispatch p g), some w | .event at_ (.resume p g), some w => !((s.atTime at_).eligible p g).any (fun x => decide (x.1 = w))
  | t, _ => s.noRequester t

/-- A recorded turn is taken: with the host's recorded answers, and a pop goes to the recorded winner (R254). -/
def State.forced (s : State) (r : Recorded) : Host.Outcome State Fault Refusal :=
  let s := s.withAnswers r.host
  match r.turn, r.won with
  | .event at_ (.dispatch p g), some w | .event at_ (.resume p g), some w =>
    let v := s.atTime at_
    if s.popped r.turn = some w then s.turn r.turn
    else match v.task w with
      | none => .next v
      | some t => match v.coresFor p g t with
        | none => .next v
        | some grp => .next (match t.ctx with | some x => v.resumeOn w t x grp | none => v.launchOn w t grp)
  | t, _ => s.turn t

/-- A divergence ends the replay: every core stops with cause 0x31 (R254). -/
def State.diverge (s : State) (g : Nat) : Host.Outcome State Fault Refusal := execReplayDivergence g { s with record := [], altered := [] }

/-- The next recorded turn (R254, R255): a debugger's stop holds it; it waits until its core has reached its cadence, which then runs
alone, so that the other cores of its die pause; it is a divergence where that core cannot reach the cadence or is past it, where it is a
winner's and nobody asks, or where the debugger has altered what it works on. Past the last turn every core stops with cause 0x31. -/
def State.replayStep (s : State) : Host.Outcome State Fault Refusal :=
  match s.record with
  | [] => .next s
  | r :: rest =>
    let t := r.turn
    let c := r.cad
    let g := t.agent s.focus
    let x := s.cadenceOf g
    if s.blocks.any (fun b => b.2.halted) then .next s
    else if x.toNat < c.toNat then
      if s.runOf g = .running ∧ s.paused g = false then ({ s with focus := g } : State).runCore g else s.diverge g
    else if x = c ∧ (s.absent r ∨ s.affected t) then s.diverge g
    else if x = c then
      let o := ({ s with record := rest } : State).forced r
      if rest = [] then .next (after { s with record := [] } o).stopAll31 else o
    else if t = .core g then .next { s with record := rest }
    else s.diverge g

/-- One step (log 1): the agenda's next turn; without one, the next step of bring-up; then the core in focus. A replay takes its turns
from the record. -/
def State.oneStep (s : State) : Host.Outcome State Fault Refusal :=
  match s.agenda with
  | t :: rest =>
    if s.power = false ∧ t.allowed true = false then .fault .moduleOff
    else if s.power ∧ s.boot.failed.isSome ∧ t.ofHost ∧ s.notReady then .next ({ s with agenda := rest, host := s.host ++ [.notReady] })
    else if s.power ∧ s.boot.failed.isSome ∧ t.allowed false = false then .fault .bringUpFailed
    else if s.replaying && !t.inReplay then .next { s with agenda := rest }
    else if s.replaying then ({ s with agenda := rest, altered := s.altered ++ s.alters t } : State).turn t
    else ({ s with agenda := rest } : State).take t
  | [] =>
    if s.power = false then .fault .moduleOff
    else if s.boot.failed.isSome then .fault .bringUpFailed
    else if s.replaying then s.replayStep
    else if s.served = false then s.take (.event s.now .bringUp)
    else s.take (.core s.focus)

/-- A next state with its partitions settled; a fault or a refusal as it is. -/
def settled (o : Host.Outcome State Fault Refusal) : Host.Outcome State Fault Refusal :=
  match o with
  | .next s => .next s.settleParts
  | .fault f => .fault f
  | .refused r => .refused r

/-! ### A single instruction at the core in focus -/

/-- The module serves, with nothing on the agenda. -/
def State.serving (s : State) (g : Nat) : State :=
  { s with power := true, agenda := [], focus := g, boot := { s.boot with pos := bootInsts.length, failed := none } }

/-- The slot whose unit a move's destination names; slot 0 for a register. -/
def moveSlot (m : BitVec 24) : Nat := if (moveDst m).toNat < 0x100 then 0 else ((moveDst m).toNat - 0x100) / 64

/-- A gear C core that runs a record of zeros and stands in its cycle with one move to issue, of a dispatched bundle at address
0 that holds it in its own slot. -/
def CoreC.oneMove (c : CoreC) (stp : BitVec 8) (m : BitVec 24) : CoreC :=
  let k := moveSlot m
  { c with
    run := .running, cont := some Rec.zero, lead := 0, group := [], dec := false, phase := .issue, todo := [(0, k)], stop := none
    win := [⟨0, 0, oneMoveBundle stp k m, 0, LoopSt.none⟩], fidx := 1, fetch := 32
    slots := (List.range 8).map (fun _ => { SlotSeq.reset with next := 1, avail := c.clk + 1 }) }

/-- A gear S or M core that runs a record of zeros at address 0, whose code line holds one word. -/
def CoreP.oneWord (c : CoreP) (w : Nat) : CoreP :=
  { c with run := .running, cont := some Rec.zero, pc := 0, hold := none, mmac := none, stop := none
           lines := Tab.put c.lines (codeKey 0 0) (BitVec.ofNat 512 w) }

/-- The instruction whose bits are w stands where the next step runs it: on core 0 a native move, on core 512 a portable
instruction. -/
def State.withInstr (s : State) (nbits w : Nat) : State :=
  if nbits = 24 then
    let m := BitVec.ofNat 24 w
    (s.serving 0).modC 0 (fun c => c.oneMove ((s.die 0).step.setWidth 8) m)
  else (s.serving 512).modP 512 (fun c => c.oneWord (w % 2 ^ 32))

end Sys2Proof.Machine
end

