-- ==== Sys2Proof/Machine/Step.lean ====
section
/-! DEFINITION. One step of the machine, and the state whose next step runs a given instruction. -/

namespace Sys2Proof.Machine

/-- One step (log 1), and what the partitions of the task queue then notice (R106, R109, R111). -/
def step (s : State) : Host.Outcome State Fault Refusal := settled s.oneStep

/-- `s` with one instruction of the table where the next step runs it (log 1). -/
def State.withFetchWord (s : State) (nbits w : Nat) : State := s.withInstr nbits w

end Sys2Proof.Machine
end

