-- ==== Sys2Proof/Safety.lean ====
section
/-! DEFINITION. What a safe step is, the invariant of memory, and the words in which claims are made. -/

namespace Sys2Proof.Machine

/-- A step is safe where it answers a next state: the machine neither stops with a fault nor is refused. -/
def Safe (s : State) : Prop := ∃ t, step s = .next t

/-- The module has power and its bring-up has not failed: the only states in which something runs (R30, R40). -/
def State.alive (s : State) : Prop := s.power = true ∧ s.boot.failed = none

/-- The module neither records its turns nor takes them from a record (R253, R254). -/
def State.quiet (s : State) : Prop := s.recording = false ∧ s.replaying = false

/-- Memory stands in its canonical form: locations rising, no byte listed that an unlisted location reads as (log 2). -/
def State.MemOk (s : State) : Prop := s.mem.wf = true

/-- Every byte of memory reads in `t` as in `s`. -/
def State.sameMem (s t : State) : Prop := ∀ x, memGet t.mem x = memGet s.mem x

/-- Every byte of memory outside the `n` bytes from location `a` reads in `t` as in `s`. -/
def State.sameBut (s t : State) (a n : Nat) : Prop := ∀ x, x < a ∨ a + n ≤ x → memGet t.mem x = memGet s.mem x

/-! ### Translations (R263, R266, R402) -/

/-- Turns by which a continuation goes on by itself: cores and engines act, what it holds on is done, SAE operations are applied. -/
def Turn.own (t : Turn) : Bool :=
  match t with
  | .core _ => true
  | .event _ i => match i with
    | .engineWakeAdmit _ | .engineConsume _ | .sequencerStep _ | .tokenReturn _ | .clusterGrant _ | .writeStagingDrain _
    | .twaitRelease _ | .hacqRelease _ | .hrelDone _ | .hpubDone _ | .hbindDone _ _ | .bwaitRelease _ | .ballocDone _ | .postClaim _
    | .tpostDone _ | .rejoinRelease _ | .fuseRelease _ | .entropyReady _ _ | .saeApply _ _ | .handOver _ => true
    | _ => false
  | _ => false

/-- Such turns bring a machine from one state to another. -/
inductive State.Runs : State → State → Prop
  | done (s : State) : State.Runs s s
  | more (s t u : State) (x : Turn) (own : x.own = true) (one : s.turn x = .next t) (rest : State.Runs t u) : State.Runs s u

/-- What a chain entry says whatever gear made it: KIND, CODE, CHAN and DETAIL, without the cadence, the address and the core. -/
def chainShown (e : List Word) : List Word := (e.drop 2).zipIdx.map (fun w => if w.2 = 0 then setBits w.1 18 18 0 else w.1)

/-- The same stands outside the cores' own storage: HBM, flash, host memory and peers, the packets claimed but for the core numbers that
R398 puts in, the records of tasks, the chains of traps, interrupts, and what the host was told. -/
def State.sameOutside (s t : State) : Prop :=
  (∀ x, x < locCore 0 0 → memGet s.mem x = memGet t.mem x) ∧
  (∀ ch, (s.chan ch).claims.map (fun c => (c.idx, c.words.map (fun w => setBits w 32 9 0))) =
    (t.chan ch).claims.map (fun c => (c.idx, c.words.map (fun w => setBits w 32 9 0)))) ∧
  s.tasks.map (fun x => (x.1, x.2.r)) = t.tasks.map (fun x => (x.1, x.2.r)) ∧
  s.chains.map (fun c => (c.1, c.2.map chainShown)) = t.chains.map (fun c => (c.1, c.2.map chainShown)) ∧
  s.irqs = t.irqs ∧ s.host = t.host

/-- Record `tid` runs on no core: it has finished, has left its cores, or a trap or another stop keeps it there. -/
def State.over (s : State) (tid : Nat) : Prop := ∀ g, s.taskOf g = some tid → s.runOf g ≠ .running

/-- Core g in `s` and core h in `t` keep the same of a continuation, where they keep one: the cause with its DETAIL, the sticky flags
(`k.flg` or `xflg`) and every byte of the local buffer (R2, R385, R390). -/
def State.keepsSame (s t : State) (g h : Nat) : Prop :=
  s.runOf g = t.runOf h ∧ (s.runOf g = .stopped →
    causeCode (s.coreC g).cause = causeCode (t.coreP h).cause ∧
    bitsOf (s.coreC g).cause 0 48 = bitsOf (t.coreP h).cause 0 48 ∧ (s.coreC g).flg = (t.coreP h).flg ∧
    ∀ o, o < 0x80000 → memGet s.mem (locCore g o) = memGet t.mem (locCore h o))

/-- A list as its bytes lie in memory. -/
def listBytes (l : List (BitVec 32)) : Nat := l.foldr (fun w n => w.toNat + n <<< 32) 0

/-- What R263 asks of a translation of a list for a stepping. Take any state in which an entry has that list, memory holds it at the
entry's address, and the entry is published with the translation for the die of a gear C group. Each end that its record comes to on the
group, a gear S or M core can bring the list to, with the same memory, packets, records, traps, interrupts and messages, and with the same
cause, flags and local buffer where a stop keeps it on its core: the result is the same in every gear (R2, R131, R132, R266).
`Config.translates` is the management core's judgement, and this says what makes it right (log 72). -/
def Faithful (list : List (BitVec 32)) (stepping : Nat) (b : Translation) : Prop :=
  ∀ (s : State) (tid : Nat) (t : Task) (grp : List Nat) (va : Nat) (e : Entry) (u : State),
    let d := dieOf (grp.headD 0)
    s.task tid = some t → isGearC (grp.headD 0) = true → (s.die d).step.toNat = stepping →
    s.entry t.r = some e → e.list = list →
    (∀ die, die < 4 → (s.vaRead die t.r.asid e.code (4 * list.length)).1 = .ok (listBytes list)) →
    let s := s.publishAt d t.r.asid t.r.code t.r.ent va b.pa b.words b.marks (some b.recs)
    (s.launchOn tid t grp).Runs u → u.over tid →
    ∃ (g : Nat) (v : State), isGearC g = false ∧ (s.launchOn tid t [g]).Runs v ∧ v.over tid ∧ u.sameOutside v ∧
      u.keepsSame v (grp.headD 0) g

/-- The management cores publish only what R263 allows. -/
def TranslatesRight : Prop := ∀ list stepping b, Config.translates list stepping b = true → Faithful list stepping b

/-! ### Native moves -/

/-- `x` is the move of guard `gd` and source `src` that the core in focus issues, its guard on and its source readable
(R272 to R274, R279, R282); `unit` is its slot outside an issue. -/
abbrev State.issues (s : State) (unit : Nat) (gd : BitVec 3) (src : BitVec 10) (x : MoveCtx) : Prop :=
  x.g = s.focus ∧ x.c = s.coreC s.focus ∧ x.c.context unit = (x.slot, x.bun) ∧
    x.c.guard x.slot x.bun gd = true ∧ x.c.source x.slot x.bun src = .ok (x.val, x.wide)

/-- `s` once the move has started a result of latency `lat` in its unit (R158, R287); K = 1 keeps it out of the latches. -/
def MoveCtx.lands (x : MoveCtx) (s : State) (lat : Nat) (k : BitVec 1) (v : TVal) (fl : Flags) : State :=
  s.setC x.g { x.c with infl := x.c.infl ++ [⟨x.slot, x.c.clk + lat - 1, x.bun.idx, v, fl, decide (k = 0), x.c.inH⟩] }

/-- `s` once the move holds its slot with an operation (R163, R287). -/
def MoveCtx.holds (x : MoveCtx) (s : State) (op : HoldOp) (k : BitVec 1) (st : Nat) (val : Word) (img : List Word) : State :=
  s.setC x.g { x.c with slots := x.c.slots.modify x.slot (fun q => { q with
    hold := some ⟨op, x.val, x.c.port x.slot 0, x.c.port x.slot 1, x.c.port x.slot 2, decide (k = 1), x.bun.idx, 0, st, val, img⟩ }) }

/-- `s` once the move has asked something of the bundle stream, which acts at the end of the cycle (R303, R305). -/
def MoveCtx.asks (x : MoveCtx) (s : State) (q : Ctl) : State := s.setC x.g { x.c with ctl := some q }

/-- `s` once the move has a register write waiting for the end of its cycle (R280). -/
def MoveCtx.writes (x : MoveCtx) (s : State) (d : Dst) (v : TVal) : State :=
  s.setC x.g { x.c with pend := x.c.pend ++ [⟨d, v, x.bun.idx⟩] }

/-- Ports a, b and c as they stand, with their tags. -/
def MoveCtx.pA (x : MoveCtx) : TVal := x.c.port x.slot 0
def MoveCtx.pB (x : MoveCtx) : TVal := x.c.port x.slot 1
def MoveCtx.pC (x : MoveCtx) : TVal := x.c.port x.slot 2

/-- Two states differ in the cores of gear C only, and of these in nothing that a program reads as a register: what a move
that starts a result, holds or traps leaves as it was. -/
def State.sameRegsC (s t : State) : Prop :=
  t = { s with cores := t.cores } ∧ ∀ g,
    (t.coreC g).g = (s.coreC g).g ∧ (t.coreC g).o = (s.coreC g).o ∧ (t.coreC g).v = (s.coreC g).v ∧
    (t.coreC g).p = (s.coreC g).p ∧ (t.coreC g).l = (s.coreC g).l ∧ (t.coreC g).l2 = (s.coreC g).l2 ∧
    (t.coreC g).h = (s.coreC g).h ∧ (t.coreC g).ports = (s.coreC g).ports ∧ (t.coreC g).flg = (s.coreC g).flg ∧
    (t.coreC g).eng = (s.coreC g).eng ∧ (t.coreC g).cause = (s.coreC g).cause ∧ (t.coreC g).epc = (s.coreC g).epc ∧
    (t.coreC g).bank = (s.coreC g).bank ∧ (t.coreC g).loop = (s.coreC g).loop ∧ (t.coreC g).cad = (s.coreC g).cad ∧
    (t.coreC g).slip = (s.coreC g).slip ∧ (t.coreC g).col = (s.coreC g).col ∧ (t.coreC g).uivec = (s.coreC g).uivec ∧
    (t.coreC g).uiepc = (s.coreC g).uiepc ∧ (t.coreC g).uicause = (s.coreC g).uicause

/-! ### Packets -/

/-- Packet n of a channel has started, has opcode `op`, and is neither finished, malformed nor parked, nor does it wait for an
invalidation (R61, R86, R226). -/
def State.runsPkt (s : State) (ch n op : Nat) (p : Pkt) : Prop :=
  s.pkt ch n = some p ∧ p.op = op ∧ p.done = false ∧ p.bad = false ∧ p.fault = none ∧ s.pinWaits ch p = false ∧ p.phase ≠ 0

/-! ### Portable instructions -/

/-- From `s` the core in focus goes to the next instruction in `t`, with `w` in x[rd] (x0 stays zero, R384); every other
register, every special register and all else in the machine stay, but what counts instructions and arrivals, and the stop
that ends a debugger's single step. -/
def State.putX (s t : State) (rd : BitVec 5) (w : Word) : Prop :=
  t = { s with pcores := t.pcores } ∧ (∀ g, g ≠ s.focus → t.coreP g = s.coreP g) ∧
    (∀ n, (t.coreP s.focus).xr n = if n = rd.toNat ∧ n ≠ 0 then w else (s.coreP s.focus).xr n) ∧
    (t.coreP s.focus).pc = ((s.coreP s.focus).pc + 4) % 2 ^ 64 ∧ (t.coreP s.focus).retired = (s.coreP s.focus).retired + 1 ∧
    (t.coreP s.focus).q = (s.coreP s.focus).q ∧ (t.coreP s.focus).flg = (s.coreP s.focus).flg ∧
    (t.coreP s.focus).tiles = (s.coreP s.focus).tiles ∧ (t.coreP s.focus).cause = (s.coreP s.focus).cause

/-- From `s` the core in focus goes to the next instruction in `t`, with `v` in q[rd] and flags `fl` raised; all else stays. -/
def State.putQ (s t : State) (rd : BitVec 5) (v : TVal) (fl : Flags) : Prop :=
  t = { s with pcores := t.pcores } ∧ (∀ g, g ≠ s.focus → t.coreP g = s.coreP g) ∧
    (∀ n, (t.coreP s.focus).qr n = if n = rd.toNat then v else (s.coreP s.focus).qr n) ∧
    (t.coreP s.focus).pc = ((s.coreP s.focus).pc + 4) % 2 ^ 64 ∧ (t.coreP s.focus).retired = (s.coreP s.focus).retired + 1 ∧
    (t.coreP s.focus).x = (s.coreP s.focus).x ∧ (t.coreP s.focus).flg = (s.coreP s.focus).flg ||| fl ∧
    (t.coreP s.focus).tiles = (s.coreP s.focus).tiles ∧ (t.coreP s.focus).cause = (s.coreP s.focus).cause

/-- From `s` the core in focus goes to the next instruction in `t` with no register changed: only memory, what counts
instructions and arrivals, and the stop that ends a debugger's single step. -/
def State.putNone (s t : State) : Prop :=
  t = { s with pcores := t.pcores, mem := t.mem } ∧ (∀ g, g ≠ s.focus → t.coreP g = s.coreP g) ∧
    (t.coreP s.focus).pc = ((s.coreP s.focus).pc + 4) % 2 ^ 64 ∧ (t.coreP s.focus).retired = (s.coreP s.focus).retired + 1 ∧
    (t.coreP s.focus).x = (s.coreP s.focus).x ∧ (t.coreP s.focus).q = (s.coreP s.focus).q ∧
    (t.coreP s.focus).flg = (s.coreP s.focus).flg ∧ (t.coreP s.focus).tiles = (s.coreP s.focus).tiles ∧
    (t.coreP s.focus).cause = (s.coreP s.focus).cause

/-- The core in focus is held by an operation with its operands (R397). -/
def State.heldP (s : State) (op : HoldOp) (rd : Nat) (t a b val : Word) (img : List Word) : State :=
  s.setP s.focus { s.coreP s.focus with
    hold := some ⟨op, TVal.ofWord t, TVal.ofWord a, TVal.ofWord b, ⟨0, 0⟩, false, 0, rd, 0, val, img⟩ }

end Sys2Proof.Machine
end

