-- ==== Sys2Proof/Certificates/Slice0/Obligations.lean ====
section
/-! DEFINITION. The statements for the provers. -/

open Sys2Proof Sys2Proof.Machine

/-! ### Decoding, stepping, reset -/

/-- O1: what is encoded decodes to the instruction, every operand at every value its encoding admits (R268 to R278, R384 to
R389). -/
def Obligations.EncodeDecode : Prop :=
  ∀ i, WellFormed i = true → ∀ n w, encode i = some (n, w) → decodeTableWord n w = some i

/-- O2: words written out from the spec's encodings: R10, R288 to R294 with R296 and R323, R312, R389 to R396. -/
def Obligations.DecodeWords : Prop :=
  decodeTableWord 24 0x0001FE = some (.moveToNullSink 0 0) ∧
  -- source g3 at bit 11; destination 0x100 + 64·u + code at bit 1
  decodeTableWord 24 (3 * 2 ^ 11 + (0x100 + 64 * 0 + 0x04) * 2) = some (.iaAdd 0 3 0 0) ∧
  decodeTableWord 24 (1 * 2 ^ 21 + 3 * 2 ^ 11 + (0x100 + 64 * 1 + 0x05) * 2 + 1) = some (.iaSub 1 3 1 1) ∧
  decodeTableWord 24 (0x60 * 2 ^ 11 + (0x100 + 64 * 2 + 0x04) * 2) = some (.vadd 0 0x60 0 0) ∧
  decodeTableWord 24 (0x10051E) = some (.ctSusp 0 0x200 0) ∧
  decodeTableWord 24 (0x42 * 2 ^ 11 + 0x05 * 2) = some (.moveToRegister 0 0x42 5) ∧
  decodeTableWord 32 0x0200107B = some (.cend 0) ∧
  decodeTableWord 32 0x00100073 = some .ebreak ∧
  decodeTableWord 32 0x00000073 = some .ecall ∧
  -- addi x5, x0, 11
  decodeTableWord 32 (11 * 2 ^ 20 + 5 * 2 ^ 7 + 0x13) = some (.portableIntegerOp (.opImm 0 5 0 11)) ∧
  -- a source code from 0x08E to 0x1FF is illegal
  decodeTableWord 24 (0x8E * 2 ^ 11 + 0x0FF * 2) = none

/-- O3: a step of a gear S or gear M core runs the instruction it fetches (R401); the partitions of the task queue then notice
what has changed (R106, R109, R111). What a step adds around exec, and the order of the cores, are the model's choice (log 1). -/
def Obligations.StepRunsPortable : Prop :=
  ∀ (s s' : State) (i : Instr), s.alive → s.quiet → s.agenda = [] → s.served = true → isGearC s.focus = false →
    s.runOf s.focus = .running → s.paused s.focus = false → s.actionP s.focus = none → (s.coreP s.focus).hold = none →
    s.fetchP s.focus = (some (.ok i), s') → step s = settled (exec i { s' with focus := s.focus })

/-- O4: a step of a gear C core runs the decoded move of the slot whose turn it is, in the context of its bundle; bits that
are no move trap with cause 0x01, and a slot that stands for an instruction with an undeclared must-understand hint traps with cause
0x07 and takes no effect (R163, R271, R277, R282, R420). The order of the slots' moves among steps is the model's choice (log 1), and so
is that a member of a decoupled tandem waits for those whose clocks stand behind its own (R152, log 67). -/
def Obligations.StepRunsMove : Prop :=
  (∀ s : State, s.alive → s.quiet → s.agenda = [] → s.served = true → s.ahead s.focus = true → step s = settled (.next s)) ∧
  ∀ (s : State) (m k : Nat) (b : Bun), s.alive → s.quiet → s.agenda = [] → s.served = true → isGearC s.focus = true →
    s.runOf s.focus = .running → s.paused s.focus = false → s.ahead s.focus = false → s.actionC (s.leader s.focus) = none →
    s.nextMove (s.leader s.focus) = some (m, k, b) →
    let t := s.takeMove (s.leader s.focus) m k b
    (∀ i, s.hintAt m k b = none → decodeMove (slotBits b.bits k) = .ok i → (bunSur b.bits).getLsbD k = false →
      step s = settled (exec i t)) ∧
    (∀ e, s.hintAt m k b = none → decodeMove (slotBits b.bits k) = .error e → (bunSur b.bits).getLsbD k = false →
      step s = settled (.next (t.trapMove m k b 0x01 0))) ∧
    (∀ h, s.hintAt m k b = some h → step s = settled (.next (t.trapMove m k b 0x07 h)))

/-- O5: the agenda's next turn, an agent's event, is taken at its time; the machine's own steps of bring-up come when the
agenda is empty (log 1). -/
def Obligations.StepRunsEvent : Prop :=
  (∀ (s : State) (t : Nat) (i : Instr) (rest : List Turn), s.alive → s.quiet → s.agenda = .event t i :: rest →
    encode i = none → WellFormed i = true → step s = settled (exec i { s with agenda := rest, now := max s.now t })) ∧
  (∀ s : State, s.alive → s.quiet → s.agenda = [] → s.served = false → step s = settled (exec .bringUp s)) ∧
  (∀ s : State, s.power = false → s.agenda = [] → step s = .fault .moduleOff) ∧
  (∀ (s : State) (f : Nat × Nat), s.power = true → s.boot.failed = some f → s.agenda = [] → step s = .fault .bringUpFailed)

/-- O6: what reset leaves of the values that the spec states: the sticky flags, `k.bank`, the fault counters and context of a
copy engine, INVCMD, INVVA and INVSTAT, the home map, the timelines, and what PF0 reads of the weights, the stage map, quotas and VM
limits, debug blocks and words, breakpoints, profiling blocks and trace rings (R162, R208, R84, R87, R70, R95, R108, R118, R229, R239,
R240, R244, R248, R251). The zeros of `k.cause` and of the channels are values that the model names (log 4). -/
def Obligations.ResetValues : Prop :=
  let s := State.reset
  (∀ g, (s.coreC g).flg = 0 ∧ (s.coreC g).bank = 0xFF ∧ (s.coreC g).cause = 0 ∧ (s.coreC g).run = .idle) ∧
  (∀ g, (s.coreP g).flg = 0 ∧ (s.coreP g).cause = 0 ∧ (s.coreP g).run = .idle) ∧
  (∀ e, (s.ce e).lreq = 0 ∧ (s.ce e).rreq = 0 ∧ (s.ce e).tlb = []) ∧
  (∀ c, (s.chan c).tl = 0 ∧ (s.chan c).ridx = 0 ∧ (s.chan c).valid = false) ∧
  (∀ n, Tab.get (0 : BitVec 4) s.home n = 0) ∧ s.chans = [] ∧ s.tasks = [] ∧
  (∀ i, i < 3 → s.pfRead (0x100000 + 8 * i) = some 0) ∧
  (∀ a, a < 1024 → s.pfRead (0x110000 + a) = some 1 ∧ s.pfRead (0x170000 + 8 * a) = some 0) ∧
  (∀ n, n < 256 → s.pfRead (0x120000 + 4 * n) = some 0xFFFFFFFF) ∧
  (∀ v, v ≤ 64 → s.pfRead (0x130000 + 8 * v) = some 0xFFFFFFFF ∧ s.pfRead (0x140000 + 8 * v) = some (100 <<< 32 ||| 200)) ∧
  (∀ g k, g < 640 → k < 4 → s.pfRead (0x160000 + 64 * g + 8 * k) = some 0) ∧
  (∀ a n, a < 1024 → n < 8 → s.pfRead (0x180000 + 64 * a + 8 * n) = some 0) ∧
  (∀ a i, a < 1024 → i < 16 → s.pfRead (0x1A0000 + 128 * a + 8 * i) = some (if 1 ≤ i ∧ i ≤ 8 then 3 <<< 62 else 0)) ∧
  (∀ d k, d < 4 → k < 5 → s.pfRead (0x1C0000 + 64 * d + 8 * k) = some 0)

/-- O7: after reset memory is in its canonical form. That an unlisted byte reads as zero is the model's choice (log 2). -/
def Obligations.ResetMemOk : Prop := State.reset.MemOk

/-- O8: every step keeps memory in its canonical form, from every state that has it. The form is the model's own (log 2; R135,
R136 for the spaces that memory covers). -/
def Obligations.StepKeepsMemOk : Prop := ∀ s t : State, s.MemOk → step s = .next t → t.MemOk

/-- O9: no instruction stops the machine: each answers a next state in every state, and so does each step of a module that has
power and whose bring-up has not failed. The stops of a dead module, `moduleOff` and `bringUpFailed`, are the model's own
names (log 1; R37, R40). -/
def Obligations.NothingStops : Prop :=
  (∀ (i : Instr) (s : State), ∃ t, exec i s = .next t) ∧ (∀ s : State, s.alive → Safe s)

/-! ### Native moves: the integer units (R296 to R302) -/

/-- O10: the one-cycle operations, the multiplies and the compares: the result that starts with its latency, with no flag and no
trap, and nothing else (R297, R298, R300). `clz` and `ctz` give the number of bits before the first one from the top and from the
bottom. -/
def Obligations.IntegerResults : Prop :=
  ∀ (s : State) (gd : BitVec 3) (src : BitVec 10) (u k : BitVec 1) (x : MoveCtx), s.issues u.toNat gd src x →
    let a := x.pA.word
    let t := x.val.word
    let n := t.toNat % 64
    let res := fun (lat : Nat) (r : Word) (o : Host.Outcome State Fault Refusal) => o = .next (x.lands s lat k (TVal.ofWord r) 0)
    res 1 (a + t) (exec (.iaAdd gd src u k) s) ∧ res 1 (a - t) (exec (.iaSub gd src u k) s) ∧
    res 1 (a &&& t) (exec (.iaAnd gd src u k) s) ∧ res 1 (a ||| t) (exec (.iaOr gd src u k) s) ∧
    res 1 (a ^^^ t) (exec (.iaXor gd src u k) s) ∧ res 1 (a &&& ~~~t) (exec (.iaAndn gd src u k) s) ∧
    res 1 (a <<< n) (exec (.iaShl gd src u k) s) ∧ res 1 (a >>> n) (exec (.iaShr gd src u k) s) ∧
    res 1 (a.sshiftRight n) (exec (.iaSra gd src u k) s) ∧ res 1 (a <<< n ||| a >>> (64 - n)) (exec (.iaRol gd src u k) s) ∧
    res 1 (if a.slt t then a else t) (exec (.iaMin gd src u k) s) ∧ res 1 (if a.slt t then t else a) (exec (.iaMax gd src u k) s) ∧
    res 1 (if a.ult t then a else t) (exec (.iaMinn gd src u k) s) ∧ res 1 (if a.ult t then t else a) (exec (.iaMaxn gd src u k) s) ∧
    res 3 (a * t) (exec (.iaMul gd src u k) s) ∧
    res 3 (BitVec.ofInt 64 (a.toInt * t.toInt / 2 ^ 64)) (exec (.iaMulh gd src u k) s) ∧
    res 3 (BitVec.ofNat 64 (a.toNat * t.toNat / 2 ^ 64)) (exec (.iaMulhn gd src u k) s) ∧
    res 1 (if a = t then 1 else 0) (exec (.iaCmpeq gd src u k) s) ∧ res 1 (if a = t then 0 else 1) (exec (.iaCmpne gd src u k) s) ∧
    res 1 (if a.slt t then 1 else 0) (exec (.iaCmplt gd src u k) s) ∧
    res 1 (if a.ult t then 1 else 0) (exec (.iaCmpltn gd src u k) s) ∧
    res 1 (if t.slt a then 0 else 1) (exec (.iaCmple gd src u k) s) ∧
    res 1 (if t.ult a then 0 else 1) (exec (.iaCmplen gd src u k) s) ∧
    res 1 t (exec (.iaMov gd src u k) s) ∧
    (∃ r : Nat, res 1 (BitVec.ofNat 64 r) (exec (.iaClz gd src u k) s) ∧ r ≤ 64 ∧
      (∀ i, i < r → t.getLsbD (63 - i) = false) ∧ (r < 64 → t.getLsbD (63 - r) = true)) ∧
    (∃ r : Nat, res 1 (BitVec.ofNat 64 r) (exec (.iaCtz gd src u k) s) ∧ r ≤ 64 ∧
      (∀ i, i < r → t.getLsbD i = false) ∧ (r < 64 → t.getLsbD r = true)) ∧
    res 1 (BitVec.ofNat 64 ((List.range 64).countP (fun i => t.getLsbD i))) (exec (.iaPopc gd src u k) s)

/-- O11: the divides: truncation toward zero, the dividend's sign on the remainder; a zero divisor gives all ones and the
dividend and raises IDZ; the unit is occupied for 20 cycles (R299). -/
def Obligations.IntegerDivides : Prop :=
  ∀ (s : State) (gd : BitVec 3) (src : BitVec 10) (u k : BitVec 1) (x : MoveCtx), s.issues u.toNat gd src x →
    let a := x.pA.word
    let t := x.val.word
    let res := fun (z r : Word) (o : Host.Outcome State Fault Refusal) =>
      o = .next ((x.lands s 20 k (TVal.ofWord (if t = 0 then z else r)) (if t = 0 then fIDZ else 0)).modC x.g
        (fun c => { c with slots := c.slots.modify x.slot (fun q => { q with div := c.clk + 20 }) }))
    res (BitVec.allOnes 64) (BitVec.ofInt 64 (a.toInt.tdiv t.toInt)) (exec (.iaDiv gd src u k) s) ∧
    res (BitVec.allOnes 64) (BitVec.ofNat 64 (a.toNat / t.toNat)) (exec (.iaDivn gd src u k) s) ∧
    res a (BitVec.ofInt 64 (a.toInt.tmod t.toInt)) (exec (.iaRem gd src u k) s) ∧
    res a (BitVec.ofNat 64 (a.toNat % t.toNat)) (exec (.iaRemn gd src u k) s)

/-- O12: `sel`, `lea`, the bit fields and the extensions, on the operands that R301 and R302 allow; on others the move traps
with cause 0x01. -/
def Obligations.IntegerChecked : Prop :=
  ∀ (s : State) (gd : BitVec 3) (src : BitVec 10) (u k : BitVec 1) (x : MoveCtx), s.issues u.toNat gd src x →
    let a := x.pA.word
    let b := x.pB.word
    let t := x.val.word
    let res := fun (r : Word) (o : Host.Outcome State Fault Refusal) => o = .next (x.lands s 1 k (TVal.ofWord r) 0)
    let ill := fun (o : Host.Outcome State Fault Refusal) => o = .next (s.trapMove x.g x.slot x.bun 0x01 0)
    (4 ≤ t.toNat ∧ t.toNat ≤ 7 → res (if x.c.pred t.toNat then a else b) (exec (.iaSel gd src u k) s)) ∧
    (t.toNat < 4 ∨ 7 < t.toNat → ill (exec (.iaSel gd src u k) s)) ∧
    res (a + b <<< (t.toNat % 64)) (exec (.iaLea gd src u k) s) ∧
    (1 ≤ t.toNat ∧ t.toNat ≤ 64 →
      res (BitVec.ofNat 64 (a.toNat % 2 ^ t.toNat)) (exec (.iaZext gd src u k) s) ∧
      ∃ r : Word, res r (exec (.iaSext gd src u k) s) ∧
        ∀ i, i < 64 → r.getLsbD i = a.getLsbD (min i (t.toNat - 1))) ∧
    (t.toNat = 0 ∨ 64 < t.toNat → ill (exec (.iaZext gd src u k) s) ∧ ill (exec (.iaSext gd src u k) s)) ∧
    -- POS in t[5:0], LEN in t[12:6], SX in t[13]
    (let pos := t.toNat % 64
     let len := t.toNat / 64 % 128
     (t.toNat < 2 ^ 14 ∧ 1 ≤ len ∧ len ≤ 64 →
       (∃ r : Word, res r (exec (.iaBfx gd src u k) s) ∧ ∀ i, i < 64 → r.getLsbD i =
         if i < len then a.getLsbD (pos + i) else (t.getLsbD 13 && a.getLsbD (pos + len - 1))) ∧
       (t.getLsbD 13 = false → ∃ r : Word, res r (exec (.iaBfi gd src u k) s) ∧
         ∀ i, i < 64 → r.getLsbD i = if pos ≤ i ∧ i < pos + len then b.getLsbD (i - pos) else a.getLsbD i)) ∧
     (2 ^ 14 ≤ t.toNat ∨ len = 0 ∨ 64 < len → ill (exec (.iaBfx gd src u k) s) ∧ ill (exec (.iaBfi gd src u k) s)) ∧
     (t.getLsbD 13 = true → ill (exec (.iaBfi gd src u k) s)))


/-! ### Native moves: the vector units (R323 to R340) -/

/-- O13: every vector operation on its trigger value and ports: its result starts with the unit's latency and raises its flags
when it lands, or its trap is taken (R289, R323 to R340). -/
def Obligations.VectorOps : Prop :=
  ∀ (s : State) (gd : BitVec 3) (src : BitVec 10) (u k : BitVec 1) (x : MoveCtx), s.issues (2 + u.toNat) gd src x →
    let a := x.pA
    let b := x.pB
    let t := x.val
    let res := fun (lat : Nat) (r : VRes) (o : Host.Outcome State Fault Refusal) =>
      (∀ v fl, r = .ok v fl → o = .next (x.lands s lat k v fl)) ∧
      (∀ c d, r = .trap c d → o = .next (s.trapMove x.g x.slot x.bun c d))
    res 2 (opVadd t a) (exec (.vadd gd src u k) s) ∧ res 2 (opVsub t a) (exec (.vsub gd src u k) s) ∧
    res 4 (opVmul t a) (exec (.vmul gd src u k) s) ∧ res 4 (opVfma t a b) (exec (.vfma gd src u k) s) ∧
    res 2 (opVmax t a) (exec (.vmax gd src u k) s) ∧ res 2 (opVmin t a) (exec (.vmin gd src u k) s) ∧
    res 2 (opVabs t) (exec (.vabs gd src u k) s) ∧ res 2 (opVneg t) (exec (.vneg gd src u k) s) ∧
    res 2 (opVcmpeq t a) (exec (.vcmpeq gd src u k) s) ∧ res 2 (opVcmplt t a) (exec (.vcmplt gd src u k) s) ∧
    res 2 (opVcmple t a) (exec (.vcmple gd src u k) s) ∧ res 2 (opVsel t a b) (exec (.vsel gd src u k) s) ∧
    res 2 (opVcvt t a) (exec (.vcvt gd src u k) s) ∧ res 2 (opVsplat t a) (exec (.vsplat gd src u k) s) ∧
    res 2 (opVperm t a) (exec (.vperm gd src u k) s) ∧ res 2 (opVshuf t a) (exec (.vshuf gd src u k) s) ∧
    res 5 (opVredadd t) (exec (.vredadd gd src u k) s) ∧ res 5 (opVredmax t) (exec (.vredmax gd src u k) s) ∧
    res 6 (opVexp2 t) (exec (.vexp2 gd src u k) s) ∧ res 6 (opVlog2 t) (exec (.vlog2 gd src u k) s) ∧
    res 6 (opVrcp t) (exec (.vrcp gd src u k) s) ∧ res 6 (opVrsq t) (exec (.vrsq gd src u k) s) ∧
    res 4 (opVdot2 t a b) (exec (.vdot2 gd src u k) s) ∧ res 4 (opVscl t a) (exec (.vscl gd src u k) s) ∧
    res 2 (opVpln t a) (exec (.vpln gd src u k) s) ∧ res 2 (opVupl t a) (exec (.vupl gd src u k) s) ∧
    res 2 (opVand t a) (exec (.vand gd src u k) s) ∧ res 2 (opVor t a) (exec (.vor gd src u k) s) ∧
    res 2 (opVxor t a) (exec (.vxor gd src u k) s) ∧ res 2 (opVshl t a) (exec (.vshl gd src u k) s) ∧
    res 2 (opVshr t a) (exec (.vshr gd src u k) s) ∧ res 2 (opVidx t) (exec (.vidx gd src u k) s) ∧
    res 2 (opVext t a) (exec (.vext gd src u k) s) ∧ res 2 (opVins t a b) (exec (.vins gd src u k) s) ∧
    res 2 (opVclmp t a b) (exec (.vclmp gd src u k) s) ∧ res 2 (opVtag t a) (exec (.vtag gd src u k) s)

/-- O14: what the lanes of some of these results hold: sums and differences of integer lanes modulo 2^w, the bitwise
operations, `vidx`, `vins` and `vext`, `vperm`, and `vtag` (R325, R329 to R332, R340). -/
def Obligations.VectorLanes : Prop :=
  (∀ t a : TVal, isINX t.tag = true → a.tag = t.tag → ∃ v w, opVadd t a = .ok v 0 ∧ opVsub t a = .ok w 0 ∧
    v.tag = t.tag ∧ w.tag = t.tag ∧ ∀ i, i < laneN t.tag →
      vlane v (laneW t.tag) i = (vlane a (laneW t.tag) i + vlane t (laneW t.tag) i) % 2 ^ laneW t.tag ∧
      (vlane w (laneW t.tag) i + vlane t (laneW t.tag) i) % 2 ^ laneW t.tag = vlane a (laneW t.tag) i) ∧
  (∀ t a : TVal, badTag t.tag = false → a.tag = t.tag →
    opVand t a = .ok ⟨a.bits &&& t.bits, a.tag⟩ 0 ∧ opVor t a = .ok ⟨a.bits ||| t.bits, a.tag⟩ 0 ∧
    opVxor t a = .ok ⟨a.bits ^^^ t.bits, a.tag⟩ 0) ∧
  (∀ t : TVal, ∃ v, opVidx t = .ok v 0 ∧ v.tag = 0x12 ∧ ∀ i, i < 32 →
    vlane v 32 i = (t.word.toNat % 2 ^ 32 + i * (t.word.toNat / 2 ^ 32)) % 2 ^ 32) ∧
  (∀ t a b : TVal, badTag t.tag = false → a.word.toNat < laneN t.tag →
    (∃ v, opVins t a b = .ok v 0 ∧ v.tag = t.tag ∧ ∀ i, i < laneN t.tag → vlane v (laneW t.tag) i =
      if i = a.word.toNat then b.bits.toNat % 2 ^ laneW t.tag else vlane t (laneW t.tag) i) ∧
    (∃ v, opVext t a = .ok v 0 ∧ v.tag = t.tag ∧ v.bits.toNat = vlane t (laneW t.tag) a.word.toNat)) ∧
  (∀ t a : TVal, badTag t.tag = false → a.tag = 0 → ∃ v, opVperm t a = .ok v 0 ∧ v.tag = t.tag ∧ ∀ m, m < 128 →
    vlane v 8 m = if 128 ≤ vlane a 8 m then 0 else vlane t 8 (vlane a 8 m)) ∧
  (∀ t a : TVal, a.word.toNat < 32 → badTag (a.word.setWidth 5) = false → opVtag t a = .ok ⟨t.bits, a.word.setWidth 5⟩ 0) ∧
  (∀ t a : TVal, a.word.toNat < 32 → badTag (a.word.setWidth 5) = true → opVtag t a = .trap 0x06 a.word.toNat)

/-! ### Native moves: the matrix engine (R178 to R194, R345 to R349) -/

/-- O15: the commands that enter the FIFO: their checks hold and the command stands last with what it captured, a token owed
where the trigger asks for one; a check that fails traps instead; `me.sqs` (R178, R187, R194, R345 to R349). That `me.sqs` waits for every
command before it is read from R187 (log 79), and so is the zero progress word where no sequence runs. -/
def Obligations.MatrixCommands : Prop :=
  ∀ (s : State) (gd : BitVec 3) (src : BitVec 10) (k : BitVec 1) (x : MoveCtx), s.issues 4 gd src x →
    let t := x.val.word
    let ill := fun (o : Host.Outcome State Fault Refusal) => o = .next (s.trapMove x.g x.slot x.bun 0x01 0)
    let put := fun (op : MeOp) (tok : Bool) (o : Host.Outcome State Fault Refusal) => o = .next (s.meIssue x.g (x.cmd op tok k))
    (∀ tok, accCheck t x.c.eng.view = .ok tok → tok = t.getLsbD 2 ∧ put .acc tok (exec (.meAcc gd src k) s)) ∧
    (∀ c d, accCheck t x.c.eng.view = .error (c, d) → exec (.meAcc gd src k) s = .next (s.trapMove x.g x.slot x.bun c d)) ∧
    (if t.toNat < 2 ^ 15 ∧ bitsOf t 0 7 ≤ 95 ∧ bitsOf t 7 8 ≤ 159 then put .sh false (exec (.meSh gd src k) s)
     else ill (exec (.meSh gd src k) s)) ∧
    (if drCheck t x.c.eng.view then put .dr true (exec (.meDr gd src k) s) else ill (exec (.meDr gd src k) s)) ∧
    (if t.toNat < 4 then put .clr false (exec (.meClr gd src k) s) else ill (exec (.meClr gd src k) s)) ∧
    (if t = 0 ∨ t = 1 ∨ t = 4 ∨ t = 5 then put .cls false (exec (.meCls gd src k) s) else ill (exec (.meCls gd src k) s)) ∧
    (if t.toNat < 2 ^ 48 then put .thr false (exec (.meThr gd src k) s) else ill (exec (.meThr gd src k) s)) ∧
    (∀ tok, seqCheck x x.c.eng.view = .ok tok → tok = t.getLsbD 34 ∧ put .seq tok (exec (.meSeq gd src k) s)) ∧
    (∀ c d, seqCheck x x.c.eng.view = .error (c, d) → exec (.meSeq gd src k) s = .next (s.trapMove x.g x.slot x.bun c d)) ∧
    -- `me.sqs` with a zero trigger owes a token, whose word is the progress; a running sequence is told to stop (R194)
    (x.val.word = 0 → ∃ t, exec (.meSqs gd src k) s = .next t ∧
      t = { s with cores := t.cores } ∧
      let e := (s.coreC s.focus).eng
      let e' := (t.coreC s.focus).eng
      e'.iss = (e.iss + 1) % 2 ^ 16 ∧ e'.fifo = e.fifo ∧ e'.cur = e.cur ∧ e'.ret = e.ret ∧ e'.tiles = e.tiles ∧
      e'.seq = e.seq.map (fun q => { q with quit := true }) ∧
      ∃ n, e'.sqs = e.sqs ++ [n] ∧ n.k = decide (k = 1) ∧ n.hb = (s.coreC s.focus).inH ∧
        n.left = e.fifo.length + e.cur.toList.length ∧
        n.run = (match e.seq with | some q => !q.quit | none => false) ∧
        n.word = (if e.seq = none then some 0 else none)) ∧
    (x.val.word ≠ 0 → exec (.meSqs gd src k) s = .next (s.trapMove x.g x.slot x.bun 0x01 0))

/-- O16: the pushes: from the cluster scratchpad where the source is no vector register, else from registers v`n` on, which are
captured at issue (R181, R346). -/
def Obligations.MatrixPushes : Prop :=
  (∀ (s : State) (gd : BitVec 3) (src : BitVec 10) (k : BitVec 1) (x : MoveCtx), s.issues 4 gd src x →
    src.toNat < 0x60 ∨ 0x80 ≤ src.toNat →
    let w := fun p => (x.c.port x.slot p).word
    ∀ tag, x.val.word.toNat < 2 ^ 16 →
      (fmtTag (bitsOf (w 1) 36 4) = some tag → sliceCheck tag (w 0) (w 1) 96 x.val.word.toNat = none →
        exec (.mePa gd src k) s = .next (s.meIssue x.g (x.cmd .pa false k))) ∧
      (fmtTag (bitsOf (w 3) 36 4) = some tag → sliceCheck tag (w 2) (w 3) 160 x.val.word.toNat = none →
        exec (.mePb gd src k) s = .next (s.meIssue x.g (x.cmd .pb false k)))) ∧
  (∀ (s : State) (gd : BitVec 3) (src : BitVec 10) (k : BitVec 1) (y : Nat × Bun) (sl : Slice),
    0x60 ≤ src.toNat → src.toNat < 0x80 →
    let c := s.coreC s.focus
    let v := src.toNat - 0x60
    let x : MoveCtx := ⟨s.focus, c, y.1, y.2, c.regV v, true⟩
    c.context 4 = y → c.guard y.1 y.2 gd = true →
      (regSlice c v 2 96 = .ok sl → regScaleCheck sl.tag (c.port y.1 0).word (c.port y.1 1).word 96 = none →
        exec (.mePa gd src k) s = .next (s.meIssue s.focus { x.cmd .pa false k with regs := some sl, bank := some (v / 8) })) ∧
      (regSlice c v 3 160 = .ok sl → regScaleCheck sl.tag (c.port y.1 2).word (c.port y.1 3).word 160 = none →
        exec (.mePb gd src k) s = .next (s.meIssue s.focus { x.cmd .pb false k with regs := some sl, bank := some (v / 8) })))

/-! ### Native moves: loads and stores (R344, R351 to R357) -/

/-- O17: the loads: the bytes at the address, read at issue, land with the operation's latency and tag (R351 to R355). -/
def Obligations.LoadResults : Prop :=
  ∀ (s : State) (gd : BitVec 3) (src : BitVec 10) (k : BitVec 1) (x : MoveCtx), s.issues 5 gd src x →
    let t := x.val.word
    let a := x.pA.word
    let res := fun (lat : Nat) (n : Nat) (tag : BitVec 5) (o : Host.Outcome State Fault Refusal) =>
      o = .next (x.lands s lat k ⟨BitVec.ofNat 1024 n, tag⟩ 0)
    -- an address in space 0 or 2: below, in range, aligned
    (∀ l, plainAddr x.g t 8 = .ok l → res 4 (s.read l.1 8) 0 (exec (.lsLd gd src k) s)) ∧
    (∀ l, plainAddr x.g t 128 = .ok l → res 4 (s.read l.1 128) 0 (exec (.lsVld gd src k) s)) ∧
    (∀ l, plainAddr x.g t 128 = .ok l → a.toNat < 32 → badTag (a.setWidth 5) = false →
      res 4 (s.read l.1 128) (a.setWidth 5) (exec (.lsTld gd src k) s)) ∧
    (∀ l, strideSet x.g t a = .ok l → res 4 (s.gather (szBytes (bitsOf t 32 2)) l) 0 (exec (.lsVlds gd src k) s)) ∧
    (∀ l, indexSet x.g a x.val = .ok l → res 8 (s.gather (szBytes (bitsOf a 32 2)) l) 0 (exec (.lsVgat gd src k) s)) ∧
    (let p := bitsOf a 52 4
     let pp := bitsOf a 32 16
     ∀ l, pldOk a t = true → bitsOf a 0 32 % 16 = 0 →
       coreSpace x.g (bitsOf a 28 4) (bitsOf a 0 28) ((p - 1) * pp + (t.toNat + 64 * bniK p - 1) / 8 + 1) = .ok l →
       res 6 (pldBits p pp t.toNat (fun o => s.read (l.1 + o) 1)) (BitVec.ofNat 5 (0x0A + (p - 2))) (exec (.lsPld gd src k) s)) ∧
    -- an address that fails traps, in the order of R344
    (∀ c d, plainAddr x.g t 8 = .error (c, d) → exec (.lsLd gd src k) s = .next (s.trapMove x.g x.slot x.bun c d)) ∧
    (∀ c d, plainAddr x.g t 128 = .error (c, d) → exec (.lsVld gd src k) s = .next (s.trapMove x.g x.slot x.bun c d))

/-- O18: the stores into the core's own scratchpad: the bytes at the address take the value, no other byte changes and nothing
but memory does (R351, R353, R354); with a replay's discards apart, which concern the host and peers only (R254). -/
def Obligations.StoreResults : Prop :=
  ∀ (s : State) (gd : BitVec 3) (src : BitVec 10) (k : BitVec 1) (x : MoveCtx), s.issues 5 gd src x →
    let a := x.pA.word
    let only := fun (t : State) => t = { s with mem := t.mem }
    s.MemOk → bitsOf a 28 4 = 0 →
    (∀ l, plainAddr x.g a 8 = .ok l → ∃ t, exec (.lsSt gd src k) s = .next t ∧ only t ∧
      t.read l.1 8 = x.val.word.toNat ∧ s.sameBut t l.1 8) ∧
    (∀ l, plainAddr x.g a 128 = .ok l → ∃ t, exec (.lsVst gd src k) s = .next t ∧ only t ∧
      t.read l.1 128 = x.val.bits.toNat ∧ s.sameBut t l.1 128) ∧
    (∀ l, indexSet x.g a x.pB = .ok l → ∃ t, exec (.lsVsca gd src k) s = .next t ∧ only t ∧
      let n := szBytes (bitsOf a 32 2)
      (∀ i, i < l.length → (∀ j, i < j → j < l.length → l[j]? ≠ l[i]?) →
        t.read (l.getD i (0, 0)).1 n = vlane x.val (8 * n) i) ∧
      ∀ y, (∀ e ∈ l, y < e.1 ∨ e.1 + n ≤ y) → memGet t.mem y = memGet s.mem y) ∧
    (∀ l, maskAddr x.g a x.pB = .ok l → ∃ t, exec (.lsMst gd src k) s = .next t ∧ only t ∧
      let n := maskSize a
      (∀ i, i < 128 / n → t.read (l.1 + n * i) n =
        if x.pB.bits.getLsbD i then vlane x.val (8 * n) i else s.read (l.1 + n * i) n) ∧
      s.sameBut t l.1 128)

/-- O19: accesses that may hold slot 5: `cld` gives two staged lines twelve cycles later, or holds for the lines that are not staged with
the words of the one that is, `cst` stages two lines or
holds, `ald` and `ast` move a row of a bank that no waiting command names or hold (R140, R356, R357). -/
def Obligations.ClusterAndRows : Prop :=
  ∀ (s : State) (gd : BitVec 3) (src : BitVec 10) (k : BitVec 1) (x : MoveCtx), s.issues 5 gd src x →
    let t := x.val.word
    let a := x.pA.word
    let trap := fun (c d : Nat) (o : Host.Outcome State Fault Refusal) => o = .next (s.trapMove x.g x.slot x.bun c d)
    (∀ o p q, clusAddr t 128 = .ok o → x.c.staged o = some p → x.c.staged (o + 64) = some q →
      exec (.lsCld gd src k) s = .next (x.lands s 12 k ⟨p.setWidth 1024 ||| (q.setWidth 1024 <<< 512), 0⟩ 0)) ∧
    (∀ o, clusAddr t 128 = .ok o → x.c.staged o = none → x.c.staged (o + 64) = none →
      exec (.lsCld gd src k) s = .next (x.holds s .cld k 0 0 [])) ∧
    (∀ o p, clusAddr t 128 = .ok o → x.c.staged o = some p → x.c.staged (o + 64) = none →
      exec (.lsCld gd src k) s = .next (x.holds s .cld k 1 0 (lineWords p))) ∧
    (∀ o q, clusAddr t 128 = .ok o → x.c.staged o = none → x.c.staged (o + 64) = some q →
      exec (.lsCld gd src k) s = .next (x.holds s .cld k 2 0 (lineWords q))) ∧
    (∀ o, clusAddr a 128 = .ok o → x.c.wst.length ≤ 14 → exec (.lsCst gd src k) s = .next (s.cstPut x.g o x.val)) ∧
    (∀ o, clusAddr a 128 = .ok o → 14 < x.c.wst.length → exec (.lsCst gd src k) s = .next (x.holds s .cst k 0 0 [])) ∧
    (∀ c d, clusAddr t 128 = .error (c, d) → trap c d (exec (.lsCld gd src k) s)) ∧
    (∀ c d, clusAddr a 128 = .error (c, d) → trap c d (exec (.lsCst gd src k) s)) ∧
    (rowDescOk t = true →
      exec (.lsAld gd src k) s = .next (if x.c.eng.busyBank (bitsOf t 10 2) then x.holds s .ald k 0 0 []
        else x.lands s 4 k (x.c.eng.tiles.loadRow (bitsOf t 10 2) t) 0)) ∧
    (rowDescOk t = false → trap 0x01 0 (exec (.lsAld gd src k) s)) ∧
    (rowDescOk a = true → x.val.tag = (if a.getLsbD 12 then 0x07 else 0x01) →
      exec (.lsAst gd src k) s = .next (if x.c.eng.busyBank (bitsOf a 10 2) then x.holds s .ast k 0 0 []
        else s.modEng x.g (fun e => { e with tiles := e.tiles.storeRow (bitsOf a 10 2) a x.val }))) ∧
    (rowDescOk a = true → x.val.tag ≠ (if a.getLsbD 12 then 0x07 else 0x01) →
      trap 0x06 x.val.tag.toNat (exec (.lsAst gd src k) s)) ∧
    (rowDescOk a = false → trap 0x01 0 (exec (.lsAst gd src k) s))

/-! ### Native moves: control (R303 to R319) -/

/-- O20: the transfers and loops: with the checks of R303 to R310 passed, the bundle stream is asked to go to the target, to start
or break the loop, to return from an interrupt or to decouple at the end of the cycle; a target off its alignment traps with cause 0x0A,
and one out of range, like every other check that fails, with cause 0x01 (R303 to R307, R310, R315). -/
def Obligations.ControlTransfers : Prop :=
  ∀ (s : State) (gd : BitVec 3) (src : BitVec 10) (k : BitVec 1) (x : MoveCtx), s.issues 6 gd src x →
    let t := x.val.word
    let a := x.pA.word
    let rel := (x.bun.addr : Int) + t.toInt
    let to_ := fun (n : Nat) (o : Host.Outcome State Fault Refusal) => o = .next (x.asks s (.jump n))
    let ill := fun (o : Host.Outcome State Fault Refusal) => o = .next (s.trapMove x.g x.slot x.bun 0x01 0)
    let mis := fun (o : Host.Outcome State Fault Refusal) => o = .next (s.trapMove x.g x.slot x.bun 0x0A (t.toNat % 2 ^ 32))
    -- outside a kernel, a target that is a bundle's address
    (x.bun.inKernel = false → -(2 ^ 47) ≤ t.toInt → t.toInt < 2 ^ 47 → 0 ≤ rel → rel < 2 ^ 48 → rel % 32 = 0 →
      to_ rel.toNat (exec (.ctBr gd src k) s) ∧
      (a.toNat < 16 → if x.c.pred (a.toNat % 8) != decide (8 ≤ a.toNat) then to_ rel.toNat (exec (.ctBrc gd src k) s)
        else exec (.ctBrc gd src k) s = .next s) ∧
      exec (.ctCall gd src k) s = .next ((x.asks s (.jump rel.toNat)).modC x.g
        (fun c => c.start x.slot 1 x.bun.idx (TVal.ofWord (BitVec.ofNat 64 (x.bun.addr + 32))) 0 k))) ∧
    -- a target that is no bundle's address; an offset or a target out of range
    (x.bun.inKernel = false → -(2 ^ 47) ≤ t.toInt → t.toInt < 2 ^ 47 → 0 ≤ rel → rel < 2 ^ 48 → rel % 32 ≠ 0 →
      mis (exec (.ctBr gd src k) s) ∧ mis (exec (.ctCall gd src k) s) ∧ (a.toNat < 16 → mis (exec (.ctBrc gd src k) s))) ∧
    (t.toInt < -(2 ^ 47) ∨ 2 ^ 47 ≤ t.toInt ∨ rel < 0 ∨ 2 ^ 48 ≤ rel →
      ill (exec (.ctBr gd src k) s) ∧ ill (exec (.ctCall gd src k) s) ∧ ill (exec (.ctBrc gd src k) s)) ∧
    (16 ≤ a.toNat → ill (exec (.ctBrc gd src k) s)) ∧ x.c.pred 0 = true ∧
    (x.bun.inKernel = false → t.toNat < 2 ^ 48 → t.toNat % 32 = 0 →
      to_ t.toNat (exec (.ctRet gd src k) s) ∧ to_ t.toNat (exec (.ctJr gd src k) s)) ∧
    (x.bun.inKernel = false → t.toNat < 2 ^ 48 → t.toNat % 32 ≠ 0 →
      mis (exec (.ctRet gd src k) s) ∧ mis (exec (.ctJr gd src k) s)) ∧
    (2 ^ 48 ≤ t.toNat → ill (exec (.ctRet gd src k) s) ∧ ill (exec (.ctJr gd src k) s)) ∧
    (x.bun.inKernel = true → ill (exec (.ctBr gd src k) s) ∧ ill (exec (.ctBrc gd src k) s) ∧ ill (exec (.ctCall gd src k) s) ∧
      ill (exec (.ctRet gd src k) s) ∧ ill (exec (.ctJr gd src k) s)) ∧
    (if t.toNat < 2 ^ 15 ∧ a.toNat < 2 ^ 32 ∧ x.bun.loop.act = false ∧ x.c.inH = false ∧ (bitsOf t 12 3 = 0 ∨ t.getLsbD 11 = true) then
        exec (.ctLoop gd src k) s = .next (x.asks s (.loop a.toNat t))
      else ill (exec (.ctLoop gd src k) s)) ∧
    (if t = 0 ∧ x.bun.loop.act = true then exec (.ctLbrk gd src k) s = .next (x.asks s .lbrk)
      else ill (exec (.ctLbrk gd src k) s)) ∧
    (if t = 0 ∧ x.c.inH = true ∧ bunSyn x.bun.bits = 0xFF ∧ x.bun.inKernel = false then
        exec (.ctEret gd src k) s = .next (x.asks s .eret)
      else ill (exec (.ctEret gd src k) s)) ∧
    (if t = 0 ∧ x.c.inH = false ∧ (x.c.group = [] ∨ x.c.dec = false) then
        exec (.ctDecouple gd src k) s = .next (if x.c.group = [] then s else x.asks s .decouple)
      else ill (exec (.ctDecouple gd src k) s))

/-- O21: `lend`, `fuse`, `rejoin`, the predicate operations and the token wait (R308 to R310, R318, R319). -/
def Obligations.ControlOther : Prop :=
  ∀ (s : State) (gd : BitVec 3) (src : BitVec 10) (k : BitVec 1) (x : MoveCtx), s.issues 6 gd src x →
    let t := x.val.word
    let a := x.pA.word
    let trap := fun (c d : Nat) (o : Host.Outcome State Fault Refusal) => o = .next (s.trapMove x.g x.slot x.bun c d)
    let bit := fun (b : Bool) (o : Host.Outcome State Fault Refusal) =>
      o = .next (x.lands s 1 k (TVal.ofWord (if b then 1 else 0)) 0)
    (t.toNat < 16 → x.c.inH = false → x.c.bankBusy (t.toNat % 4) = false →
      -- TO 0 to 2 names slots 2 to 4, TO 3 the bank's default owner; a lend to the current owner changes nothing
      let to_ := if t.toNat / 4 < 3 then 2 + t.toNat / 4 else if t.toNat % 4 < 2 then 2 else 3
      exec (.ctLend gd src k) s = .next (if x.c.owner (t.toNat % 4) = to_ then s
        else x.writes s (.bank (t.toNat % 4)) (TVal.ofWord (BitVec.ofNat 64 (t.toNat / 4))))) ∧
    (t.toNat < 16 → x.c.inH = false → x.c.bankBusy (t.toNat % 4) = true → trap 0x05 (t.toNat % 4) (exec (.ctLend gd src k) s)) ∧
    (1 ≤ t.toNat → t.toNat ≤ 4 → x.c.priv = true → x.c.tw = 0 → x.c.group = [] →
      exec (.ctFuse gd src k) s = .next (x.holds s .fuse k 0 0 [])) ∧
    (x.c.priv = false → trap 0x08 0xFF (exec (.ctFuse gd src k) s)) ∧
    (t = 0 → x.c.inH = false →
      exec (.ctRejoin gd src k) s = .next (if x.c.group ≠ [] ∧ x.c.dec = true then x.holds s .rejoin k 0 0 [] else s)) ∧
    bit (a.getLsbD 0 && t.getLsbD 0) (exec (.ctPand gd src k) s) ∧ bit (a.getLsbD 0 || t.getLsbD 0) (exec (.ctPor gd src k) s) ∧
    bit (a.getLsbD 0 ^^ t.getLsbD 0) (exec (.ctPxor gd src k) s) ∧ bit (!t.getLsbD 0) (exec (.ctPnot gd src k) s) ∧
    -- `tokw`: owed and returned tokens must reach n
    (t.toNat < 2 ^ 16 → t.toNat ≤ x.c.eng.ret → exec (.ctTokw gd src k) s =
      .next (s.modEng x.g (fun e => { e with ret := e.ret - t.toNat }))) ∧
    (t.toNat < 2 ^ 16 → x.c.eng.ret < t.toNat → t.toNat ≤ x.c.eng.iss + x.c.eng.ret →
      exec (.ctTokw gd src k) s = .next (x.holds s .tokw k 0 0 [])) ∧
    (t.toNat < 2 ^ 16 → x.c.eng.iss + x.c.eng.ret < t.toNat → trap 0x0B t.toNat (exec (.ctTokw gd src k) s))

/-- O22: `kr` reads what the privilege may see, with the loop engine as it stands; `kw` writes at the end of the cycle, or traps with
cause 0x08 without privilege, which a user-interrupt handler never has, and with 0x01 where it has it and the register is read-only, or
where the number is none; `trap` and `brk` stop the core with causes 0x0D and 0x0C (R66, R175, R314, R316, R317). -/
def Obligations.ControlRegistersAndTraps : Prop :=
  ∀ (s : State) (gd : BitVec 3) (src : BitVec 10) (k : BitVec 1) (x : MoveCtx), s.issues 6 gd src x →
    let t := x.val.word
    let n := t.toNat
    let trap := fun (c d : Nat) (o : Host.Outcome State Fault Refusal) => o = .next (s.trapMove x.g x.slot x.bun c d)
    (∀ w, n < 256 → s.kview x.g (s.coreC (s.leader x.g)).loop n = some w →
      exec (.ctKr gd src k) s = .next (x.lands s 1 k (TVal.ofWord w) 0)) ∧
    (256 ≤ n ∨ s.kreg x.g (s.coreC (s.leader x.g)).loop n = none → trap 0x01 0 (exec (.ctKr gd src k) s)) ∧
    (n = 0x07 ∨ n = 0x08 ∨ n = 0x0C ∨ (x.c.priv = true ∧ (n = 0x0E ∨ (0x13 ≤ n ∧ n ≤ 0x15) ∨ (0x20 ≤ n ∧ n ≤ 0x24))) →
      exec (.ctKw gd src k) s = .next (x.writes s (.kreg n) x.pA)) ∧
    (0x09 ≤ n ∧ n ≤ 0x0B → exec (.ctKw gd src k) s =
      .next (if x.c.eng.fifo = [] ∧ x.c.eng.cur = none then x.writes s (.kreg n) x.pA else x.holds s .kw k 0 0 [])) ∧
    (x.c.priv = false → n = 0x0E ∨ (0x13 ≤ n ∧ n ≤ 0x15) ∨ (0x20 ≤ n ∧ n ≤ 0x24) → trap 0x08 n (exec (.ctKw gd src k) s)) ∧
    -- read-only registers; numbers that name none
    (n ≤ 0x06 ∨ n = 0x0D ∨ (0x0F ≤ n ∧ n ≤ 0x12) ∨ (0x18 ≤ n ∧ n ≤ 0x1F) →
      if x.c.priv = true then trap 0x01 0 (exec (.ctKw gd src k) s) else trap 0x08 n (exec (.ctKw gd src k) s)) ∧
    (n = 0x16 ∨ n = 0x17 ∨ 0x25 ≤ n → trap 0x01 0 (exec (.ctKw gd src k) s)) ∧
    (n < 2 ^ 16 → exec (.ctTrap gd src k) s = .next (s.requestStop (s.leader x.g)
      ⟨x.bun.idx, x.bun.addr, causeWord false 6 0x0D n, some x.g, none⟩)) ∧
    (2 ^ 16 ≤ n → trap 0x01 0 (exec (.ctTrap gd src k) s)) ∧
    exec (.ctBrk gd src k) s = .next (if t = 0 then s.requestStop (s.leader x.g)
      ⟨x.bun.idx, x.bun.addr, causeWord false 6 0x0C 0, some x.g, none⟩ else s.trapMove x.g x.slot x.bun 0x01 0)

/-- O23: `susp` holds slot 6 for the end of the continuation, with the checked image where it has one; `yield` does so only
where a request may be honoured, and otherwise does nothing; the end, once every slot has passed the bundle, is O48's. In a lock-step
tandem lane 0 makes the move; another member whose guard is on holds with lane 0's operation, and one whose guard is off does nothing;
where the move runs in some members only, every member is stopped with cause 0x01, SLOT 6, at the end of the cycle (R279, R311, R312,
R313, R322). That lane 0 comes first is the model's order
(log 1, log 34). -/
def Obligations.SuspAndYield : Prop :=
  -- another member than lane 0
  (∀ (s : State) (gd : BitVec 3) (src : BitVec 10) (k : BitVec 1) (y : Nat × Bun), s.leader s.focus ≠ s.focus →
    let c := s.coreC s.focus
    let lane0 := s.coreC (s.leader s.focus)
    c.context 6 = y →
    (c.guard y.1 y.2 gd = false → exec (.ctSusp gd src k) s = .next s ∧ exec (.ctYield gd src k) s = .next s) ∧
    (c.guard y.1 y.2 gd = true → ∀ h, (lane0.slot 6).hold = some h → h.op = .susp →
      let t := s.setC s.focus { c with slots := c.slots.modify 6 (fun q => { q with hold := some h }), ctl := some .susp }
      exec (.ctSusp gd src k) s = .next t ∧ exec (.ctYield gd src k) s = .next t) ∧
    -- lane 0's guard is off: this member alone asks for the end
    (c.guard y.1 y.2 gd = true → lane0.guard y.1 y.2 gd = false → (lane0.slot 6).hold = none →
      let t := s.setC s.focus { c with ctl := some .susp }
      exec (.ctSusp gd src k) s = .next t ∧
      exec (.ctYield gd src k) s = .next (if c.mayHonour = true ∧ y.2.loop.act = false then t else s))) ∧
  -- members that ask for the end, and others that do not
  (∀ (s : State) (g m n : Nat), s.leader g = g → m ∈ s.members g → n ∈ s.members g → (s.coreC m).ctl = some .susp →
    (s.coreC n).ctl = none → (s.coreC g).stop = none →
    let c := s.coreC g
    let idx := (c.slot 6).next - 1
    ((s.applyCtl g).coreC g).stop = some ⟨idx, c.addrOf idx, causeWord false 6 0x01 0, none, none⟩ ∧
    (((s.applyCtl g).coreC g).slot 6).next = (if 6 < c.slots.length then idx else 0)) ∧
  ∀ (s : State) (gd : BitVec 3) (src : BitVec 10) (k : BitVec 1) (x : MoveCtx), s.issues 6 gd src x → s.leader x.g = x.g →
    let t := x.val.word
    let hold := fun (st : Nat) (val : Word) (img : List Word) =>
      (x.holds s .susp k st val img).modC x.g (fun c => { c with ctl := some .susp })
    ((x.c.group = [] ∨ x.c.dec = false) → x.c.inH = false →
      (t = 0 → exec (.ctSusp gd src k) s = .next (hold 0 0 [])) ∧
      (t.getLsbD 63 = true → bitsOf t 32 31 = 0 →
        (∀ img, s.suspImage x.g x.c.asid x.c.sys t = .ok img → exec (.ctSusp gd src k) s = .next (hold 0 0 img)) ∧
        (∀ c d, s.suspImage x.g x.c.asid x.c.sys t = .error (c, d) →
          exec (.ctSusp gd src k) s = .next (s.trapMove x.g x.slot x.bun c d)))) ∧
    (t.toNat < 2 ^ 32 → exec (.ctYield gd src k) s =
      .next (if x.c.mayHonour = true ∧ x.bun.loop.act = false then hold 2 t [] else s)) ∧
    (2 ^ 32 ≤ t.toNat → exec (.ctYield gd src k) s = .next (s.trapMove x.g x.slot x.bun 0x01 0))

/-! ### Native moves: the as unit (R361 to R382) -/

/-- O24: `post`, `twait`, `tstat`, `tpost`: on an image or channel that its checks accept, the operation holds slot 7 with what it
captured, or the timeline lands four cycles later (R361, R363 to R365, R378, R398). How the loader marks a bundle that stands for a `qpost`,
and what `portImage` then writes into the image, are the model's choice (log 89). -/
def Obligations.AsPackets : Prop :=
  ∀ (s : State) (gd : BitVec 3) (src : BitVec 10) (k : BitVec 1) (x : MoveCtx), s.issues 7 gd src x →
    let t := x.val.word
    let a := x.pA.word
    let ill := fun (o : Host.Outcome State Fault Refusal) => o = .next (s.trapMove x.g x.slot x.bun 0x01 0)
    let own := fun (w : Word) => w.toNat < 2 ^ 16 ∧ s.chanOf w.toNat x.c.asid = true
    (∀ img, s.image x.g t = .ok img →
      exec (.asTpost gd src k) s = .next (x.holds s .tpost k 0 0 img) ∧
      -- a slot that stands for a `qpost` has its image rewritten (R398)
      let img := if s.markAt x.g x.slot x.bun = some 8 then portImage x.g img else img
      (s.postCheck x.c.asid x.c.priv img = true →
        exec (.asPost gd src k) s = .next (x.holds s .post k 0 (BitVec.ofNat 64 (bitsOf (img.getD 7 0) 0 16)) img)) ∧
      (s.postCheck x.c.asid x.c.priv img = false → ill (exec (.asPost gd src k) s))) ∧
    (∀ c d, s.image x.g t = .error (c, d) →
      exec (.asTpost gd src k) s = .next (s.trapMove x.g x.slot x.bun c d) ∧
      exec (.asPost gd src k) s = .next (s.trapMove x.g x.slot x.bun c d)) ∧
    (own a → t.toNat < 2 ^ 48 → exec (.asTwait gd src k) s = .next (x.holds s .twait k 0 0 [])) ∧
    (own t → exec (.asTstat gd src k) s = .next (x.lands s 4 k (TVal.ofWord (BitVec.ofNat 64 (s.chan t.toNat).tl)) 0)) ∧
    (¬own a → ill (exec (.asTwait gd src k) s)) ∧ (¬own t → ill (exec (.asTstat gd src k) s))

/-- O25: barriers and hasps: accepted operands hold slot 7 for the home; `barr` is counted at once where every write of the
core is performed at the barrier's scope, and waits for the writes before it otherwise; `bfree` frees the barrier and releases its waiters (R366 to R373). -/
def Obligations.AsBarriersAndHasps : Prop :=
  ∀ (s : State) (gd : BitVec 3) (src : BitVec 10) (k : BitVec 1) (x : MoveCtx), s.issues 7 gd src x →
    let t := x.val.word
    let ill := fun (o : Host.Outcome State Fault Refusal) => o = .next (s.trapMove x.g x.slot x.bun 0x01 0)
    let held := fun (op : HoldOp) (o : Host.Outcome State Fault Refusal) => o = .next (x.holds s op k 0 0 [])
    (t.toNat < 2 ^ 19 → t.toNat / 2 ^ 16 < 5 → t.toNat % 2 ^ 16 ≠ 0 → held .balloc (exec (.asBalloc gd src k) s)) ∧
    (t.toNat % 2 ^ 16 = 0 → ill (exec (.asBalloc gd src k) s)) ∧
    (∀ b, s.barrierAt t.toNat = some b → b.asid = x.c.asid →
      exec (.asBarr gd src k) s = .next (if s.published x.g b.sc = true then
          s.setDie ((t.toNat >>> 12) % 4) { s.die ((t.toNat >>> 12) % 4) with
            barriers := Tab.put (s.die ((t.toNat >>> 12) % 4)).barriers (t.toNat % 4096) (countArrival b) }
        else s.setC x.g { x.c with arr := x.c.arr ++ [t] }) ∧
      exec (.asBfree gd src k) s = .next ((s.freeBarrier t.toNat).freeWaiters t.toNat)) ∧
    (∀ b, s.barrierAt (t.toNat % 2 ^ 32) = some b → b.asid = x.c.asid → held .bwait (exec (.asBwait gd src k) s)) ∧
    (s.barrierAt t.toNat = none → ill (exec (.asBarr gd src k) s) ∧ ill (exec (.asBfree gd src k) s)) ∧
    (hbindCheck t x.pA.word x.pB.word false = none → held .hbind (exec (.asHbind gd src k) s)) ∧
    (s.hacqCheck x.c.asid t x.pA.word = none → held .hacq (exec (.asHacq gd src k) s)) ∧
    (s.hrelCheck x.c.asid x.pA.word x.pB.word = none → held .hrel (exec (.asHrel gd src k) s)) ∧
    (if t.toNat < 5 then held .hpub (exec (.asHpub gd src k) s) ∧ held .hobs (exec (.asHobs gd src k) s)
      else ill (exec (.asHpub gd src k) s) ∧ ill (exec (.asHobs gd src k) s))

/-- O26: the scatter-accumulate triggers, `notify`, `sortx`, `rnd`, `pmark` and `icinv` (R216, R374 to R382). That a notification is
delivered in the same step is the model's choice (log 32). -/
def Obligations.AsOther : Prop :=
  ∀ (s : State) (gd : BitVec 3) (src : BitVec 10) (k : BitVec 1) (x : MoveCtx), s.issues 7 gd src x →
    let t := x.val.word
    let d := dieOf x.g
    let cl := clusterOf x.g
    let trap := fun (c d : Nat) (o : Host.Outcome State Fault Refusal) => o = .next (s.trapMove x.g x.slot x.bun c d)
    (∀ ops, saeOps t x.pA x.pB x.pC = .ok ops → exec (.asSae gd src k) s =
      .next (if (s.cluster cl).room ops.length (t.getLsbD 43) then s.saePut x.g t ops
        -- without room it holds; its lines leave read staging at issue either way
        else (s.saeDiscard x.g ops).modC x.g (fun c => { c with slots := c.slots.modify x.slot (fun q => { q with
          hold := some ⟨.sae, x.val, x.pA, x.pB, x.pC, decide (k = 1), x.bun.idx, 0, 0, 0, []⟩ }) }))) ∧
    (∀ c e, saeOps t x.pA x.pB x.pC = .error (c, e) → trap c e (exec (.asSae gd src k) s)) ∧
    (∀ w, t = 0 → (s.cluster cl).nextEntry x.g = some (some w) → exec (.asSaer gd src k) s =
      .next (((s.setCluster cl ((s.cluster cl).take x.g)).modC x.g
        (fun c => c.start x.slot 2 x.bun.idx (TVal.ofWord w) 0 k)).saeWake cl)) ∧
    (t = 0 → (s.cluster cl).nextEntry x.g = some none → exec (.asSaer gd src k) s = .next (x.holds s .saer k 0 0 [])) ∧
    ((s.cluster cl).nextEntry x.g = none → trap 0x01 0 (exec (.asSaer gd src k) s)) ∧
    (s.notifyCheck x.c.asid t = none → exec (.asNotify gd src k) s = .next (s.notify x.c.asid t)) ∧
    (∀ v fl, opSortx t x.pA x.pB = .ok v fl → exec (.asSortx gd src k) s = .next (x.lands s 2 k v fl)) ∧
    (∀ w l, t = 0 → (s.die d).draws = w :: l → exec (.asRnd gd src k) s = .next
      (((s.setDie d { s.die d with draws := l }).modC x.g (fun c => { c with drawn := c.drawn + 1 })).modC x.g
        (fun c => c.start x.slot 2 x.bun.idx (TVal.ofWord w) 0 k))) ∧
    (t = 0 → (s.die d).draws = [] → exec (.asRnd gd src k) s = .next (x.holds s .rnd k 0 0 [])) ∧
    (t ≠ 0 → trap 0x01 0 (exec (.asRnd gd src k) s) ∧ trap 0x01 0 (exec (.asSaer gd src k) s)) ∧
    exec (.asPmark gd src k) s = .next (s.traceRec d (s.nameAt x.g x.bun.addr) 2 0 x.c.asid t) ∧
    (x.pA.word.toNat < 2 ^ 54 → t.toNat < 2 ^ 32 → exec (.asIcinv gd src k) s = .next (x.holds s .icinv k 0 0 []))

/-! ### Plain moves, guards, frames (R272 to R282) -/

/-- O27: moves to registers wait for the end of the cycle, moves to ports stand at once, moves to the null sink do nothing
(R276, R277, R279, R280); a vector register of a bank that the slot does not own traps (R282). -/
def Obligations.PlainMoves : Prop :=
  (∀ (s : State) (gd : BitVec 3) (src dst : BitVec 10) (x : MoveCtx), s.issues 0 gd src x →
    let n := dst.toNat
    let to_ := fun (d : Dst) (v : TVal) => exec (.moveToRegister gd src dst) s = .next (x.writes s d v)
    let w := TVal.ofWord x.val.word
    (n < 0x40 → (x.c.inH = false ∨ 8 ≤ n) → to_ (.g n) w) ∧ (n < 8 → x.c.inH = true → to_ (.h n) w) ∧
    (0x40 ≤ n → n < 0x50 → to_ (.o (n - 0x40)) w) ∧
    (0x60 ≤ n → n < 0x80 → x.c.mayWrite x.slot (n - 0x60) = true → to_ (.v (n - 0x60)) x.val) ∧
    (0x60 ≤ n → n < 0x80 → x.c.mayWrite x.slot (n - 0x60) = false →
      exec (.moveToRegister gd src dst) s = .next (s.trapMove x.g x.slot x.bun 0x04 (n - 0x60))) ∧
    (0x81 ≤ n → n < 0x88 → to_ (.p (n - 0x80)) w)) ∧
  (∀ (s : State) (gd : BitVec 3) (src : BitVec 10) (u : BitVec 4) (p : BitVec 2) (x : MoveCtx),
    s.issues (u.toNat - 4) gd src x → 4 ≤ u.toNat → u.toNat < 12 → ∃ t, exec (.moveToPort gd src u p) s = .next t ∧
      t = s.setC x.g { x.c with ports := (t.coreC x.g).ports } ∧
      -- read apart from the operands that a move issued again has captured
      let port := fun (c : CoreC) => ({ c with cur := none } : CoreC).port
      ∀ v q, v < 8 → q < 4 → port (t.coreC x.g) v q = if v = u.toNat - 4 ∧ q = p.toNat then
        (if widePort v then x.val else TVal.ofWord x.val.word) else port x.c v q) ∧
  (∀ (gd : BitVec 3) (src : BitVec 10) (s : State), exec (.moveToNullSink gd src) s = .next s)

/-- O28: a move that is guarded off does nothing at all, whichever it is (R272, R279). -/
def Obligations.GuardedOff : Prop :=
  ∀ (m : BitVec 24) (i : Instr) (s : State) (p : Nat × Bun), decodeMove m = .ok i → (s.coreC s.focus).cur = some p →
    (s.coreC s.focus).guard p.1 p.2 (m.extractLsb' 21 3) = false → exec i s = .next s

/-- O29: the frame of every native move in its issue: whatever it does (act, hold, trap, nothing), the register files, flags and
special registers of every gear C core stay as they are but for `k.tok`, whose counts a matrix command or a token wait changes at issue
(R187, R319), since what it writes lands at the end of a cycle (R158, R280); the ports stay but for a move to a port. -/
def Obligations.MoveFrame : Prop :=
  ∀ (m : BitVec 24) (i : Instr) (s t : State), decodeMove m = .ok i → exec i s = .next t →
    ∀ g, (t.coreC g).g = (s.coreC g).g ∧ (t.coreC g).o = (s.coreC g).o ∧ (t.coreC g).v = (s.coreC g).v ∧
      (t.coreC g).p = (s.coreC g).p ∧ (t.coreC g).l = (s.coreC g).l ∧ (t.coreC g).l2 = (s.coreC g).l2 ∧
      (t.coreC g).h = (s.coreC g).h ∧ (t.coreC g).flg = (s.coreC g).flg ∧ (t.coreC g).bank = (s.coreC g).bank ∧
      (t.coreC g).epc = (s.coreC g).epc ∧ (t.coreC g).cause = (s.coreC g).cause ∧ (t.coreC g).slip = (s.coreC g).slip ∧
      (t.coreC g).loop = (s.coreC g).loop ∧ (t.coreC g).cad = (s.coreC g).cad ∧ (t.coreC g).col = (s.coreC g).col ∧
      (t.coreC g).uivec = (s.coreC g).uivec ∧ (t.coreC g).uiepc = (s.coreC g).uiepc ∧ (t.coreC g).uicause = (s.coreC g).uicause ∧
      (t.coreC g).eng.tiles.mst = (s.coreC g).eng.tiles.mst ∧ (t.coreC g).eng.tiles.agv = (s.coreC g).eng.tiles.agv ∧
      (t.coreC g).eng.tiles.agc = (s.coreC g).eng.tiles.agc ∧
      ((∀ gd src u p, i ≠ .moveToPort gd src u p) → (t.coreC g).ports = (s.coreC g).ports)

/-- O30: registers and memory around the integer and vector moves and the loads from the scratchpad: memory, every device and every
core of gears S and M stay, and so does every register of every gear C core: the files, ports, latches, flags, banks, the engine's
state, and the special registers that R316 lists. What such a move leaves is a result in flight, a hold, or a stop of its group, which
the group's leader holds (R158, R173). -/
def Obligations.ResultFrame : Prop :=
  ∀ (m : BitVec 24) (i : Instr) (s t : State), decodeMove m = .ok i → exec i s = .next t →
    -- destinations 0x100 to 0x1FF: the units ia0, ia1, va0 and va1; and the plain loads of ls
    (m.extractLsb' 8 3 = 2 ∨ m.extractLsb' 8 3 = 3 ∨
      (∃ gd src k, i = .lsLd gd src k ∨ i = .lsVld gd src k ∨ i = .lsTld gd src k ∨ i = .lsVlds gd src k ∨ i = .lsVgat gd src k ∨
        i = .lsPld gd src k)) → (∀ gd src u p, i ≠ .moveToPort gd src u p) →
    s.sameRegsC t

/-! ### The portable layer (R384 to R401) -/

/-- O31: RV64I and M computations on the values of their registers: the result goes to x[rd] and nothing else changes; x0 stays
zero (R384). -/
def Obligations.PortableInteger : Prop :=
  ∀ (s : State) (rd a b : BitVec 5) (imm : BitVec 12) (up : BitVec 20),
    let c := s.coreP s.focus
    let x := c.xr a.toNat
    let y := c.xr b.toNat
    let i := imm.signExtend 64
    let sh := imm.toNat % 64
    let pc := BitVec.ofNat 64 c.pc
    let low := fun (w : Word) => (w.setWidth 32).signExtend 64
    let res := fun (op : IntOp) (w : Word) => ∃ t, exec (.portableIntegerOp op) s = .next t ∧ s.putX t rd w
    res (.lui rd up) ((up ++ 0#12).signExtend 64) ∧ res (.auipc rd up) (pc + (up ++ 0#12).signExtend 64) ∧
    res (.opImm 0 rd a imm) (x + i) ∧ res (.opImm 2 rd a imm) (if x.slt i then 1 else 0) ∧
    res (.opImm 3 rd a imm) (if x.ult i then 1 else 0) ∧ res (.opImm 4 rd a imm) (x ^^^ i) ∧
    res (.opImm 6 rd a imm) (x ||| i) ∧ res (.opImm 7 rd a imm) (x &&& i) ∧ res (.opImm 1 rd a imm) (x <<< sh) ∧
    (imm.getLsbD 10 = false → res (.opImm 5 rd a imm) (x >>> sh)) ∧
    (imm.getLsbD 10 = true → res (.opImm 5 rd a imm) (x.sshiftRight sh)) ∧
    res (.opImm32 0 rd a imm) (low (x + i)) ∧
    res (.opImm32 1 rd a imm) ((x.setWidth 32 <<< (imm.toNat % 32)).signExtend 64) ∧
    (imm.getLsbD 10 = false → res (.opImm32 5 rd a imm) ((x.setWidth 32 >>> (imm.toNat % 32)).signExtend 64)) ∧
    (imm.getLsbD 10 = true → res (.opImm32 5 rd a imm) (((x.setWidth 32).sshiftRight (imm.toNat % 32)).signExtend 64)) ∧
    res (.op 0 0 rd a b) (x + y) ∧ res (.op 0x20 0 rd a b) (x - y) ∧ res (.op 0 1 rd a b) (x <<< (y.toNat % 64)) ∧
    res (.op 0 2 rd a b) (if x.slt y then 1 else 0) ∧ res (.op 0 3 rd a b) (if x.ult y then 1 else 0) ∧
    res (.op 0 4 rd a b) (x ^^^ y) ∧ res (.op 0 5 rd a b) (x >>> (y.toNat % 64)) ∧
    res (.op 0x20 5 rd a b) (x.sshiftRight (y.toNat % 64)) ∧ res (.op 0 6 rd a b) (x ||| y) ∧ res (.op 0 7 rd a b) (x &&& y) ∧
    res (.op 1 0 rd a b) (x * y) ∧ res (.op 1 1 rd a b) (BitVec.ofInt 64 (x.toInt * y.toInt / 2 ^ 64)) ∧
    res (.op 1 2 rd a b) (BitVec.ofInt 64 (x.toInt * (y.toNat : Int) / 2 ^ 64)) ∧
    res (.op 1 3 rd a b) (BitVec.ofNat 64 (x.toNat * y.toNat / 2 ^ 64)) ∧
    res (.op32 0 0 rd a b) (low (x + y)) ∧ res (.op32 0x20 0 rd a b) (low (x - y)) ∧ res (.op32 1 0 rd a b) (low (x * y)) ∧
    res (.op32 0 1 rd a b) ((x.setWidth 32 <<< (y.toNat % 32)).signExtend 64) ∧
    res (.op32 0 5 rd a b) ((x.setWidth 32 >>> (y.toNat % 32)).signExtend 64) ∧
    res (.op32 0x20 5 rd a b) (((x.setWidth 32).sshiftRight (y.toNat % 32)).signExtend 64)

/-- O32: the divides on 64 and on 32 bits: quotient toward zero and remainder, unsigned by DIVU and REMU; a zero divisor gives all ones and
the dividend, and also sets IDZ (R384). -/
def Obligations.PortableDivides : Prop :=
  ∀ (s : State) (rd a b : BitVec 5),
    let x := (s.coreP s.focus).xr a.toNat
    let y := (s.coreP s.focus).xr b.toNat
    let res := fun (f3 : BitVec 3) (w : Word) => ∃ t, exec (.portableDivide 0 f3 rd a b) s = .next t ∧
      (t.coreP s.focus).flg = (s.coreP s.focus).flg ||| (if y = 0 then fIDZ else 0) ∧
      ({ s with pcores := Tab.put s.pcores s.focus { s.coreP s.focus with flg := (t.coreP s.focus).flg } } : State).putX t rd w
    res 4 (if y = 0 then BitVec.allOnes 64 else BitVec.ofInt 64 (x.toInt.tdiv y.toInt)) ∧
    res 5 (if y = 0 then BitVec.allOnes 64 else BitVec.ofNat 64 (x.toNat / y.toNat)) ∧
    res 6 (if y = 0 then x else BitVec.ofInt 64 (x.toInt.tmod y.toInt)) ∧
    res 7 (if y = 0 then x else BitVec.ofNat 64 (x.toNat % y.toNat)) ∧
    -- DIVW, DIVUW, REMW, REMUW: on the low halves, sign-extended
    (let x := x.setWidth 32
     let y := y.setWidth 32
     let res := fun (f3 : BitVec 3) (w : BitVec 32) => ∃ t, exec (.portableDivide 1 f3 rd a b) s = .next t ∧
       (t.coreP s.focus).flg = (s.coreP s.focus).flg ||| (if y = 0 then fIDZ else 0) ∧
       ({ s with pcores := Tab.put s.pcores s.focus { s.coreP s.focus with flg := (t.coreP s.focus).flg } } : State).putX t rd
         (w.signExtend 64)
     res 4 (if y = 0 then BitVec.allOnes 32 else BitVec.ofInt 32 (x.toInt.tdiv y.toInt)) ∧
     res 5 (if y = 0 then BitVec.allOnes 32 else BitVec.ofNat 32 (x.toNat / y.toNat)) ∧
     res 6 (if y = 0 then x else BitVec.ofInt 32 (x.toInt.tmod y.toInt)) ∧
     res 7 (if y = 0 then x else BitVec.ofNat 32 (x.toNat % y.toNat)))

/-- O33: loads from the local buffer: sign-extended for LB to LD, zero-extended for LBU to LWU; an address outside it traps
with cause 0x09, then one off its alignment with 0x0A (R384, R385). The order of the two checks is read from R385 and R397
(log 20). -/
def Obligations.PortableLoads : Prop :=
  ∀ (s : State) (f3 : BitVec 3) (rd a : BitVec 5) (imm : BitVec 12), f3 ≠ 7 →
    let A := ((s.coreP s.focus).xr a.toNat + imm.signExtend 64).toNat
    let n := 2 ^ (f3.toNat % 4)
    let v := s.read (locCore s.focus A) n
    (A < 0x80000 → A % n = 0 → ∃ t, exec (.portableLoad f3 rd a imm) s = .next t ∧
      s.putX t rd (if f3.toNat < 4 then BitVec.ofInt 64 (if 2 * v < 2 ^ (8 * n) then (v : Int) else v - 2 ^ (8 * n))
        else BitVec.ofNat 64 v)) ∧
    (0x80000 ≤ A → exec (.portableLoad f3 rd a imm) s = .next (s.trapP s.focus 0x09 (A % 2 ^ 32))) ∧
    (A < 0x80000 → A % n ≠ 0 → exec (.portableLoad f3 rd a imm) s = .next (s.trapP s.focus 0x0A (A % 2 ^ 32)))

/-- O34: stores to the local buffer: the low bytes of x[rs2] stand at the address, every other byte and every register stay
(R384, R385). -/
def Obligations.PortableStores : Prop :=
  ∀ (s : State) (f3 : BitVec 3) (a b : BitVec 5) (imm : BitVec 12), s.MemOk → f3.toNat < 4 →
    let A := ((s.coreP s.focus).xr a.toNat + imm.signExtend 64).toNat
    let n := 2 ^ f3.toNat
    (A < 0x80000 → A % n = 0 → ∃ t, exec (.portableStore f3 a b imm) s = .next t ∧ s.putNone t ∧
      t.read (locCore s.focus A) n = ((s.coreP s.focus).xr b.toNat).toNat % 2 ^ (8 * n) ∧
      s.sameBut t (locCore s.focus A) n) ∧
    (0x80000 ≤ A → exec (.portableStore f3 a b imm) s = .next (s.trapP s.focus 0x09 (A % 2 ^ 32))) ∧
    (A < 0x80000 → A % n ≠ 0 → exec (.portableStore f3 a b imm) s = .next (s.trapP s.focus 0x0A (A % 2 ^ 32)))

/-- O35: jumps and branches: the link to rd, the pc at the target; a taken target off four bytes traps with cause 0x0A (R384). -/
def Obligations.PortableJumps : Prop :=
  ∀ (s : State) (j : JumpOp),
    let g := s.focus
    let c := s.coreP g
    let pc := BitVec.ofNat 64 c.pc
    let go := fun (taken : Bool) (to_ : Word) (rd : Nat) =>
      if taken = false then exec (.portableBranchJump j) s = .next (s.advance g)
      else if to_.toNat % 4 ≠ 0 then exec (.portableBranchJump j) s = .next (s.trapP g 0x0A (to_.toNat % 2 ^ 32))
      else ∃ t, exec (.portableBranchJump j) s = .next t ∧ (t.coreP g).pc = to_.toNat ∧
        t = { s with pcores := t.pcores } ∧ (∀ n, (t.coreP g).xr n = if n = rd ∧ n ≠ 0 then pc + 4 else c.xr n) ∧
        (t.coreP g).q = c.q ∧ (t.coreP g).flg = c.flg ∧ (t.coreP g).retired = c.retired + 1
    match j with
    | .jal rd imm => go true (pc + imm.signExtend 64 <<< 1) rd.toNat
    | .jalr rd a imm => go true ((c.xr a.toNat + imm.signExtend 64) &&& ~~~1) rd.toNat
    | .branch f3 a b imm =>
      let x := c.xr a.toNat
      let y := c.xr b.toNat
      let to_ := pc + imm.signExtend 64 <<< 1
      (f3 = 0 → go (decide (x = y)) to_ 0) ∧ (f3 = 1 → go (decide (x ≠ y)) to_ 0) ∧ (f3 = 4 → go (x.slt y) to_ 0) ∧
      (f3 = 5 → go (!x.slt y) to_ 0) ∧ (f3 = 6 → go (x.ult y) to_ 0) ∧ (f3 = 7 → go (!x.ult y) to_ 0)

/-- O36: CSR accesses, from a register and immediate: CSRRW writes the source, CSRRS sets its bits in the old value and CSRRC clears
them, of the four writable CSRs, and x[rd] takes the old value; CSRRS and CSRRC with a source field of zero only read, whichever CSR it
is; an unknown CSR, or a write to a read-only one, is illegal (R384, R387). That a source bit in no field of the CSR is dropped is read
from R387 (log 64). -/
def Obligations.CsrAccess : Prop :=
  ∀ (s : State) (csr : BitVec 12) (f3 : BitVec 3) (rd a : BitVec 5), f3 ≠ 0 → f3 ≠ 4 →
    let g := s.focus
    let n := csr.toNat
    let src := if f3.toNat < 4 then (s.coreP g).xr a.toNat else a.setWidth 64
    let old := s.csrRead g n
    let v := if f3.toNat % 4 = 1 then src else if f3.toNat % 4 = 2 then old ||| src else old &&& ~~~src
    let writes := f3.toNat % 4 = 1 ∨ a ≠ 0
    (¬writes → n = 0x800 ∨ n = 0x801 ∨ n = 0x802 ∨ n = 0x803 ∨ (0xCC0 ≤ n ∧ n ≤ 0xCC6) →
      ∃ t, exec (.csrAccess csr f3 rd a) s = .next t ∧ s.putX t rd old) ∧
    (writes → n = 0x800 ∨ n = 0x801 ∨ n = 0x802 ∨ n = 0x803 → ∃ t, exec (.csrAccess csr f3 rd a) s = .next t ∧
      t = { s with pcores := t.pcores } ∧ (∀ m, (t.coreP g).xr m = if m = rd.toNat ∧ m ≠ 0 then s.csrRead g n else (s.coreP g).xr m) ∧
      (t.coreP g).pc = ((s.coreP g).pc + 4) % 2 ^ 64 ∧
      (n = 0x800 → (t.coreP g).flg = v.setWidth 7) ∧ (n ≠ 0x800 → (t.coreP g).flg = (s.coreP g).flg) ∧
      (n = 0x801 → (t.coreP g).tiles = { (s.coreP g).tiles with mst := v.setWidth 8 &&& 0xF3 }) ∧
      (n = 0x802 → (t.coreP g).tiles = { (s.coreP g).tiles with agv := v.setWidth 32 }) ∧
      (n = 0x803 → (t.coreP g).tiles = { (s.coreP g).tiles with agc := v.setWidth 16 })) ∧
    (writes → 0xCC0 ≤ n → n ≤ 0xCC6 → exec (.csrAccess csr f3 rd a) s = .next (s.trapP g 0x01 0)) ∧
    (n < 0x800 ∨ (0x803 < n ∧ n < 0xCC0) ∨ 0xCC6 < n → exec (.csrAccess csr f3 rd a) s = .next (s.trapP g 0x01 0))

/-- O37: FENCE and FENCE.I change nothing but the pc; ECALL stops with cause 0x0D and x17[15:0], EBREAK with cause 0x0C; a hint of
5 to 7, which nothing defines here, traps with cause 0x07 on every Xpol instruction (R384, R389, R391). That FENCE only goes on is read
from its rule (log 21), and that no such hint has a meaning here is the model's choice (log 63). -/
def Obligations.PortableSystem : Prop :=
  ∀ s : State, let g := s.focus
    (∀ fm p q rs rd, ∃ t, exec (.fence fm p q rs rd) s = .next t ∧ s.putNone t ∧ t.mem = s.mem) ∧
    (∀ imm rs rd, ∃ t, exec (.fenceI imm rs rd) s = .next t ∧ s.putNone t ∧ t.mem = s.mem) ∧
    exec .ecall s = .next (s.trapP g 0x0D (((s.coreP g).xr 17).toNat % 2 ^ 16)) ∧
    exec .ebreak s = .next (s.trapP g 0x0C 0) ∧
    (∀ (w : BitVec 32) (h : BitVec 3) (i : Instr), decodeWord w = .ok i → h = w.extractLsb' 29 3 → 5 ≤ h.toNat →
      w.extractLsb' 0 7 = 0x0B ∨ w.extractLsb' 0 7 = 0x2B ∨ w.extractLsb' 0 7 = 0x5B ∨ w.extractLsb' 0 7 = 0x7B → exec i s = .next (s.trapP g 0x07 h.toNat))

/-- O38: the vector instructions with the operands that R390 binds: the result to q[rd] with its flags, or the trap; `qext` to
x[rd] (R388 to R392). -/
def Obligations.PortableVectors : Prop :=
  ∀ (s : State) (h : BitVec 3) (tag b a d : BitVec 5), h.toNat < 5 →
    let c := s.coreP s.focus
    let qa := c.qr a.toNat
    let qb := c.qr b.toNat
    let qd := c.qr d.toNat
    let xa := c.xr a.toNat
    let xb := c.xr b.toNat
    let ta := TVal.ofWord xa
    let tb := TVal.ofWord xb
    let res := fun (r : VRes) (i : Instr) =>
      (∀ v fl, r = .ok v fl → ∃ t, exec i s = .next t ∧ s.putQ t d v fl) ∧
      (∀ cause detail, r = .trap cause detail → exec i s = .next (s.trapP s.focus cause detail))
    res (opVadd qb qa) (.qadd h b a d) ∧ res (opVsub qb qa) (.qsub h b a d) ∧ res (opVmul qb qa) (.qmul h b a d) ∧
    res (opVfma qd qa qb) (.qfma h b a d) ∧ res (opVmax qb qa) (.qmax h b a d) ∧ res (opVmin qb qa) (.qmin h b a d) ∧
    res (opVabs qa) (.qabs h a d) ∧ res (opVneg qa) (.qneg h a d) ∧ res (opVclmp qd qa qb) (.qclmp h b a d) ∧
    res (opVcmpeq qb qa) (.qcmpeq h b a d) ∧ res (opVcmplt qb qa) (.qcmplt h b a d) ∧ res (opVcmple qb qa) (.qcmple h b a d) ∧
    res (opVsel qd qa qb) (.qsel h b a d) ∧ res (opVand qb qa) (.qand h b a d) ∧ res (opVor qb qa) (.qor h b a d) ∧
    res (opVxor qb qa) (.qxor h b a d) ∧ res (opVshl qa tb) (.qshl h b a d) ∧ res (opVshr qa tb) (.qshr h b a d) ∧
    (xa.toNat < 2 ^ 32 → xb.toNat < 2 ^ 32 → res (opVidx (TVal.ofWord (xa ||| xb <<< 32))) (.qidx h b a d)) ∧
    (∀ v, opVext qa tb = .ok v 0 → ∃ t, exec (.qext h b a d) s = .next t ∧ s.putX t d v.word) ∧
    res (opVins qd tb ta) (.qins h b a d) ∧ res (opVperm qa qb) (.qperm h b a d) ∧ res (opVshuf qa tb) (.qshuf h b a d) ∧
    (h ≠ 4 → res (opVredadd qa) (.qredadd h a d)) ∧ (h = 4 → res (opQredaddUp qa) (.qredadd h a d)) ∧
    res (opVredmax qa) (.qredmax h a d) ∧ res (opVexp2 qa) (.qexp2 h a d) ∧ res (opVlog2 qa) (.qlog2 h a d) ∧
    res (opVrcp qa) (.qrcp h a d) ∧ res (opVrsq qa) (.qrsq h a d) ∧ res (opVdot2 qb qa qd) (.qdot2 h b a d) ∧
    res (opVscl qa qb) (.qscl h b a d) ∧ (∀ v fl, opVpln qa tb = .ok v fl → res (.ok v fl) (.qpln h b a d)) ∧
    (∀ v fl, opVupl qa tb = .ok v fl → res (.ok v fl) (.qupl h b a d)) ∧
    (∀ v fl, opVcvt qa tb = .ok v fl → res (.ok v fl) (.qcvtx h b a d)) ∧
    res (opSortx xb qa qd) (.qsortx h b a d) ∧ res (opQsplat tag xa) (.qsplat h tag a d) ∧
    res (convOp qa tag 0 0) (.qcvt h tag a d) ∧ res (opVtag qa (TVal.ofWord (tag.setWidth 64))) (.qtag h tag a d)

/-- O39: the vector loads and stores of the local buffer complete on every address in it that is aligned: what is read goes to
q[rd]; what is stored stands there, of two lanes at one address the higher one's, and every other byte and register stays; a bad
tag, an address outside the buffer and one off its alignment trap (R352 to R354, R393). -/
def Obligations.PortableVectorMemory : Prop :=
  ∀ (s : State) (h : BitVec 3) (tag b a d : BitVec 5) (o : BitVec 4), h.toNat < 5 → s.MemOk →
    let g := s.focus
    let c := s.coreP g
    let A := (c.xr a.toNat + 128 * o.signExtend 64).toNat
    let xa := c.xr a.toNat
    let xb := c.xr b.toNat
    let qa := c.qr a.toNat
    let qd := c.qr d.toNat
    (badTag tag = false → A < 0x80000 → A % 128 = 0 → ∃ t, exec (.qld h tag o a d) s = .next t ∧
      s.putQ t d ⟨BitVec.ofNat 1024 (s.read (locCore g A) 128), tag⟩ 0) ∧
    (A < 0x80000 → A % 128 = 0 → ∃ t, exec (.qst h o a d) s = .next t ∧ s.putNone t ∧
      t.read (locCore g A) 128 = qd.bits.toNat ∧ s.sameBut t (locCore g A) 128) ∧
    (∀ l, bitsOf xa 28 4 = 0 → strideSet g xa xb = .ok l → ∃ t, exec (.qlds h b a d) s = .next t ∧
      s.putQ t d ⟨BitVec.ofNat 1024 (s.gather (szBytes (bitsOf xa 32 2)) l), 0⟩ 0) ∧
    (∀ l, bitsOf xb 28 4 = 0 → indexSet g xb qa = .ok l →
      let n := szBytes (bitsOf xb 32 2)
      (∃ t, exec (.qgat h b a d) s = .next t ∧ s.putQ t d ⟨BitVec.ofNat 1024 (s.gather n l), 0⟩ 0) ∧
      ∃ t, exec (.qsca h b a d) s = .next t ∧ s.putNone t ∧
        (∀ i, i < l.length → (∀ j, i < j → j < l.length → l[j]? ≠ l[i]?) →
          t.read (l.getD i (0, 0)).1 n = vlane qd (8 * n) i) ∧
        ∀ y, (∀ e ∈ l, y < e.1 ∨ e.1 + n ≤ y) → memGet t.mem y = memGet s.mem y) ∧
    (∀ l, bitsOf xb 28 4 = 0 → maskAddr g xb qa = .ok l → ∃ t, exec (.qmst h b a d) s = .next t ∧ s.putNone t ∧
      (let n := maskSize xb
       ∀ i, i < 128 / n → t.read (l.1 + n * i) n =
         if qa.bits.getLsbD i then vlane qd (8 * n) i else s.read (l.1 + n * i) n) ∧ s.sameBut t l.1 128) ∧
    (badTag tag = true → exec (.qld h tag o a d) s = .next (s.trapP g 0x06 tag.toNat)) ∧
    (badTag tag = false → 0x80000 ≤ A → exec (.qld h tag o a d) s = .next (s.trapP g 0x09 (A % 2 ^ 32))) ∧
    (badTag tag = false → A < 0x80000 → A % 128 ≠ 0 → exec (.qld h tag o a d) s = .next (s.trapP g 0x0A (A % 2 ^ 32))) ∧
    (0x80000 ≤ A → exec (.qst h o a d) s = .next (s.trapP g 0x09 (A % 2 ^ 32))) ∧
    (A < 0x80000 → A % 128 ≠ 0 → exec (.qst h o a d) s = .next (s.trapP g 0x0A (A % 2 ^ 32)))

/-- O40: the tile instructions: clear, class, thresholds, drain, row read, row write, and `mmac` one slice at a time, whose last
slice ends the instruction (R394, R395, R401). -/
def Obligations.PortableTiles : Prop :=
  ∀ (s : State) (h : BitVec 3) (b a d : BitVec 5), h.toNat < 5 →
    let g := s.focus
    let c := s.coreP g
    let w := c.xr b.toNat
    let tiles := fun (T : Tiles) (i : Instr) => ∃ t, exec i s = .next t ∧ (t.coreP g).tiles = T ∧
      t = { s with pcores := t.pcores } ∧ (t.coreP g).x = c.x ∧ (t.coreP g).q = c.q ∧ (t.coreP g).flg = c.flg ∧
      (t.coreP g).pc = (c.pc + 4) % 2 ^ 64
    tiles (c.tiles.clear d.toNat) (.mclr h d) ∧ tiles (c.tiles.setClass (d.toNat / 2) (decide (b = 1))) (.mcls h b d) ∧
    ((c.xr a.toNat).toNat < 2 ^ 32 → w.toNat < 2 ^ 16 →
      tiles { c.tiles with agv := (c.xr a.toNat).setWidth 32, agc := w.setWidth 16 } (.mthr h b a)) ∧
    (bitsOf w 10 2 = 0 → rowDescOk w = true →
      (∃ t, exec (.mrd h b a d) s = .next t ∧ s.putQ t d (c.tiles.loadRow a.toNat w) 0) ∧
      ((c.qr a.toNat).tag = (if w.getLsbD 12 then 0x07 else 0x01) →
        tiles (c.tiles.storeRow d.toNat w (c.qr a.toNat)) (.mwr h b a d))) ∧
    (bitsOf w 10 2 = 0 → drCheck (tileDesc w a.toNat) c.tiles.view = true →
      let y := tileDesc w a.toNat
      let r := c.tiles.drain a.toNat (bitsOf y 12 2) (bitsOf y 0 7) (bitsOf y 7 3) (bitsOf y 14 2) (y.extractLsb' 32 32)
      ∃ t, exec (.mdr h b a d) s = .next t ∧ (t.coreP g).qr d.toNat = r.1 ∧ (t.coreP g).tiles = c.tiles.setRov a.toNat r.2 ∧
        t = { s with pcores := t.pcores } ∧ (t.coreP g).x = c.x) ∧
    (∀ tag, mmacCheck c.tiles d.toNat (c.xr a.toNat) w = .ok tag → c.step1 = false →
      let x := c.xr a.toNat
      let nk := bitsOf x 32 16
      let j := c.slice
      ∃ t, exec (.mmac h b a d) s = .next t ∧ t = { s with pcores := t.pcores } ∧ (t.coreP g).tiles = c.tiles.beat d.toNat
          (s.mmacSlice g (bitsOf x 0 32) 96 tag nk j) (s.mmacSlice g (bitsOf w 0 32) 160 tag nk j)
          (isBni tag && (decide ((j + 1) * depth tag % 128 = 0) || decide (j + 1 = nk))) ∧
        (t.coreP g).mmac = (if j + 1 < nk then some ⟨d.toNat, j + 1, nk⟩ else none) ∧
        (t.coreP g).pc = (if j + 1 = nk then (c.pc + 4) % 2 ^ 64 else c.pc) ∧ (t.coreP g).x = c.x) ∧
    (∀ e, mmacCheck c.tiles d.toNat (c.xr a.toNat) w = .error e → exec (.mmac h b a d) s = .next (s.trapP g e.1 e.2))

/-- O41: the portable synchronisation and system instructions: accepted operands hold the core for the home, or give their
result; refused ones trap (R396 to R400). The trap of a `qpost` whose image lies outside the local buffer is read from R398 (log 14), and
a notification is delivered in the same step by the model's choice (log 32). -/
def Obligations.PortableSync : Prop :=
  ∀ (s : State) (h : BitVec 3) (b a d : BitVec 5) (cond : BitVec 2) (sc : BitVec 3), h.toNat < 5 →
    let g := s.focus
    let c := s.coreP g
    let xa := c.xr a.toNat
    let xb := c.xr b.toNat
    let xd := c.xr d.toNat
    let held := fun (i : Instr) (op : HoldOp) (rd : Nat) (t p q val : Word) (img : List Word) =>
      exec i s = .next (s.heldP op rd t p q val img)
    (∀ img, s.localImage g xa = .ok img →
      held (.tpost h a d) .tpost d.toNat 0 0 0 0 img ∧
      (s.postCheck c.asid false img = true →
        held (.qpost h a d) .post d.toNat 0 0 0 (BitVec.ofNat 64 (bitsOf (img.getD 7 0) 0 16)) img)) ∧
    (0x80000 ≤ xa.toNat → exec (.qpost h a d) s = .next (s.trapP g 0x09 (xa.toNat % 2 ^ 32))) ∧
    (xa.toNat < 2 ^ 16 → s.chanOf xa.toNat c.asid = true →
      (xb.toNat < 2 ^ 48 → held (.twait h b a) .twait 0 xb xa 0 0 []) ∧
      ∃ t, exec (.tstat h a d) s = .next t ∧ s.putX t d (BitVec.ofNat 64 (s.chan xa.toNat).tl)) ∧
    (hbindCheck xa xb xd true = none → held (.hbind h b a d) .hbind d.toNat xa xb xd 0 []) ∧
    (s.hacqCheck c.asid xa (acqDesc cond sc) = none → held (.hacq h b a cond sc) .hacq 0 xa (acqDesc cond sc) xb 0 []) ∧
    (s.hrelCheck c.asid xa (sc.setWidth 64) = none → held (.hrel h b a sc) .hrel 0 xb xa (sc.setWidth 64) 0 []) ∧
    (sc.toNat < 5 → held (.hpub h sc) .hpub 0 (sc.setWidth 64) 0 0 0 [] ∧ held (.hobs h sc) .hobs 0 (sc.setWidth 64) 0 0 0 []) ∧
    (5 ≤ sc.toNat → exec (.hpub h sc) s = .next (s.trapP g 0x01 0) ∧ exec (.hobs h sc) s = .next (s.trapP g 0x01 0)) ∧
    (s.notifyCheck c.asid xa = none → exec (.notify h a) s = .next ((s.notify c.asid xa).advance g)) ∧
    exec (.pmark h a) s = .next ((s.traceRec (dieOf g) (s.nameAt g c.pc) 2 0 c.asid xa).advance g) ∧
    ((s.die (dieOf g)).draws = [] → held (.qrnd h d) .rnd d.toNat 0 0 0 0 []) ∧
    (∀ w l, (s.die (dieOf g)).draws = w :: l → ∃ t, exec (.qrnd h d) s = .next t ∧ (t.die (dieOf g)).draws = l ∧
      (∀ n, (t.coreP g).xr n = if n = d.toNat ∧ n ≠ 0 then w else c.xr n) ∧ (t.coreP g).drawn = c.drawn + 1)

/-- O42: the ends of a portable continuation: `cend` retires it, `csusp` writes it back from the checked image, `cyield` hands
over where a request may be honoured outside every `.suspend` loop and is otherwise no operation (R312, R313, R400). -/
def Obligations.PortableEnds : Prop :=
  ∀ (s : State) (h : BitVec 3) (a : BitVec 5), h.toNat < 5 →
    let g := s.focus
    let c := s.coreP g
    let xa := c.xr a.toNat
    exec (.cend h) s = .next (s.finishCont g .retire) ∧
    (∀ img, xa.toNat < 0x80000 → xa.toNat % 64 = 0 → s.suspImage g c.asid false xa = .ok img →
      exec (.csusp h a) s = .next (s.finishCont g (.back (Rec.ofWords img)))) ∧
    (xa.toNat < 2 ^ 32 → c.mayHonour = true → s.inSpan g = false →
      exec (.cyield h a) s = .next (s.finishCont g (.hand 0xFFFF xa.toNat))) ∧
    (xa.toNat < 2 ^ 32 → c.mayHonour = false ∨ s.inSpan g = true → ∃ t, exec (.cyield h a) s = .next t ∧ s.putNone t) ∧
    (2 ^ 32 ≤ xa.toNat → exec (.cyield h a) s = .next (s.trapP g 0x01 0)) ∧
    -- what leaving means, where nothing has to be written to CARRY
    (isGearC g = false → ∀ s', s.finishCont g .retire = s' → (s'.coreP g).run = .idle ∧ (s'.coreP g).cont = none ∧
      (s'.coreP g).x = File.empty ∧ (s'.coreP g).q = File.empty)

/-! ### Events of a core (R158 to R187) -/

/-- O43: the core clock. BUNDLE_DISPATCH ends with the cycle's moves standing to be issued; RESULT_LAND performs the writes,
lands what is due, and goes to the next clock, counting `k.cad` unless a stop has frozen it, which an asynchronous one does from the next
clock on; LOOP_PASS_END begins the next pass or ends the loop after N + S − 1 passes, which leaves no loop state at all (log 87); USER_INTERRUPT_TAKE saves the bundle's address and goes to `k.uivec` (R158, R163, R165
to R167, R173, R174, R176, R280). That one event ends a cycle, and which slot ends a pass, are the model's reading (log 1, log 15, log
24). -/
def Obligations.CycleEvents : Prop :=
  (∀ (s : State) (g : Nat), (s.coreC (s.leader g)).run = .running → (s.coreC (s.leader g)).phase = .start →
    ∃ t, exec (.bundleDispatch g) s = .next t ∧ (t.coreC (s.leader g)).phase = .issue ∧
      t = ((((s.pollAll (s.members (s.leader g))).freezeAll (s.leader g)).fetchOne (s.leader g)).countStalls (s.leader g)).choose
        (s.leader g)) ∧
  (∀ (s : State) (g : Nat), let c := s.coreC g
    c.group = [] → c.run = .running → c.phase ≠ .start → c.todo = [] → c.ctl = none → c.wnd = [] → c.split = none →
    ∃ t, exec (.resultLand g) s = .next t ∧ (t.coreC g).clk = c.clk + 1 ∧ (t.coreC g).phase = .start ∧ (t.coreC g).pend = [] ∧
      (t.coreC g).cad = (if c.stop.all (fun r => c.began && causeAsync r.cause) = true ∨ (c.step1 = true ∧ c.allFrozen = false)
        then c.cad + 1 else c.cad) ∧
      (∀ n v i, c.pend = [⟨.g n, v, i⟩] → (t.coreC g).regG n = v.word) ∧
      (∀ n v i, c.pend = [⟨.v n, v, i⟩] → (t.coreC g).regV n = v) ∧
      (∀ r : Infl, c.pend = [] → c.infl = [r] → r.land ≤ c.clk → (c.slot r.unit).frz = none → r.hb = false →
        (t.coreC g).flg = c.flg ||| r.fl ∧ (t.coreC g).infl = [] ∧
        (t.coreC g).l = if r.wr then (c.l.put (r.unit + 8) (readLatch c.l 1 r.unit)).put r.unit r.val else c.l)) ∧
  (∀ (s : State) (g : Nat), let lead := s.leader g
    let c := s.coreC lead
    s.passEndDue lead = true → (c.soft = none ∧ c.shift = false) → c.loop.brk = false → exec (.loopPassEnd g) s =
      .next (s.setC lead (if c.loop.pass + 1 = c.loop.n + c.loop.nst
        then { c with loop := LoopSt.none, honour := c.drainFor.or c.honour, drainFor := none }
        else { c with loop := { c.loop with pass := c.loop.pass + 1 }, fetch := c.loop.start }))) ∧
  (∀ (s : State) (g : Nat) (b : Bun), s.interruptDue (s.leader g) = some b → ∃ t, exec (.userInterruptTake g) s = .next t ∧
    ∀ m ∈ s.members (s.leader g), (t.coreC m).inH = true ∧ (t.coreC m).uiepc = BitVec.ofNat 64 b.addr ∧
      (t.coreC m).psave = (s.coreC m).ports) ∧
  (∀ (s : State) (g : Nat) (b : Bun), (s.coreC g).group = [] → s.interruptDue g = some b →
    ∃ t, exec (.userInterruptTake g) s = .next t ∧
    let c := s.coreC g
    let c' := t.coreC g
    c'.uiepc = BitVec.ofNat 64 b.addr ∧ c'.uicause = (c.uq.headD 0 ||| if c.uovf then (1 : Word) <<< 63 else 0) ∧
    c'.uq = c.uq.drop 1 ∧ c'.uovf = false ∧ c'.inH = true ∧ c'.psave = c.ports ∧ c'.fetch = c.uivec.toNat ∧ c'.flg = c.flg)

/-- O44: the matrix engine's own steps: the head of the FIFO is taken when nothing is in flight; a sequence makes its next
beat or drain group; a token returns with its result; a command without a token completes; of the engines that leave idle in two
microseconds, those that are admitted and have still to accept their beat among them, the limiter admits at most 32, and a beat after a gap
leaves idle at its acceptance (R36, R169, R178, R187, R193, R194, R197, R198). A waiting `cld` that comes before the reader at a bank is
shut out. That a beat is a step of its own and which commands are
beats are the model's choice (log 1, log 17, log 66). -/
def Obligations.EngineEvents : Prop :=
  ∀ (s : State) (g : Nat), let e := (s.coreC g).eng
    let mark := fun (c : Cmd) (s : State) =>
      let t := (s.nameSamples g c).modEng g (fun e => { e with asleep := !isBeat c.op && e.inGap s.now, woken := e.woken && !isBeat c.op })
      if isBeat c.op = true ∧ e.inGap s.now = true then t.leftIdle else t
    (∀ c l, e.canTake s.now = true → e.fifo = c :: l → s.readerLoses g c.reads = false → c.op ≠ .seq → exec (.engineConsume g) s =
      .next (((mark c s).modEng g (fun e => { e with fifo := l, cur := some c, out := none })).meEffect g c)) ∧
    (∀ c l, e.canTake s.now = true → e.fifo = c :: l → s.readerLoses g c.reads = false → c.op = .seq → exec (.engineConsume g) s =
      .next ((mark c s).modEng g (fun e => { e with seq := some ⟨bitsOf c.t 16 16, 0, 0, false, false, 0⟩ }))) ∧
    -- what waits for the banks is not taken
    (∀ c l, e.fifo = c :: l → s.readerLoses g c.reads = true → exec (.engineConsume g) s = .next s) ∧
    (∀ q c l, e.seq = some q → e.fifo = c :: l → e.quiet = false → e.needsAdmit s.now = false → s.seqLoses g c q = false →
      q.drain = false → q.quit = false → q.j + 1 < bitsOf c.t 16 16 + bitsOf c.t 0 16 → exec (.sequencerStep g) s =
        .next (((s.seqWake g).seqBeat g c q).modEng g (fun e => { e with seq := some { q with j := q.j + 1, ph := 0 } }))) ∧
    -- a resumed sequence's engine leaves idle at that beat
    (e.asleep = true → e.draining = false → s.seqWake g = (s.modEng g (fun e => { e with asleep := false, woken := false })).leftIdle) ∧
    (e.asleep = false → s.seqWake g = s) ∧
    (e.needsAdmit s.now = true → exec (.sequencerStep g) s = .next s) ∧
    (∀ q c l, e.seq = some q → e.fifo = c :: l → e.quiet = false → s.seqLoses g c q = false → q.drain = true → q.quit = false → q.cg < 4 →
      q.row < 96 → exec (.sequencerStep g) s =
        .next ((s.seqDrain g c q).modEng g (fun e => { e with seq := some { q with cg := q.cg + 1 } }))) ∧
    (∀ c, e.sqs = [] → e.cur = some c → c.tok = true → ∃ t, exec (.tokenReturn g) s = .next t ∧
      (t.coreC g).eng.iss = e.iss - 1 ∧ (t.coreC g).eng.ret = min 65535 (e.ret + 1) ∧ (t.coreC g).eng.cur = none ∧
      -- the result lands at the end of the cycle, in the latches of the command's own program or handler
      (t.coreC g).l = (s.coreC g).l ∧ (t.coreC g).l2 = (s.coreC g).l2 ∧
      (t.coreC g).infl = match e.out with
        | some v => (s.coreC g).infl ++ [⟨4, (s.coreC g).clk, 0, v, 0, true, c.hb⟩]
        | none => (s.coreC g).infl) ∧
    (∀ r w hb rest, e.sqs = ⟨0, r, some w, false, hb⟩ :: rest → ∃ t, exec (.tokenReturn g) s = .next t ∧
      (t.coreC g).eng.sqs = rest ∧ (t.coreC g).eng.ret = min 65535 (e.ret + 1) ∧ (t.coreC g).eng.cur = e.cur ∧
      (t.coreC g).infl = (s.coreC g).infl ++ [⟨4, (s.coreC g).clk, 0, TVal.ofWord w, 0, true, hb⟩]) ∧
    -- what returned in a cycle lands in the order of return, each into the head of l4
    (∀ (c : CoreC) (frz : Nat → Option Nat) (v : TVal) (hb : Bool), c.infl = [⟨4, c.clk, 0, v, 0, true, hb⟩] →
      readLatch (if hb then (c.landAll frz).l2 else (c.landAll frz).l) (if hb then 2 else 1) 4 = v ∧
        (c.landAll frz).infl = [] ∧ (c.landAll frz).col = c.col) ∧
    (∀ (c : CoreC) (frz : Nat → Option Nat) (v w : TVal), c.infl = [⟨4, c.clk, 0, v, 0, true, false⟩, ⟨4, c.clk, 0, w, 0, true, false⟩] →
      readLatch (c.landAll frz).l 1 4 = w ∧ readLatch (c.landAll frz).l 1 12 = v ∧ (c.landAll frz).col = c.col ||| 0x10) ∧
    -- a push that a sequence has generated
    (∀ q c l, e.cur = none → e.seq = some q → e.fifo = c :: l → e.quiet = false → q.drain = false → q.ph < 2 → e.needsAdmit s.now = false →
      s.readerLoses g (if q.ph = 0 then q.readsA c else q.readsB c) = false →
      exec (.commandInFlightComplete g) s = .next ((if q.ph = 0 then (s.seqWake g).seqPushA g c q else s.seqPushB g c q).modEng g
        (fun e => { e with seq := some { q with ph := q.ph + 1 } }))) ∧
    (∀ c, e.cur = some c → c.tok = false → ∃ t, exec (.commandInFlightComplete g) s = .next t ∧
      (t.coreC g).eng.cur = none ∧ (t.coreC g).eng.iss = e.iss ∧ (t.coreC g).eng.ret = e.ret ∧ (t.coreC g).l = (s.coreC g).l) ∧
    let out := (s.wakes.filter (fun t => s.now < t + 2000)).length + (s.cores.filter (fun p => p.2.eng.woken)).length
    (e.needsAdmit s.now = true → out < 32 →
      (∀ p ∈ s.cores, p.2.eng.needsAdmit s.now = true →
        e.since < p.2.eng.since ∨ (e.since = p.2.eng.since ∧ g ≤ p.1)) →
      exec (.engineWakeAdmit g) s = .next (s.modEng g (fun e => { e with woken := true }))) ∧
    (32 ≤ out → exec (.engineWakeAdmit g) s = .next s)

/-- O45: the ends of held accesses: the grant of a `cld`, the drain of the oldest staged line, the expiry of a read line,
timelines and hasps, publication and binding (R140 to R143, R146, R149, R169, R227, R246, R370). What an acquire discards is the
model's reading (log 31); that the event comes from the agenda, that a binding whose hasp does not translate is tried once more, how many
entries firmware's operand gives a table, and which source a bank has as its last winner, are its choices (log 1, log 33, log 35, log
29). -/
def Obligations.ReleaseEvents : Prop :=
  ∀ (s : State) (g : Nat) (h : Hold),
    (((s.coreC g).slot 5).hold = some h → h.op = .cld →
      let r := s.cldTakes g h (s.cldWins g h)
      exec (.clusterGrant g) s = .next (if r.1.cldWants = [] then (r.2.cldDone g 5 h.idx r.1.img h.k).release g 5
        else r.2.setC g { r.2.coreC g with slots := (r.2.coreC g).slots.modify 5 (fun q => { q with hold := some r.1 }) })) ∧
    -- with no other `cld` of the cluster waiting, both lines are granted and the hold ends
    (((s.coreC g).slot 5).hold = some h → h.op = .cld → h.st = 0 →
      (∀ m, m / 4 = clusterOf g → m ≠ g → ((s.coreC m).slot 5).hold = none) →
      let r := s.cldTakes g h [0, 1]
      r.1.cldWants = [] ∧ exec (.clusterGrant g) s = .next ((r.2.cldDone g 5 h.idx r.1.img h.k).release g 5)) ∧
    (∀ l w, (s.coreC g).wst = l :: w → s.cldFirst (clusterOf g) (srcLs g) [l.addr] = true → exec (.writeStagingDrain g) s = .next s) ∧
    (∀ l w, (s.coreC g).wst = l :: w → s.cldFirst (clusterOf g) (srcLs g) [l.addr] = false → exec (.writeStagingDrain g) s =
      .next (((((s.meetMem (some g) [(locClus (clusterOf g) l.addr, 64)]).write (locClus (clusterOf g) l.addr) l.data.toNat 64).won
        (clusterOf g) l.addr (srcLs g)).modC g (fun c => { c with wst := w })).settle g)) ∧
    (∀ line, exec (.readStagingExpire g line) s =
      .next (s.modC g (fun c => { c with rst := c.rst.filter (fun l => l.addr ≠ line) }))) ∧
    (s.heldAs g = some h →
      (h.op = .twait → ∀ tl, (s.chan h.a.word.toNat).tl = tl → reached tl h.t.word.toNat = true →
        let top := tl - (tl % 2 ^ 48 + 2 ^ 48 - h.t.word.toNat % 2 ^ 48) % 2 ^ 48
        (s.coveredFault (s.asidOf g) h.a.word.toNat top = none →
          exec (.twaitRelease g) s = .next ((s.acquireTo g h.a.word.toNat top).answer g none)) ∧
        (∀ f, s.coveredFault (s.asidOf g) h.a.word.toNat top = some f → exec (.twaitRelease g) s =
          .next ((s.modChan h.a.word.toNat (fun c => { c with pending := false })).stopHeld g 0x20
            (faultDetail h.a.word.toNat f)))) ∧
      (h.op = .twait → reached (s.chan h.a.word.toNat).tl h.t.word.toNat = false → exec (.twaitRelease g) s = .next s) ∧
      (h.op = .hacq → ∀ e, s.hasp (s.asidOf g) h.t.word.toNat = some e →
        haspCond (bitsOf h.a.word 4 2) (BitVec.ofNat 64 (s.read e.loc 8)) h.b.word = true → s.badMet (fun b => b.hit (e.loc, 8)) = [] →
        (s.stages g 1 [(e.loc, 8)] = false → exec (.hacqRelease g) s =
          .next ((s.dropCopies g (bitsOf h.a.word 0 3) ((e.loc, 8) :: s.boundLocs (dieOf g) e)).answer g none)) ∧
        -- it does not return past the core's own write of the word
        (s.stages g 1 [(e.loc, 8)] = true → exec (.hacqRelease g) s = .next s)) ∧
      (h.op = .hrel → ∀ e, s.hasp (s.asidOf g) h.a.word.toNat = some e →
        -- a word in a shut scratchpad waits for the shutter
        (s.covers g h.b.word.toNat e = true ∨ s.stages g 1 [(e.loc, 8)] = true ∨ s.shutAt e.loc = true →
          exec (.hrelDone g) s = .next s) ∧
        (s.covers g h.b.word.toNat e = false → s.stages g 1 [(e.loc, 8)] = false → s.shutAt e.loc = false →
          s.badMet (fun b => b.hit (e.loc, 8)) = [] →
          exec (.hrelDone g) s = .next (((s.writeHasp (dieOf g) e h.t.word).dropCopies g 0 [(e.loc, 8)]).answer g none))) ∧
      (h.op = .hpub → s.published g h.t.word.toNat = false → exec (.hpubDone g) s = .next s) ∧
      (h.op = .hpub → s.published g h.t.word.toNat = true → exec (.hpubDone g) s = .next (s.answer g none)) ∧
      (h.op = .hobs → exec (.hpubDone g) s = .next ((s.observe g h.t.word.toNat).answer g none)) ∧
      (h.op = .hbind → ∀ sram f s', s.haspLoc g h.t.word = (.error f, s') →
        exec (.hbindDone g sram) s = .next (if f = 0x08 then s' else if h.st = 0 then s'.holdSt g 1
          else s'.answer g (some (haspStatus 2 0 0)))) ∧
      (h.op = .hbind → ∀ sram loc d s', s.haspLoc g h.t.word = (.ok (loc, d), s') →
        (∀ D i e, s'.findHasp (s'.asidOf g) loc = some (D, i, e) → exec (.hbindDone g sram) s =
          .next ((s'.setDie D { s'.die D with hasps := Tab.put (s'.die D).hasps i (e.bind h.a.word h.b.word.toNat g) }).answer g
            (some (haspStatus 0 D i)))) ∧
        (s'.findHasp (s'.asidOf g) loc = none → lowestFree (s'.die d).hasps (if sram then 16384 else 278528) = none →
          exec (.hbindDone g sram) s = .next (s'.answer g (some (haspStatus 1 0 0)))) ∧
        (∀ i, s'.findHasp (s'.asidOf g) loc = none →
          lowestFree (s'.die d).hasps (if sram then 16384 else 278528) = some i →
          let e : HaspEnt := ⟨s'.asidOf g, h.t.word, g, loc, []⟩
          exec (.hbindDone g sram) s = .next ((s'.setDie d { s'.die d with
            hasps := Tab.put (s'.die d).hasps i (e.bind h.a.word h.b.word.toNat g) }).answer g (some (haspStatus 0 d i))))))

/-- O46: the ends of the other held operations: barriers, claims, posts, entropy, tandems, the SAE and instruction caches
(R309, R310, R363, R367, R368, R375, R378, R380, R382). The order inside an SAE window and the second attempt of a `tpost` are the
model's (log 1, log 33, log 37), and so is what becomes of pending requests at a `fuse` (log 100). -/
def Obligations.MoreReleaseEvents : Prop :=
  (∀ (s : State) (g : Nat) (h : Hold), s.heldAs g = some h →
    (h.op = .bwait → ∀ b, s.barrierAt (h.t.word.toNat % 2 ^ 32) = some b →
      exec (.bwaitRelease g) s = .next (if (b.gen - h.t.word.extractLsb' 32 32).toNat < 2 ^ 31
        then (s.observe g b.sc).answer g none else s)) ∧
    (h.op = .balloc → lowestFree (s.die (dieOf g)).barriers 4096 = none → exec (.ballocDone g) s = .next (s.answer g (some 0))) ∧
    (h.op = .balloc → ∀ i, lowestFree (s.die (dieOf g)).barriers 4096 = some i → ∃ b t', exec (.ballocDone g) s = .next t' ∧
      b.n = h.t.word.toNat % 2 ^ 16 ∧ b.arr = 0 ∧ b.gen = 0 ∧ b.sc = bitsOf h.t.word 16 3 ∧ b.asid = s.asidOf g ∧
      Tab.find (t'.die (dieOf g)).barriers i = some b) ∧
    (h.op = .post → h.st = 0 → (isGearC g = true → s.windowPending g = []) → ∀ l s',
      s.engPieces (engOf h.val.toNat) (s.chan h.val.toNat).asid (s.chan h.val.toNat).widx 8 .write = (.ok l, s') →
      let ch := h.val.toNat
      let i := s'.readLocs l
      let u := s'.pieceWrite (engOf ch / 8) ((i + 1) % 2 ^ 64) l
      let grp := ((u.taskOf g).bind u.task).map Task.grp
      let land := fun (v : State) => exec (.postClaim g) s = .next ((v.answer g (some (BitVec.ofNat 64 (i + 1)))).settleClose ch)
      ((u.chan ch).valid = true →
        land ((u.modChan ch (fun c => { c with claims := c.claims ++ [⟨i, h.img, g, grp⟩] })).fillSlots ch 1)) ∧
      -- an aborted queue completes the index too, with 0x07 (R383); of one that is closing, no packet fills it
      ((u.chan ch).valid = false → (u.chan ch).aborted = true →
        land (u.modChan ch (fun c => { c with closing := c.closing.map (fun w => max w (i + 1)) }))) ∧
      ((u.chan ch).valid = false → (u.chan ch).aborted = false → land u)) ∧
    (h.op = .post → h.st = 0 → (isGearC g = true → s.windowPending g = []) → ∀ f s',
      s.engPieces (engOf h.val.toNat) (s.chan h.val.toNat).asid (s.chan h.val.toNat).widx 8 .write = (.error f, s') →
      exec (.postClaim g) s = .next (s'.claimFault g h.val.toNat f)) ∧
    -- a claim that has faulted waits until its fault is resolved
    (h.op = .post → h.st ≠ 0 → exec (.postClaim g) s = .next s) ∧
    -- a KEY that does not translate is tried once more (log 33)
    (h.op = .tpost → let r := s.postRec g (Rec.ofWords h.img)
      exec (.tpostDone g) s = .next (if r.1 = 2 ∧ h.st = 0 then r.2.holdSt g 1
        else r.2.answer g (some (if r.1 = 0 then 1 else BitVec.ofNat 64 (r.1 <<< 8))))) ∧
    (h.op = .icinv → exec (.icacheDiscardDone g) s = .next
      (((s.discardCode (dieOf g) (s.asidOf g) h.a.word.toNat h.t.word.toNat).refetch g h.idx).answer g none))) ∧
  (∀ (s : State) (d : Nat) (w : Word), (s.wantsDraw d = [] → exec (.entropyReady d w) s =
      .next (s.setDie d { s.die d with draws := (s.die d).draws ++ [w] })) ∧
    (∀ g l, s.wantsDraw d = g :: l → isGearC g = true → exec (.entropyReady d w) s =
      .next ((s.modC g (fun c => { c with drawn := c.drawn + 1 })).answer g (some w)))) ∧
  (∀ (s : State) (g : Nat), let c := s.coreC g
    c.group ≠ [] → c.dec = true → (∀ m ∈ c.group, (s.coreC m).waitsAt .rejoin = true) →
    ((∀ m ∈ c.group, rejoinAddr (s.coreC m) = rejoinAddr (s.coreC c.lead)) → ∃ t, exec (.rejoinRelease g) s = .next t ∧
      ∀ m ∈ c.group, (t.coreC m).dec = false ∧ (t.coreC m).fetch = (rejoinAddr (s.coreC c.lead) + 32) % 2 ^ 48 ∧
        (t.coreC m).win = [] ∧ (t.coreC m).g = (s.coreC m).g ∧ (t.coreC m).v = (s.coreC m).v) ∧
    -- every member at another address than lane 0's traps
    (let bad := c.group.filter (fun m => decide (rejoinAddr (s.coreC m) ≠ rejoinAddr (s.coreC c.lead)))
     bad ≠ [] → exec (.rejoinRelease g) s = .next (bad.foldl State.rejoinTrap s))) ∧
  (∀ (s : State) (g : Nat) (h : Hold), let c := s.coreC g
    let w := 2 ^ h.t.word.toNat
    (c.slot 6).hold = some h → c.waitsAt .fuse = true → c.group = [] →
    (∀ m, g / w * w ≤ m → m < g / w * w + w → m ≠ g → s.vacant m = true) → ∃ t, exec (.fuseRelease g) s = .next t ∧
      ∀ i, i < w → (t.coreC (g / w * w + i)).run = .running ∧ (t.coreC (g / w * w + i)).lane = i ∧
        (t.coreC (g / w * w + i)).cad = 0 ∧ (t.coreC (g / w * w + i)).prof = [] ∧ (t.coreC (g / w * w + i)).uq = [] ∧
        (t.coreC (g / w * w + i)).lead = g / w * w ∧ (t.coreC (g / w * w + i)).fetch = (c.addrOf h.idx + 32) % 2 ^ 48) ∧
  (∀ (s : State) (c n : Nat), let q := (s.cluster c).queue
    let w := q.take n
    w ≠ [] → n ≤ q.length → (w.map (fun t => t.ops.length)).sum ≤ 64 →
    (∀ t ∈ w, ∀ l ∈ (s.coreC t.core).wst, t.at_ < l.at_) → s.cldFirst c srcSae (saeLines (saeWindow w)) = false →
    exec (.saeApply c n) s = .next ((((w.map SaeTrig.core).dedup).foldl State.settleAny
        ((saeWindow w).foldl (fun s x => s.saeOne c x) (s.setCluster c { s.cluster c with queue := q.drop n }))).saeWake c))

/-! ### Stops, exceptions, scheduling (R90 to R133, R173, R223 to R244) -/

/-- O47: taking an exception on gear C: when every slot stands, the core stops with `k.epc` at the stopping bundle, the slots'
lead in `k.slip` and the cause in `k.cause`, and the engine quiet (R173, R195, R223). That a core stands before it stops is
read from R173 and R223 (log 1, log 11). -/
def Obligations.StopEntry : Prop :=
  ∀ (s : State) (g : Nat) (r : StopReq), let c := s.coreC g
    isGearC g = true → c.group = [] → c.run = .running → c.phase = .start → c.stop = some r → c.allFrozen = true →
    c.infl = [] → c.wnd = [] → c.eng.cur = none → c.eng.seq = none → c.eng.sqs = [] → c.mine = none →
    -- a breakpoint that stands at the same E is the stop's cause (R225)
    let r := s.breakBeside g r
    let t := s.standStill g r
    (t.coreC g).run = .stopped ∧ (t.coreC g).epc = BitVec.ofNat 64 (c.addrOf r.idx) ∧
    (t.coreC g).slip = slipWord (s.standsAt g) r.idx ∧ (r.who = none ∨ r.who = some g → (t.coreC g).cause = r.cause) ∧
    (t.coreC g).eng.quiet = true ∧ (t.coreC g).g = c.g ∧ (t.coreC g).v = c.v ∧ (t.coreC g).p = c.p ∧ (t.coreC g).l = c.l ∧
    (t.coreC g).ports = c.ports ∧ t.mem = s.mem ∧
    exec (.stop g) s = .next (((((t.modC g (fun c => { c with step1 := false })).publish g).dispose (r.who.getD g)
      (((t.modC g (fun c => { c with step1 := false })).publish g).coreC (r.who.getD g)).cause r.also).idleBlocks
        (((t.modC g (fun c => { c with step1 := false })).publish g).groupOf g)))

/-- O48: the asynchronous causes: watchdog, pre-emption deadline, soft pre-emption, a shift that is due, soft errors, breakpoints; a
portable stop; hand-over; resume (R126, R127, R129, R174, R224, R228 to R230, R244). Events come from the agenda (log 1);
where a request may be honoured on gears S and M is the model's reading (log 10, log 11), and so is the granularity of a soft error
(log 76). -/
def Obligations.StopEvents : Prop :=
  ∀ (s : State) (g : Nat),
    (let wdt := bitsOf (s.limitOf (s.asidOf g)) 32 16
     let at_ := if isGearC g then (s.coreC (s.leader g)).issAt else (s.coreP g).issAt
     exec (.watchdog g) s = .next (if s.runOf g = .running ∧ wdt ≠ 0 ∧ at_ + 1000000 * wdt ≤ s.now then s.asyncStop g 0x22 0 else s)) ∧
    (let dl := bitsOf (s.limitOf (s.asidOf g)) 0 20
     ∀ t, (if isGearC g then (s.coreC g).soft else (s.coreP g).soft) = some t → s.runOf g = .running →
      t + 1000 * (if dl = 0 then 200 else dl) ≤ s.now → exec (.preemptionDeadline g) s =
        .next (if s.honouring g then s else s.asyncStop g 0x30 0)) ∧
    (s.runOf g = .running → exec (.softPreemption g) s = .next ((s.askSoft g).countPart (s.asidOf g) 0x0503)) ∧
    (∀ tid x, s.taskOf g = some tid → s.task tid = some x → s.runOf g = .running → x.asked = true → s.wouldShift g = true →
      exec (.shiftRequest g) s =
        .next (((s.setTask tid { x with asked := false }).askShift g).countPart (s.asidOf g) 0x0502)) ∧
    (∀ k idx, k = 3 ∨ (k = 7 ∧ g < 2 ^ 16) → s.runOf g = .running →
      exec (.sramError k idx g false) s = .next (s.ownStop g 0x21 ((k <<< 40) + idx % 2 ^ 40))) ∧
    (∀ k idx, k = 1 ∨ k = 2 ∨ k = 4 → exec (.sramError k idx g false) s = .next (s.putBad k g idx)) ∧
    -- the access that meets an uncorrectable word of a core's own structure stops the core
    (∀ (b : BadWord) who hit, s.bad = [b] → b.met = none → hit b = true → b.code ≠ 2 → s.runOf b.unit = .running →
      s.meetBad who hit = ({ s with bad := [{ b with met := some s.now }] } : State).ownStop b.unit 0x21
        ((b.code <<< 40) + b.idx % 2 ^ 40)) ∧
    (∀ idx, isGearC g = true → s.breakpointDue g = some (idx, false) → ∃ t, exec (.breakpoint g) s = .next t ∧
      ((s.coreC (s.leader g)).stop = none → ∃ r, (t.coreC (s.leader g)).stop = some r ∧ r.idx = idx ∧
        r.cause = causeWord false 0 0x0C 0)) ∧
    (isGearC g = false → s.breakpointDue g = some (0, false) → exec (.breakpoint g) s = .next (s.trapP g 0x0C 0)) ∧
    (s.cadenceDue g = true → exec (.cadenceBreakpoint g) s =
      .next ((s.asyncStop g 0x31 0).modBlock g (fun b => { b with cen := false }))) ∧
    (isGearC g = false → ∀ x w also, (s.coreP g).stop = some x → s.breakBesideP g x = (w, also) → (s.coreP g).run = .running →
      (s.coreP g).mayStop = true → exec (.stop g) s = .next (((s.modP g (fun c => { c with
        run := .stopped, stop := none, hold := none, again := c.hold.isSome, cause := w, arrived := false, step1 := false
        stall := s.now - c.issAt })).dispose g w also).idleBlocks [g])) ∧
    (isGearC g = false → ∀ l i, s.boundary g = some (l, i) → exec (.handOver g) s = .next (s.finishCont g (.hand l i))) ∧
    (isGearC g = true → ∀ m, s.endsNow (s.leader g) = some m → exec (.handOver g) s = .next
      ((s.finishCont (s.leader g) m).endWithCause (s.asidOf (s.leader g)) (s.leader g) (s.coreC (s.leader g)))) ∧
    (∀ p tid t x grp s', s.pick p g = (some (tid, t), s') → t.ctx = some x → s.coresFor p g t = some grp →
      exec (.resume p g) s = .next (s'.resumeOn tid t x grp))

/-- O49: the scheduler: an evaluation moves a record to the partition of another gear and leaves it where its KEY faults; a pick is
dispatched on its cores; a waiting record whose timeline has come becomes runnable; gathering and pre-emption; launch groups (R56, R92
to R112, R126). The place of a record in its ring and the record with a faulting KEY are the model's reading (log 30, log 33, log
61). -/
def Obligations.SchedulerEvents : Prop :=
  (∀ (s s' : State) (t : Nat) (x : Task), s.task t = some x → x.st ≠ .running → x.ctx = none →
    (∀ pl, s.place x.r x.pdie x.hint = (.ok pl, s') → exec (.derailleurReevaluate t) s =
      .next (if x.late then s'.moveTask t { x with late := false } pl
        else if partGear pl.part = partGear x.part then s'.setTask t { x with adm := pl.adm, tier := pl.tier, pdie := pl.die }
        else s'.moveTask t x pl)) ∧
    (∀ f, s.place x.r x.pdie x.hint = (.error f, s') → exec (.derailleurReevaluate t) s = .next s')) ∧
  (∀ (s : State) (t : Nat) (x : Task), s.task t = some x → x.st = .waiting → reached (s.chan x.r.wch).tl x.r.wtgt = true →
    exec (.recordWake t) s = .next ((s.setTask t { x with
      st := .runnable, since := s.now, pause := s.now, order := s.nextOrder, acq := some (s.chan x.r.wch).tl }).reevaluate t)) ∧
  (∀ (s s' : State) (p g tid : Nat) (t : Task) (grp : List Nat), s.pick p g = (some (tid, t), s') → t.ctx = none →
    s.coresFor p g t = some grp → exec (.dispatch p g) s = .next (s'.launchOn tid t grp)) ∧
  (∀ (s : State) (p : Nat), (s.part p).gather = none → p < 32 → ∀ x,
    oldest ((s.gatherers p).filter (fun t => t.2.eff s.now = (s.gatherers p).foldl (fun m t => max m (t.2.eff s.now)) 0)) = some x →
    exec (.gatherStart p) s = .next (s.setPart p { s.part p with gather := some (x.1, s.now, false) })) ∧
  (∀ (s : State) (p tid a : Nat) (t : Task), (s.part p).gather = some (tid, a, false) → s.task tid = some t → a + 1000000 ≤ s.now →
    ∃ u, exec (.gatherPreempt p) s = .next u ∧ (u.part p).gather = some (tid, a, true)) ∧
  (∀ (s : State) (p g : Nat) (x : Task), (∃ t ∈ s.tasks, s.eligibleIn p t.1 t.2 = true ∧ t.2.eff s.now = 7 ∧
      ∃ at_, Tab.find (s.part p).full t.1 = some at_ ∧ at_ + 20000 ≤ s.now) →
    (∀ c ∈ partCores p, s.idleCore c = false) → s.runningIn p = [(g, x)] →
    exec (.level7Preempt p) s = .next ((s.askSoft g).countPart x.r.asid 0x0503)) ∧
  (∀ (s : State) (ch : Nat) (p : Pkt),
    (s.chan ch).pkts.find? (fun p => decide (p.op = 0x09) && p.group.isSome && !p.done && p.fault.isNone) = some p →
    exec (.taskSlotGranted ch) s = .next (s.launchMore ch p)) ∧
  (∀ (s s' : State) (grp : Nat) (g : Group) (p : Pkt), Tab.find s.grps grp = some g → s.groupBusy grp g = false →
    s.pkt g.ch g.n = some p → p.group = some grp → p.done = false → p.fault = none →
    (∀ code, s.groupWord g.ch p = (some code, s') → exec (.launchGroupComplete grp) s =
      .next { s'.pktDone g.ch g.n code with grps := Tab.del (s'.pktDone g.ch g.n code).grps grp }) ∧
    -- a completion word in a window whose core runs no tandem
    (p.w 2 ≠ 0 → s.windowGone p 2 = true → exec (.launchGroupComplete grp) s =
      .next { s.pktDone g.ch g.n 0x05 with grps := Tab.del (s.pktDone g.ch g.n 0x05).grps grp }))

/-! ### Queues, packets, peers, translation, host (R44 to R89, R437) -/

/-- O50: queues. A creation whose fields are legal and whose memory translates opens the channel with VALID 1, ERR 0, RIDX and TL 0 and
w0 = 0x4000 in every ring slot; an illegal one sets ERR and leaves VALID. A close clears VALID and takes no further index; an abort
completes every index with 0x07, clears VALID and frees the channel. TAKE_PACKET takes the slot whose phase and CRC match, or notes
since when a CRC fails, until its time limit; the head packet that meets every condition completes (R47 to R54, R62, R64). An abort
completes its packets in one step (log 44), RIDX stays after a close (log 13), a packet that ends with 0x05 only enters the timeline, as
R62 says of malformed ones (log 39), and when a queue's illegal fields set ERR is the model's choice (log 85). -/
def Obligations.QueueEvents : Prop :=
  (∀ (s : State) (fn i ch : Nat), s.descValid fn i = false → s.descChan fn i = some ch →
    let e := engOf ch
    let asid := s.descAsid fn i
    let log := bitsOf (s.descWord fn i 5) 0 5
    let ring := bitsOf (s.descWord fn i 0) 0 54
    let widx := bitsOf (s.descWord fn i 1) 0 54
    let stat := bitsOf (s.descWord fn i 3) 0 54
    ((s.chan ch).owner = none → (fn = 0 → s.boundChan ch = false) → 6 ≤ log → log ≤ 16 → ∀ rp wp sp s1 s2 s3,
      s.engPieces e asid ring (64 * 2 ^ log) .write = (.ok rp, s1) → s1.engPieces e asid widx 64 .write = (.ok wp, s2) →
      s2.engPieces e asid stat (8 * 2 ^ log) .write = (.ok sp, s3) → ∃ t, exec (.queueCreate fn i) s = .next t ∧
        t.descValid fn i = true ∧ (t.descWord fn i 6).getLsbD 1 = false ∧ (t.chan ch).valid = true ∧ (t.chan ch).owner = some (fn, i) ∧
        (t.chan ch).ridx = 0 ∧ (t.chan ch).tl = 0 ∧ (t.chan ch).ring = ring ∧ (t.chan ch).widx = widx ∧ (t.chan ch).stat = stat ∧
        (t.chan ch).asid = asid ∧
        t.mem = ((s3.pieceWrite (e / 8) (ringInit log) rp).pieceWrite (e / 8) 0 ((wp.take 1).map (fun q => (q.1, 8)))).mem) ∧
    ((s.chan ch).owner ≠ none ∨ (fn = 0 ∧ s.boundChan ch = true) ∨ log < 6 ∨ 16 < log →
      ∃ t, exec (.queueCreate fn i) s = .next t ∧ t = { s with qdesc := t.qdesc } ∧ t.descValid fn i = false ∧
        (t.descWord fn i 6).getLsbD 1 = true)) ∧
  (∀ (log j : Nat), j < 2 ^ log → ringInit log / 2 ^ (512 * j) % 2 ^ 512 = 0x4000) ∧
  (∀ (s : State) (fn i ch : Nat), s.descValid fn i = true →
    s.chans.find? (fun c => decide (c.2.owner = some (fn, i))) = some (ch, s.chan ch) → (s.chan ch).closing = none →
    ∃ t, exec (.queueClose fn i) s = .next t ∧ t.descValid fn i = false ∧ (t.chan ch).valid = false ∧
      (t.chan ch).claims = [] ∧ (t.chan ch).tl = (s.chan ch).tl ∧ (t.chan ch).ridx = (s.chan ch).ridx) ∧
  (∀ (s : State) (ch fn i : Nat), (s.chan ch).owner = some (fn, i) →
    let u := ((s.abortMoves ch).modChan ch (fun c => { c with
      closing := some (c.closing.getD c.ridx), unread := c.unread || c.closing.isNone, claims := [], aborted := true
      parked := if c.halted then none else c.parked, pkts := c.pkts.map abortPkt })).closeRead ch
    exec (.queueAbort ch) s =
      .next ((u.completeAll ch (((u.chan ch).closing.getD 0) - (u.chan ch).tl + 1)).settleClose ch) ∧
    -- where nothing is left to complete and no `post` holds for its claim, the channel is free at once
    ((s.chan ch).pkts = [] → (s.chan ch).closing = none → (s.chan ch).parked = none → s.claimHeld ch = [] →
      ∀ w s1, (s.modChan ch (fun c => { c with
        closing := some c.ridx, unread := true, claims := [], aborted := true, pkts := [] })).feRead ch (s.chan ch).widx 8 = (.ok w, s1) →
      w ≤ (s.chan ch).tl → (s.chan ch).ridx ≤ (s.chan ch).tl → ∃ t, exec (.queueAbort ch) s = .next t ∧ (t.chan ch).owner = none ∧
        t.descValid fn i = false ∧ (t.chan ch).tl = (s.chan ch).tl)) ∧
  -- every packet that has been taken then ends with 0x07, but for a malformed one and a move that has begun its retag
  (∀ p : Pkt, p.bad = false → ¬(p.done = true ∧ p.code = 0x05) → ¬((p.op = 0x07 ∨ p.op = 0x08) ∧ p.phase = 2 ∧ p.done = false) →
    (abortPkt p).done = true ∧ (abortPkt p).code = 0x07 ∧ (abortPkt p).complete = true) ∧
  (∀ (s s1 s2 : State) (ch w x : Nat), let c := s.chan ch
    let ws := toWords x 8
    c.valid = true → c.parked = none → c.halted = false → s.feRead ch c.widx 8 = (.ok w, s1) → c.ridx < w →
    s1.feRead ch (c.slotVa c.ridx) 64 = (.ok x, s2) → bitsOf (ws.getD 0 0) 14 1 = c.parity c.ridx →
    let take := fun (lost : Bool) =>
      let p := s2.mkPkt ch (s2.chan ch).ridx ws lost
      let u := (s2.meetList p).modChan ch (fun c => { c with
        ridx := (s2.chan ch).ridx + 1, matched := none, pkts := c.pkts ++ [p], posters := Tab.del c.posters (s2.chan ch).ridx })
      u.fillSlots ch (u.chan ch).claims.length
    (bitsOf (ws.getD 7 0) 32 32 = (pktCrc ws).toNat → exec (.takePacket ch) s = .next (take false)) ∧
    (bitsOf (ws.getD 7 0) 32 32 ≠ (pktCrc ws).toNat →
      (∃ t, exec (.takePacket ch) s = .next t ∧ (t.chan ch).matched = some ((s2.chan ch).matched.getD s2.now) ∧
        (t.chan ch).ridx = (s2.chan ch).ridx) ∧
      (∀ t, (s2.chan ch).matched = some t → t + 100000 ≤ s2.now → exec (.packetCrcTimeout ch) s = .next (take true)))) ∧
  (∀ (s s1 : State) (ch : Nat) (p : Pkt) (rest : List Pkt), let c := s.chan ch
    c.unread = false → c.parked = none → c.pkts = p :: rest → p.complete = true →
    s.feWrite ch (c.statVa p.n) (statusWord p.n p.op p.code) 8 = (.ok (), s1) →
    exec (.packetComplete ch) s = .next (s.completeHead ch p) ∧
    -- a malformed packet, or one that ends with 0x05, only enters the timeline
    (p.bad = true ∨ p.code = 0x05 → c.closing = none → p.group = none → ∃ t, exec (.packetComplete ch) s = .next t ∧
      (t.chan ch).tl = p.n ∧ (t.chan ch).pkts = (s1.chan ch).pkts.filter (fun q => q.n ≠ p.n)))

/-- O51: a binding word of a VF (R437): zero after reset, written through PF0's BAR0 at its offset; a write is ignored while the
VF's descriptor is valid; one that sets BND is refused for channel 63 of an engine, a channel bound elsewhere or used by a PF0
queue, an ASID of another VM, or a reserved field that is not zero; otherwise it is written. -/
def Obligations.ChannelBinding : Prop :=
  (∀ vf i, State.reset.bindWord vf i = 0) ∧
  (∀ (s : State) (vf i : Nat) (w : Word), 1 ≤ vf → vf ≤ 64 → i < 16 →
    exec (.registerWrite 0 (0x200000 + 1024 * (vf - 1) + 8 * i) w) s = exec (.channelBind vf i w) s) ∧
  ∀ (s : State) (vf i : Nat) (w : Word), 1 ≤ vf → vf ≤ 64 → i < 16 →
    let ch := bitsOf w 26 11
    let bad := ch % 64 = 63 ∨ (∃ b ∈ s.binds, b.1 ≠ 16 * vf + i ∧ b.2.getLsbD 63 = true ∧ bitsOf b.2 26 11 = ch) ∨
      (∃ j, (s.chan ch).owner = some (0, j)) ∨ descVm (s.readDesc (ch / 512) (bitsOf w 16 10)) ≠ vf ∨
      bitsOf w 37 26 ≠ 0 ∨ bitsOf w 0 16 ≠ 0
    (s.descValid vf i = true → exec (.channelBind vf i w) s = .next s) ∧
    (s.descValid vf i = false → w.getLsbD 63 = true → bad → exec (.channelBind vf i w) s = .next s) ∧
    (s.descValid vf i = false → (w.getLsbD 63 = true → ¬bad) → ∃ v, exec (.channelBind vf i w) s =
      .next { s with binds := Tab.put s.binds (16 * vf + i) v } ∧ v.getLsbD 63 = w.getLsbD 63 ∧
        bitsOf v 16 21 = bitsOf w 16 21)

/-- O52: packets that have started (R61): NULL finishes; a row of COPY, FILL, GATHER, SCATTER and SIGNAL that goes through is
the packet's next row, and the last one finishes it; ATOM, which is never performed in host memory; WAITTL, ICINV; a LAUNCH whose
records are valid posts them under a new group, one with an invalid record ends with 0x05, and one whose flash read fails with 0x01; a
packet with no rows finishes at once (R57 to R64, R100, R264). A packet that may start is started in the same step. A whole row per
step is the model's choice (log 8), and so is what a packet without rows does (log 42) and the code of an ATOM in host memory (log
40). -/
def Obligations.PacketActions : Prop :=
  (∀ (s : State) (ch n : Nat) (p : Pkt), s.runsPkt ch n 0x00 p → exec (.nullPacket ch n) s = .next (s.pktDone ch p.n 0)) ∧
  (∀ (s : State) (ch n : Nat) (p : Pkt), s.pkt ch n = some p → p.op = 0x00 → p.done = false → p.bad = false → p.fault = none →
    s.pinWaits ch p = false → p.phase = 0 → p.acq = false → (s.chan ch).mayStart p = true →
    exec (.nullPacket ch n) s = .next ((s.modPkt ch n (fun q => { q with phase := 1 })).pktDone ch p.n 0)) ∧
  (∀ (s : State) (ch n : Nat) (p : Pkt) (o : Instr),
    (s.runsPkt ch n 0x01 p ∧ o = .copy ch n) ∨ (s.runsPkt ch n 0x02 p ∧ o = .fill ch n) ∨
      (s.runsPkt ch n 0x03 p ∧ o = .gather ch n) ∨ (s.runsPkt ch n 0x04 p ∧ o = .scatter ch n) →
    (p.rows = 0 ∨ p.rb = 0 → exec o s = .next (s.pktDone ch p.n 0)) ∧
    (p.rows ≠ 0 → p.rb ≠ 0 → s.windowGone p 2 = true → exec o s = .next (s.pktDone ch p.n 0x05))) ∧
  (∀ (s s' : State) (ch n : Nat) (p : Pkt), p.rows ≠ 0 → p.rb ≠ 0 → s.windowGone p 2 = false →
    let t := if p.rows ≤ p.row + 1 then s'.pktDone ch p.n 0 else s'
    let sp : Int := (p.row * p.sp : Nat)
    let dp : Int := (p.row * p.dp : Nat)
    let x := p.list.getD p.row 0
    (s.runsPkt ch n 0x01 p → p.converts = false → s.oneRow ch p (some sp) dp (fun x => x) = (.go, s') →
      exec (.copy ch n) s = .next t) ∧
    (s.runsPkt ch n 0x01 p → p.converts = true → s.piecesLose srcCopy (p.sclPieces p.row) = false →
      ((s.meetRow p (p.sclPieces p.row)).wonRow (p.sclPieces p.row)).oneRow ch p (some sp) dp (fun x => p.convRow x (s.scaleOf p p.row)) = (.go, s') →
      exec (.copy ch n) s = .next t) ∧
    (s.runsPkt ch n 0x02 p →
      s.oneRow ch p none dp (fun _ => sumBits (fun j => p.opnd.toNat <<< (64 * j)) (p.rb / 8 + 1) % 2 ^ (8 * p.rb)) = (.go, s') →
      exec (.fill ch n) s = .next t) ∧
    (s.runsPkt ch n 0x03 p → s.oneRow ch p (some (x * (p.sp : Int))) dp (fun x => x) = (.go, s') →
      exec (.gather ch n) s = .next t) ∧
    (s.runsPkt ch n 0x04 p → s.oneRow ch p (some sp) (x * (p.dp : Int)) (fun x => x) = (.go, s') →
      exec (.scatter ch n) s = .next t)) ∧
  (∀ (s s' : State) (ch n : Nat) (p : Pkt), s.runsPkt ch n 0x0A p → s.windowGone p 2 = false →
    s.oneRow ch { p with words := p.words.set 3 ((1 : Word) <<< 32 ||| 8) } none 0 (fun _ => p.opnd.toNat) = (.go, s') →
    exec (.signal ch n) s = .next (s'.pktDone ch p.n 0)) ∧
  (∀ (s s' : State) (ch n : Nat) (p : Pkt) (tp : List (Nat × Nat)), s.runsPkt ch n 0x05 p → p.rows ≠ 0 → p.addr 2 % p.rb = 0 →
    (p.space 2 ≠ 0 ∨ s.pktPhys ch p = true ∨ s.movHeld p.asid (p.addr 2) p.rb = false) → p.w 1 = 0 →
    s.rowLocs ch p 2 0 p.rb .write = (.ok tp, s') →
    ((∃ x ∈ tp, locHost 0 ≤ x.1 ∧ x.1 < locPeer 0 0) → exec (.atom ch n) s = .next (s'.pktDone ch p.n 0x05)) ∧
    -- a target in a cluster scratchpad waits for the `cld` that come before it (R169)
    ((∀ x ∈ tp, x.1 < locHost 0 ∨ locPeer 0 0 ≤ x.1) → s'.piecesLose srcCopy (tp ++ []) = true → exec (.atom ch n) s = .next s') ∧
    ((∀ x ∈ tp, x.1 < locHost 0 ∨ locPeer 0 0 ≤ x.1) → s'.piecesLose srcCopy (tp ++ []) = false → ∃ u : State, exec (.atom ch n) s = .next (u.pktDone ch p.n 0) ∧
      let v := ((s'.meetRow p (tp ++ [])).wonRow (tp ++ [])).countRow ch [] (tp ++ []) p.rb
      u.mem = (v.writeLocs (atomNew (p.sp % 256) (v.readLocs tp) p.opnd.toNat (p.w 5).toNat) tp).mem)) ∧
  (∀ (s : State) (ch n : Nat) (p : Pkt), s.runsPkt ch n 0x0B p →
    let c := s.chan (p.sp % 2 ^ 16)
    (reached c.tl (bitsOf p.opnd 0 48) = false → exec (.waittl ch n) s = .next s) ∧
    (reached c.tl (bitsOf p.opnd 0 48) = true → c.wrote = [] → ∃ u : State, exec (.waittl ch n) s = .next (u.pktDone ch p.n 0) ∧
      u = { s with dies := u.dies } ∧ (u.die (engOf ch / 8)).rlc = (s.die (engOf ch / 8)).rlc)) ∧
  (∀ (s s' : State) (ch n : Nat) (p : Pkt) (ps : List (Nat × Nat)), s.runsPkt ch n 0x0C p → p.rows ≠ 0 → p.rb ≠ 0 →
    s.rowLocs ch p 1 0 p.rb .code = (.ok ps, s') → exec (.icinv ch n) s = .next
      (((List.range 4).foldl (fun s d => if p.opnd.getLsbD d then s.discardCode d p.asid (p.addr 1) p.rb else s) s').pktDone
        ch p.n 0)) ∧
  (∀ (s : State) (ch n : Nat) (p : Pkt), s.runsPkt ch n 0x09 p → p.rows ≠ 0 → p.rb ≠ 0 →
    (p.group.isSome = true → exec (.launch ch n) s = .next (s.launchMore ch p)) ∧
    (p.group = none → s.grps.length < 4096 → exec (.launch ch n) s = .next (s.launchStart ch p)) ∧
    (p.group = none → 4096 ≤ s.grps.length → exec (.launch ch n) s = .next s)) ∧
  (∀ (s s1 : State) (ch n : Nat) (p : Pkt) (ps : List (Nat × Nat)), s.runsPkt ch n 0x09 p → p.rows ≠ 0 → p.rb ≠ 0 → p.group = none →
    s.grps.length < 4096 → s.rowLocs ch p 1 0 (64 * p.rows) .read = (.ok ps, s1) →
    let s2 := s1.countRow ch ps [] 0
    (s1.flashFails ps = true → exec (.launch ch n) s = .next ((s1.countLines ch ps).pktDone ch p.n 0x01)) ∧
    (s1.flashFails ps = false →
      let x := s2.pieceRead (engOf ch / 8) ps
      let nums := (List.range p.rows).map (fun r => ((x.1 >>> (512 * r)) % 2 ^ 512 : Nat))
      let recs := nums.map (fun v => Rec.ofWords (toWords v 8))
      let priv := (s.chan ch).priv ch
      let ok := fun (r : Rec) => x.2.recOk r (if priv then none else some p.asid) priv
      ((∃ r ∈ recs, ok r = false) → exec (.launch ch n) s = .next (x.2.pktDone ch p.n 0x05)) ∧
      ((∀ r ∈ recs, ok r = true) → ∀ s3, x.2.keysOk (ch / 512) recs = (.ok (), s3) → exec (.launch ch n) s =
        .next ((({ s3 with ngrp := s3.ngrp + 1, grps := Tab.put s3.grps (s3.ngrp + 1) ⟨p.asid, ch, p.n⟩ } : State).modPkt ch p.n
          (fun q => { q with group := some (s3.ngrp + 1), list := nums.map Int.ofNat })).postRows ch p.n (s3.ngrp + 1) 0 recs)))) ∧
  (∀ (s s1 : State) (ch n : Nat) (p : Pkt) (code : Nat), s.runsPkt ch n 0x09 p → p.rows = 0 ∨ p.rb = 0 →
    s.groupWord ch p = (some code, s1) → exec (.launch ch n) s = .next (s1.pktDone ch p.n code))

/-- O53: PROMOTE and DEMOTE set the segment's MOV first and finish at once where the tier is already the one asked for; a PROMOTE
fails with code 0x02 where no frame is to be had or the quota is used up, and else copies the segment into its frames; both retag the
leaves, and once no packet holds an old translation the map word takes its new tier and EPOCH (R114 to R120); the peer packets and ports
(R25 to R29, R62, R64, R88, R246). That MOV is set in a step of its own is the model's choice (log 12), and so are the form of peer messages (log
45), what is asked of the frames (log 46) and that a DEMOTE begins with an eviction (log 83). -/
def Obligations.SegmentsAndPeers : Prop :=
  (∀ (s : State) (ch n : Nat) (p : Pkt) (g : SegRef) (fr : List Nat), s.moveSeg p = some g →
    let d := engOf ch / 8
    let mark := (s.setSeg d g (setBits (s.segWord g) 61 1 1)).modPkt ch p.n (fun q => { q with phase := 3 })
    let done := (s.setSeg d g (setBits (s.segWord g) 61 1 0)).pktDone ch p.n 0
    (p.phase = 1 → (s.segWord g).getLsbD 61 = false →
      (s.runsPkt ch n 0x07 p → exec (.promote ch n fr) s = .next mark) ∧
      (s.runsPkt ch n 0x08 p → exec (.demote ch n) s = .next mark)) ∧
    (p.phase = 3 →
      (s.runsPkt ch n 0x07 p → bitsOf (s.segWord g) 62 2 = 0 → exec (.promote ch n fr) s = .next done) ∧
      (s.runsPkt ch n 0x08 p → bitsOf (s.segWord g) 62 2 = 1 → exec (.demote ch n) s = .next done) ∧
      (let u := s.loadDesc d p.asid
       let vm := descVm (u.readDesc d p.asid)
       let full := Tab.get 0xFFFFFFFF u.qlimit vm < Tab.get 0 u.qused vm + g.n / 4096
       (s.runsPkt ch n 0x07 p → bitsOf (s.segWord g) 62 2 ≠ 0 → full ∨ (fr = [] ∧ u.reservable d p.asid g = false) →
         exec (.promote ch n fr) s = .next ((u.setSeg d g (segFailed (u.segWord g) 0x02)).pktDone ch p.n 0x02)) ∧
       (s.runsPkt ch n 0x07 p → bitsOf (s.segWord g) 62 2 ≠ 0 → ¬full → fr ≠ [] → ∀ ps ls, u.framePieces d p.asid g fr = some ps →
         u.flashFails [(locFlash (u.segFlash g), g.n)] = false → u.segLeaves d p.asid g = .ok ls →
         let v : State := { u with
           qused := Tab.put u.qused vm (Tab.get 0 u.qused vm + g.n / 4096), frames := u.frames ++ ps.map (fun q => (g.key, q)) }
         exec (.promote ch n fr) s = .next (((v.countRow ch [] ps g.n).pieceWrite d (v.read (locFlash (u.segFlash g)) g.n) ps).retag ch p g ls
           0 g.plc (pageFrame g fr) [])) ∧
       -- what is written back is read through its leaf, under the checks of every access, and through the die's RLC, whose older copies
       -- have left it
       (s.runsPkt ch n 0x08 p → bitsOf (s.segWord g) 62 2 ≠ 1 → ∀ ls, u.segLeaves d p.asid g = .ok ls →
         let read := u.leavesLocs d p.asid (leafStep g.page) (u.readDesc d p.asid) (dirtyLeaves g ls)
         (∀ f, read = .error f → exec (.demote ch n) s = .next (u.pktFault ch p.n f)) ∧
         (∀ ps, read = .ok ps → exec (.demote ch n) s = .next
           ((((u.evictPieces d ps).countRow ch (ps.map Prod.snd) [] (ps.map (fun q => q.2.2)).sum).writeBackFlash d g.va (u.segFlash g) ps).retag ch p g ls 1 0
             (fun va => u.segFlash g + (va - g.va)) (u.hostFrames d p.asid g.page ls)))))) ∧
    (p.phase = 2 →
      let v := fun (tier : Nat) => (s.shotDone p.asid g.va g.n).setSeg d g (segMoved ((s.shotDone p.asid g.va g.n).segWord g) tier)
      (s.shotPending p.asid g.va g.n = true →
        (s.runsPkt ch n 0x07 p → exec (.promote ch n fr) s = .next s) ∧ (s.runsPkt ch n 0x08 p → exec (.demote ch n) s = .next s)) ∧
      (s.shotPending p.asid g.va g.n = false → s.runsPkt ch n 0x07 p → exec (.promote ch n fr) s =
        .next (((v 0).segChanged p.asid g).pktDone ch p.n p.code)) ∧
      (s.shotPending p.asid g.va g.n = false → s.runsPkt ch n 0x08 p → ∃ t, exec (.demote ch n) s = .next t ∧
        t.pkt ch n = some { p with done := true } ∧
        Tab.get 0 t.qused (descVm ((v 1).readDesc d p.asid)) =
          Tab.get 0 s.qused (descVm ((v 1).readDesc d p.asid)) - g.n / 4096))) ∧
  (∀ (s : State) (ch n : Nat) (p : Pkt), s.runsPkt ch n 0x06 p → p.rows = 0 ∨ p.rb = 0 → exec (.send ch n) s = .next (s.pktDone ch p.n 0)) ∧
  (∀ (s s' : State) (ch n : Nat) (p : Pkt), s.runsPkt ch n 0x06 p → p.rows ≠ 0 → p.rb ≠ 0 → s.windowGone p 2 = false →
    s.sendRow ch p p.row = (.go, s') → exec (.send ch n) s = .next (if p.rows ≤ p.row + 1 then s'.pktDone ch p.n 0 else s')) ∧
  (∀ (s : State) (ch n : Nat) (p : Pkt), s.waitsAck ch n = some p →
    let i := bitsOf (p.w 2) 48 4
    ((∀ x ∈ (s.port i).sends, x.2 ≠ (ch, n)) →
      exec (.sendAcknowledged ch n) s = .next ((s.modPkt ch n (fun q => { q with acked := true })).landPort i)) ∧
    -- a SEND that is given up puts no row at the peer (R222)
    ((∃ x ∈ (s.port i).sends, x.2 = (ch, n)) → (p.sent.getD 0) + 10000000 ≤ s.now → exec (.sendAckTimeout ch n) s =
      .next ((((s.setPort i { s.port i with
        sends := (s.port i).sends.filter (fun x => x.2 ≠ (ch, n))
        wire := (s.port i).wire.filter (fun x => x.owner ≠ some (ch, n)) }).modPkt ch n
          (fun q => { q with code := if q.code = 0 then 0x03 else q.code, acked := true })).note 3 i).landPort i))) ∧
  (∀ (s : State) (i : Nat) (hdr : Word) (pl : List Byte) (good : Bool), i < 16 → (s.port i).lanes ≠ 0 →
    let q := (s.port i).take hdr pl (good && decide (pl.length = 232)) s.now
    -- rows that the flit acknowledges stand at the peer
    let v := (s.setPort i { q with inbox := (s.port i).inbox }).landPort i
    (q.inbox = (s.port i).inbox → exec (.flitReceive i hdr pl good) s = .next (v.setPort i (v.port i).ack)) ∧
    -- a request that is whole is performed, but for a row that a shutter clamps, which stays with the port as what comes after it does
    (∀ key l, key < 65536 → q.inbox = (s.port i).inbox ++ [(key, l)] →
      ((s.port i).waits = false → v.shutMsg l = false →
        let u := v.perform i key l
        exec (.flitReceive i hdr pl good) s = .next (u.setPort i (u.port i).ack)) ∧
      ((s.port i).waits = true ∨ v.shutMsg l = true →
        exec (.flitReceive i hdr pl good) s =
          .next (v.setPort i ({ v.port i with inbox := (v.port i).inbox ++ [(key, l)] } : Port).ack)))) ∧
  (∀ (s : State) (i : Nat), let p := s.port i
    p.lanes ≠ 0 →
    (p.unack ≠ [] → p.replay < 16 → p.moved + 8000 ≤ s.now →
      exec (.flitReplay i) s = .next (s.setPort i { p with replay := p.replay + 1, moved := s.now })) ∧
    (16 ≤ p.replay → ∀ out, ∃ t, exec (.portRetrain i out) s = .next t ∧ (t.port i).replay = 0 ∧
      (t.port i).lanes = if out = 0 then 8 else if out < 3 then 4 else 0))

/-- O54: translation faults and invalidation: a fault that the driver resolves lets the packet go on, one declared
unrecoverable or 100 ms old is declared; INVCMD is refused with ERR while a command runs or a reserved field is not zero;
completion counts DONE and clears BUSY; a home-map change that the map allows discards the chunk's copies (R47, R70, R84,
R226). How a fault of the front-end is named is the model's choice (log 18); that INVCMD keeps its value after a refused GO, and that
entries pinned since GO stay past DONE, are read from R84 to R86 (log 82). -/
def Obligations.TranslationEvents : Prop :=
  (∀ (s : State) (e asid va : Nat) (acc : Acc), ∃ t, exec (.pageWalk e asid va acc) s = .next t ∧ t = (s.translate e asid va acc none).2 ∧
    t = { s with ces := t.ces, dies := t.dies, mem := t.mem, fresh := t.fresh }) ∧
  (∀ (s : State) (ch n : Nat) (p : Pkt) (f t : Nat), n ≠ 0 → s.pkt ch n = some p → p.fault = some (f, t) →
    ∃ u, exec (.faultUnrecoverable ch n) s = .next u ∧ (u.chan ch).pending = true ∧
      (u.chan ch).faulted = (s.chan ch).faulted ++ [(n, f)] ∧
      u.pkt ch n = some { p with done := true, code := 0x04, fault := none }) ∧
  (∀ (s : State) (ch n : Nat), n ≠ 0 →
    exec (.faultResolved ch n) s = .next (s.modPkt ch n (fun p => { p with fault := none })) ∧
    exec (.faultUnrecoverable ch n) s = .next (s.declare ch n) ∧
    (∀ p f t, s.pkt ch n = some p → p.fault = some (f, t) → t + 100000000 ≤ s.now →
      exec (.faultTimeout ch n) s = .next (s.declare ch n))) ∧
  (∀ (s : State) (ch : Nat), (s.chan ch).halted = false → exec (.faultResolved ch 0) s =
    .next (((s.claimers ch).foldl (fun s g => s.holdSt g 0) (s.modChan ch (fun c => { c with parked := none }))).fillSlots ch
      (s.chan ch).claims.length)) ∧
  (∀ (s : State) (w : Word), s.invstat.getLsbD 0 = true ∨ bitsOf w 19 44 ≠ 0 ∨ bitsOf s.invva 54 10 ≠ 0 ∨ bitsOf s.invva 0 12 ≠ 0 →
    ∀ i, i = .invalidateVa w ∨ i = .invalidateAsid w ∨ i = .invalidateVm w ∨ i = .invalidateAll w → ∃ t, exec i s = .next t ∧
      t.invstat.getLsbD 2 = true ∧ t.invnow = s.invnow ∧ t.ces = s.ces ∧ t.invcmd = s.invcmd ∧ t.dies = s.dies) ∧
  (∀ (s : State) (w : Word), s.invstat.getLsbD 0 = false → bitsOf w 19 44 = 0 → bitsOf s.invva 54 10 = 0 → bitsOf s.invva 0 12 = 0 →
    ∀ k i, (k = 0 ∧ i = .invalidateVa w) ∨ (k = 1 ∧ i = .invalidateAsid w) ∨ (k = 2 ∧ i = .invalidateVm w) ∨
      (k = 3 ∧ i = .invalidateAll w) → ∃ t, exec i s = .next t ∧ t.invstat.getLsbD 0 = true ∧ t.invstat.getLsbD 2 = false ∧
        t.invnow = some (k, bitsOf w 10 7, bitsOf w 0 10, s.invva.toNat)) ∧
  (∀ (s : State) (kind vm asid va : Nat), s.invnow = some (kind, vm, asid, va) →
    s.retiredHeld (invMatch kind vm asid va) = false → ∃ t, exec .invalidateComplete s = .next t ∧
      (∀ e ∈ t.ces, ∀ x ∈ e.2.tlb, invMatch kind vm asid va x.2 = true → x.2.retired = false ∧ leafPin x.2.leaf = true) ∧
      t.invnow = none ∧ bitsOf t.invstat 0 2 = 0 ∧ bitsOf t.invstat 32 32 = (bitsOf s.invstat 32 32 + 1) % 2 ^ 32) ∧
  (∀ (s : State) (chunk : Nat) (e : BitVec 4), chunk < 2 ^ 18 → s.chunkMapped chunk = false →
    (∀ d, d < 4 → ({ s with home := Tab.put s.home chunk e } : State).backing d ≤ 4 * 61035) →
    ∃ t, exec (.homeMapChange chunk e) s = .next t ∧ t.home = Tab.put s.home chunk e ∧
      ∀ d, d < 4 → (t.die d).rlc = (s.die d).rlc.filter (fun l => decide (l.1 >>> 21 ≠ chunk)))

/-- O55: the host's accesses: data written lands at the locations that BAR2 gives, a read answers them, an atomic answers the
old value, refused ones are told; a register write that names nothing is an Unsupported Request (R44 to R46). The ASID of a
VF's window is the model's choice (log 51), and so is the answer to an atomic on host memory (log 101); an atomic off its width is refused
by the family's rule (log 58). -/
def Obligations.HostEvents : Prop :=
  ∀ (s : State) (fn addr : Nat),
    (∀ data l s', s.bar2Locs fn addr data.length .write = (.ok l, s') → exec (.hostBar2Write fn addr data) s =
      .next ((s'.writeLocs (data.foldr (fun b x => b.toNat + 256 * x) 0) l).tell .done)) ∧
    (∀ n l s', s.bar2Locs fn addr n .read = (.ok l, s') → exec (.hostBar2Read fn addr n) s =
      .next (s'.tell (.data (s'.readLocs l) n))) ∧
    (∀ n m s', s.bar2Locs fn addr n .read = (.error m, s') → exec (.hostBar2Read fn addr n) s = .next (s'.tell m)) ∧
    (∀ w op val cmp l s', hostAtomOk op addr w = true → s.bar2Locs fn addr w .write = (.ok l, s') →
      ((∃ x ∈ l, locHost 0 ≤ x.1 ∧ x.1 < locPeer 0 0) → exec (.hostAtomic fn addr w op val cmp) s = .next (s'.tell .abort)) ∧
      ((∀ x ∈ l, x.1 < locHost 0 ∨ locPeer 0 0 ≤ x.1) → ∃ t, exec (.hostAtomic fn addr w op val cmp) s = .next t ∧ t.host = (s'.writeLocs (match op with
          | .fetchAdd => (s'.readLocs l + val.toNat) % 2 ^ (8 * w)
          | .swap => val.toNat % 2 ^ (8 * w)
          | .cas => if s'.readLocs l = cmp.toNat then val.toNat else s'.readLocs l) l).host ++ [.data (s'.readLocs l) w])) ∧
    (∀ w op val cmp, hostAtomOk op addr w = false → exec (.hostAtomic fn addr w op val cmp) s = .next (s.tell .unsupported)) ∧
    (∀ off val t, s.pfWrite off val = some t → exec (.registerWrite 0 off val) s = .next t) ∧
    (∀ off val, s.pfWrite off val = none → exec (.registerWrite 0 off val) s = .next (s.tell .unsupported)) ∧
    (∀ off val, 1 ≤ fn → fn ≤ 64 → off < 1024 → off % 8 = 0 →
      exec (.registerWrite fn off val) s = .next (s.descWrite fn (off / 64) (off % 64 / 8) val))

/-! ### Power, bring-up, teardown, debug, tracing, loading (R30 to R43, R77, R235 to R264) -/

/-- O56: power and heat, bring-up and measurement: clocks within the cap, throttling by steps of 100 MHz between 1,200 MHz and
the commanded clock, an island's frequency kept between 97 and 100 °C, the power limit between 1,500 W and 3,000 W, both copies of
the journal, measurement registers 6 and 7, the report of a sealed module under both signatures, power off (R30 to R44). Signatures
are opaque (log 9), the reference values of power and clock and what is measured when are the model's (log 6, log 7, log 50, log 74),
and so is the layout of a report's body (log 75). -/
def Obligations.PowerAndBringUp : Prop :=
  ∀ s : State,
    (∀ w, exec (.powerLimit w) s = .next (if 1500 ≤ w ∧ w ≤ 3000 then { s with plimit := w } else s)) ∧
    (∀ i mhz, i < 16 → clockOk mhz = true →
      let x := s.island i
      let m := min mhz x.cap
      (x.hot < 97 → x.slow = false → exec (.frequencyChange i mhz) s =
        .next ((s.setIsland i { x with want := mhz }).setClock i m)) ∧
      (x.hot < 97 → x.slow = true → exec (.frequencyChange i mhz) s =
        .next ((s.setIsland i { x with want := mhz }).setClock i (min m x.mhz))) ∧
      (97 ≤ x.hot → x.hot < 100 → ∃ t, exec (.frequencyChange i mhz) s = .next t ∧ (t.island i).want = mhz ∧
        (t.island i).mhz = x.mhz) ∧
      (100 ≤ x.hot → exec (.frequencyChange i mhz) s =
        .next ((s.setIsland i { x with want := mhz, slow := true }).setClock i (min m x.mhz)))) ∧
    (∀ i temps, i < 16 → 4 ≤ temps.length → (∀ x ∈ temps, x < 105) → ∃ t, exec (.thermalSample i temps) s = .next t ∧
      (t.island i).hot = temps.foldl max 0 ∧ (t.island i).fatal = none ∧
      (t.island i).slow = (decide (100 ≤ temps.foldl max 0) || (s.island i).slow) ∧ (t.island i).mhz = (s.island i).mhz) ∧
    (∀ i, i < 16 → 100 ≤ (s.island i).hot → 1200 < (s.island i).mhz → exec (.throttleStep i) s =
      .next ((((s.setIsland i { s.island i with slow := true }).setClock i (max 1200 ((s.island i).mhz - 100))).journalEvent
        4 i).note 4 i)) ∧
    (∀ i pa t, (s.island i).fatal = some t → t + 10000000 < s.now →
      (∃ p ∈ s.cores, p.2.run = .running) ∨ (∃ p ∈ s.pcores, p.2.run = .running) →
      exec (.fatalThermalFault i pa) s = .next s.stopModule) ∧
    (s.power = false → exec .bringUp s = .next s.powerUp) ∧
    (∀ st i ms req m, s.power = true → s.boot.failed = none → bootInsts[s.boot.pos]? = some (st, i, ms, req) →
      bootPlan (s.boot.prior st i) ms req = .run m → exec .bringUp s = .next (s.bootRun st i m ms req)) ∧
    (∃ t, exec .journalClear s = .next t ∧ t = { s with boot := t.boot } ∧ t.boot.journal = [] ∧ t.boot.copy = [] ∧ t.boot.events = [] ∧
      t.boot.pos = s.boot.pos) ∧
    (∀ d reg image, exec (.driverMeasurementExtend d reg image) s =
      .next (if d < 4 ∧ (reg = 6 ∨ reg = 7) then s.extend d reg image else s)) ∧
    (∀ nonce ks, s.boot.sealed = true → s.boot.keys = some ks →
      let body := (List.range 32).flatMap (fun i => bytesOf 48 (Tab.get (0 : BitVec 384) (s.die (i / 8)).meas (i % 8)).toNat) ++
        bytesOf 4 s.boot.no ++ bytesOf 32 nonce.toNat
      exec (.attestationReport nonce) s =
        .next { s with host := s.host ++ [.report body (Config.signRsa ks.1 body) (Config.signSlh ks.2 body)] }) ∧
    (∀ nonce, s.boot.sealed = false → exec (.attestationReport nonce) s = .next s) ∧
    exec .modulePowerDown s = .next s.powerOff

/-- O57: teardown once every core has stopped and its request by the debugger or the driver, the dump slot's release, the release of
held records, whose time of holding is no age, the debugger's detachment, address spaces, the acknowledgement of a shutter (R77,
R113, R233, R235 to R237, R239, R246). How a teardown is requested and its steps are the model's choice (log 36, log 54, log 69). -/
def Obligations.TeardownAndSpaces : Prop :=
  ∀ s : State,
    (∀ asid pa, s.inTeardown asid = true → s.torn.contains asid = false → s.allStopped asid = true →
      s.dumpArea pa (s.dumpBytes asid pa) = true →
      let v := ((s.writeDump asid pa []).1.releaseCores asid).releaseQueues asid
      exec (.teardown asid pa) s = .next (({ v with torn := asid :: v.torn } : State).tearRest asid)) ∧
    -- while a queue has packets left to abort, barriers, hasps and records stay, and the teardown goes on later
    (∀ asid pa, s.inTeardown asid = true → s.torn.contains asid = true → s.queuesGone asid = false → exec (.teardown asid pa) s = .next s) ∧
    (∀ asid pa, s.inTeardown asid = true → s.torn.contains asid = true → s.queuesGone asid = true →
      let u := (s.releaseSync asid).releaseRecords asid
      exec (.teardown asid pa) s = .next (({ u with
        chains := Tab.del u.chains asid, torn := u.torn.filter (fun a => decide (a ≠ asid)) } : State).irq 0 0)) ∧
    (∀ asid pa, s.inTeardown asid = false → exec (.teardown asid pa) s =
      .next (if s.mayRequest asid then s.requestTeardown asid else s)) ∧
    (∀ asid, exec (.dumpSlotRelease asid) s = .next { s with
      dslots := Tab.put s.dslots asid (setBits (s.dslot asid) 62 2 0), dumps := Tab.del s.dumps asid }) ∧
    (∀ asid, ∃ t, exec (.releaseHeld asid) s = .next t ∧ t = { s with tasks := t.tasks, cores := t.cores, pcores := t.pcores } ∧
      (∀ x ∈ t.tasks, x.2.r.asid = asid → x.2.r.held = false) ∧ t.tasks.length = s.tasks.length ∧
      (∀ x ∈ s.tasks, x.2.r.asid = asid → x.2.r.held = true → ∃ y ∈ t.tasks, y.1 = x.1 ∧
        y.2.since = x.2.since + (s.now - x.2.pause))) ∧
    (∀ asid, exec (.debuggerDetach asid) s = .next { s with
      dbg := Tab.put s.dbg asid 0, bps := s.bps.filter (fun b => decide (b.1 / 8 ≠ asid)) }) ∧
    -- a second-stage array lies in free local chunks of firmware's
    (∀ asid words, s.stage2Ok words = false → exec (.addressSpaceCreate asid words) s = .next s) ∧
    (∀ asid words, asid < 1024 → asid ∉ s.live → s.stage2Ok words = true → ∃ t, exec (.addressSpaceCreate asid words) s = .next t ∧ t.live = asid :: s.live) ∧
    (∀ asid, asid ∈ s.live → ∃ t, exec (.addressSpaceDelete asid) s = .next t ∧ t.live = s.live.filter (fun a => a ≠ asid)) ∧
    (∀ g, (s.block g).shut = true → (s.block g).shack = false →
      (∀ c ∈ s.chans, c.2.priv c.1 = false → ∀ p ∈ c.2.pkts, p.done = false → g ∉ p.into) →
      exec (.shutterAck g) s = .next (s.modBlock g (fun b => { b with shack := true })))

/-- O58: the debug commands on a context of one core whose block is idle: HALT stops a running core of a debugged ASID with
cause 0x31; RUN, STEP, SHUT, OPEN, IMGOUT, IMGIN and EVICT act on a halted one; a command at a busy block only sets ERR (R240
to R246). What STEP and RUN do beyond R242 and R244 is the model's reading (log 38, log 48, log 59). -/
def Obligations.DebugCommands : Prop :=
  ∀ (s : State) (g : Nat), s.groupOf g = [g] →
    let c := s.modBlock g (fun b => { b with err := false })
    ((s.block g).busy = false →
      (s.runOf g = .running → s.attached (s.asidOf g) = true → exec (.halt g) s =
        .next ((c.modBlock g (fun b => { b with busy := true })).asyncStop g 0x31 0)) ∧
      ((s.block g).halted = true →
        exec (.runHalted g) s = .next (((c.open_ [g]).markHeld g false).runResident g [g]) ∧
        (isGearC g = false → exec (.stepHalted g) s = .next (((c.runResident g [g]).modBlock g (fun b => { b with
          busy := true })).modP g (fun c => { c with step1 := true }))) ∧
        (isGearC g = true → ∀ r, (s.coreC g).stop = some r → exec (.stepHalted g) s = .next ((((c.runResident g [g]).modC g
          (fun c => { c with step1 := true })).modBlock g (fun b => { b with busy := true })).requestStop g
            ⟨r.idx + 1, r.addr, causeWord true 0 0x31 0, none, none⟩)) ∧
        ((s.block g).shut = false →
          exec (.shut g) s = .next (c.modBlock g (fun b => { b with shut := true, shack := false }))) ∧
        (s.badPad true [g] = none → exec (.imgout g) s = .next (c.contextOut true g (s.block g).dpa).1) ∧
        -- a scratchpad with a word that cannot be corrected ends the continuation instead (R228)
        (∀ x, s.badPad true [g] = some x → exec (.imgout g) s = .next (c.spoiled x)) ∧
        (s.imageFits g (s.block g).dpa = true → exec (.imgin g) s = .next (c.imageIn g (s.block g).dpa)) ∧
        exec (.evict g) s = .next ((c.modBlock g (fun b => { b with halted := false })).saveOrSpoil g)) ∧
      ((s.block g).shut = true → exec (.openShutter g) s = .next (c.open_ [g]))) ∧
    ((s.block g).busy = true → ∀ i, i = .halt g ∨ i = .runHalted g ∨ i = .stepHalted g ∨ i = .shut g ∨ i = .openShutter g ∨
      i = .imgout g ∨ i = .imgin g ∨ i = .evict g → exec i s = .next (s.modBlock g (fun b => { b with err := true })))

/-- O59: profiling words, samples, recording and replay (R248, R251 to R255). What a sample names and the form of a record are the
model's choice (log 49, log 56). -/
def Obligations.TracingEvents : Prop :=
  ∀ s : State,
    (∀ asid w, asid < 1024 → exec (.profileSessionWrite asid 0 w) s =
      .next { s with prof := Tab.put s.prof (16 * asid) (w &&& 0x8000FFFFFFFFFFC0) }) ∧
    (∀ asid i w, asid < 1024 → 1 ≤ i → i ≤ 8 → eventKnown (bitsOf w 0 16) = true → exec (.profileSessionWrite asid i w) s =
      .next { s with prof := Tab.put s.prof (16 * asid + i) (w &&& 0xC00000000000FFFF) }) ∧
    (∀ asid i w, asid < 1024 → 1 ≤ i → i ≤ 8 → eventKnown (bitsOf w 0 16) = false → ∃ v, exec (.profileSessionWrite asid i w) s =
      .next { s with prof := Tab.put s.prof (16 * asid + i) v } ∧ bitsOf v 62 2 = 2 ∧ bitsOf v 0 16 = bitsOf w 0 16) ∧
    (∀ g, s.sampleDue g 0 = true → exec (.bundleSample g) s =
      .next ((s.traceRec (dieOf g) (s.nameAt g (s.nextAddr g)) 3 0 (s.asidOf g) 0).markSample g)) ∧
    -- the engine's sample is of the tick as it began; one without a command waits for the next, which it names
    (∀ g, isGearC g = true → s.sampleDue g 1 = true → exec (.engineSample g) s =
      let u := s.markSample g
      .next (match (s.coreC g).tickOf with
        | some m => u.traceRec (dieOf g) (bundleName m.1 (coordOf g) m.2) 4 (s.coreC g).tick.1 (u.asidOf g) 0
        | none => u.modC g (fun c => { c with unnamed := c.unnamed + 1 }))) ∧
    -- a core takes the sample that is due before it does anything else
    (∀ g, s.sampleDue g 0 = true → s.runOf g = .running → s.paused g = false →
      (isGearC g = true → (s.coreC g).group = [] ∧ (s.coreC g).phase = .start) → s.runCore g = exec (.bundleSample g) s) ∧
    (∀ g, s.boot.mode = 2 → exec (.replayDivergence g) s =
      .next ((s.traceRec (dieOf g) (s.nameAt g (s.nextAddr g)) 7 0 (s.asidOf g) 0).stopAll31)) ∧
    (∀ d, d < 4 → s.recording = true → ∃ t, exec (.recordBufferFull d) s = .next t ∧ (t.die d).recFull = true) ∧
    (∀ d, d < 4 → ∃ t, exec (.recordBufferDrained d) s = .next t ∧ (t.die d).recFull = false) ∧
    (s.boot.mode = 2 → exec .recordRegionFull s = .next s.stopAll31) ∧
    (s.boot.mode ≠ 2 → s.recording = true → ∃ t, exec .recordRegionFull s = .next t ∧ t.recording = false) ∧
    -- a recorded turn stands in the record with the cadence of its core, the record that it pops and what the host answers, and what it
    -- decides goes into the record region; a winner's turn for which nobody asks decides nothing
    (∀ t rest, s.alive → s.recording = true → s.boot.mode ≠ 2 → s.agenda = t :: rest →
      let a : State := { s with agenda := rest }
      (a.noRequester t = true → step s = settled (a.turn t)) ∧
      (a.noRequester t = false → ∀ u,
        ({ a with record := s.record ++ [a.recorded t] } : State).turn t = .next u →
        step s = settled (.next ((a.streamsOf u t).foldl State.putStream u)))) ∧
    (∀ x, s.recording = true → s.recAt + (Config.streamBytes s.fresh).length ≤ s.boot.region.2 →
      (s.putStream x).streams = s.streams ++ [x] ∧ (s.putStream x).recAt = s.recAt + (Config.streamBytes s.fresh).length) ∧
    -- a replay takes its turns from the record: it waits for a turn's cadence, and what cannot come at it is a divergence
    (∀ r u rest, s.alive → s.boot.mode = 2 → s.agenda = [] → s.record = r :: u :: rest →
      let g := r.turn.agent s.focus
      let c := r.cad
      (s.blocks.any (fun b => b.2.halted) = true → step s = settled (.next s)) ∧
      (s.blocks.any (fun b => b.2.halted) = false →
        -- the turn is forced, with the answers of the record
        (s.cadenceOf g = c → s.absent r = false → s.affected r.turn = false →
          step s = settled (({ s with record := u :: rest } : State).forced r)) ∧
        (s.cadenceOf g = c → s.absent r = true ∨ s.affected r.turn = true →
          step s = settled (exec (.replayDivergence g) { s with record := [], altered := [] })) ∧
        ((s.cadenceOf g).toNat < c.toNat → s.runOf g = .running → s.paused g = false →
          step s = settled (({ s with focus := g } : State).runCore g)) ∧
        ((s.cadenceOf g).toNat < c.toNat → s.runOf g ≠ .running →
          step s = settled (exec (.replayDivergence g) { s with record := [], altered := [] })))) ∧
    -- a turn that is no pop is taken as it was; a pop whose winner is the recorded one likewise, on what the record says that the host
    -- answered
    (∀ r : Recorded, r.won = none ∨ (s.withAnswers r.host).popped r.turn = r.won →
      s.forced r = (s.withAnswers r.host).turn r.turn)

/-- O60: the loader: an image that its checks accept, mapped as its record says, is registered under its handle with its frames on the
VM's quota; one they refuse is answered with the code; publication on a die of an entry's bundles, a translation of its list for the
die's stepping with the slots that keep a hint's trap and the records of its bundles, in the order of handle and entry and where the
bundle cache has room; a code object that no record names is unloaded, and its frames return
(R69, R76, R114 to R118, R257 to R263, R402, R420). What a translation is, where bundles are kept and which code a refusal has are the
model's choice (log 72, log 52, log 55). -/
def Obligations.LoaderEvents : Prop :=
  (∀ (s : State) (asid image len handle x : Nat) (ps : List Placement) (st : Mapping) (tv cv : Nat),
    (s.vaRead 0 asid image len).1 = .ok x →
    let l := imgSects x
    let vm := s.vmOf asid
    let va0 := cv + (len + 4095) / 4096 * 4096
    let go := exec (.loadCodeObject asid image len handle ps st tv cv) s
    let fits := ps.length = imgBuffers x ∧ (∀ b ∈ imgBufs x l ps, s.placementOk asid x b.1 b.2 = true) ∧
      Tab.get 0 s.qused vm + imgFrames x l ≤ Tab.get 0xFFFFFFFF s.qlimit vm ∧ cv % 4096 = 0
    (∀ c, imgRefused x len = some c → go = .next (s.tell (.refused c))) ∧
    (imgRefused x len = none → s.noHandle asid = true → go = .next (s.tell (.refused 0x07))) ∧
    -- a placement code that R70 reserves
    (imgRefused x len = none → s.noHandle asid = false → (∃ p ∈ ps, p.plc = some 3) → go = .next (s.tell (.refused 0x01))) ∧
    (imgRefused x len = none → s.noHandle asid = false → (∀ p ∈ ps, p.plc ≠ some 3) →
      handle ≠ 0 → handle < 2 ^ 20 → s.obj asid handle = none →
      let code := (len + 4095) / 4096 * 4096 + ((sectsOf l 4).map Sect.len).sum
      -- code is placed where no die's bundle cache holds bundles of the address space
      (s.codeFree asid cv code = false → go = .next s) ∧
      (s.codeFree asid cv code = true →
      (¬fits → go = .next (s.tell (.refused 0x06))) ∧
      (fits → (s.storeAll st.stores).objMapped asid x tv (imgBufs x l ps) = none → go = .next s) ∧
      (fits → ∀ fs s2 s3 s4 bs, (s.storeAll st.stores).objMapped asid x tv (imgBufs x l ps) = some fs →
        (s.storeAll st.stores).loadAt asid cv x len = some s2 → s2.loadBufs asid x l tv 0 (imgBufs x l ps) = some (s3, bs) →
        s3.loadHasps asid x ps (hwOffs l) = some s4 → ∃ t o, go = .next (t.tell (.handle asid handle)) ∧
          o.ents = imgEnts x l cv ∧ o.bufs = bs ∧ o.frames = imgFrames x l ∧
          o.copies = (imgBufs x l ps).flatMap (bufCopies x) ∧ o.names = padNames x l 0 ∧ o.wins = padNames x l 1 ∧
          t = ({ s4 with
            objs := Tab.put s4.objs (objKey asid handle) o
            frames := s4.frames ++ fs.map (fun q => (objKey asid handle, q))
            qused := Tab.put s4.qused vm (Tab.get 0 s4.qused vm + imgFrames x l) } : State).loadNative asid handle x va0 st.caches va0
              (sectsOf l 4))))) ∧
  (∀ (s : State) (d asid handle ent va : Nat) (o : CodeObj) (e : Entry) (b : Translation),
    s.obj asid handle = some o → o.ents[ent]? = some e → d < 4 → Tab.find e.pub d = none → va % 32 = 0 →
    va + 32 * b.words.length < 2 ^ 48 → b.words ≠ [] → e.tried.contains d = false →
    let n := 32 * b.words.length
    exec (.bundlePublish d asid handle ent va b) s =
      .next (if o.clear d va n = true ∧ s.vaClear d asid va n o = true ∧ recsOk b e.list = true ∧ marksOk b e.list = true ∧
          Config.translates e.list (s.die d).step.toNat b = true ∧ s.publishFirst d asid handle ent = false then
        (if s.cacheRoom d asid va b.pa n o = true then
          (s.publishAt d asid handle ent va b.pa b.words b.marks (some b.recs)).published' d asid handle ent
        else if s.cacheFull d asid va n o = true then s.giveUp d asid handle ent else s)
      else s)) ∧
  (∀ (s : State) (asid handle : Nat) (o : CodeObj), s.obj asid handle = some o →
    ((∃ t ∈ s.tasks, t.2.r.asid = asid ∧ t.2.r.code = handle) → exec (.unloadCodeObject asid handle) s = .next s) ∧
    ((∀ t ∈ s.tasks, ¬(t.2.r.asid = asid ∧ t.2.r.code = handle)) → ∃ t, exec (.unloadCodeObject asid handle) s = .next t ∧
      t.objs = Tab.del s.objs (objKey asid handle) ∧
      -- the frames of its buffers and of its promoted segments return to the VM's quota
      t.frames = s.frames.filter (fun f => decide (f.1 ≠ objKey asid handle)) ∧
      Tab.get 0 t.qused (s.vmOf asid) = Tab.get 0 s.qused (s.vmOf asid) -
        ((s.frames.filter (fun f => decide (f.1 = objKey asid handle))).map (fun f => f.2.2 / 4096)).sum))
end

