-- ==== Sys2Proof/Laws/Bits.lean ====
section
/-! SUPPORT. The fields of an encoded word are the fields it was built from. -/

namespace Sys2Proof.Laws

/-- A field of two numbers set side by side, when it lies in the low one. -/
theorem field_low {n m : Nat} (a : BitVec n) (b : BitVec m) (i l : Nat) (h : i + l ≤ m) :
    (a ++ b).extractLsb' i l = b.extractLsb' i l := by
  ext j hj
  simp only [BitVec.getElem_extractLsb', BitVec.getLsbD_append]
  simp [show i + j < m by omega]

/-- The same, when it lies in the high one. -/
theorem field_high {n m : Nat} (a : BitVec n) (b : BitVec m) (i l : Nat) (h : m ≤ i) :
    (a ++ b).extractLsb' i l = a.extractLsb' (i - m) l := by
  ext j hj
  simp [BitVec.getLsbD_append, show ¬ i + j < m by omega, show i + j - m = i - m + j by omega]

/-- The whole of a number. -/
theorem field_all {n : Nat} (a : BitVec n) : a.extractLsb' 0 n = a := by
  ext j hj
  simp

/-- Two neighbouring fields of a number, set side by side. -/
theorem field_join {n : Nat} (a : BitVec n) (i l m : Nat) :
    a.extractLsb' (i + m) l ++ a.extractLsb' i m = a.extractLsb' i (l + m) := by
  ext j hj
  simp only [BitVec.getElem_append, BitVec.getElem_extractLsb']
  split
  · rfl
  · rw [show i + m + (j - m) = i + j by omega]

/-! ### A move (R271) -/

theorem move_guard (g : BitVec 3) (s d : BitVec 10) (k : BitVec 1) : (moveBits g s d k).extractLsb' 21 3 = g :=
  (field_high (g ++ s ++ d) k 21 3 (by decide)).trans <| (field_high (g ++ s) d 20 3 (by decide)).trans <|
    (field_high g s 10 3 (by decide)).trans (field_all g)
theorem move_source (g : BitVec 3) (s d : BitVec 10) (k : BitVec 1) : (moveBits g s d k).extractLsb' 11 10 = s :=
  (field_high (g ++ s ++ d) k 11 10 (by decide)).trans <| (field_high (g ++ s) d 10 10 (by decide)).trans <|
    (field_low g s 0 10 (by decide)).trans (field_all s)
theorem move_dst (g : BitVec 3) (s d : BitVec 10) (k : BitVec 1) (i l : Nat) (h : i + l ≤ 10) :
    (moveBits g s d k).extractLsb' (i + 1) l = d.extractLsb' i l :=
  (field_high (g ++ s ++ d) k (i + 1) l (by omega)).trans (field_low (g ++ s) d i l h)
theorem move_k (g : BitVec 3) (s d : BitVec 10) (k : BitVec 1) : (moveBits g s d k).extractLsb' 0 1 = k :=
  (field_low (g ++ s ++ d) k 0 1 (by decide)).trans (field_all k)

theorem dst_unit (a : BitVec 3) (u : BitVec 1) (c : BitVec 6) : (a ++ u ++ c : BitVec 10).extractLsb' 7 3 = a :=
  (field_high (a ++ u) c 7 3 (by decide)).trans <| (field_high a u 1 3 (by decide)).trans (field_all a)
theorem dst_half (a : BitVec 3) (u : BitVec 1) (c : BitVec 6) : (a ++ u ++ c : BitVec 10).extractLsb' 6 1 = u :=
  (field_high (a ++ u) c 6 1 (by decide)).trans <| (field_low a u 0 1 (by decide)).trans (field_all u)
theorem dst_code (a : BitVec 3) (u : BitVec 1) (c : BitVec 6) : (a ++ u ++ c : BitVec 10).extractLsb' 0 6 = c :=
  (field_low (a ++ u) c 0 6 (by decide)).trans (field_all c)

theorem table_move (m : BitVec 24) : decodeTableWord 24 m.toNat = (decodeMove m).toOption := by
  simp [decodeTableWord]
theorem table_word (w : BitVec 32) : decodeTableWord 32 w.toNat = (decodeWord w).toOption := by
  simp [decodeTableWord]

/-- A trigger with a legal source decodes to what the trigger tables give. -/
theorem decode_trigger {g : BitVec 3} {s : BitVec 10} {a : BitVec 3} {u : BitVec 1} {c : BitVec 6} {k : BitVec 1} {i : Instr}
    (hs : sourceLegal s = true) (hd : decodeTrigger a u c g s k = some i) :
    decodeMove (moveBits g s (a ++ u ++ c) k) = .ok i := by
  have h8 := move_dst g s (a ++ u ++ c) k 7 3 (by omega)
  have h7 := move_dst g s (a ++ u ++ c) k 6 1 (by omega)
  have h1 := move_dst g s (a ++ u ++ c) k 0 6 (by omega)
  rw [dst_unit] at h8
  rw [dst_half] at h7
  rw [dst_code] at h1
  simp only [Nat.reduceAdd] at h8 h7 h1
  simp only [decodeMove, move_guard, move_source, move_k, h8, h7, h1, hs, hd]
  rfl

/-- A move to a plain destination. -/
theorem decode_plain {g : BitVec 3} {s d : BitVec 10} {i : Instr} (hs : sourceLegal s = true)
    (ht : decodeTrigger (d.extractLsb' 7 3) (d.extractLsb' 6 1) (d.extractLsb' 0 6) g s 0 = none)
    (hd : (if d = 0x0FF then Except.ok (.moveToNullSink g s)
      else if regDestLegal d then .ok (.moveToRegister g s d)
      else if d.extractLsb' 2 4 = 0 ∧ portAssigned (d.extractLsb' 6 4) (d.extractLsb' 0 2) then
        .ok (.moveToPort g s (d.extractLsb' 6 4) (d.extractLsb' 0 2))
      else .error DecodeErr.illegalDestination) = Except.ok i) :
    decodeMove (moveBits g s d 0) = .ok i := by
  have h8 := move_dst g s d 0 7 3 (by omega)
  have h7 := move_dst g s d 0 6 1 (by omega)
  have h1 := move_dst g s d 0 0 6 (by omega)
  have ha := move_dst g s d 0 0 10 (by omega)
  have h3 := move_dst g s d 0 2 4 (by omega)
  have h74 := move_dst g s d 0 6 4 (by omega)
  have h2 := move_dst g s d 0 0 2 (by omega)
  rw [field_all] at ha
  simp only [Nat.reduceAdd] at h8 h7 h1 ha h3 h74 h2
  simp only [decodeMove, move_guard, move_source, move_k, h8, h7, h1, ha, h3, h74, h2, hs, ht]
  exact hd

/-! ### A portable word (R384, R389): every form is an immediate field of twelve bits above the five low ones -/

section
variable (x : BitVec 12) (a : BitVec 5) (f3 : BitVec 3) (d : BitVec 5) (op : BitVec 7)

theorem word_op : (iBits x a f3 d op).extractLsb' 0 7 = op :=
  (field_low (x ++ a ++ f3 ++ d) op 0 7 (by decide)).trans (field_all op)
theorem word_d (i l : Nat) (h : i + l ≤ 5) : (iBits x a f3 d op).extractLsb' (i + 7) l = d.extractLsb' i l :=
  (field_high (x ++ a ++ f3 ++ d) op (i + 7) l (by omega)).trans (field_low (x ++ a ++ f3) d i l h)
theorem word_f3 : (iBits x a f3 d op).extractLsb' 12 3 = f3 :=
  (field_high (x ++ a ++ f3 ++ d) op 12 3 (by decide)).trans <| (field_high (x ++ a ++ f3) d 5 3 (by decide)).trans <|
    (field_low (x ++ a) f3 0 3 (by decide)).trans (field_all f3)
theorem word_a : (iBits x a f3 d op).extractLsb' 15 5 = a :=
  (field_high (x ++ a ++ f3 ++ d) op 15 5 (by decide)).trans <| (field_high (x ++ a ++ f3) d 8 5 (by decide)).trans <|
    (field_high (x ++ a) f3 3 5 (by decide)).trans <| (field_low x a 0 5 (by decide)).trans (field_all a)
theorem word_x (i l : Nat) : (iBits x a f3 d op).extractLsb' (i + 20) l = x.extractLsb' i l :=
  (field_high (x ++ a ++ f3 ++ d) op (i + 20) l (by omega)).trans <| (field_high (x ++ a ++ f3) d (i + 13) l (by omega)).trans <|
    (field_high (x ++ a) f3 (i + 8) l (by omega)).trans (field_high x a (i + 5) l (by omega))
end

section
variable (h : BitVec 3) (f4 : BitVec 4) (b : BitVec 5)
theorem q_h : (h ++ f4 ++ b : BitVec 12).extractLsb' 9 3 = h :=
  (field_high (h ++ f4) b 9 3 (by decide)).trans <| (field_high h f4 4 3 (by decide)).trans (field_all h)
theorem q_f4 : (h ++ f4 ++ b : BitVec 12).extractLsb' 5 4 = f4 :=
  (field_high (h ++ f4) b 5 4 (by decide)).trans <| (field_low h f4 0 4 (by decide)).trans (field_all f4)
theorem q_b : (h ++ f4 ++ b : BitVec 12).extractLsb' 0 5 = b :=
  (field_low (h ++ f4) b 0 5 (by decide)).trans (field_all b)
theorem m_o (o : BitVec 4) : (h ++ b ++ o : BitVec 12).extractLsb' 0 4 = o :=
  (field_low (h ++ b) o 0 4 (by decide)).trans (field_all o)
theorem m_t (o : BitVec 4) : (h ++ b ++ o : BitVec 12).extractLsb' 4 5 = b :=
  (field_high (h ++ b) o 4 5 (by decide)).trans <| (field_low h b 0 5 (by decide)).trans (field_all b)
theorem m_h (o : BitVec 4) : (h ++ b ++ o : BitVec 12).extractLsb' 9 3 = h :=
  (field_high (h ++ b) o 9 3 (by decide)).trans <| (field_high h b 5 3 (by decide)).trans (field_all h)
theorem r_f7 (f7 : BitVec 7) : (f7 ++ b : BitVec 12).extractLsb' 5 7 = f7 :=
  (field_high f7 b 5 7 (by decide)).trans (field_all f7)
theorem r_b (f7 : BitVec 7) : (f7 ++ b : BitVec 12).extractLsb' 0 5 = b :=
  (field_low f7 b 0 5 (by decide)).trans (field_all b)
theorem sys_c (c : BitVec 2) (s : BitVec 3) : (c ++ s : BitVec 5).extractLsb' 3 2 = c :=
  (field_high c s 3 2 (by decide)).trans (field_all c)
theorem sys_s (c : BitVec 2) (s : BitVec 3) : (c ++ s : BitVec 5).extractLsb' 0 3 = s :=
  (field_low c s 0 3 (by decide)).trans (field_all s)
end

section
variable {h f3 : BitVec 3} {f4 : BitVec 4} {b a d : BitVec 5} {i : Instr}

theorem decode_vec (e : decodeVec (8 * f4.toNat + f3.toNat) h b a d = some i) :
    decodeWord (iBits (h ++ f4 ++ b) a f3 d 0x0B) = .ok i := by
  have hd := word_d (h ++ f4 ++ b) a f3 d 0x0B 0 5 (by decide)
  have hb := word_x (h ++ f4 ++ b) a f3 d 0x0B 0 5
  have h4 := word_x (h ++ f4 ++ b) a f3 d 0x0B 5 4
  have hh := word_x (h ++ f4 ++ b) a f3 d 0x0B 9 3
  rw [field_all] at hd
  rw [q_b] at hb
  rw [q_f4] at h4
  rw [q_h] at hh
  simp only [Nat.reduceAdd] at hd hb h4 hh
  simp only [decodeWord, word_op, word_f3, word_a, hd, hb, h4, hh, e]
  rfl

theorem decode_tile (e : decodeTile (8 * f4.toNat + f3.toNat) h b a d = some i) :
    decodeWord (iBits (h ++ f4 ++ b) a f3 d 0x5B) = .ok i := by
  have hd := word_d (h ++ f4 ++ b) a f3 d 0x5B 0 5 (by decide)
  have hb := word_x (h ++ f4 ++ b) a f3 d 0x5B 0 5
  have h4 := word_x (h ++ f4 ++ b) a f3 d 0x5B 5 4
  have hh := word_x (h ++ f4 ++ b) a f3 d 0x5B 9 3
  rw [field_all] at hd
  rw [q_b] at hb
  rw [q_f4] at h4
  rw [q_h] at hh
  simp only [Nat.reduceAdd] at hd hb h4 hh
  simp only [decodeWord, word_op, word_f3, word_a, hd, hb, h4, hh, e]
  rfl

theorem decode_sys (e : decodeSys (8 * f4.toNat + f3.toNat) h b a d (d.extractLsb' 3 2) (d.extractLsb' 0 3) = some i) :
    decodeWord (iBits (h ++ f4 ++ b) a f3 d 0x7B) = .ok i := by
  have hd := word_d (h ++ f4 ++ b) a f3 d 0x7B 0 5 (by decide)
  have hc := word_d (h ++ f4 ++ b) a f3 d 0x7B 3 2 (by decide)
  have hs := word_d (h ++ f4 ++ b) a f3 d 0x7B 0 3 (by decide)
  have hb := word_x (h ++ f4 ++ b) a f3 d 0x7B 0 5
  have h4 := word_x (h ++ f4 ++ b) a f3 d 0x7B 5 4
  have hh := word_x (h ++ f4 ++ b) a f3 d 0x7B 9 3
  rw [field_all] at hd
  rw [q_b] at hb
  rw [q_f4] at h4
  rw [q_h] at hh
  simp only [Nat.reduceAdd] at hd hb h4 hh hc hs
  simp only [decodeWord, word_op, word_f3, word_a, hd, hb, h4, hh, hc, hs, e]
  rfl

theorem decode_memq (e : decodeMemQ f4.toNat h b a d = some i) :
    decodeWord (iBits (h ++ f4 ++ b) a 2 d 0x2B) = .ok i := by
  have hd := word_d (h ++ f4 ++ b) a 2 d 0x2B 0 5 (by decide)
  have hb := word_x (h ++ f4 ++ b) a 2 d 0x2B 0 5
  have h4 := word_x (h ++ f4 ++ b) a 2 d 0x2B 5 4
  have hh := word_x (h ++ f4 ++ b) a 2 d 0x2B 9 3
  rw [field_all] at hd
  rw [q_b] at hb
  rw [q_f4] at h4
  rw [q_h] at hh
  simp only [Nat.reduceAdd] at hd hb h4 hh
  simp only [decodeWord, word_op, word_f3, word_a, hd, hb, h4, hh, e]
  rfl
end

end Sys2Proof.Laws
end

