-- ==== Sys2Proof/Laws/Dispatch.lean ====
section
/-! SUPPORT. One lemma per arm of `exec`: the meaning that it calls. -/

namespace Sys2Proof.Machine

@[simp] theorem exec_iaAdd {s : State} {g} {xs} {u} {k} : exec (.iaAdd g xs u k) s = execIaAdd g xs u k s := rfl
@[simp] theorem exec_iaSub {s : State} {g} {xs} {u} {k} : exec (.iaSub g xs u k) s = execIaSub g xs u k s := rfl
@[simp] theorem exec_iaAnd {s : State} {g} {xs} {u} {k} : exec (.iaAnd g xs u k) s = execIaAnd g xs u k s := rfl
@[simp] theorem exec_iaOr {s : State} {g} {xs} {u} {k} : exec (.iaOr g xs u k) s = execIaOr g xs u k s := rfl
@[simp] theorem exec_iaXor {s : State} {g} {xs} {u} {k} : exec (.iaXor g xs u k) s = execIaXor g xs u k s := rfl
@[simp] theorem exec_iaAndn {s : State} {g} {xs} {u} {k} : exec (.iaAndn g xs u k) s = execIaAndn g xs u k s := rfl
@[simp] theorem exec_iaShl {s : State} {g} {xs} {u} {k} : exec (.iaShl g xs u k) s = execIaShl g xs u k s := rfl
@[simp] theorem exec_iaShr {s : State} {g} {xs} {u} {k} : exec (.iaShr g xs u k) s = execIaShr g xs u k s := rfl
@[simp] theorem exec_iaSra {s : State} {g} {xs} {u} {k} : exec (.iaSra g xs u k) s = execIaSra g xs u k s := rfl
@[simp] theorem exec_iaRol {s : State} {g} {xs} {u} {k} : exec (.iaRol g xs u k) s = execIaRol g xs u k s := rfl
@[simp] theorem exec_iaMin {s : State} {g} {xs} {u} {k} : exec (.iaMin g xs u k) s = execIaMin g xs u k s := rfl
@[simp] theorem exec_iaMax {s : State} {g} {xs} {u} {k} : exec (.iaMax g xs u k) s = execIaMax g xs u k s := rfl
@[simp] theorem exec_iaMinn {s : State} {g} {xs} {u} {k} : exec (.iaMinn g xs u k) s = execIaMinn g xs u k s := rfl
@[simp] theorem exec_iaMaxn {s : State} {g} {xs} {u} {k} : exec (.iaMaxn g xs u k) s = execIaMaxn g xs u k s := rfl
@[simp] theorem exec_iaMul {s : State} {g} {xs} {u} {k} : exec (.iaMul g xs u k) s = execIaMul g xs u k s := rfl
@[simp] theorem exec_iaMulh {s : State} {g} {xs} {u} {k} : exec (.iaMulh g xs u k) s = execIaMulh g xs u k s := rfl
@[simp] theorem exec_iaMulhn {s : State} {g} {xs} {u} {k} : exec (.iaMulhn g xs u k) s = execIaMulhn g xs u k s := rfl
@[simp] theorem exec_iaDiv {s : State} {g} {xs} {u} {k} : exec (.iaDiv g xs u k) s = execIaDiv g xs u k s := rfl
@[simp] theorem exec_iaDivn {s : State} {g} {xs} {u} {k} : exec (.iaDivn g xs u k) s = execIaDivn g xs u k s := rfl
@[simp] theorem exec_iaRem {s : State} {g} {xs} {u} {k} : exec (.iaRem g xs u k) s = execIaRem g xs u k s := rfl
@[simp] theorem exec_iaRemn {s : State} {g} {xs} {u} {k} : exec (.iaRemn g xs u k) s = execIaRemn g xs u k s := rfl
@[simp] theorem exec_iaCmpeq {s : State} {g} {xs} {u} {k} : exec (.iaCmpeq g xs u k) s = execIaCmpeq g xs u k s := rfl
@[simp] theorem exec_iaCmpne {s : State} {g} {xs} {u} {k} : exec (.iaCmpne g xs u k) s = execIaCmpne g xs u k s := rfl
@[simp] theorem exec_iaCmplt {s : State} {g} {xs} {u} {k} : exec (.iaCmplt g xs u k) s = execIaCmplt g xs u k s := rfl
@[simp] theorem exec_iaCmpltn {s : State} {g} {xs} {u} {k} : exec (.iaCmpltn g xs u k) s = execIaCmpltn g xs u k s := rfl
@[simp] theorem exec_iaCmple {s : State} {g} {xs} {u} {k} : exec (.iaCmple g xs u k) s = execIaCmple g xs u k s := rfl
@[simp] theorem exec_iaCmplen {s : State} {g} {xs} {u} {k} : exec (.iaCmplen g xs u k) s = execIaCmplen g xs u k s := rfl
@[simp] theorem exec_iaSel {s : State} {g} {xs} {u} {k} : exec (.iaSel g xs u k) s = execIaSel g xs u k s := rfl
@[simp] theorem exec_iaLea {s : State} {g} {xs} {u} {k} : exec (.iaLea g xs u k) s = execIaLea g xs u k s := rfl
@[simp] theorem exec_iaBfx {s : State} {g} {xs} {u} {k} : exec (.iaBfx g xs u k) s = execIaBfx g xs u k s := rfl
@[simp] theorem exec_iaBfi {s : State} {g} {xs} {u} {k} : exec (.iaBfi g xs u k) s = execIaBfi g xs u k s := rfl
@[simp] theorem exec_iaClz {s : State} {g} {xs} {u} {k} : exec (.iaClz g xs u k) s = execIaClz g xs u k s := rfl
@[simp] theorem exec_iaCtz {s : State} {g} {xs} {u} {k} : exec (.iaCtz g xs u k) s = execIaCtz g xs u k s := rfl
@[simp] theorem exec_iaPopc {s : State} {g} {xs} {u} {k} : exec (.iaPopc g xs u k) s = execIaPopc g xs u k s := rfl
@[simp] theorem exec_iaMov {s : State} {g} {xs} {u} {k} : exec (.iaMov g xs u k) s = execIaMov g xs u k s := rfl
@[simp] theorem exec_iaSext {s : State} {g} {xs} {u} {k} : exec (.iaSext g xs u k) s = execIaSext g xs u k s := rfl
@[simp] theorem exec_iaZext {s : State} {g} {xs} {u} {k} : exec (.iaZext g xs u k) s = execIaZext g xs u k s := rfl
@[simp] theorem exec_vadd {s : State} {g} {xs} {u} {k} : exec (.vadd g xs u k) s = execVadd g xs u k s := rfl
@[simp] theorem exec_vsub {s : State} {g} {xs} {u} {k} : exec (.vsub g xs u k) s = execVsub g xs u k s := rfl
@[simp] theorem exec_vmul {s : State} {g} {xs} {u} {k} : exec (.vmul g xs u k) s = execVmul g xs u k s := rfl
@[simp] theorem exec_vfma {s : State} {g} {xs} {u} {k} : exec (.vfma g xs u k) s = execVfma g xs u k s := rfl
@[simp] theorem exec_vmax {s : State} {g} {xs} {u} {k} : exec (.vmax g xs u k) s = execVmax g xs u k s := rfl
@[simp] theorem exec_vmin {s : State} {g} {xs} {u} {k} : exec (.vmin g xs u k) s = execVmin g xs u k s := rfl
@[simp] theorem exec_vabs {s : State} {g} {xs} {u} {k} : exec (.vabs g xs u k) s = execVabs g xs u k s := rfl
@[simp] theorem exec_vneg {s : State} {g} {xs} {u} {k} : exec (.vneg g xs u k) s = execVneg g xs u k s := rfl
@[simp] theorem exec_vcmpeq {s : State} {g} {xs} {u} {k} : exec (.vcmpeq g xs u k) s = execVcmpeq g xs u k s := rfl
@[simp] theorem exec_vcmplt {s : State} {g} {xs} {u} {k} : exec (.vcmplt g xs u k) s = execVcmplt g xs u k s := rfl
@[simp] theorem exec_vcmple {s : State} {g} {xs} {u} {k} : exec (.vcmple g xs u k) s = execVcmple g xs u k s := rfl
@[simp] theorem exec_vsel {s : State} {g} {xs} {u} {k} : exec (.vsel g xs u k) s = execVsel g xs u k s := rfl
@[simp] theorem exec_vcvt {s : State} {g} {xs} {u} {k} : exec (.vcvt g xs u k) s = execVcvt g xs u k s := rfl
@[simp] theorem exec_vsplat {s : State} {g} {xs} {u} {k} : exec (.vsplat g xs u k) s = execVsplat g xs u k s := rfl
@[simp] theorem exec_vperm {s : State} {g} {xs} {u} {k} : exec (.vperm g xs u k) s = execVperm g xs u k s := rfl
@[simp] theorem exec_vshuf {s : State} {g} {xs} {u} {k} : exec (.vshuf g xs u k) s = execVshuf g xs u k s := rfl
@[simp] theorem exec_vredadd {s : State} {g} {xs} {u} {k} : exec (.vredadd g xs u k) s = execVredadd g xs u k s := rfl
@[simp] theorem exec_vredmax {s : State} {g} {xs} {u} {k} : exec (.vredmax g xs u k) s = execVredmax g xs u k s := rfl
@[simp] theorem exec_vexp2 {s : State} {g} {xs} {u} {k} : exec (.vexp2 g xs u k) s = execVexp2 g xs u k s := rfl
@[simp] theorem exec_vlog2 {s : State} {g} {xs} {u} {k} : exec (.vlog2 g xs u k) s = execVlog2 g xs u k s := rfl
@[simp] theorem exec_vrcp {s : State} {g} {xs} {u} {k} : exec (.vrcp g xs u k) s = execVrcp g xs u k s := rfl
@[simp] theorem exec_vrsq {s : State} {g} {xs} {u} {k} : exec (.vrsq g xs u k) s = execVrsq g xs u k s := rfl
@[simp] theorem exec_vdot2 {s : State} {g} {xs} {u} {k} : exec (.vdot2 g xs u k) s = execVdot2 g xs u k s := rfl
@[simp] theorem exec_vscl {s : State} {g} {xs} {u} {k} : exec (.vscl g xs u k) s = execVscl g xs u k s := rfl
@[simp] theorem exec_vpln {s : State} {g} {xs} {u} {k} : exec (.vpln g xs u k) s = execVpln g xs u k s := rfl
@[simp] theorem exec_vupl {s : State} {g} {xs} {u} {k} : exec (.vupl g xs u k) s = execVupl g xs u k s := rfl
@[simp] theorem exec_vand {s : State} {g} {xs} {u} {k} : exec (.vand g xs u k) s = execVand g xs u k s := rfl
@[simp] theorem exec_vor {s : State} {g} {xs} {u} {k} : exec (.vor g xs u k) s = execVor g xs u k s := rfl
@[simp] theorem exec_vxor {s : State} {g} {xs} {u} {k} : exec (.vxor g xs u k) s = execVxor g xs u k s := rfl
@[simp] theorem exec_vshl {s : State} {g} {xs} {u} {k} : exec (.vshl g xs u k) s = execVshl g xs u k s := rfl
@[simp] theorem exec_vshr {s : State} {g} {xs} {u} {k} : exec (.vshr g xs u k) s = execVshr g xs u k s := rfl
@[simp] theorem exec_vidx {s : State} {g} {xs} {u} {k} : exec (.vidx g xs u k) s = execVidx g xs u k s := rfl
@[simp] theorem exec_vext {s : State} {g} {xs} {u} {k} : exec (.vext g xs u k) s = execVext g xs u k s := rfl
@[simp] theorem exec_vins {s : State} {g} {xs} {u} {k} : exec (.vins g xs u k) s = execVins g xs u k s := rfl
@[simp] theorem exec_vclmp {s : State} {g} {xs} {u} {k} : exec (.vclmp g xs u k) s = execVclmp g xs u k s := rfl
@[simp] theorem exec_vtag {s : State} {g} {xs} {u} {k} : exec (.vtag g xs u k) s = execVtag g xs u k s := rfl
@[simp] theorem exec_mePa {s : State} {g} {xs} {k} : exec (.mePa g xs k) s = execMePa g xs k s := rfl
@[simp] theorem exec_mePb {s : State} {g} {xs} {k} : exec (.mePb g xs k) s = execMePb g xs k s := rfl
@[simp] theorem exec_meAcc {s : State} {g} {xs} {k} : exec (.meAcc g xs k) s = execMeAcc g xs k s := rfl
@[simp] theorem exec_meSh {s : State} {g} {xs} {k} : exec (.meSh g xs k) s = execMeSh g xs k s := rfl
@[simp] theorem exec_meDr {s : State} {g} {xs} {k} : exec (.meDr g xs k) s = execMeDr g xs k s := rfl
@[simp] theorem exec_meClr {s : State} {g} {xs} {k} : exec (.meClr g xs k) s = execMeClr g xs k s := rfl
@[simp] theorem exec_meCls {s : State} {g} {xs} {k} : exec (.meCls g xs k) s = execMeCls g xs k s := rfl
@[simp] theorem exec_meThr {s : State} {g} {xs} {k} : exec (.meThr g xs k) s = execMeThr g xs k s := rfl
@[simp] theorem exec_meSeq {s : State} {g} {xs} {k} : exec (.meSeq g xs k) s = execMeSeq g xs k s := rfl
@[simp] theorem exec_meSqs {s : State} {g} {xs} {k} : exec (.meSqs g xs k) s = execMeSqs g xs k s := rfl
@[simp] theorem exec_lsLd {s : State} {g} {xs} {k} : exec (.lsLd g xs k) s = execLsLd g xs k s := rfl
@[simp] theorem exec_lsSt {s : State} {g} {xs} {k} : exec (.lsSt g xs k) s = execLsSt g xs k s := rfl
@[simp] theorem exec_lsVld {s : State} {g} {xs} {k} : exec (.lsVld g xs k) s = execLsVld g xs k s := rfl
@[simp] theorem exec_lsVst {s : State} {g} {xs} {k} : exec (.lsVst g xs k) s = execLsVst g xs k s := rfl
@[simp] theorem exec_lsVlds {s : State} {g} {xs} {k} : exec (.lsVlds g xs k) s = execLsVlds g xs k s := rfl
@[simp] theorem exec_lsVgat {s : State} {g} {xs} {k} : exec (.lsVgat g xs k) s = execLsVgat g xs k s := rfl
@[simp] theorem exec_lsVsca {s : State} {g} {xs} {k} : exec (.lsVsca g xs k) s = execLsVsca g xs k s := rfl
@[simp] theorem exec_lsCld {s : State} {g} {xs} {k} : exec (.lsCld g xs k) s = execLsCld g xs k s := rfl
@[simp] theorem exec_lsCst {s : State} {g} {xs} {k} : exec (.lsCst g xs k) s = execLsCst g xs k s := rfl
@[simp] theorem exec_lsMst {s : State} {g} {xs} {k} : exec (.lsMst g xs k) s = execLsMst g xs k s := rfl
@[simp] theorem exec_lsPld {s : State} {g} {xs} {k} : exec (.lsPld g xs k) s = execLsPld g xs k s := rfl
@[simp] theorem exec_lsTld {s : State} {g} {xs} {k} : exec (.lsTld g xs k) s = execLsTld g xs k s := rfl
@[simp] theorem exec_lsAld {s : State} {g} {xs} {k} : exec (.lsAld g xs k) s = execLsAld g xs k s := rfl
@[simp] theorem exec_lsAst {s : State} {g} {xs} {k} : exec (.lsAst g xs k) s = execLsAst g xs k s := rfl
@[simp] theorem exec_ctBr {s : State} {g} {xs} {k} : exec (.ctBr g xs k) s = execCtBr g xs k s := rfl
@[simp] theorem exec_ctBrc {s : State} {g} {xs} {k} : exec (.ctBrc g xs k) s = execCtBrc g xs k s := rfl
@[simp] theorem exec_ctCall {s : State} {g} {xs} {k} : exec (.ctCall g xs k) s = execCtCall g xs k s := rfl
@[simp] theorem exec_ctRet {s : State} {g} {xs} {k} : exec (.ctRet g xs k) s = execCtRet g xs k s := rfl
@[simp] theorem exec_ctJr {s : State} {g} {xs} {k} : exec (.ctJr g xs k) s = execCtJr g xs k s := rfl
@[simp] theorem exec_ctLoop {s : State} {g} {xs} {k} : exec (.ctLoop g xs k) s = execCtLoop g xs k s := rfl
@[simp] theorem exec_ctLbrk {s : State} {g} {xs} {k} : exec (.ctLbrk g xs k) s = execCtLbrk g xs k s := rfl
@[simp] theorem exec_ctLend {s : State} {g} {xs} {k} : exec (.ctLend g xs k) s = execCtLend g xs k s := rfl
@[simp] theorem exec_ctFuse {s : State} {g} {xs} {k} : exec (.ctFuse g xs k) s = execCtFuse g xs k s := rfl
@[simp] theorem exec_ctDecouple {s : State} {g} {xs} {k} : exec (.ctDecouple g xs k) s = execCtDecouple g xs k s := rfl
@[simp] theorem exec_ctRejoin {s : State} {g} {xs} {k} : exec (.ctRejoin g xs k) s = execCtRejoin g xs k s := rfl
@[simp] theorem exec_ctSusp {s : State} {g} {xs} {k} : exec (.ctSusp g xs k) s = execCtSusp g xs k s := rfl
@[simp] theorem exec_ctYield {s : State} {g} {xs} {k} : exec (.ctYield g xs k) s = execCtYield g xs k s := rfl
@[simp] theorem exec_ctTrap {s : State} {g} {xs} {k} : exec (.ctTrap g xs k) s = execCtTrap g xs k s := rfl
@[simp] theorem exec_ctBrk {s : State} {g} {xs} {k} : exec (.ctBrk g xs k) s = execCtBrk g xs k s := rfl
@[simp] theorem exec_ctKr {s : State} {g} {xs} {k} : exec (.ctKr g xs k) s = execCtKr g xs k s := rfl
@[simp] theorem exec_ctKw {s : State} {g} {xs} {k} : exec (.ctKw g xs k) s = execCtKw g xs k s := rfl
@[simp] theorem exec_ctEret {s : State} {g} {xs} {k} : exec (.ctEret g xs k) s = execCtEret g xs k s := rfl
@[simp] theorem exec_ctPand {s : State} {g} {xs} {k} : exec (.ctPand g xs k) s = execCtPand g xs k s := rfl
@[simp] theorem exec_ctPor {s : State} {g} {xs} {k} : exec (.ctPor g xs k) s = execCtPor g xs k s := rfl
@[simp] theorem exec_ctPxor {s : State} {g} {xs} {k} : exec (.ctPxor g xs k) s = execCtPxor g xs k s := rfl
@[simp] theorem exec_ctPnot {s : State} {g} {xs} {k} : exec (.ctPnot g xs k) s = execCtPnot g xs k s := rfl
@[simp] theorem exec_ctTokw {s : State} {g} {xs} {k} : exec (.ctTokw g xs k) s = execCtTokw g xs k s := rfl
@[simp] theorem exec_asPost {s : State} {g} {xs} {k} : exec (.asPost g xs k) s = execAsPost g xs k s := rfl
@[simp] theorem exec_asTwait {s : State} {g} {xs} {k} : exec (.asTwait g xs k) s = execAsTwait g xs k s := rfl
@[simp] theorem exec_asTstat {s : State} {g} {xs} {k} : exec (.asTstat g xs k) s = execAsTstat g xs k s := rfl
@[simp] theorem exec_asBalloc {s : State} {g} {xs} {k} : exec (.asBalloc g xs k) s = execAsBalloc g xs k s := rfl
@[simp] theorem exec_asBarr {s : State} {g} {xs} {k} : exec (.asBarr g xs k) s = execAsBarr g xs k s := rfl
@[simp] theorem exec_asBwait {s : State} {g} {xs} {k} : exec (.asBwait g xs k) s = execAsBwait g xs k s := rfl
@[simp] theorem exec_asBfree {s : State} {g} {xs} {k} : exec (.asBfree g xs k) s = execAsBfree g xs k s := rfl
@[simp] theorem exec_asHbind {s : State} {g} {xs} {k} : exec (.asHbind g xs k) s = execAsHbind g xs k s := rfl
@[simp] theorem exec_asHacq {s : State} {g} {xs} {k} : exec (.asHacq g xs k) s = execAsHacq g xs k s := rfl
@[simp] theorem exec_asHrel {s : State} {g} {xs} {k} : exec (.asHrel g xs k) s = execAsHrel g xs k s := rfl
@[simp] theorem exec_asHpub {s : State} {g} {xs} {k} : exec (.asHpub g xs k) s = execAsHpub g xs k s := rfl
@[simp] theorem exec_asHobs {s : State} {g} {xs} {k} : exec (.asHobs g xs k) s = execAsHobs g xs k s := rfl
@[simp] theorem exec_asSae {s : State} {g} {xs} {k} : exec (.asSae g xs k) s = execAsSae g xs k s := rfl
@[simp] theorem exec_asSaer {s : State} {g} {xs} {k} : exec (.asSaer g xs k) s = execAsSaer g xs k s := rfl
@[simp] theorem exec_asTpost {s : State} {g} {xs} {k} : exec (.asTpost g xs k) s = execAsTpost g xs k s := rfl
@[simp] theorem exec_asNotify {s : State} {g} {xs} {k} : exec (.asNotify g xs k) s = execAsNotify g xs k s := rfl
@[simp] theorem exec_asSortx {s : State} {g} {xs} {k} : exec (.asSortx g xs k) s = execAsSortx g xs k s := rfl
@[simp] theorem exec_asRnd {s : State} {g} {xs} {k} : exec (.asRnd g xs k) s = execAsRnd g xs k s := rfl
@[simp] theorem exec_asPmark {s : State} {g} {xs} {k} : exec (.asPmark g xs k) s = execAsPmark g xs k s := rfl
@[simp] theorem exec_asIcinv {s : State} {g} {xs} {k} : exec (.asIcinv g xs k) s = execAsIcinv g xs k s := rfl
@[simp] theorem exec_moveToRegister {s : State} {g} {xs} {d} : exec (.moveToRegister g xs d) s = execMoveToRegister g xs d s := rfl
@[simp] theorem exec_moveToPort {s : State} {g} {xs} {u} {p} : exec (.moveToPort g xs u p) s = execMoveToPort g xs u p s := rfl
@[simp] theorem exec_moveToNullSink {s : State} {g} {xs} : exec (.moveToNullSink g xs) s = execMoveToNullSink g xs s := rfl
@[simp] theorem exec_qadd {s : State} {h} {b} {a} {d} : exec (.qadd h b a d) s = execQadd h b a d s := rfl
@[simp] theorem exec_qsub {s : State} {h} {b} {a} {d} : exec (.qsub h b a d) s = execQsub h b a d s := rfl
@[simp] theorem exec_qmul {s : State} {h} {b} {a} {d} : exec (.qmul h b a d) s = execQmul h b a d s := rfl
@[simp] theorem exec_qfma {s : State} {h} {b} {a} {d} : exec (.qfma h b a d) s = execQfma h b a d s := rfl
@[simp] theorem exec_qmax {s : State} {h} {b} {a} {d} : exec (.qmax h b a d) s = execQmax h b a d s := rfl
@[simp] theorem exec_qmin {s : State} {h} {b} {a} {d} : exec (.qmin h b a d) s = execQmin h b a d s := rfl
@[simp] theorem exec_qabs {s : State} {h} {a} {d} : exec (.qabs h a d) s = execQabs h a d s := rfl
@[simp] theorem exec_qneg {s : State} {h} {a} {d} : exec (.qneg h a d) s = execQneg h a d s := rfl
@[simp] theorem exec_qclmp {s : State} {h} {b} {a} {d} : exec (.qclmp h b a d) s = execQclmp h b a d s := rfl
@[simp] theorem exec_qcmpeq {s : State} {h} {b} {a} {d} : exec (.qcmpeq h b a d) s = execQcmpeq h b a d s := rfl
@[simp] theorem exec_qcmplt {s : State} {h} {b} {a} {d} : exec (.qcmplt h b a d) s = execQcmplt h b a d s := rfl
@[simp] theorem exec_qcmple {s : State} {h} {b} {a} {d} : exec (.qcmple h b a d) s = execQcmple h b a d s := rfl
@[simp] theorem exec_qsel {s : State} {h} {b} {a} {d} : exec (.qsel h b a d) s = execQsel h b a d s := rfl
@[simp] theorem exec_qand {s : State} {h} {b} {a} {d} : exec (.qand h b a d) s = execQand h b a d s := rfl
@[simp] theorem exec_qor {s : State} {h} {b} {a} {d} : exec (.qor h b a d) s = execQor h b a d s := rfl
@[simp] theorem exec_qxor {s : State} {h} {b} {a} {d} : exec (.qxor h b a d) s = execQxor h b a d s := rfl
@[simp] theorem exec_qshl {s : State} {h} {b} {a} {d} : exec (.qshl h b a d) s = execQshl h b a d s := rfl
@[simp] theorem exec_qshr {s : State} {h} {b} {a} {d} : exec (.qshr h b a d) s = execQshr h b a d s := rfl
@[simp] theorem exec_qidx {s : State} {h} {b} {a} {d} : exec (.qidx h b a d) s = execQidx h b a d s := rfl
@[simp] theorem exec_qext {s : State} {h} {b} {a} {d} : exec (.qext h b a d) s = execQext h b a d s := rfl
@[simp] theorem exec_qins {s : State} {h} {b} {a} {d} : exec (.qins h b a d) s = execQins h b a d s := rfl
@[simp] theorem exec_qperm {s : State} {h} {b} {a} {d} : exec (.qperm h b a d) s = execQperm h b a d s := rfl
@[simp] theorem exec_qshuf {s : State} {h} {b} {a} {d} : exec (.qshuf h b a d) s = execQshuf h b a d s := rfl
@[simp] theorem exec_qredadd {s : State} {h} {a} {d} : exec (.qredadd h a d) s = execQredadd h a d s := rfl
@[simp] theorem exec_qredmax {s : State} {h} {a} {d} : exec (.qredmax h a d) s = execQredmax h a d s := rfl
@[simp] theorem exec_qexp2 {s : State} {h} {a} {d} : exec (.qexp2 h a d) s = execQexp2 h a d s := rfl
@[simp] theorem exec_qlog2 {s : State} {h} {a} {d} : exec (.qlog2 h a d) s = execQlog2 h a d s := rfl
@[simp] theorem exec_qrcp {s : State} {h} {a} {d} : exec (.qrcp h a d) s = execQrcp h a d s := rfl
@[simp] theorem exec_qrsq {s : State} {h} {a} {d} : exec (.qrsq h a d) s = execQrsq h a d s := rfl
@[simp] theorem exec_qdot2 {s : State} {h} {b} {a} {d} : exec (.qdot2 h b a d) s = execQdot2 h b a d s := rfl
@[simp] theorem exec_qscl {s : State} {h} {b} {a} {d} : exec (.qscl h b a d) s = execQscl h b a d s := rfl
@[simp] theorem exec_qpln {s : State} {h} {b} {a} {d} : exec (.qpln h b a d) s = execQpln h b a d s := rfl
@[simp] theorem exec_qupl {s : State} {h} {b} {a} {d} : exec (.qupl h b a d) s = execQupl h b a d s := rfl
@[simp] theorem exec_qcvtx {s : State} {h} {b} {a} {d} : exec (.qcvtx h b a d) s = execQcvtx h b a d s := rfl
@[simp] theorem exec_qsortx {s : State} {h} {b} {a} {d} : exec (.qsortx h b a d) s = execQsortx h b a d s := rfl
@[simp] theorem exec_qsplat {s : State} {h} {t} {a} {d} : exec (.qsplat h t a d) s = execQsplat h t a d s := rfl
@[simp] theorem exec_qcvt {s : State} {h} {t} {a} {d} : exec (.qcvt h t a d) s = execQcvt h t a d s := rfl
@[simp] theorem exec_qtag {s : State} {h} {t} {a} {d} : exec (.qtag h t a d) s = execQtag h t a d s := rfl
@[simp] theorem exec_qld {s : State} {h} {t} {o} {a} {d} : exec (.qld h t o a d) s = execQld h t o a d s := rfl
@[simp] theorem exec_qst {s : State} {h} {o} {a} {d} : exec (.qst h o a d) s = execQst h o a d s := rfl
@[simp] theorem exec_qlds {s : State} {h} {b} {a} {d} : exec (.qlds h b a d) s = execQlds h b a d s := rfl
@[simp] theorem exec_qgat {s : State} {h} {b} {a} {d} : exec (.qgat h b a d) s = execQgat h b a d s := rfl
@[simp] theorem exec_qsca {s : State} {h} {b} {a} {d} : exec (.qsca h b a d) s = execQsca h b a d s := rfl
@[simp] theorem exec_qmst {s : State} {h} {b} {a} {d} : exec (.qmst h b a d) s = execQmst h b a d s := rfl
@[simp] theorem exec_mclr {s : State} {h} {d} : exec (.mclr h d) s = execMclr h d s := rfl
@[simp] theorem exec_mcls {s : State} {h} {b} {d} : exec (.mcls h b d) s = execMcls h b d s := rfl
@[simp] theorem exec_mthr {s : State} {h} {b} {a} : exec (.mthr h b a) s = execMthr h b a s := rfl
@[simp] theorem exec_mmac {s : State} {h} {b} {a} {d} : exec (.mmac h b a d) s = execMmac h b a d s := rfl
@[simp] theorem exec_mdr {s : State} {h} {b} {a} {d} : exec (.mdr h b a d) s = execMdr h b a d s := rfl
@[simp] theorem exec_mrd {s : State} {h} {b} {a} {d} : exec (.mrd h b a d) s = execMrd h b a d s := rfl
@[simp] theorem exec_mwr {s : State} {h} {b} {a} {d} : exec (.mwr h b a d) s = execMwr h b a d s := rfl
@[simp] theorem exec_qpost {s : State} {h} {a} {d} : exec (.qpost h a d) s = execQpost h a d s := rfl
@[simp] theorem exec_twait {s : State} {h} {b} {a} : exec (.twait h b a) s = execTwait h b a s := rfl
@[simp] theorem exec_tstat {s : State} {h} {a} {d} : exec (.tstat h a d) s = execTstat h a d s := rfl
@[simp] theorem exec_hbind {s : State} {h} {b} {a} {d} : exec (.hbind h b a d) s = execHbind h b a d s := rfl
@[simp] theorem exec_hacq {s : State} {h} {b} {a} {c} {xs} : exec (.hacq h b a c xs) s = execHacq h b a c xs s := rfl
@[simp] theorem exec_hrel {s : State} {h} {b} {a} {xs} : exec (.hrel h b a xs) s = execHrel h b a xs s := rfl
@[simp] theorem exec_hpub {s : State} {h} {xs} : exec (.hpub h xs) s = execHpub h xs s := rfl
@[simp] theorem exec_hobs {s : State} {h} {xs} : exec (.hobs h xs) s = execHobs h xs s := rfl
@[simp] theorem exec_tpost {s : State} {h} {a} {d} : exec (.tpost h a d) s = execTpost h a d s := rfl
@[simp] theorem exec_cend {s : State} {h} : exec (.cend h) s = execCend h s := rfl
@[simp] theorem exec_csusp {s : State} {h} {a} : exec (.csusp h a) s = execCsusp h a s := rfl
@[simp] theorem exec_cyield {s : State} {h} {a} : exec (.cyield h a) s = execCyield h a s := rfl
@[simp] theorem exec_notify {s : State} {h} {a} : exec (.notify h a) s = execNotify h a s := rfl
@[simp] theorem exec_pmark {s : State} {h} {a} : exec (.pmark h a) s = execPmark h a s := rfl
@[simp] theorem exec_qrnd {s : State} {h} {d} : exec (.qrnd h d) s = execQrnd h d s := rfl
@[simp] theorem exec_portableLoad {s : State} {f3} {rd} {rs1} {imm} : exec (.portableLoad f3 rd rs1 imm) s = execPortableLoad f3 rd rs1 imm s := rfl
@[simp] theorem exec_portableStore {s : State} {f3} {rs1} {rs2} {imm} : exec (.portableStore f3 rs1 rs2 imm) s = execPortableStore f3 rs1 rs2 imm s := rfl
@[simp] theorem exec_fence {s : State} {fm} {pred} {succ} {rs1} {rd} : exec (.fence fm pred succ rs1 rd) s = execFence fm pred succ rs1 rd s := rfl
@[simp] theorem exec_fenceI {s : State} {imm} {rs1} {rd} : exec (.fenceI imm rs1 rd) s = execFenceI imm rs1 rd s := rfl
@[simp] theorem exec_ecall {s : State} : exec (.ecall) s = execEcall s := rfl
@[simp] theorem exec_ebreak {s : State} : exec (.ebreak) s = execEbreak s := rfl
@[simp] theorem exec_portableDivide {s : State} {w} {f3} {rd} {rs1} {rs2} : exec (.portableDivide w f3 rd rs1 rs2) s = execPortableDivide w f3 rd rs1 rs2 s := rfl
@[simp] theorem exec_portableBranchJump {s : State} {j} : exec (.portableBranchJump j) s = execPortableBranchJump j s := rfl
@[simp] theorem exec_csrAccess {s : State} {csr} {f3} {rd} {src} : exec (.csrAccess csr f3 rd src) s = execCsrAccess csr f3 rd src s := rfl
@[simp] theorem exec_portableIntegerOp {s : State} {op} : exec (.portableIntegerOp op) s = execPortableIntegerOp op s := rfl
@[simp] theorem exec_bundleDispatch {s : State} {g} : exec (.bundleDispatch g) s = execBundleDispatch g s := rfl
@[simp] theorem exec_resultLand {s : State} {g} : exec (.resultLand g) s = execResultLand g s := rfl
@[simp] theorem exec_loopPassEnd {s : State} {g} : exec (.loopPassEnd g) s = execLoopPassEnd g s := rfl
@[simp] theorem exec_engineConsume {s : State} {g} : exec (.engineConsume g) s = execEngineConsume g s := rfl
@[simp] theorem exec_sequencerStep {s : State} {g} : exec (.sequencerStep g) s = execSequencerStep g s := rfl
@[simp] theorem exec_tokenReturn {s : State} {g} : exec (.tokenReturn g) s = execTokenReturn g s := rfl
@[simp] theorem exec_engineWakeAdmit {s : State} {g} : exec (.engineWakeAdmit g) s = execEngineWakeAdmit g s := rfl
@[simp] theorem exec_clusterGrant {s : State} {g} : exec (.clusterGrant g) s = execClusterGrant g s := rfl
@[simp] theorem exec_writeStagingDrain {s : State} {g} : exec (.writeStagingDrain g) s = execWriteStagingDrain g s := rfl
@[simp] theorem exec_readStagingExpire {s : State} {g} {line} : exec (.readStagingExpire g line) s = execReadStagingExpire g line s := rfl
@[simp] theorem exec_userInterruptTake {s : State} {g} : exec (.userInterruptTake g) s = execUserInterruptTake g s := rfl
@[simp] theorem exec_twaitRelease {s : State} {g} : exec (.twaitRelease g) s = execTwaitRelease g s := rfl
@[simp] theorem exec_hacqRelease {s : State} {g} : exec (.hacqRelease g) s = execHacqRelease g s := rfl
@[simp] theorem exec_hrelDone {s : State} {g} : exec (.hrelDone g) s = execHrelDone g s := rfl
@[simp] theorem exec_hpubDone {s : State} {g} : exec (.hpubDone g) s = execHpubDone g s := rfl
@[simp] theorem exec_hbindDone {s : State} {g} {sram} : exec (.hbindDone g sram) s = execHbindDone g sram s := rfl
@[simp] theorem exec_bwaitRelease {s : State} {g} : exec (.bwaitRelease g) s = execBwaitRelease g s := rfl
@[simp] theorem exec_ballocDone {s : State} {g} : exec (.ballocDone g) s = execBallocDone g s := rfl
@[simp] theorem exec_postClaim {s : State} {g} : exec (.postClaim g) s = execPostClaim g s := rfl
@[simp] theorem exec_tpostDone {s : State} {g} : exec (.tpostDone g) s = execTpostDone g s := rfl
@[simp] theorem exec_rejoinRelease {s : State} {g} : exec (.rejoinRelease g) s = execRejoinRelease g s := rfl
@[simp] theorem exec_fuseRelease {s : State} {g} : exec (.fuseRelease g) s = execFuseRelease g s := rfl
@[simp] theorem exec_entropyReady {s : State} {d} {draw} : exec (.entropyReady d draw) s = execEntropyReady d draw s := rfl
@[simp] theorem exec_saeApply {s : State} {c} {n} : exec (.saeApply c n) s = execSaeApply c n s := rfl
@[simp] theorem exec_stop {s : State} {g} : exec (.stop g) s = execStop g s := rfl
@[simp] theorem exec_resume {s : State} {p} {g} : exec (.resume p g) s = execResume p g s := rfl
@[simp] theorem exec_watchdog {s : State} {g} : exec (.watchdog g) s = execWatchdog g s := rfl
@[simp] theorem exec_preemptionDeadline {s : State} {g} : exec (.preemptionDeadline g) s = execPreemptionDeadline g s := rfl
@[simp] theorem exec_softPreemption {s : State} {g} : exec (.softPreemption g) s = execSoftPreemption g s := rfl
@[simp] theorem exec_teardown {s : State} {asid} {pa} : exec (.teardown asid pa) s = execTeardown asid pa s := rfl
@[simp] theorem exec_sramError {s : State} {structure_} {idx} {g} {correctable} : exec (.sramError structure_ idx g correctable) s = execSramError structure_ idx g correctable s := rfl
@[simp] theorem exec_handOver {s : State} {g} : exec (.handOver g) s = execHandOver g s := rfl
@[simp] theorem exec_shiftRequest {s : State} {g} : exec (.shiftRequest g) s = execShiftRequest g s := rfl
@[simp] theorem exec_derailleurReevaluate {s : State} {t} : exec (.derailleurReevaluate t) s = execDerailleurReevaluate t s := rfl
@[simp] theorem exec_recordWake {s : State} {t} : exec (.recordWake t) s = execRecordWake t s := rfl
@[simp] theorem exec_dispatch {s : State} {p} {g} : exec (.dispatch p g) s = execDispatch p g s := rfl
@[simp] theorem exec_level7Preempt {s : State} {p} : exec (.level7Preempt p) s = execLevel7Preempt p s := rfl
@[simp] theorem exec_gatherStart {s : State} {p} : exec (.gatherStart p) s = execGatherStart p s := rfl
@[simp] theorem exec_gatherPreempt {s : State} {p} : exec (.gatherPreempt p) s = execGatherPreempt p s := rfl
@[simp] theorem exec_taskSlotGranted {s : State} {ch} : exec (.taskSlotGranted ch) s = execTaskSlotGranted ch s := rfl
@[simp] theorem exec_launchGroupComplete {s : State} {grp} : exec (.launchGroupComplete grp) s = execLaunchGroupComplete grp s := rfl
@[simp] theorem exec_queueCreate {s : State} {fn} {i} : exec (.queueCreate fn i) s = execQueueCreate fn i s := rfl
@[simp] theorem exec_queueClose {s : State} {fn} {i} : exec (.queueClose fn i) s = execQueueClose fn i s := rfl
@[simp] theorem exec_queueAbort {s : State} {ch} : exec (.queueAbort ch) s = execQueueAbort ch s := rfl
@[simp] theorem exec_channelBind {s : State} {vf} {i} {w} : exec (.channelBind vf i w) s = execChannelBind vf i w s := rfl
@[simp] theorem exec_takePacket {s : State} {ch} : exec (.takePacket ch) s = execTakePacket ch s := rfl
@[simp] theorem exec_packetCrcTimeout {s : State} {ch} : exec (.packetCrcTimeout ch) s = execPacketCrcTimeout ch s := rfl
@[simp] theorem exec_nullPacket {s : State} {ch} {n} : exec (.nullPacket ch n) s = execNullPacket ch n s := rfl
@[simp] theorem exec_copy {s : State} {ch} {n} : exec (.copy ch n) s = execCopy ch n s := rfl
@[simp] theorem exec_fill {s : State} {ch} {n} : exec (.fill ch n) s = execFill ch n s := rfl
@[simp] theorem exec_gather {s : State} {ch} {n} : exec (.gather ch n) s = execGather ch n s := rfl
@[simp] theorem exec_scatter {s : State} {ch} {n} : exec (.scatter ch n) s = execScatter ch n s := rfl
@[simp] theorem exec_atom {s : State} {ch} {n} : exec (.atom ch n) s = execAtom ch n s := rfl
@[simp] theorem exec_send {s : State} {ch} {n} : exec (.send ch n) s = execSend ch n s := rfl
@[simp] theorem exec_promote {s : State} {ch} {n} {frames} : exec (.promote ch n frames) s = execPromote ch n frames s := rfl
@[simp] theorem exec_demote {s : State} {ch} {n} : exec (.demote ch n) s = execDemote ch n s := rfl
@[simp] theorem exec_launch {s : State} {ch} {n} : exec (.launch ch n) s = execLaunch ch n s := rfl
@[simp] theorem exec_signal {s : State} {ch} {n} : exec (.signal ch n) s = execSignal ch n s := rfl
@[simp] theorem exec_waittl {s : State} {ch} {n} : exec (.waittl ch n) s = execWaittl ch n s := rfl
@[simp] theorem exec_icinv {s : State} {ch} {n} : exec (.icinv ch n) s = execIcinv ch n s := rfl
@[simp] theorem exec_sendAcknowledged {s : State} {ch} {n} : exec (.sendAcknowledged ch n) s = execSendAcknowledged ch n s := rfl
@[simp] theorem exec_sendAckTimeout {s : State} {ch} {n} : exec (.sendAckTimeout ch n) s = execSendAckTimeout ch n s := rfl
@[simp] theorem exec_packetComplete {s : State} {ch} : exec (.packetComplete ch) s = execPacketComplete ch s := rfl
@[simp] theorem exec_pageWalk {s : State} {e} {asid} {va} {acc} : exec (.pageWalk e asid va acc) s = execPageWalk e asid va acc s := rfl
@[simp] theorem exec_faultResolved {s : State} {ch} {n} : exec (.faultResolved ch n) s = execFaultResolved ch n s := rfl
@[simp] theorem exec_faultUnrecoverable {s : State} {ch} {n} : exec (.faultUnrecoverable ch n) s = execFaultUnrecoverable ch n s := rfl
@[simp] theorem exec_faultTimeout {s : State} {ch} {n} : exec (.faultTimeout ch n) s = execFaultTimeout ch n s := rfl
@[simp] theorem exec_invalidateVa {s : State} {w} : exec (.invalidateVa w) s = execInvalidateVa w s := rfl
@[simp] theorem exec_invalidateAsid {s : State} {w} : exec (.invalidateAsid w) s = execInvalidateAsid w s := rfl
@[simp] theorem exec_invalidateVm {s : State} {w} : exec (.invalidateVm w) s = execInvalidateVm w s := rfl
@[simp] theorem exec_invalidateAll {s : State} {w} : exec (.invalidateAll w) s = execInvalidateAll w s := rfl
@[simp] theorem exec_invalidateComplete {s : State} : exec (.invalidateComplete) s = execInvalidateComplete s := rfl
@[simp] theorem exec_homeMapChange {s : State} {chunk} {ent} : exec (.homeMapChange chunk ent) s = execHomeMapChange chunk ent s := rfl
@[simp] theorem exec_hostBar2Write {s : State} {fn} {addr} {data} : exec (.hostBar2Write fn addr data) s = execHostBar2Write fn addr data s := rfl
@[simp] theorem exec_hostBar2Read {s : State} {fn} {addr} {n} : exec (.hostBar2Read fn addr n) s = execHostBar2Read fn addr n s := rfl
@[simp] theorem exec_hostAtomic {s : State} {fn} {addr} {width} {op} {val} {cmp} : exec (.hostAtomic fn addr width op val cmp) s = execHostAtomic fn addr width op val cmp s := rfl
@[simp] theorem exec_registerWrite {s : State} {fn} {off} {val} : exec (.registerWrite fn off val) s = execRegisterWrite fn off val s := rfl
@[simp] theorem exec_flitReceive {s : State} {port} {hdr} {payload} {good} : exec (.flitReceive port hdr payload good) s = execFlitReceive port hdr payload good s := rfl
@[simp] theorem exec_flitReplay {s : State} {port} : exec (.flitReplay port) s = execFlitReplay port s := rfl
@[simp] theorem exec_portRetrain {s : State} {port} {outcome} : exec (.portRetrain port outcome) s = execPortRetrain port outcome s := rfl
@[simp] theorem exec_frequencyChange {s : State} {i} {mhz} : exec (.frequencyChange i mhz) s = execFrequencyChange i mhz s := rfl
@[simp] theorem exec_thermalSample {s : State} {i} {temps} : exec (.thermalSample i temps) s = execThermalSample i temps s := rfl
@[simp] theorem exec_throttleStep {s : State} {i} : exec (.throttleStep i) s = execThrottleStep i s := rfl
@[simp] theorem exec_fatalThermalFault {s : State} {i} {pa} : exec (.fatalThermalFault i pa) s = execFatalThermalFault i pa s := rfl
@[simp] theorem exec_powerLimit {s : State} {w} : exec (.powerLimit w) s = execPowerLimit w s := rfl
@[simp] theorem exec_bringUp {s : State} : exec (.bringUp) s = execBringUp s := rfl
@[simp] theorem exec_journalClear {s : State} : exec (.journalClear) s = execJournalClear s := rfl
@[simp] theorem exec_driverMeasurementExtend {s : State} {d} {reg} {image} : exec (.driverMeasurementExtend d reg image) s = execDriverMeasurementExtend d reg image s := rfl
@[simp] theorem exec_dumpSlotRelease {s : State} {asid} : exec (.dumpSlotRelease asid) s = execDumpSlotRelease asid s := rfl
@[simp] theorem exec_releaseHeld {s : State} {asid} : exec (.releaseHeld asid) s = execReleaseHeld asid s := rfl
@[simp] theorem exec_debuggerDetach {s : State} {asid} : exec (.debuggerDetach asid) s = execDebuggerDetach asid s := rfl
@[simp] theorem exec_halt {s : State} {g} : exec (.halt g) s = execHalt g s := rfl
@[simp] theorem exec_runHalted {s : State} {g} : exec (.runHalted g) s = execRunHalted g s := rfl
@[simp] theorem exec_stepHalted {s : State} {g} : exec (.stepHalted g) s = execStepHalted g s := rfl
@[simp] theorem exec_shut {s : State} {g} : exec (.shut g) s = execShut g s := rfl
@[simp] theorem exec_shutterAck {s : State} {g} : exec (.shutterAck g) s = execShutterAck g s := rfl
@[simp] theorem exec_openShutter {s : State} {g} : exec (.openShutter g) s = execOpenShutter g s := rfl
@[simp] theorem exec_imgout {s : State} {g} : exec (.imgout g) s = execImgout g s := rfl
@[simp] theorem exec_imgin {s : State} {g} : exec (.imgin g) s = execImgin g s := rfl
@[simp] theorem exec_evict {s : State} {g} : exec (.evict g) s = execEvict g s := rfl
@[simp] theorem exec_breakpoint {s : State} {g} : exec (.breakpoint g) s = execBreakpoint g s := rfl
@[simp] theorem exec_cadenceBreakpoint {s : State} {g} : exec (.cadenceBreakpoint g) s = execCadenceBreakpoint g s := rfl
@[simp] theorem exec_profileSessionWrite {s : State} {asid} {i} {w} : exec (.profileSessionWrite asid i w) s = execProfileSessionWrite asid i w s := rfl
@[simp] theorem exec_bundleSample {s : State} {g} : exec (.bundleSample g) s = execBundleSample g s := rfl
@[simp] theorem exec_engineSample {s : State} {g} : exec (.engineSample g) s = execEngineSample g s := rfl
@[simp] theorem exec_replayDivergence {s : State} {g} : exec (.replayDivergence g) s = execReplayDivergence g s := rfl
@[simp] theorem exec_recordBufferFull {s : State} {d} : exec (.recordBufferFull d) s = execRecordBufferFull d s := rfl
@[simp] theorem exec_recordRegionFull {s : State} : exec (.recordRegionFull) s = execRecordRegionFull s := rfl
@[simp] theorem exec_loadCodeObject {s : State} {asid} {image} {len} {handle} {places} {stores} {tableVa} {codeVa} : exec (.loadCodeObject asid image len handle places stores tableVa codeVa) s = execLoadCodeObject asid image len handle places stores tableVa codeVa s := rfl
@[simp] theorem exec_unloadCodeObject {s : State} {asid} {handle} : exec (.unloadCodeObject asid handle) s = execUnloadCodeObject asid handle s := rfl
@[simp] theorem exec_bundlePublish {s : State} {d} {asid} {handle} {ent} {va} {bundles} : exec (.bundlePublish d asid handle ent va bundles) s = execBundlePublish d asid handle ent va bundles s := rfl
@[simp] theorem exec_attestationReport {s : State} {nonce} : exec (.attestationReport nonce) s = execAttestationReport nonce s := rfl
@[simp] theorem exec_addressSpaceCreate {s : State} {asid} {words} : exec (.addressSpaceCreate asid words) s = execAddressSpaceCreate asid words s := rfl
@[simp] theorem exec_addressSpaceDelete {s : State} {asid} : exec (.addressSpaceDelete asid) s = execAddressSpaceDelete asid s := rfl
@[simp] theorem exec_modulePowerDown {s : State} : exec (.modulePowerDown) s = execModulePowerDown s := rfl
@[simp] theorem exec_commandInFlightComplete {s : State} {g} : exec (.commandInFlightComplete g) s = execCommandInFlightComplete g s := rfl
@[simp] theorem exec_icacheDiscardDone {s : State} {g} : exec (.icacheDiscardDone g) s = execIcacheDiscardDone g s := rfl
@[simp] theorem exec_recordBufferDrained {s : State} {d} : exec (.recordBufferDrained d) s = execRecordBufferDrained d s := rfl

end Sys2Proof.Machine
end

