-- ==== Sys2Proof/Laws/Moves.lean ====
section
/-! SUPPORT. What the shared frames of a native move do: guarded off, refused source, acting; and the forms of their results. -/

namespace Sys2Proof.Machine

variable {s : State} {unit : Nat} {gd : BitVec 3} {src : BitVec 10} {k : BitVec 1} {x : MoveCtx}

/-- The core that a move issues on is the one it reads. -/
theorem issues_core (h : s.issues unit gd src x) : s.coreC x.g = x.c := by rw [h.1, h.2.1]

/-- A move whose guard is on and whose source is readable acts. -/
theorem runMove_issues (h : s.issues unit gd src x) (body : MoveCtx → State) :
    runMove unit gd src s body = .next (body x) := by
  obtain ⟨h1, h2, h3, h4, h5⟩ := h
  unfold runMove
  simp only [← h2, h3, h4, h5]
  simp [← h1]

/-- A move that is guarded off does nothing. -/
theorem runMove_off (body : MoveCtx → State)
    (h : (s.coreC s.focus).guard ((s.coreC s.focus).context unit).1 ((s.coreC s.focus).context unit).2 gd = false) :
    runMove unit gd src s body = .next s := by
  simp [runMove, h]

/-- Whatever a move does, it is nothing, a refused source's trap, or its body. -/
theorem runMove_cases (unit : Nat) (gd : BitVec 3) (src : BitVec 10) (s : State) (body : MoveCtx → State) :
    runMove unit gd src s body = .next s ∨
    (∃ k b v, runMove unit gd src s body = .next (s.trapMove s.focus k b 0x04 v)) ∨
    (∃ x : MoveCtx, s.issues unit gd src x ∧ runMove unit gd src s body = .next (body x)) := by
  by_cases hg : (s.coreC s.focus).guard ((s.coreC s.focus).context unit).1 ((s.coreC s.focus).context unit).2 gd = false
  · exact .inl (runMove_off body hg)
  · cases hs : (s.coreC s.focus).source ((s.coreC s.focus).context unit).1 ((s.coreC s.focus).context unit).2 src with
    | error v =>
      exact .inr (.inl ⟨((s.coreC s.focus).context unit).1, ((s.coreC s.focus).context unit).2, v, by
        simp only [runMove, hs]; simp [hg]⟩)
    | ok p =>
      refine .inr (.inr ⟨⟨s.focus, s.coreC s.focus, _, _, p.1, p.2⟩, ⟨rfl, rfl, rfl, by simpa using hg, hs⟩, ?_⟩)
      simp only [runMove, hs]; simp [hg]

theorem finish_ok (h : s.issues unit gd src x) (lat : Nat) (v : TVal) (fl : Flags) :
    x.finish s lat k (.ok v fl) = x.lands s lat k v fl := by
  simp [MoveCtx.finish, MoveCtx.lands, State.modC, CoreC.start, issues_core h]

theorem finish_trap (lat c d : Nat) : x.finish s lat k (.trap c d) = s.trapMove x.g x.slot x.bun c d := rfl

theorem holdWith_eq (h : s.issues unit gd src x) (op : HoldOp) (st : Nat) (val : Word) (img : List Word) :
    x.holdWith s op k st val img = x.holds s op k st val img := by
  simp [MoveCtx.holdWith, MoveCtx.holds, State.modC, CoreC.modSlot, issues_core h]

theorem hold_eq (h : s.issues unit gd src x) (op : HoldOp) : x.hold s op k = x.holds s op k 0 0 [] := holdWith_eq h ..

theorem ask_eq (h : s.issues unit gd src x) (q : Ctl) : x.ask s q = x.asks s q := by
  simp [MoveCtx.ask, MoveCtx.asks, State.modC, issues_core h]

theorem later_eq (h : s.issues unit gd src x) (d : Dst) (v : TVal) :
    s.modC x.g (fun c => c.later d v x.bun.idx) = x.writes s d v := by
  simp [MoveCtx.writes, State.modC, CoreC.later, issues_core h]

/-- The units whose triggers are checked and then act. -/
theorem ctMove_issues (h : s.issues 6 gd src x) (check : MoveCtx → Option Trap) (act : MoveCtx → State) :
    ctMove gd src s check act = .next (match check x with | some t => s.trapMove x.g x.slot x.bun t.1 t.2 | none => act x) := by
  simp only [ctMove, runMove_issues h]; cases check x <;> rfl

theorem asMove_issues (h : s.issues 7 gd src x) (check : MoveCtx → Option Trap) (act : MoveCtx → State) :
    asMove gd src s check act = .next (match check x with | some t => s.trapMove x.g x.slot x.bun t.1 t.2 | none => act x) := by
  simp only [asMove, runMove_issues h]; cases check x <;> rfl

/-- A trigger of slot 4 whose source is readable acts as any move does. -/
theorem meFrame_issues (h : s.issues 4 gd src x) (check : MoveCtx → Option Trap) (body : MoveCtx → State) :
    meFrame gd src s check body = .next (body x) := by
  rw [← runMove_issues h body]
  obtain ⟨h1, h2, h3, h4, h5⟩ := h
  unfold meFrame
  simp only [← h2, h3, h4, h5]

theorem meMove_issues (h : s.issues 4 gd src x) (op : MeOp) (check : MoveCtx → EngView → Except Trap Bool) :
    meMove gd src k s op check = .next (match check x x.c.eng.view with
      | .error t => s.trapMove x.g x.slot x.bun t.1 t.2
      | .ok tok => s.meIssue x.g (x.cmd op tok k)) := by
  rw [meMove, meFrame_issues h]; cases check x x.c.eng.view <;> rfl

/-! ### Staged lines (R356) -/

theorem packLanes_add (w : Nat) (f : Nat → Nat) (n m : Nat) :
    packLanes w f (n + m) = packLanes w f n + packLanes w (fun i => f (n + i)) m <<< (w * n) := by
  induction m with
  | zero => simp [packLanes]
  | succ m ih =>
    rw [← Nat.add_assoc, packLanes, ih, packLanes]
    simp only [Nat.shiftLeft_eq, Nat.mul_add, Nat.pow_add]
    ring

/-- The lanes of a number, put together, are the number. -/
theorem packLanes_split (w x n : Nat) : packLanes w (fun i => x / 2 ^ (w * i)) n = x % 2 ^ (w * n) := by
  induction n with
  | zero => simp [packLanes, Nat.mod_one]
  | succ n ih => rw [packLanes, ih, Nat.shiftLeft_eq, Nat.mul_add, Nat.mul_one, Nat.pow_add, Nat.mod_mul]; ring

theorem packLanes_lineWords (d : BitVec 512) (f : Nat → Nat) (h : ∀ i, i < 8 → f i = ((lineWords d).getD i 0).toNat) :
    packLanes 64 f 8 = d.toNat := by
  have e : ∀ n, n ≤ 8 → packLanes 64 f n = packLanes 64 (fun i => d.toNat / 2 ^ (64 * i)) n := by
    intro n
    induction n with
    | zero => exact fun _ => rfl
    | succ n ih =>
      intro hn
      rw [packLanes, packLanes, ih (by omega), h n (by omega)]
      simp [lineWords, List.getD, List.getElem?_map, List.getElem?_range (by omega : n < 8), Nat.shiftRight_eq_div_pow]
  rw [e 8 (by omega), packLanes_split, Nat.mod_eq_of_lt d.isLt]

/-- Two numbers of k bits side by side, as a sum and as an or. -/
theorem join_nat {k m p q : Nat} (hm : m = k + k) (hp : p < 2 ^ k) (hq : q < 2 ^ k) :
    (p + q <<< k) % 2 ^ m = p % 2 ^ m ||| (q % 2 ^ m) <<< k % 2 ^ m := by
  have le : ∀ x, x < 2 ^ k → x % 2 ^ m = x := fun x h =>
    Nat.mod_eq_of_lt (Nat.lt_of_lt_of_le h (Nat.pow_le_pow_right Nat.two_pos (by omega)))
  have top : (q + 1) * 2 ^ k ≤ 2 ^ k * 2 ^ k := Nat.mul_le_mul_right _ hq
  rw [Nat.add_mul, Nat.one_mul] at top
  have all : q <<< k + p < 2 ^ m := by
    rw [Nat.shiftLeft_eq, hm, Nat.pow_add]
    exact Nat.lt_of_lt_of_le (Nat.add_lt_add_left hp _) top
  rw [le p hp, le q hq, Nat.or_comm, Nat.mod_eq_of_lt (Nat.lt_of_le_of_lt (Nat.le_add_right _ p) all),
    ← Nat.shiftLeft_add_eq_or_of_lt hp, Nat.add_comm, Nat.mod_eq_of_lt all]

/-- Two lines, word by word, are the two lines side by side (R356). -/
theorem lines_join (p q : BitVec 512) :
    BitVec.ofNat 1024 (packLanes 64 (fun i => ((lineWords p ++ lineWords q).getD i 0).toNat) 16) =
      p.setWidth 1024 ||| (q.setWidth 1024 <<< 512) := by
  have hl : (lineWords p).length = 8 := rfl
  rw [show (16 : Nat) = 8 + 8 from rfl, packLanes_add,
    packLanes_lineWords p _ (fun i hi => by rw [List.getD_append _ _ _ _ (by omega)]),
    packLanes_lineWords q _ (fun i hi => by rw [List.getD_append_right _ _ _ _ (by omega), hl, Nat.add_sub_cancel_left])]
  apply BitVec.eq_of_toNat_eq
  have hp := p.isLt
  have hq := q.isLt
  simp only [BitVec.toNat_ofNat, BitVec.toNat_or, BitVec.toNat_shiftLeft, BitVec.toNat_setWidth, Nat.reduceMul]
  exact join_nat (k := 512) (m := 1024) rfl hp hq

theorem cldDone_eq (h : s.issues unit gd src x) (p q : BitVec 512) :
    s.cldDone x.g x.slot x.bun.idx (lineWords p ++ lineWords q) (decide (k = 1)) =
      x.lands s 12 k ⟨p.setWidth 1024 ||| (q.setWidth 1024 <<< 512), 0⟩ 0 := by
  rw [State.cldDone, lines_join]
  obtain rfl | rfl : k = 0 ∨ k = 1 := by revert k; decide
  all_goals simp [MoveCtx.lands, State.modC, CoreC.start, issues_core h]

end Sys2Proof.Machine
end

