-- ==== Sys2Proof/Laws/PerInstr.lean ====
section
/-! SUPPORT. Per instruction: what is encoded decodes to the instruction (R268 to R278, R389). -/

namespace Sys2Proof.Laws

/-- The words of an instruction decode to it. -/
def Encodes.Statement (i : Instr) : Prop :=
  WellFormed i = true → ∀ n w, encode i = some (n, w) → decodeTableWord n w = some i

theorem some_pair {a b n w : Nat} (h : some (a, b) = some (n, w)) : a = n ∧ b = w := by
  cases h
  exact ⟨rfl, rfl⟩

theorem encodes_move {i : Instr} {m : BitVec 24} (e : encode i = some (24, m.toNat)) (d : decodeMove m = .ok i) (n w : Nat)
    (h : encode i = some (n, w)) : decodeTableWord n w = some i := by
  rw [e] at h
  obtain ⟨rfl, rfl⟩ := some_pair h
  rw [table_move, d]
  rfl

theorem encodes_word {i : Instr} {m : BitVec 32} (e : encode i = some (32, m.toNat)) (d : decodeWord m = .ok i) (n w : Nat)
    (h : encode i = some (n, w)) : decodeTableWord n w = some i := by
  rw [e] at h
  obtain ⟨rfl, rfl⟩ := some_pair h
  rw [table_word, d]
  rfl

theorem encodes_none {i : Instr} (e : encode i = none) (n w : Nat) (h : encode i = some (n, w)) :
    decodeTableWord n w = some i := by
  rw [e] at h
  cases h

/-- A port's destination names no trigger (R277). -/
theorem port_trigger (g : BitVec 3) (s : BitVec 10) (u : BitVec 4) (p : BitVec 2) :
    decodeTrigger ((u ++ 0#4 ++ p : BitVec 10).extractLsb' 7 3) ((u ++ 0#4 ++ p : BitVec 10).extractLsb' 6 1)
      ((u ++ 0#4 ++ p : BitVec 10).extractLsb' 0 6) g s 0 = none := by
  have hu : u = BitVec.ofNat 4 u.toNat := by simp
  have hp : p = BitVec.ofNat 2 p.toNat := by simp
  have h1 := u.isLt
  have h2 := p.isLt
  rw [hu, hp]
  generalize u.toNat = x at *
  generalize p.toNat = y at *
  interval_cases x <;> interval_cases y <;> rfl

theorem port_unit (u : BitVec 4) (p : BitVec 2) : (u ++ 0#4 ++ p : BitVec 10).extractLsb' 6 4 = u :=
  (field_high (u ++ 0#4) p 6 4 (by decide)).trans <| (field_high u 0#4 4 4 (by decide)).trans (field_all u)
theorem port_mid (u : BitVec 4) (p : BitVec 2) : (u ++ 0#4 ++ p : BitVec 10).extractLsb' 2 4 = 0 :=
  (field_high (u ++ 0#4) p 2 4 (by decide)).trans <| (field_low u 0#4 0 4 (by decide)).trans (field_all 0#4)
theorem port_num (u : BitVec 4) (p : BitVec 2) : (u ++ 0#4 ++ p : BitVec 10).extractLsb' 0 2 = p :=
  (field_low (u ++ 0#4) p 0 2 (by decide)).trans (field_all p)

/-- A port's destination is no register and not the null sink. -/
theorem port_plain (u : BitVec 4) (p : BitVec 2) (h : portAssigned u p = true) :
    (u ++ 0#4 ++ p : BitVec 10) ≠ 0x0FF ∧ regDestLegal (u ++ 0#4 ++ p) = false := by
  have hu : u = BitVec.ofNat 4 u.toNat := by simp
  have hp : p = BitVec.ofNat 2 p.toNat := by simp
  have h1 := u.isLt
  have h2 := p.isLt
  rw [hu, hp] at h ⊢
  generalize u.toNat = x at *
  generalize p.toNat = y at *
  interval_cases x <;> interval_cases y <;> first | exact ⟨by decide, by decide⟩ | exact absurd h (by decide)

/-- A register's destination is no trigger (R276, R277) and not the null sink. -/
theorem reg_trigger (g : BitVec 3) (s d : BitVec 10) (h : regDestLegal d = true) :
    decodeTrigger (d.extractLsb' 7 3) (d.extractLsb' 6 1) (d.extractLsb' 0 6) g s 0 = none := by
  have hu : (d.extractLsb' 7 3).toNat < 2 := by
    simp only [regDestLegal, decide_eq_true_eq] at h
    simp only [BitVec.extractLsb'_toNat, Nat.shiftRight_eq_div_pow]
    omega
  unfold decodeTrigger
  split <;> first | rfl | omega

end Sys2Proof.Laws

namespace Sys2Proof.Laws.Encodes

theorem iaAdd (g : BitVec 3) (s : BitVec 10) (u : BitVec 1) (k : BitVec 1) : Statement (.iaAdd g s u k) := fun h => encodes_move rfl (decode_trigger h rfl)
theorem iaSub (g : BitVec 3) (s : BitVec 10) (u : BitVec 1) (k : BitVec 1) : Statement (.iaSub g s u k) := fun h => encodes_move rfl (decode_trigger h rfl)
theorem iaAnd (g : BitVec 3) (s : BitVec 10) (u : BitVec 1) (k : BitVec 1) : Statement (.iaAnd g s u k) := fun h => encodes_move rfl (decode_trigger h rfl)
theorem iaOr (g : BitVec 3) (s : BitVec 10) (u : BitVec 1) (k : BitVec 1) : Statement (.iaOr g s u k) := fun h => encodes_move rfl (decode_trigger h rfl)
theorem iaXor (g : BitVec 3) (s : BitVec 10) (u : BitVec 1) (k : BitVec 1) : Statement (.iaXor g s u k) := fun h => encodes_move rfl (decode_trigger h rfl)
theorem iaAndn (g : BitVec 3) (s : BitVec 10) (u : BitVec 1) (k : BitVec 1) : Statement (.iaAndn g s u k) := fun h => encodes_move rfl (decode_trigger h rfl)
theorem iaShl (g : BitVec 3) (s : BitVec 10) (u : BitVec 1) (k : BitVec 1) : Statement (.iaShl g s u k) := fun h => encodes_move rfl (decode_trigger h rfl)
theorem iaShr (g : BitVec 3) (s : BitVec 10) (u : BitVec 1) (k : BitVec 1) : Statement (.iaShr g s u k) := fun h => encodes_move rfl (decode_trigger h rfl)
theorem iaSra (g : BitVec 3) (s : BitVec 10) (u : BitVec 1) (k : BitVec 1) : Statement (.iaSra g s u k) := fun h => encodes_move rfl (decode_trigger h rfl)
theorem iaRol (g : BitVec 3) (s : BitVec 10) (u : BitVec 1) (k : BitVec 1) : Statement (.iaRol g s u k) := fun h => encodes_move rfl (decode_trigger h rfl)
theorem iaMin (g : BitVec 3) (s : BitVec 10) (u : BitVec 1) (k : BitVec 1) : Statement (.iaMin g s u k) := fun h => encodes_move rfl (decode_trigger h rfl)
theorem iaMax (g : BitVec 3) (s : BitVec 10) (u : BitVec 1) (k : BitVec 1) : Statement (.iaMax g s u k) := fun h => encodes_move rfl (decode_trigger h rfl)
theorem iaMinn (g : BitVec 3) (s : BitVec 10) (u : BitVec 1) (k : BitVec 1) : Statement (.iaMinn g s u k) := fun h => encodes_move rfl (decode_trigger h rfl)
theorem iaMaxn (g : BitVec 3) (s : BitVec 10) (u : BitVec 1) (k : BitVec 1) : Statement (.iaMaxn g s u k) := fun h => encodes_move rfl (decode_trigger h rfl)
theorem iaMul (g : BitVec 3) (s : BitVec 10) (u : BitVec 1) (k : BitVec 1) : Statement (.iaMul g s u k) := fun h => encodes_move rfl (decode_trigger h rfl)
theorem iaMulh (g : BitVec 3) (s : BitVec 10) (u : BitVec 1) (k : BitVec 1) : Statement (.iaMulh g s u k) := fun h => encodes_move rfl (decode_trigger h rfl)
theorem iaMulhn (g : BitVec 3) (s : BitVec 10) (u : BitVec 1) (k : BitVec 1) : Statement (.iaMulhn g s u k) := fun h => encodes_move rfl (decode_trigger h rfl)
theorem iaDiv (g : BitVec 3) (s : BitVec 10) (u : BitVec 1) (k : BitVec 1) : Statement (.iaDiv g s u k) := fun h => encodes_move rfl (decode_trigger h rfl)
theorem iaDivn (g : BitVec 3) (s : BitVec 10) (u : BitVec 1) (k : BitVec 1) : Statement (.iaDivn g s u k) := fun h => encodes_move rfl (decode_trigger h rfl)
theorem iaRem (g : BitVec 3) (s : BitVec 10) (u : BitVec 1) (k : BitVec 1) : Statement (.iaRem g s u k) := fun h => encodes_move rfl (decode_trigger h rfl)
theorem iaRemn (g : BitVec 3) (s : BitVec 10) (u : BitVec 1) (k : BitVec 1) : Statement (.iaRemn g s u k) := fun h => encodes_move rfl (decode_trigger h rfl)
theorem iaCmpeq (g : BitVec 3) (s : BitVec 10) (u : BitVec 1) (k : BitVec 1) : Statement (.iaCmpeq g s u k) := fun h => encodes_move rfl (decode_trigger h rfl)
theorem iaCmpne (g : BitVec 3) (s : BitVec 10) (u : BitVec 1) (k : BitVec 1) : Statement (.iaCmpne g s u k) := fun h => encodes_move rfl (decode_trigger h rfl)
theorem iaCmplt (g : BitVec 3) (s : BitVec 10) (u : BitVec 1) (k : BitVec 1) : Statement (.iaCmplt g s u k) := fun h => encodes_move rfl (decode_trigger h rfl)
theorem iaCmpltn (g : BitVec 3) (s : BitVec 10) (u : BitVec 1) (k : BitVec 1) : Statement (.iaCmpltn g s u k) := fun h => encodes_move rfl (decode_trigger h rfl)
theorem iaCmple (g : BitVec 3) (s : BitVec 10) (u : BitVec 1) (k : BitVec 1) : Statement (.iaCmple g s u k) := fun h => encodes_move rfl (decode_trigger h rfl)
theorem iaCmplen (g : BitVec 3) (s : BitVec 10) (u : BitVec 1) (k : BitVec 1) : Statement (.iaCmplen g s u k) := fun h => encodes_move rfl (decode_trigger h rfl)
theorem iaSel (g : BitVec 3) (s : BitVec 10) (u : BitVec 1) (k : BitVec 1) : Statement (.iaSel g s u k) := fun h => encodes_move rfl (decode_trigger h rfl)
theorem iaLea (g : BitVec 3) (s : BitVec 10) (u : BitVec 1) (k : BitVec 1) : Statement (.iaLea g s u k) := fun h => encodes_move rfl (decode_trigger h rfl)
theorem iaBfx (g : BitVec 3) (s : BitVec 10) (u : BitVec 1) (k : BitVec 1) : Statement (.iaBfx g s u k) := fun h => encodes_move rfl (decode_trigger h rfl)
theorem iaBfi (g : BitVec 3) (s : BitVec 10) (u : BitVec 1) (k : BitVec 1) : Statement (.iaBfi g s u k) := fun h => encodes_move rfl (decode_trigger h rfl)
theorem iaClz (g : BitVec 3) (s : BitVec 10) (u : BitVec 1) (k : BitVec 1) : Statement (.iaClz g s u k) := fun h => encodes_move rfl (decode_trigger h rfl)
theorem iaCtz (g : BitVec 3) (s : BitVec 10) (u : BitVec 1) (k : BitVec 1) : Statement (.iaCtz g s u k) := fun h => encodes_move rfl (decode_trigger h rfl)
theorem iaPopc (g : BitVec 3) (s : BitVec 10) (u : BitVec 1) (k : BitVec 1) : Statement (.iaPopc g s u k) := fun h => encodes_move rfl (decode_trigger h rfl)
theorem iaMov (g : BitVec 3) (s : BitVec 10) (u : BitVec 1) (k : BitVec 1) : Statement (.iaMov g s u k) := fun h => encodes_move rfl (decode_trigger h rfl)
theorem iaSext (g : BitVec 3) (s : BitVec 10) (u : BitVec 1) (k : BitVec 1) : Statement (.iaSext g s u k) := fun h => encodes_move rfl (decode_trigger h rfl)
theorem iaZext (g : BitVec 3) (s : BitVec 10) (u : BitVec 1) (k : BitVec 1) : Statement (.iaZext g s u k) := fun h => encodes_move rfl (decode_trigger h rfl)
theorem vadd (g : BitVec 3) (s : BitVec 10) (u : BitVec 1) (k : BitVec 1) : Statement (.vadd g s u k) := fun h => encodes_move rfl (decode_trigger h rfl)
theorem vsub (g : BitVec 3) (s : BitVec 10) (u : BitVec 1) (k : BitVec 1) : Statement (.vsub g s u k) := fun h => encodes_move rfl (decode_trigger h rfl)
theorem vmul (g : BitVec 3) (s : BitVec 10) (u : BitVec 1) (k : BitVec 1) : Statement (.vmul g s u k) := fun h => encodes_move rfl (decode_trigger h rfl)
theorem vfma (g : BitVec 3) (s : BitVec 10) (u : BitVec 1) (k : BitVec 1) : Statement (.vfma g s u k) := fun h => encodes_move rfl (decode_trigger h rfl)
theorem vmax (g : BitVec 3) (s : BitVec 10) (u : BitVec 1) (k : BitVec 1) : Statement (.vmax g s u k) := fun h => encodes_move rfl (decode_trigger h rfl)
theorem vmin (g : BitVec 3) (s : BitVec 10) (u : BitVec 1) (k : BitVec 1) : Statement (.vmin g s u k) := fun h => encodes_move rfl (decode_trigger h rfl)
theorem vabs (g : BitVec 3) (s : BitVec 10) (u : BitVec 1) (k : BitVec 1) : Statement (.vabs g s u k) := fun h => encodes_move rfl (decode_trigger h rfl)
theorem vneg (g : BitVec 3) (s : BitVec 10) (u : BitVec 1) (k : BitVec 1) : Statement (.vneg g s u k) := fun h => encodes_move rfl (decode_trigger h rfl)
theorem vcmpeq (g : BitVec 3) (s : BitVec 10) (u : BitVec 1) (k : BitVec 1) : Statement (.vcmpeq g s u k) := fun h => encodes_move rfl (decode_trigger h rfl)
theorem vcmplt (g : BitVec 3) (s : BitVec 10) (u : BitVec 1) (k : BitVec 1) : Statement (.vcmplt g s u k) := fun h => encodes_move rfl (decode_trigger h rfl)
theorem vcmple (g : BitVec 3) (s : BitVec 10) (u : BitVec 1) (k : BitVec 1) : Statement (.vcmple g s u k) := fun h => encodes_move rfl (decode_trigger h rfl)
theorem vsel (g : BitVec 3) (s : BitVec 10) (u : BitVec 1) (k : BitVec 1) : Statement (.vsel g s u k) := fun h => encodes_move rfl (decode_trigger h rfl)
theorem vcvt (g : BitVec 3) (s : BitVec 10) (u : BitVec 1) (k : BitVec 1) : Statement (.vcvt g s u k) := fun h => encodes_move rfl (decode_trigger h rfl)
theorem vsplat (g : BitVec 3) (s : BitVec 10) (u : BitVec 1) (k : BitVec 1) : Statement (.vsplat g s u k) := fun h => encodes_move rfl (decode_trigger h rfl)
theorem vperm (g : BitVec 3) (s : BitVec 10) (u : BitVec 1) (k : BitVec 1) : Statement (.vperm g s u k) := fun h => encodes_move rfl (decode_trigger h rfl)
theorem vshuf (g : BitVec 3) (s : BitVec 10) (u : BitVec 1) (k : BitVec 1) : Statement (.vshuf g s u k) := fun h => encodes_move rfl (decode_trigger h rfl)
theorem vredadd (g : BitVec 3) (s : BitVec 10) (u : BitVec 1) (k : BitVec 1) : Statement (.vredadd g s u k) := fun h => encodes_move rfl (decode_trigger h rfl)
theorem vredmax (g : BitVec 3) (s : BitVec 10) (u : BitVec 1) (k : BitVec 1) : Statement (.vredmax g s u k) := fun h => encodes_move rfl (decode_trigger h rfl)
theorem vexp2 (g : BitVec 3) (s : BitVec 10) (u : BitVec 1) (k : BitVec 1) : Statement (.vexp2 g s u k) := fun h => encodes_move rfl (decode_trigger h rfl)
theorem vlog2 (g : BitVec 3) (s : BitVec 10) (u : BitVec 1) (k : BitVec 1) : Statement (.vlog2 g s u k) := fun h => encodes_move rfl (decode_trigger h rfl)
theorem vrcp (g : BitVec 3) (s : BitVec 10) (u : BitVec 1) (k : BitVec 1) : Statement (.vrcp g s u k) := fun h => encodes_move rfl (decode_trigger h rfl)
theorem vrsq (g : BitVec 3) (s : BitVec 10) (u : BitVec 1) (k : BitVec 1) : Statement (.vrsq g s u k) := fun h => encodes_move rfl (decode_trigger h rfl)
theorem vdot2 (g : BitVec 3) (s : BitVec 10) (u : BitVec 1) (k : BitVec 1) : Statement (.vdot2 g s u k) := fun h => encodes_move rfl (decode_trigger h rfl)
theorem vscl (g : BitVec 3) (s : BitVec 10) (u : BitVec 1) (k : BitVec 1) : Statement (.vscl g s u k) := fun h => encodes_move rfl (decode_trigger h rfl)
theorem vpln (g : BitVec 3) (s : BitVec 10) (u : BitVec 1) (k : BitVec 1) : Statement (.vpln g s u k) := fun h => encodes_move rfl (decode_trigger h rfl)
theorem vupl (g : BitVec 3) (s : BitVec 10) (u : BitVec 1) (k : BitVec 1) : Statement (.vupl g s u k) := fun h => encodes_move rfl (decode_trigger h rfl)
theorem vand (g : BitVec 3) (s : BitVec 10) (u : BitVec 1) (k : BitVec 1) : Statement (.vand g s u k) := fun h => encodes_move rfl (decode_trigger h rfl)
theorem vor (g : BitVec 3) (s : BitVec 10) (u : BitVec 1) (k : BitVec 1) : Statement (.vor g s u k) := fun h => encodes_move rfl (decode_trigger h rfl)
theorem vxor (g : BitVec 3) (s : BitVec 10) (u : BitVec 1) (k : BitVec 1) : Statement (.vxor g s u k) := fun h => encodes_move rfl (decode_trigger h rfl)
theorem vshl (g : BitVec 3) (s : BitVec 10) (u : BitVec 1) (k : BitVec 1) : Statement (.vshl g s u k) := fun h => encodes_move rfl (decode_trigger h rfl)
theorem vshr (g : BitVec 3) (s : BitVec 10) (u : BitVec 1) (k : BitVec 1) : Statement (.vshr g s u k) := fun h => encodes_move rfl (decode_trigger h rfl)
theorem vidx (g : BitVec 3) (s : BitVec 10) (u : BitVec 1) (k : BitVec 1) : Statement (.vidx g s u k) := fun h => encodes_move rfl (decode_trigger h rfl)
theorem vext (g : BitVec 3) (s : BitVec 10) (u : BitVec 1) (k : BitVec 1) : Statement (.vext g s u k) := fun h => encodes_move rfl (decode_trigger h rfl)
theorem vins (g : BitVec 3) (s : BitVec 10) (u : BitVec 1) (k : BitVec 1) : Statement (.vins g s u k) := fun h => encodes_move rfl (decode_trigger h rfl)
theorem vclmp (g : BitVec 3) (s : BitVec 10) (u : BitVec 1) (k : BitVec 1) : Statement (.vclmp g s u k) := fun h => encodes_move rfl (decode_trigger h rfl)
theorem vtag (g : BitVec 3) (s : BitVec 10) (u : BitVec 1) (k : BitVec 1) : Statement (.vtag g s u k) := fun h => encodes_move rfl (decode_trigger h rfl)
theorem mePa (g : BitVec 3) (s : BitVec 10) (k : BitVec 1) : Statement (.mePa g s k) := fun h => encodes_move rfl (decode_trigger h rfl)
theorem mePb (g : BitVec 3) (s : BitVec 10) (k : BitVec 1) : Statement (.mePb g s k) := fun h => encodes_move rfl (decode_trigger h rfl)
theorem meAcc (g : BitVec 3) (s : BitVec 10) (k : BitVec 1) : Statement (.meAcc g s k) := fun h => encodes_move rfl (decode_trigger h rfl)
theorem meSh (g : BitVec 3) (s : BitVec 10) (k : BitVec 1) : Statement (.meSh g s k) := fun h => encodes_move rfl (decode_trigger h rfl)
theorem meDr (g : BitVec 3) (s : BitVec 10) (k : BitVec 1) : Statement (.meDr g s k) := fun h => encodes_move rfl (decode_trigger h rfl)
theorem meClr (g : BitVec 3) (s : BitVec 10) (k : BitVec 1) : Statement (.meClr g s k) := fun h => encodes_move rfl (decode_trigger h rfl)
theorem meCls (g : BitVec 3) (s : BitVec 10) (k : BitVec 1) : Statement (.meCls g s k) := fun h => encodes_move rfl (decode_trigger h rfl)
theorem meThr (g : BitVec 3) (s : BitVec 10) (k : BitVec 1) : Statement (.meThr g s k) := fun h => encodes_move rfl (decode_trigger h rfl)
theorem meSeq (g : BitVec 3) (s : BitVec 10) (k : BitVec 1) : Statement (.meSeq g s k) := fun h => encodes_move rfl (decode_trigger h rfl)
theorem meSqs (g : BitVec 3) (s : BitVec 10) (k : BitVec 1) : Statement (.meSqs g s k) := fun h => encodes_move rfl (decode_trigger h rfl)
theorem lsLd (g : BitVec 3) (s : BitVec 10) (k : BitVec 1) : Statement (.lsLd g s k) := fun h => encodes_move rfl (decode_trigger h rfl)
theorem lsSt (g : BitVec 3) (s : BitVec 10) (k : BitVec 1) : Statement (.lsSt g s k) := fun h => encodes_move rfl (decode_trigger h rfl)
theorem lsVld (g : BitVec 3) (s : BitVec 10) (k : BitVec 1) : Statement (.lsVld g s k) := fun h => encodes_move rfl (decode_trigger h rfl)
theorem lsVst (g : BitVec 3) (s : BitVec 10) (k : BitVec 1) : Statement (.lsVst g s k) := fun h => encodes_move rfl (decode_trigger h rfl)
theorem lsVlds (g : BitVec 3) (s : BitVec 10) (k : BitVec 1) : Statement (.lsVlds g s k) := fun h => encodes_move rfl (decode_trigger h rfl)
theorem lsVgat (g : BitVec 3) (s : BitVec 10) (k : BitVec 1) : Statement (.lsVgat g s k) := fun h => encodes_move rfl (decode_trigger h rfl)
theorem lsVsca (g : BitVec 3) (s : BitVec 10) (k : BitVec 1) : Statement (.lsVsca g s k) := fun h => encodes_move rfl (decode_trigger h rfl)
theorem lsCld (g : BitVec 3) (s : BitVec 10) (k : BitVec 1) : Statement (.lsCld g s k) := fun h => encodes_move rfl (decode_trigger h rfl)
theorem lsCst (g : BitVec 3) (s : BitVec 10) (k : BitVec 1) : Statement (.lsCst g s k) := fun h => encodes_move rfl (decode_trigger h rfl)
theorem lsMst (g : BitVec 3) (s : BitVec 10) (k : BitVec 1) : Statement (.lsMst g s k) := fun h => encodes_move rfl (decode_trigger h rfl)
theorem lsPld (g : BitVec 3) (s : BitVec 10) (k : BitVec 1) : Statement (.lsPld g s k) := fun h => encodes_move rfl (decode_trigger h rfl)
theorem lsTld (g : BitVec 3) (s : BitVec 10) (k : BitVec 1) : Statement (.lsTld g s k) := fun h => encodes_move rfl (decode_trigger h rfl)
theorem lsAld (g : BitVec 3) (s : BitVec 10) (k : BitVec 1) : Statement (.lsAld g s k) := fun h => encodes_move rfl (decode_trigger h rfl)
theorem lsAst (g : BitVec 3) (s : BitVec 10) (k : BitVec 1) : Statement (.lsAst g s k) := fun h => encodes_move rfl (decode_trigger h rfl)
theorem ctBr (g : BitVec 3) (s : BitVec 10) (k : BitVec 1) : Statement (.ctBr g s k) := fun h => encodes_move rfl (decode_trigger h rfl)
theorem ctBrc (g : BitVec 3) (s : BitVec 10) (k : BitVec 1) : Statement (.ctBrc g s k) := fun h => encodes_move rfl (decode_trigger h rfl)
theorem ctCall (g : BitVec 3) (s : BitVec 10) (k : BitVec 1) : Statement (.ctCall g s k) := fun h => encodes_move rfl (decode_trigger h rfl)
theorem ctRet (g : BitVec 3) (s : BitVec 10) (k : BitVec 1) : Statement (.ctRet g s k) := fun h => encodes_move rfl (decode_trigger h rfl)
theorem ctJr (g : BitVec 3) (s : BitVec 10) (k : BitVec 1) : Statement (.ctJr g s k) := fun h => encodes_move rfl (decode_trigger h rfl)
theorem ctLoop (g : BitVec 3) (s : BitVec 10) (k : BitVec 1) : Statement (.ctLoop g s k) := fun h => encodes_move rfl (decode_trigger h rfl)
theorem ctLbrk (g : BitVec 3) (s : BitVec 10) (k : BitVec 1) : Statement (.ctLbrk g s k) := fun h => encodes_move rfl (decode_trigger h rfl)
theorem ctLend (g : BitVec 3) (s : BitVec 10) (k : BitVec 1) : Statement (.ctLend g s k) := fun h => encodes_move rfl (decode_trigger h rfl)
theorem ctFuse (g : BitVec 3) (s : BitVec 10) (k : BitVec 1) : Statement (.ctFuse g s k) := fun h => encodes_move rfl (decode_trigger h rfl)
theorem ctDecouple (g : BitVec 3) (s : BitVec 10) (k : BitVec 1) : Statement (.ctDecouple g s k) := fun h => encodes_move rfl (decode_trigger h rfl)
theorem ctRejoin (g : BitVec 3) (s : BitVec 10) (k : BitVec 1) : Statement (.ctRejoin g s k) := fun h => encodes_move rfl (decode_trigger h rfl)
theorem ctSusp (g : BitVec 3) (s : BitVec 10) (k : BitVec 1) : Statement (.ctSusp g s k) := fun h => encodes_move rfl (decode_trigger h rfl)
theorem ctYield (g : BitVec 3) (s : BitVec 10) (k : BitVec 1) : Statement (.ctYield g s k) := fun h => encodes_move rfl (decode_trigger h rfl)
theorem ctTrap (g : BitVec 3) (s : BitVec 10) (k : BitVec 1) : Statement (.ctTrap g s k) := fun h => encodes_move rfl (decode_trigger h rfl)
theorem ctBrk (g : BitVec 3) (s : BitVec 10) (k : BitVec 1) : Statement (.ctBrk g s k) := fun h => encodes_move rfl (decode_trigger h rfl)
theorem ctKr (g : BitVec 3) (s : BitVec 10) (k : BitVec 1) : Statement (.ctKr g s k) := fun h => encodes_move rfl (decode_trigger h rfl)
theorem ctKw (g : BitVec 3) (s : BitVec 10) (k : BitVec 1) : Statement (.ctKw g s k) := fun h => encodes_move rfl (decode_trigger h rfl)
theorem ctEret (g : BitVec 3) (s : BitVec 10) (k : BitVec 1) : Statement (.ctEret g s k) := fun h => encodes_move rfl (decode_trigger h rfl)
theorem ctPand (g : BitVec 3) (s : BitVec 10) (k : BitVec 1) : Statement (.ctPand g s k) := fun h => encodes_move rfl (decode_trigger h rfl)
theorem ctPor (g : BitVec 3) (s : BitVec 10) (k : BitVec 1) : Statement (.ctPor g s k) := fun h => encodes_move rfl (decode_trigger h rfl)
theorem ctPxor (g : BitVec 3) (s : BitVec 10) (k : BitVec 1) : Statement (.ctPxor g s k) := fun h => encodes_move rfl (decode_trigger h rfl)
theorem ctPnot (g : BitVec 3) (s : BitVec 10) (k : BitVec 1) : Statement (.ctPnot g s k) := fun h => encodes_move rfl (decode_trigger h rfl)
theorem ctTokw (g : BitVec 3) (s : BitVec 10) (k : BitVec 1) : Statement (.ctTokw g s k) := fun h => encodes_move rfl (decode_trigger h rfl)
theorem asPost (g : BitVec 3) (s : BitVec 10) (k : BitVec 1) : Statement (.asPost g s k) := fun h => encodes_move rfl (decode_trigger h rfl)
theorem asTwait (g : BitVec 3) (s : BitVec 10) (k : BitVec 1) : Statement (.asTwait g s k) := fun h => encodes_move rfl (decode_trigger h rfl)
theorem asTstat (g : BitVec 3) (s : BitVec 10) (k : BitVec 1) : Statement (.asTstat g s k) := fun h => encodes_move rfl (decode_trigger h rfl)
theorem asBalloc (g : BitVec 3) (s : BitVec 10) (k : BitVec 1) : Statement (.asBalloc g s k) := fun h => encodes_move rfl (decode_trigger h rfl)
theorem asBarr (g : BitVec 3) (s : BitVec 10) (k : BitVec 1) : Statement (.asBarr g s k) := fun h => encodes_move rfl (decode_trigger h rfl)
theorem asBwait (g : BitVec 3) (s : BitVec 10) (k : BitVec 1) : Statement (.asBwait g s k) := fun h => encodes_move rfl (decode_trigger h rfl)
theorem asBfree (g : BitVec 3) (s : BitVec 10) (k : BitVec 1) : Statement (.asBfree g s k) := fun h => encodes_move rfl (decode_trigger h rfl)
theorem asHbind (g : BitVec 3) (s : BitVec 10) (k : BitVec 1) : Statement (.asHbind g s k) := fun h => encodes_move rfl (decode_trigger h rfl)
theorem asHacq (g : BitVec 3) (s : BitVec 10) (k : BitVec 1) : Statement (.asHacq g s k) := fun h => encodes_move rfl (decode_trigger h rfl)
theorem asHrel (g : BitVec 3) (s : BitVec 10) (k : BitVec 1) : Statement (.asHrel g s k) := fun h => encodes_move rfl (decode_trigger h rfl)
theorem asHpub (g : BitVec 3) (s : BitVec 10) (k : BitVec 1) : Statement (.asHpub g s k) := fun h => encodes_move rfl (decode_trigger h rfl)
theorem asHobs (g : BitVec 3) (s : BitVec 10) (k : BitVec 1) : Statement (.asHobs g s k) := fun h => encodes_move rfl (decode_trigger h rfl)
theorem asSae (g : BitVec 3) (s : BitVec 10) (k : BitVec 1) : Statement (.asSae g s k) := fun h => encodes_move rfl (decode_trigger h rfl)
theorem asSaer (g : BitVec 3) (s : BitVec 10) (k : BitVec 1) : Statement (.asSaer g s k) := fun h => encodes_move rfl (decode_trigger h rfl)
theorem asTpost (g : BitVec 3) (s : BitVec 10) (k : BitVec 1) : Statement (.asTpost g s k) := fun h => encodes_move rfl (decode_trigger h rfl)
theorem asNotify (g : BitVec 3) (s : BitVec 10) (k : BitVec 1) : Statement (.asNotify g s k) := fun h => encodes_move rfl (decode_trigger h rfl)
theorem asSortx (g : BitVec 3) (s : BitVec 10) (k : BitVec 1) : Statement (.asSortx g s k) := fun h => encodes_move rfl (decode_trigger h rfl)
theorem asRnd (g : BitVec 3) (s : BitVec 10) (k : BitVec 1) : Statement (.asRnd g s k) := fun h => encodes_move rfl (decode_trigger h rfl)
theorem asPmark (g : BitVec 3) (s : BitVec 10) (k : BitVec 1) : Statement (.asPmark g s k) := fun h => encodes_move rfl (decode_trigger h rfl)
theorem asIcinv (g : BitVec 3) (s : BitVec 10) (k : BitVec 1) : Statement (.asIcinv g s k) := fun h => encodes_move rfl (decode_trigger h rfl)
theorem moveToRegister (g : BitVec 3) (s d : BitVec 10) : Statement (.moveToRegister g s d) := fun h =>
  have h := (Bool.and_eq_true _ _).mp h
  encodes_move rfl (decode_plain h.1 (reg_trigger g s d h.2) (by
    have e : d ≠ 0x0FF := fun e => absurd h.2 (by rw [e]; decide)
    rw [if_neg e, if_pos h.2]))

theorem moveToPort (g : BitVec 3) (s : BitVec 10) (u : BitVec 4) (p : BitVec 2) : Statement (.moveToPort g s u p) := fun h =>
  have h := (Bool.and_eq_true _ _).mp h
  have e := port_plain u p h.2
  encodes_move rfl (decode_plain h.1 (port_trigger g s u p) (by
    rw [if_neg e.1, e.2, port_mid, port_unit, port_num, h.2]
    rfl))

theorem moveToNullSink (g : BitVec 3) (s : BitVec 10) : Statement (.moveToNullSink g s) := fun h =>
  encodes_move rfl (decode_plain h rfl rfl)

theorem qadd (h : BitVec 3) (b : BitVec 5) (a : BitVec 5) (d : BitVec 5) : Statement (.qadd h b a d) := fun _ => encodes_word rfl (decode_vec rfl)
theorem qsub (h : BitVec 3) (b : BitVec 5) (a : BitVec 5) (d : BitVec 5) : Statement (.qsub h b a d) := fun _ => encodes_word rfl (decode_vec rfl)
theorem qmul (h : BitVec 3) (b : BitVec 5) (a : BitVec 5) (d : BitVec 5) : Statement (.qmul h b a d) := fun _ => encodes_word rfl (decode_vec rfl)
theorem qfma (h : BitVec 3) (b : BitVec 5) (a : BitVec 5) (d : BitVec 5) : Statement (.qfma h b a d) := fun _ => encodes_word rfl (decode_vec rfl)
theorem qmax (h : BitVec 3) (b : BitVec 5) (a : BitVec 5) (d : BitVec 5) : Statement (.qmax h b a d) := fun _ => encodes_word rfl (decode_vec rfl)
theorem qmin (h : BitVec 3) (b : BitVec 5) (a : BitVec 5) (d : BitVec 5) : Statement (.qmin h b a d) := fun _ => encodes_word rfl (decode_vec rfl)
theorem qabs (h : BitVec 3) (a : BitVec 5) (d : BitVec 5) : Statement (.qabs h a d) := fun _ => encodes_word rfl (decode_vec rfl)
theorem qneg (h : BitVec 3) (a : BitVec 5) (d : BitVec 5) : Statement (.qneg h a d) := fun _ => encodes_word rfl (decode_vec rfl)
theorem qclmp (h : BitVec 3) (b : BitVec 5) (a : BitVec 5) (d : BitVec 5) : Statement (.qclmp h b a d) := fun _ => encodes_word rfl (decode_vec rfl)
theorem qcmpeq (h : BitVec 3) (b : BitVec 5) (a : BitVec 5) (d : BitVec 5) : Statement (.qcmpeq h b a d) := fun _ => encodes_word rfl (decode_vec rfl)
theorem qcmplt (h : BitVec 3) (b : BitVec 5) (a : BitVec 5) (d : BitVec 5) : Statement (.qcmplt h b a d) := fun _ => encodes_word rfl (decode_vec rfl)
theorem qcmple (h : BitVec 3) (b : BitVec 5) (a : BitVec 5) (d : BitVec 5) : Statement (.qcmple h b a d) := fun _ => encodes_word rfl (decode_vec rfl)
theorem qsel (h : BitVec 3) (b : BitVec 5) (a : BitVec 5) (d : BitVec 5) : Statement (.qsel h b a d) := fun _ => encodes_word rfl (decode_vec rfl)
theorem qand (h : BitVec 3) (b : BitVec 5) (a : BitVec 5) (d : BitVec 5) : Statement (.qand h b a d) := fun _ => encodes_word rfl (decode_vec rfl)
theorem qor (h : BitVec 3) (b : BitVec 5) (a : BitVec 5) (d : BitVec 5) : Statement (.qor h b a d) := fun _ => encodes_word rfl (decode_vec rfl)
theorem qxor (h : BitVec 3) (b : BitVec 5) (a : BitVec 5) (d : BitVec 5) : Statement (.qxor h b a d) := fun _ => encodes_word rfl (decode_vec rfl)
theorem qshl (h : BitVec 3) (b : BitVec 5) (a : BitVec 5) (d : BitVec 5) : Statement (.qshl h b a d) := fun _ => encodes_word rfl (decode_vec rfl)
theorem qshr (h : BitVec 3) (b : BitVec 5) (a : BitVec 5) (d : BitVec 5) : Statement (.qshr h b a d) := fun _ => encodes_word rfl (decode_vec rfl)
theorem qidx (h : BitVec 3) (b : BitVec 5) (a : BitVec 5) (d : BitVec 5) : Statement (.qidx h b a d) := fun _ => encodes_word rfl (decode_vec rfl)
theorem qext (h : BitVec 3) (b : BitVec 5) (a : BitVec 5) (d : BitVec 5) : Statement (.qext h b a d) := fun _ => encodes_word rfl (decode_vec rfl)
theorem qins (h : BitVec 3) (b : BitVec 5) (a : BitVec 5) (d : BitVec 5) : Statement (.qins h b a d) := fun _ => encodes_word rfl (decode_vec rfl)
theorem qperm (h : BitVec 3) (b : BitVec 5) (a : BitVec 5) (d : BitVec 5) : Statement (.qperm h b a d) := fun _ => encodes_word rfl (decode_vec rfl)
theorem qshuf (h : BitVec 3) (b : BitVec 5) (a : BitVec 5) (d : BitVec 5) : Statement (.qshuf h b a d) := fun _ => encodes_word rfl (decode_vec rfl)
theorem qredadd (h : BitVec 3) (a : BitVec 5) (d : BitVec 5) : Statement (.qredadd h a d) := fun _ => encodes_word rfl (decode_vec rfl)
theorem qredmax (h : BitVec 3) (a : BitVec 5) (d : BitVec 5) : Statement (.qredmax h a d) := fun _ => encodes_word rfl (decode_vec rfl)
theorem qexp2 (h : BitVec 3) (a : BitVec 5) (d : BitVec 5) : Statement (.qexp2 h a d) := fun _ => encodes_word rfl (decode_vec rfl)
theorem qlog2 (h : BitVec 3) (a : BitVec 5) (d : BitVec 5) : Statement (.qlog2 h a d) := fun _ => encodes_word rfl (decode_vec rfl)
theorem qrcp (h : BitVec 3) (a : BitVec 5) (d : BitVec 5) : Statement (.qrcp h a d) := fun _ => encodes_word rfl (decode_vec rfl)
theorem qrsq (h : BitVec 3) (a : BitVec 5) (d : BitVec 5) : Statement (.qrsq h a d) := fun _ => encodes_word rfl (decode_vec rfl)
theorem qdot2 (h : BitVec 3) (b : BitVec 5) (a : BitVec 5) (d : BitVec 5) : Statement (.qdot2 h b a d) := fun _ => encodes_word rfl (decode_vec rfl)
theorem qscl (h : BitVec 3) (b : BitVec 5) (a : BitVec 5) (d : BitVec 5) : Statement (.qscl h b a d) := fun _ => encodes_word rfl (decode_vec rfl)
theorem qpln (h : BitVec 3) (b : BitVec 5) (a : BitVec 5) (d : BitVec 5) : Statement (.qpln h b a d) := fun _ => encodes_word rfl (decode_vec rfl)
theorem qupl (h : BitVec 3) (b : BitVec 5) (a : BitVec 5) (d : BitVec 5) : Statement (.qupl h b a d) := fun _ => encodes_word rfl (decode_vec rfl)
theorem qcvtx (h : BitVec 3) (b : BitVec 5) (a : BitVec 5) (d : BitVec 5) : Statement (.qcvtx h b a d) := fun _ => encodes_word rfl (decode_vec rfl)
theorem qsortx (h : BitVec 3) (b : BitVec 5) (a : BitVec 5) (d : BitVec 5) : Statement (.qsortx h b a d) := fun _ => encodes_word rfl (decode_vec rfl)
theorem qsplat (h : BitVec 3) (t : BitVec 5) (a : BitVec 5) (d : BitVec 5) : Statement (.qsplat h t a d) := fun _ => encodes_word rfl (decode_vec rfl)
theorem qcvt (h : BitVec 3) (t : BitVec 5) (a : BitVec 5) (d : BitVec 5) : Statement (.qcvt h t a d) := fun _ => encodes_word rfl (decode_vec rfl)
theorem qtag (h : BitVec 3) (t : BitVec 5) (a : BitVec 5) (d : BitVec 5) : Statement (.qtag h t a d) := fun _ => encodes_word rfl (decode_vec rfl)
theorem qld (h : BitVec 3) (t : BitVec 5) (o : BitVec 4) (a d : BitVec 5) : Statement (.qld h t o a d) := fun _ =>
  encodes_word rfl (by
    have hd := word_d (h ++ t ++ o) a 0 d 0x2B 0 5 (by decide)
    have h1 := word_x (h ++ t ++ o) a 0 d 0x2B 0 4
    have h2 := word_x (h ++ t ++ o) a 0 d 0x2B 4 5
    have h3 := word_x (h ++ t ++ o) a 0 d 0x2B 9 3
    rw [field_all] at hd
    rw [m_o] at h1
    rw [m_t] at h2
    rw [m_h] at h3
    simp only [Nat.reduceAdd] at hd h1 h2 h3
    change decodeWord (iBits (h ++ t ++ o) a 0 d 0x2B) = _
    simp only [decodeWord, word_op, word_f3, word_a, hd, h1, h2, h3]
    rfl)

theorem qst (h : BitVec 3) (o : BitVec 4) (a d : BitVec 5) : Statement (.qst h o a d) := fun _ =>
  encodes_word rfl (by
    have hd := word_d (h ++ 0#5 ++ o) a 1 d 0x2B 0 5 (by decide)
    have h1 := word_x (h ++ 0#5 ++ o) a 1 d 0x2B 0 4
    have h2 := word_x (h ++ 0#5 ++ o) a 1 d 0x2B 4 5
    have h3 := word_x (h ++ 0#5 ++ o) a 1 d 0x2B 9 3
    rw [field_all] at hd
    rw [m_o] at h1
    rw [m_t] at h2
    rw [m_h] at h3
    simp only [Nat.reduceAdd] at hd h1 h2 h3
    change decodeWord (iBits (h ++ 0#5 ++ o) a 1 d 0x2B) = _
    simp only [decodeWord, word_op, word_f3, word_a, hd, h1, h2, h3]
    rfl)

theorem qlds (h : BitVec 3) (b : BitVec 5) (a : BitVec 5) (d : BitVec 5) : Statement (.qlds h b a d) := fun _ => encodes_word rfl (decode_memq rfl)
theorem qgat (h : BitVec 3) (b : BitVec 5) (a : BitVec 5) (d : BitVec 5) : Statement (.qgat h b a d) := fun _ => encodes_word rfl (decode_memq rfl)
theorem qsca (h : BitVec 3) (b : BitVec 5) (a : BitVec 5) (d : BitVec 5) : Statement (.qsca h b a d) := fun _ => encodes_word rfl (decode_memq rfl)
theorem qmst (h : BitVec 3) (b : BitVec 5) (a : BitVec 5) (d : BitVec 5) : Statement (.qmst h b a d) := fun _ => encodes_word rfl (decode_memq rfl)
theorem mclr (h : BitVec 3) (d : BitVec 5) : Statement (.mclr h d) := fun e =>
  have e := of_decide_eq_true e
  encodes_word rfl (decode_tile (by exact if_pos ⟨rfl, rfl, e⟩))
theorem mcls (h : BitVec 3) (b : BitVec 5) (d : BitVec 5) : Statement (.mcls h b d) := fun e =>
  have e := of_decide_eq_true e
  encodes_word rfl (decode_tile (by exact if_pos ⟨rfl, e⟩))
theorem mthr (h : BitVec 3) (b : BitVec 5) (a : BitVec 5) : Statement (.mthr h b a) := fun _ => encodes_word rfl (decode_tile rfl)
theorem mmac (h : BitVec 3) (b : BitVec 5) (a : BitVec 5) (d : BitVec 5) : Statement (.mmac h b a d) := fun e =>
  have e := of_decide_eq_true e
  encodes_word rfl (decode_tile (by exact if_pos e))
theorem mdr (h : BitVec 3) (b : BitVec 5) (a : BitVec 5) (d : BitVec 5) : Statement (.mdr h b a d) := fun e =>
  have e := of_decide_eq_true e
  encodes_word rfl (decode_tile (by exact if_pos e))
theorem mrd (h : BitVec 3) (b : BitVec 5) (a : BitVec 5) (d : BitVec 5) : Statement (.mrd h b a d) := fun e =>
  have e := of_decide_eq_true e
  encodes_word rfl (decode_tile (by exact if_pos e))
theorem mwr (h : BitVec 3) (b : BitVec 5) (a : BitVec 5) (d : BitVec 5) : Statement (.mwr h b a d) := fun e =>
  have e := of_decide_eq_true e
  encodes_word rfl (decode_tile (by exact if_pos e))
theorem qpost (h : BitVec 3) (a : BitVec 5) (d : BitVec 5) : Statement (.qpost h a d) := fun _ => encodes_word rfl (decode_sys rfl)
theorem twait (h : BitVec 3) (b : BitVec 5) (a : BitVec 5) : Statement (.twait h b a) := fun _ => encodes_word rfl (decode_sys rfl)
theorem tstat (h : BitVec 3) (a : BitVec 5) (d : BitVec 5) : Statement (.tstat h a d) := fun _ => encodes_word rfl (decode_sys rfl)
theorem hbind (h : BitVec 3) (b : BitVec 5) (a : BitVec 5) (d : BitVec 5) : Statement (.hbind h b a d) := fun _ => encodes_word rfl (decode_sys rfl)
theorem hacq (h : BitVec 3) (b : BitVec 5) (a : BitVec 5) (c : BitVec 2) (s : BitVec 3) : Statement (.hacq h b a c s) := fun e =>
  have e := of_decide_eq_true e
  encodes_word rfl (decode_sys (by rw [sys_c, sys_s]; exact if_pos e))
theorem hrel (h : BitVec 3) (b : BitVec 5) (a : BitVec 5) (s : BitVec 3) : Statement (.hrel h b a s) := fun e =>
  have e := of_decide_eq_true e
  encodes_word rfl (decode_sys (by rw [sys_c, sys_s]; exact if_pos ⟨rfl, e⟩))
theorem hpub (h : BitVec 3) (s : BitVec 3) : Statement (.hpub h s) := fun e =>
  have e := of_decide_eq_true e
  encodes_word rfl (decode_sys (by rw [sys_c, sys_s]; exact if_pos ⟨rfl, rfl, rfl, e⟩))
theorem hobs (h : BitVec 3) (s : BitVec 3) : Statement (.hobs h s) := fun e =>
  have e := of_decide_eq_true e
  encodes_word rfl (decode_sys (by rw [sys_c, sys_s]; exact if_pos ⟨rfl, rfl, rfl, e⟩))
theorem tpost (h : BitVec 3) (a : BitVec 5) (d : BitVec 5) : Statement (.tpost h a d) := fun _ => encodes_word rfl (decode_sys rfl)
theorem cend (h : BitVec 3) : Statement (.cend h) := fun _ => encodes_word rfl (decode_sys rfl)
theorem csusp (h : BitVec 3) (a : BitVec 5) : Statement (.csusp h a) := fun _ => encodes_word rfl (decode_sys rfl)
theorem cyield (h : BitVec 3) (a : BitVec 5) : Statement (.cyield h a) := fun _ => encodes_word rfl (decode_sys rfl)
theorem notify (h : BitVec 3) (a : BitVec 5) : Statement (.notify h a) := fun _ => encodes_word rfl (decode_sys rfl)
theorem pmark (h : BitVec 3) (a : BitVec 5) : Statement (.pmark h a) := fun _ => encodes_word rfl (decode_sys rfl)
theorem qrnd (h : BitVec 3) (d : BitVec 5) : Statement (.qrnd h d) := fun _ => encodes_word rfl (decode_sys rfl)
theorem portableLoad (f3 : BitVec 3) (rd rs1 : BitVec 5) (imm : BitVec 12) : Statement (.portableLoad f3 rd rs1 imm) := fun e =>
  have e : f3 ≠ 7 := of_decide_eq_true e
  encodes_word rfl (by
    have hd := word_d imm rs1 f3 rd 0x03 0 5 (by decide)
    have h1 := word_x imm rs1 f3 rd 0x03 0 12
    rw [field_all] at hd h1
    simp only [Nat.zero_add] at hd h1
    simp only [decodeWord, word_op, word_f3, word_a, hd, h1, if_pos e]
    rfl)

theorem portableStore (f3 : BitVec 3) (rs1 rs2 : BitVec 5) (imm : BitVec 12) : Statement (.portableStore f3 rs1 rs2 imm) := fun e =>
  have e : f3.toNat ≤ 3 := of_decide_eq_true e
  encodes_word rfl (by
    have hd := word_d (imm.extractLsb' 5 7 ++ rs2) rs1 f3 (imm.extractLsb' 0 5) 0x23 0 5 (by decide)
    have h1 := word_x (imm.extractLsb' 5 7 ++ rs2) rs1 f3 (imm.extractLsb' 0 5) 0x23 0 5
    have h2 := word_x (imm.extractLsb' 5 7 ++ rs2) rs1 f3 (imm.extractLsb' 0 5) 0x23 5 7
    rw [field_all] at hd
    rw [r_b] at h1
    rw [r_f7] at h2
    simp only [Nat.reduceAdd] at hd h1 h2
    have j : imm.extractLsb' 5 7 ++ imm.extractLsb' 0 5 = imm := (field_join imm 0 7 5).trans (field_all imm)
    change decodeWord (iBits (imm.extractLsb' 5 7 ++ rs2) rs1 f3 (imm.extractLsb' 0 5) 0x23) = _
    simp only [decodeWord, word_op, word_f3, word_a, hd, h1, h2, if_pos e, j]
    rfl)

theorem fence (fm pred succ : BitVec 4) (rs1 rd : BitVec 5) : Statement (.fence fm pred succ rs1 rd) := fun e =>
  encodes_word rfl (by
    have hd := word_d (fm ++ pred ++ succ) rs1 0 rd 0x0F 0 5 (by decide)
    have h1 := (word_x (fm ++ pred ++ succ) rs1 0 rd 0x0F 0 4).trans
      ((field_low (fm ++ pred) succ 0 4 (by decide)).trans (field_all succ))
    have h2 := (word_x (fm ++ pred ++ succ) rs1 0 rd 0x0F 4 4).trans
      ((field_high (fm ++ pred) succ 4 4 (by decide)).trans <| (field_low fm pred 0 4 (by decide)).trans (field_all pred))
    have h3 := (word_x (fm ++ pred ++ succ) rs1 0 rd 0x0F 8 4).trans
      ((field_high (fm ++ pred) succ 8 4 (by decide)).trans <| (field_high fm pred 4 4 (by decide)).trans (field_all fm))
    have e : fenceTso fm pred succ = false := (Bool.not_eq_true' _).mp e
    rw [field_all] at hd
    simp only [Nat.reduceAdd] at hd h1 h2 h3
    simp only [decodeWord, word_op, word_f3, word_a, hd, h1, h2, h3, e]
    rfl)

theorem fenceI (imm : BitVec 12) (rs1 rd : BitVec 5) : Statement (.fenceI imm rs1 rd) := fun _ =>
  encodes_word rfl (by
    have hd := word_d imm rs1 1 rd 0x0F 0 5 (by decide)
    have h1 := word_x imm rs1 1 rd 0x0F 0 12
    rw [field_all] at hd h1
    simp only [Nat.zero_add] at hd h1
    simp only [decodeWord, word_op, word_f3, word_a, hd, h1]
    rfl)

theorem ecall : Statement .ecall := fun _ => encodes_word rfl rfl

theorem ebreak : Statement .ebreak := fun _ => encodes_word rfl rfl

theorem portableDivide (w : BitVec 1) (f3 : BitVec 3) (rd rs1 rs2 : BitVec 5) :
    Statement (.portableDivide w f3 rd rs1 rs2) := fun e =>
  have e : 4 ≤ f3.toNat := of_decide_eq_true e
  encodes_word rfl (by
    have hd := fun op => word_d (1#7 ++ rs2) rs1 f3 rd op 0 5 (by decide)
    have h1 := fun op => word_x (1#7 ++ rs2) rs1 f3 rd op 0 5
    have h2 := fun op => word_x (1#7 ++ rs2) rs1 f3 rd op 5 7
    simp only [field_all] at hd
    simp only [r_b] at h1
    simp only [r_f7] at h2
    simp only [Nat.reduceAdd] at hd h1 h2
    have k : ∀ b, decodeOp b 1#7 f3 rd rs1 rs2 = some (.portableDivide (if b then 1 else 0) f3 rd rs1 rs2) :=
      fun b => if_pos ⟨rfl, e⟩
    have hw : w = 1 ∨ w = 0 := (by decide : ∀ x : BitVec 1, x = 1 ∨ x = 0) w
    rcases hw with rfl | rfl
    · change decodeWord (iBits (1#7 ++ rs2) rs1 f3 rd 0x3B) = _
      simp only [decodeWord, word_op, word_f3, word_a, hd, h1, h2, k]
      rfl
    · change decodeWord (iBits (1#7 ++ rs2) rs1 f3 rd 0x33) = _
      simp only [decodeWord, word_op, word_f3, word_a, hd, h1, h2, k]
      rfl)

/-- The immediate of JAL put together from its pieces. -/
theorem jal_join (x : BitVec 20) :
    x.extractLsb' 19 1 ++ x.extractLsb' 11 8 ++ x.extractLsb' 10 1 ++ x.extractLsb' 0 10 = x := by
  have h1 : x.extractLsb' 19 1 ++ x.extractLsb' 11 8 = x.extractLsb' 11 9 := field_join x 11 1 8
  have h2 : x.extractLsb' 11 9 ++ x.extractLsb' 10 1 = x.extractLsb' 10 10 := field_join x 10 9 1
  have h3 : x.extractLsb' 10 10 ++ x.extractLsb' 0 10 = x.extractLsb' 0 20 := field_join x 0 10 10
  rw [h1]
  exact ((congrArg (· ++ x.extractLsb' 0 10) h2).trans h3).trans (field_all x)

/-- The immediate of a branch put together from its pieces. -/
theorem branch_join (x : BitVec 12) :
    x.extractLsb' 11 1 ++ x.extractLsb' 10 1 ++ x.extractLsb' 4 6 ++ x.extractLsb' 0 4 = x := by
  have h1 : x.extractLsb' 11 1 ++ x.extractLsb' 10 1 = x.extractLsb' 10 2 := field_join x 10 1 1
  have h2 : x.extractLsb' 10 2 ++ x.extractLsb' 4 6 = x.extractLsb' 4 8 := field_join x 4 2 6
  have h3 : x.extractLsb' 4 8 ++ x.extractLsb' 0 4 = x.extractLsb' 0 12 := field_join x 0 8 4
  rw [h1]
  exact ((congrArg (· ++ x.extractLsb' 0 4) h2).trans h3).trans (field_all x)

theorem portableBranchJump (j : JumpOp) : Statement (.portableBranchJump j) := fun e =>
  encodes_word rfl (by
    cases j with
    | jal rd imm =>
      have J := jal_join imm
      change decodeWord (imm.extractLsb' 19 1 ++ imm.extractLsb' 0 10 ++ imm.extractLsb' 10 1 ++ imm.extractLsb' 11 8 ++ rd ++ 0x6F#7) = _
      generalize imm.extractLsb' 19 1 = p at *
      generalize imm.extractLsb' 0 10 = q at *
      generalize imm.extractLsb' 10 1 = r at *
      generalize imm.extractLsb' 11 8 = t at *
      have h0 := (field_low (p ++ q ++ r ++ t ++ rd) 0x6F#7 0 7 (by decide)).trans (field_all _)
      have h1 := (field_high (p ++ q ++ r ++ t ++ rd) 0x6F#7 7 5 (by decide)).trans <|
        (field_low (p ++ q ++ r ++ t) rd 0 5 (by decide)).trans (field_all rd)
      have h2 := (field_high (p ++ q ++ r ++ t ++ rd) 0x6F#7 12 8 (by decide)).trans <|
        (field_high (p ++ q ++ r ++ t) rd 5 8 (by decide)).trans <|
        (field_low (p ++ q ++ r) t 0 8 (by decide)).trans (field_all t)
      have h3 := (field_high (p ++ q ++ r ++ t ++ rd) 0x6F#7 20 1 (by decide)).trans <|
        (field_high (p ++ q ++ r ++ t) rd 13 1 (by decide)).trans <|
        (field_high (p ++ q ++ r) t 8 1 (by decide)).trans <|
        (field_low (p ++ q) r 0 1 (by decide)).trans (field_all r)
      have h4 := (field_high (p ++ q ++ r ++ t ++ rd) 0x6F#7 21 10 (by decide)).trans <|
        (field_high (p ++ q ++ r ++ t) rd 14 10 (by decide)).trans <|
        (field_high (p ++ q ++ r) t 9 10 (by decide)).trans <|
        (field_high (p ++ q) r 1 10 (by decide)).trans <| (field_low p q 0 10 (by decide)).trans (field_all q)
      have h5 := (field_high (p ++ q ++ r ++ t ++ rd) 0x6F#7 31 1 (by decide)).trans <|
        (field_high (p ++ q ++ r ++ t) rd 24 1 (by decide)).trans <|
        (field_high (p ++ q ++ r) t 19 1 (by decide)).trans <|
        (field_high (p ++ q) r 11 1 (by decide)).trans <| (field_high p q 10 1 (by decide)).trans (field_all p)
      generalize p ++ q ++ r ++ t ++ rd ++ 0x6F#7 = w at *
      have g0 : BitVec.extractLsb' 0 7 (w : BitVec 32) = 0x6F#7 := h0
      have g1 : BitVec.extractLsb' 7 5 (w : BitVec 32) = rd := h1
      have g2 : BitVec.extractLsb' 12 8 (w : BitVec 32) = t := h2
      have g3 : BitVec.extractLsb' 20 1 (w : BitVec 32) = r := h3
      have g4 : BitVec.extractLsb' 21 10 (w : BitVec 32) = q := h4
      have g5 : BitVec.extractLsb' 31 1 (w : BitVec 32) = p := h5
      simp only [decodeWord, g0, g1, g2, g3, g4, g5, J]
      rfl
    | jalr rd rs1 imm =>
      have hd := word_d imm rs1 0 rd 0x67 0 5 (by decide)
      have h1 := word_x imm rs1 0 rd 0x67 0 12
      rw [field_all] at hd h1
      simp only [Nat.zero_add] at hd h1
      change decodeWord (iBits imm rs1 0 rd 0x67) = _
      simp only [decodeWord, word_op, word_f3, word_a, hd, h1]
      rfl
    | branch f3 rs1 rs2 imm =>
      have e : f3 ≠ 2 ∧ f3 ≠ 3 := of_decide_eq_true e
      have J := branch_join imm
      change decodeWord (imm.extractLsb' 11 1 ++ imm.extractLsb' 4 6 ++ rs2 ++ rs1 ++ f3 ++ imm.extractLsb' 0 4 ++ imm.extractLsb' 10 1 ++ 0x63#7) = _
      generalize imm.extractLsb' 11 1 = p at *
      generalize imm.extractLsb' 4 6 = q at *
      generalize imm.extractLsb' 0 4 = r at *
      generalize imm.extractLsb' 10 1 = t at *
      have h0 := (field_low (p ++ q ++ rs2 ++ rs1 ++ f3 ++ r ++ t) 0x63#7 0 7 (by decide)).trans (field_all _)
      have h1 := (field_high (p ++ q ++ rs2 ++ rs1 ++ f3 ++ r ++ t) 0x63#7 7 1 (by decide)).trans <|
        (field_low (p ++ q ++ rs2 ++ rs1 ++ f3 ++ r) t 0 1 (by decide)).trans (field_all t)
      have h2 := (field_high (p ++ q ++ rs2 ++ rs1 ++ f3 ++ r ++ t) 0x63#7 8 4 (by decide)).trans <|
        (field_high (p ++ q ++ rs2 ++ rs1 ++ f3 ++ r) t 1 4 (by decide)).trans <|
        (field_low (p ++ q ++ rs2 ++ rs1 ++ f3) r 0 4 (by decide)).trans (field_all r)
      have h3 := (field_high (p ++ q ++ rs2 ++ rs1 ++ f3 ++ r ++ t) 0x63#7 12 3 (by decide)).trans <|
        (field_high (p ++ q ++ rs2 ++ rs1 ++ f3 ++ r) t 5 3 (by decide)).trans <|
        (field_high (p ++ q ++ rs2 ++ rs1 ++ f3) r 4 3 (by decide)).trans <|
        (field_low (p ++ q ++ rs2 ++ rs1) f3 0 3 (by decide)).trans (field_all f3)
      have h4 := (field_high (p ++ q ++ rs2 ++ rs1 ++ f3 ++ r ++ t) 0x63#7 15 5 (by decide)).trans <|
        (field_high (p ++ q ++ rs2 ++ rs1 ++ f3 ++ r) t 8 5 (by decide)).trans <|
        (field_high (p ++ q ++ rs2 ++ rs1 ++ f3) r 7 5 (by decide)).trans <|
        (field_high (p ++ q ++ rs2 ++ rs1) f3 3 5 (by decide)).trans <|
        (field_low (p ++ q ++ rs2) rs1 0 5 (by decide)).trans (field_all rs1)
      have h5 := (field_high (p ++ q ++ rs2 ++ rs1 ++ f3 ++ r ++ t) 0x63#7 20 5 (by decide)).trans <|
        (field_high (p ++ q ++ rs2 ++ rs1 ++ f3 ++ r) t 13 5 (by decide)).trans <|
        (field_high (p ++ q ++ rs2 ++ rs1 ++ f3) r 12 5 (by decide)).trans <|
        (field_high (p ++ q ++ rs2 ++ rs1) f3 8 5 (by decide)).trans <|
        (field_high (p ++ q ++ rs2) rs1 5 5 (by decide)).trans <|
        (field_low (p ++ q) rs2 0 5 (by decide)).trans (field_all rs2)
      have h6 := (field_high (p ++ q ++ rs2 ++ rs1 ++ f3 ++ r ++ t) 0x63#7 25 6 (by decide)).trans <|
        (field_high (p ++ q ++ rs2 ++ rs1 ++ f3 ++ r) t 18 6 (by decide)).trans <|
        (field_high (p ++ q ++ rs2 ++ rs1 ++ f3) r 17 6 (by decide)).trans <|
        (field_high (p ++ q ++ rs2 ++ rs1) f3 13 6 (by decide)).trans <|
        (field_high (p ++ q ++ rs2) rs1 10 6 (by decide)).trans <|
        (field_high (p ++ q) rs2 5 6 (by decide)).trans <| (field_low p q 0 6 (by decide)).trans (field_all q)
      have h7 := (field_high (p ++ q ++ rs2 ++ rs1 ++ f3 ++ r ++ t) 0x63#7 31 1 (by decide)).trans <|
        (field_high (p ++ q ++ rs2 ++ rs1 ++ f3 ++ r) t 24 1 (by decide)).trans <|
        (field_high (p ++ q ++ rs2 ++ rs1 ++ f3) r 23 1 (by decide)).trans <|
        (field_high (p ++ q ++ rs2 ++ rs1) f3 19 1 (by decide)).trans <|
        (field_high (p ++ q ++ rs2) rs1 16 1 (by decide)).trans <|
        (field_high (p ++ q) rs2 11 1 (by decide)).trans <| (field_high p q 6 1 (by decide)).trans (field_all p)
      generalize p ++ q ++ rs2 ++ rs1 ++ f3 ++ r ++ t ++ 0x63#7 = w at *
      have g0 : BitVec.extractLsb' 0 7 (w : BitVec 32) = 0x63#7 := h0
      have g1 : BitVec.extractLsb' 7 1 (w : BitVec 32) = t := h1
      have g2 : BitVec.extractLsb' 8 4 (w : BitVec 32) = r := h2
      have g3 : BitVec.extractLsb' 12 3 (w : BitVec 32) = f3 := h3
      have g4 : BitVec.extractLsb' 15 5 (w : BitVec 32) = rs1 := h4
      have g5 : BitVec.extractLsb' 20 5 (w : BitVec 32) = rs2 := h5
      have g6 : BitVec.extractLsb' 25 6 (w : BitVec 32) = q := h6
      have g7 : BitVec.extractLsb' 31 1 (w : BitVec 32) = p := h7
      simp only [decodeWord, g0, g1, g2, g3, g4, g5, g6, g7, J, if_pos e]
      rfl)

theorem csrAccess (csr : BitVec 12) (f3 : BitVec 3) (rd src : BitVec 5) : Statement (.csrAccess csr f3 rd src) := fun e =>
  have e : csrLegal csr f3 src = true := e
  have z : f3 ≠ 0 := fun z => by
    rw [z] at e
    simp [csrLegal] at e
  encodes_word rfl (by
    have hd := word_d csr src f3 rd 0x73 0 5 (by decide)
    have h1 := word_x csr src f3 rd 0x73 0 12
    rw [field_all] at hd h1
    simp only [Nat.zero_add] at hd h1
    have k : decodeSystem f3 csr src rd = some (.csrAccess csr f3 rd src) := by
      unfold decodeSystem
      rw [if_neg z, if_pos e]
    simp only [decodeWord, word_op, word_f3, word_a, hd, h1, k]
    rfl)

theorem portableIntegerOp (op : IntOp) : Statement (.portableIntegerOp op) := fun e =>
  have e : intOpLegal op = true := e
  encodes_word rfl (by
    cases op with
    | lui rd imm =>
      have h0 : BitVec.extractLsb' 0 7 (imm ++ rd ++ 0x37#7) = 0x37#7 := (field_low (imm ++ rd) 0x37#7 0 7 (by decide)).trans (field_all _)
      have h1 : BitVec.extractLsb' 7 5 (imm ++ rd ++ 0x37#7) = rd := (field_high (imm ++ rd) 0x37#7 7 5 (by decide)).trans <|
        (field_low imm rd 0 5 (by decide)).trans (field_all rd)
      have h2 : BitVec.extractLsb' 12 20 (imm ++ rd ++ 0x37#7) = imm := (field_high (imm ++ rd) 0x37#7 12 20 (by decide)).trans <|
        (field_high imm rd 5 20 (by decide)).trans (field_all imm)
      change decodeWord (imm ++ rd ++ 0x37#7) = _
      generalize imm ++ rd ++ 0x37#7 = w at *
      have g0 : BitVec.extractLsb' 0 7 (w : BitVec 32) = 0x37#7 := h0
      have g1 : BitVec.extractLsb' 7 5 (w : BitVec 32) = rd := h1
      have g2 : BitVec.extractLsb' 12 20 (w : BitVec 32) = imm := h2
      simp only [decodeWord, g0, g1, g2]
      rfl
    | auipc rd imm =>
      have h0 : BitVec.extractLsb' 0 7 (imm ++ rd ++ 0x17#7) = 0x17#7 := (field_low (imm ++ rd) 0x17#7 0 7 (by decide)).trans (field_all _)
      have h1 : BitVec.extractLsb' 7 5 (imm ++ rd ++ 0x17#7) = rd := (field_high (imm ++ rd) 0x17#7 7 5 (by decide)).trans <|
        (field_low imm rd 0 5 (by decide)).trans (field_all rd)
      have h2 : BitVec.extractLsb' 12 20 (imm ++ rd ++ 0x17#7) = imm := (field_high (imm ++ rd) 0x17#7 12 20 (by decide)).trans <|
        (field_high imm rd 5 20 (by decide)).trans (field_all imm)
      change decodeWord (imm ++ rd ++ 0x17#7) = _
      generalize imm ++ rd ++ 0x17#7 = w at *
      have g0 : BitVec.extractLsb' 0 7 (w : BitVec 32) = 0x17#7 := h0
      have g1 : BitVec.extractLsb' 7 5 (w : BitVec 32) = rd := h1
      have g2 : BitVec.extractLsb' 12 20 (w : BitVec 32) = imm := h2
      simp only [decodeWord, g0, g1, g2]
      rfl
    | opImm f3 rd rs1 imm =>
      have hd := word_d imm rs1 f3 rd 0x13 0 5 (by decide)
      have h1 := word_x imm rs1 f3 rd 0x13 0 12
      rw [field_all] at hd h1
      simp only [Nat.zero_add] at hd h1
      change decodeWord (iBits imm rs1 f3 rd 0x13) = _
      simp only [decodeWord, word_op, word_f3, word_a, hd, h1, e]
      rfl
    | opImm32 f3 rd rs1 imm =>
      have hd := word_d imm rs1 f3 rd 0x1B 0 5 (by decide)
      have h1 := word_x imm rs1 f3 rd 0x1B 0 12
      rw [field_all] at hd h1
      simp only [Nat.zero_add] at hd h1
      change decodeWord (iBits imm rs1 f3 rd 0x1B) = _
      simp only [decodeWord, word_op, word_f3, word_a, hd, h1, e]
      rfl
    | op f7 f3 rd rs1 rs2 =>
      have hd := word_d (f7 ++ rs2) rs1 f3 rd 0x33 0 5 (by decide)
      have h1 := word_x (f7 ++ rs2) rs1 f3 rd 0x33 0 5
      have h2 := word_x (f7 ++ rs2) rs1 f3 rd 0x33 5 7
      rw [field_all] at hd
      rw [r_b] at h1
      rw [r_f7] at h2
      simp only [Nat.reduceAdd] at hd h1 h2
      have z : ¬ (f7 = 1 ∧ 4 ≤ f3.toNat) := fun z => by
        rw [z.1] at e
        have := z.2
        simp [intOpLegal] at e
        omega
      have k : decodeOp false f7 f3 rd rs1 rs2 = some (.portableIntegerOp (.op f7 f3 rd rs1 rs2)) := by
        unfold decodeOp
        rw [if_neg z]
        exact if_pos e
      change decodeWord (iBits (f7 ++ rs2) rs1 f3 rd 0x33) = _
      simp only [decodeWord, word_op, word_f3, word_a, hd, h1, h2, k]
      rfl
    | op32 f7 f3 rd rs1 rs2 =>
      have hd := word_d (f7 ++ rs2) rs1 f3 rd 0x3B 0 5 (by decide)
      have h1 := word_x (f7 ++ rs2) rs1 f3 rd 0x3B 0 5
      have h2 := word_x (f7 ++ rs2) rs1 f3 rd 0x3B 5 7
      rw [field_all] at hd
      rw [r_b] at h1
      rw [r_f7] at h2
      simp only [Nat.reduceAdd] at hd h1 h2
      have z : ¬ (f7 = 1 ∧ 4 ≤ f3.toNat) := fun z => by
        rw [z.1] at e
        have y := z.2
        simp [intOpLegal] at e
        rw [e] at y
        exact absurd y (by decide)
      have k : decodeOp true f7 f3 rd rs1 rs2 = some (.portableIntegerOp (.op32 f7 f3 rd rs1 rs2)) := by
        unfold decodeOp
        rw [if_neg z]
        exact if_pos e
      change decodeWord (iBits (f7 ++ rs2) rs1 f3 rd 0x3B) = _
      simp only [decodeWord, word_op, word_f3, word_a, hd, h1, h2, k]
      rfl)

theorem bundleDispatch g : Statement (.bundleDispatch g) := fun _ => encodes_none rfl
theorem resultLand g : Statement (.resultLand g) := fun _ => encodes_none rfl
theorem loopPassEnd g : Statement (.loopPassEnd g) := fun _ => encodes_none rfl
theorem engineConsume g : Statement (.engineConsume g) := fun _ => encodes_none rfl
theorem sequencerStep g : Statement (.sequencerStep g) := fun _ => encodes_none rfl
theorem tokenReturn g : Statement (.tokenReturn g) := fun _ => encodes_none rfl
theorem engineWakeAdmit g : Statement (.engineWakeAdmit g) := fun _ => encodes_none rfl
theorem clusterGrant g : Statement (.clusterGrant g) := fun _ => encodes_none rfl
theorem writeStagingDrain g : Statement (.writeStagingDrain g) := fun _ => encodes_none rfl
theorem readStagingExpire g line : Statement (.readStagingExpire g line) := fun _ => encodes_none rfl
theorem userInterruptTake g : Statement (.userInterruptTake g) := fun _ => encodes_none rfl
theorem twaitRelease g : Statement (.twaitRelease g) := fun _ => encodes_none rfl
theorem hacqRelease g : Statement (.hacqRelease g) := fun _ => encodes_none rfl
theorem hrelDone g : Statement (.hrelDone g) := fun _ => encodes_none rfl
theorem hpubDone g : Statement (.hpubDone g) := fun _ => encodes_none rfl
theorem hbindDone g sram : Statement (.hbindDone g sram) := fun _ => encodes_none rfl
theorem bwaitRelease g : Statement (.bwaitRelease g) := fun _ => encodes_none rfl
theorem ballocDone g : Statement (.ballocDone g) := fun _ => encodes_none rfl
theorem postClaim g : Statement (.postClaim g) := fun _ => encodes_none rfl
theorem tpostDone g : Statement (.tpostDone g) := fun _ => encodes_none rfl
theorem rejoinRelease g : Statement (.rejoinRelease g) := fun _ => encodes_none rfl
theorem fuseRelease g : Statement (.fuseRelease g) := fun _ => encodes_none rfl
theorem entropyReady d draw : Statement (.entropyReady d draw) := fun _ => encodes_none rfl
theorem saeApply c n : Statement (.saeApply c n) := fun _ => encodes_none rfl
theorem stop g : Statement (.stop g) := fun _ => encodes_none rfl
theorem resume p g : Statement (.resume p g) := fun _ => encodes_none rfl
theorem watchdog g : Statement (.watchdog g) := fun _ => encodes_none rfl
theorem preemptionDeadline g : Statement (.preemptionDeadline g) := fun _ => encodes_none rfl
theorem softPreemption g : Statement (.softPreemption g) := fun _ => encodes_none rfl
theorem teardown asid pa : Statement (.teardown asid pa) := fun _ => encodes_none rfl
theorem sramError structure_ idx g correctable : Statement (.sramError structure_ idx g correctable) := fun _ => encodes_none rfl
theorem handOver g : Statement (.handOver g) := fun _ => encodes_none rfl
theorem shiftRequest g : Statement (.shiftRequest g) := fun _ => encodes_none rfl
theorem derailleurReevaluate t : Statement (.derailleurReevaluate t) := fun _ => encodes_none rfl
theorem recordWake t : Statement (.recordWake t) := fun _ => encodes_none rfl
theorem dispatch p g : Statement (.dispatch p g) := fun _ => encodes_none rfl
theorem level7Preempt p : Statement (.level7Preempt p) := fun _ => encodes_none rfl
theorem gatherStart p : Statement (.gatherStart p) := fun _ => encodes_none rfl
theorem gatherPreempt p : Statement (.gatherPreempt p) := fun _ => encodes_none rfl
theorem taskSlotGranted ch : Statement (.taskSlotGranted ch) := fun _ => encodes_none rfl
theorem launchGroupComplete grp : Statement (.launchGroupComplete grp) := fun _ => encodes_none rfl
theorem queueCreate fn i : Statement (.queueCreate fn i) := fun _ => encodes_none rfl
theorem queueClose fn i : Statement (.queueClose fn i) := fun _ => encodes_none rfl
theorem queueAbort ch : Statement (.queueAbort ch) := fun _ => encodes_none rfl
theorem channelBind vf i w : Statement (.channelBind vf i w) := fun _ => encodes_none rfl
theorem takePacket ch : Statement (.takePacket ch) := fun _ => encodes_none rfl
theorem packetCrcTimeout ch : Statement (.packetCrcTimeout ch) := fun _ => encodes_none rfl
theorem nullPacket ch n : Statement (.nullPacket ch n) := fun _ => encodes_none rfl
theorem copy ch n : Statement (.copy ch n) := fun _ => encodes_none rfl
theorem fill ch n : Statement (.fill ch n) := fun _ => encodes_none rfl
theorem gather ch n : Statement (.gather ch n) := fun _ => encodes_none rfl
theorem scatter ch n : Statement (.scatter ch n) := fun _ => encodes_none rfl
theorem atom ch n : Statement (.atom ch n) := fun _ => encodes_none rfl
theorem send ch n : Statement (.send ch n) := fun _ => encodes_none rfl
theorem promote ch n frames : Statement (.promote ch n frames) := fun _ => encodes_none rfl
theorem demote ch n : Statement (.demote ch n) := fun _ => encodes_none rfl
theorem launch ch n : Statement (.launch ch n) := fun _ => encodes_none rfl
theorem signal ch n : Statement (.signal ch n) := fun _ => encodes_none rfl
theorem waittl ch n : Statement (.waittl ch n) := fun _ => encodes_none rfl
theorem icinv ch n : Statement (.icinv ch n) := fun _ => encodes_none rfl
theorem sendAcknowledged ch n : Statement (.sendAcknowledged ch n) := fun _ => encodes_none rfl
theorem sendAckTimeout ch n : Statement (.sendAckTimeout ch n) := fun _ => encodes_none rfl
theorem packetComplete ch : Statement (.packetComplete ch) := fun _ => encodes_none rfl
theorem pageWalk e asid va acc : Statement (.pageWalk e asid va acc) := fun _ => encodes_none rfl
theorem faultResolved ch n : Statement (.faultResolved ch n) := fun _ => encodes_none rfl
theorem faultUnrecoverable ch n : Statement (.faultUnrecoverable ch n) := fun _ => encodes_none rfl
theorem faultTimeout ch n : Statement (.faultTimeout ch n) := fun _ => encodes_none rfl
theorem invalidateVa w : Statement (.invalidateVa w) := fun _ => encodes_none rfl
theorem invalidateAsid w : Statement (.invalidateAsid w) := fun _ => encodes_none rfl
theorem invalidateVm w : Statement (.invalidateVm w) := fun _ => encodes_none rfl
theorem invalidateAll w : Statement (.invalidateAll w) := fun _ => encodes_none rfl
theorem invalidateComplete  : Statement (.invalidateComplete ) := fun _ => encodes_none rfl
theorem homeMapChange chunk ent : Statement (.homeMapChange chunk ent) := fun _ => encodes_none rfl
theorem hostBar2Write fn addr data : Statement (.hostBar2Write fn addr data) := fun _ => encodes_none rfl
theorem hostBar2Read fn addr n : Statement (.hostBar2Read fn addr n) := fun _ => encodes_none rfl
theorem hostAtomic fn addr width op val cmp : Statement (.hostAtomic fn addr width op val cmp) := fun _ => encodes_none rfl
theorem registerWrite fn off val : Statement (.registerWrite fn off val) := fun _ => encodes_none rfl
theorem flitReceive port hdr payload good : Statement (.flitReceive port hdr payload good) := fun _ => encodes_none rfl
theorem flitReplay port : Statement (.flitReplay port) := fun _ => encodes_none rfl
theorem portRetrain port outcome : Statement (.portRetrain port outcome) := fun _ => encodes_none rfl
theorem frequencyChange i mhz : Statement (.frequencyChange i mhz) := fun _ => encodes_none rfl
theorem thermalSample i temps : Statement (.thermalSample i temps) := fun _ => encodes_none rfl
theorem throttleStep i : Statement (.throttleStep i) := fun _ => encodes_none rfl
theorem fatalThermalFault i pa : Statement (.fatalThermalFault i pa) := fun _ => encodes_none rfl
theorem powerLimit w : Statement (.powerLimit w) := fun _ => encodes_none rfl
theorem bringUp  : Statement (.bringUp ) := fun _ => encodes_none rfl
theorem journalClear  : Statement (.journalClear ) := fun _ => encodes_none rfl
theorem driverMeasurementExtend d reg image : Statement (.driverMeasurementExtend d reg image) := fun _ => encodes_none rfl
theorem dumpSlotRelease asid : Statement (.dumpSlotRelease asid) := fun _ => encodes_none rfl
theorem releaseHeld asid : Statement (.releaseHeld asid) := fun _ => encodes_none rfl
theorem debuggerDetach asid : Statement (.debuggerDetach asid) := fun _ => encodes_none rfl
theorem halt g : Statement (.halt g) := fun _ => encodes_none rfl
theorem runHalted g : Statement (.runHalted g) := fun _ => encodes_none rfl
theorem stepHalted g : Statement (.stepHalted g) := fun _ => encodes_none rfl
theorem shut g : Statement (.shut g) := fun _ => encodes_none rfl
theorem shutterAck g : Statement (.shutterAck g) := fun _ => encodes_none rfl
theorem openShutter g : Statement (.openShutter g) := fun _ => encodes_none rfl
theorem imgout g : Statement (.imgout g) := fun _ => encodes_none rfl
theorem imgin g : Statement (.imgin g) := fun _ => encodes_none rfl
theorem evict g : Statement (.evict g) := fun _ => encodes_none rfl
theorem breakpoint g : Statement (.breakpoint g) := fun _ => encodes_none rfl
theorem cadenceBreakpoint g : Statement (.cadenceBreakpoint g) := fun _ => encodes_none rfl
theorem profileSessionWrite asid i w : Statement (.profileSessionWrite asid i w) := fun _ => encodes_none rfl
theorem bundleSample g : Statement (.bundleSample g) := fun _ => encodes_none rfl
theorem engineSample g : Statement (.engineSample g) := fun _ => encodes_none rfl
theorem replayDivergence g : Statement (.replayDivergence g) := fun _ => encodes_none rfl
theorem recordBufferFull d : Statement (.recordBufferFull d) := fun _ => encodes_none rfl
theorem recordRegionFull  : Statement (.recordRegionFull ) := fun _ => encodes_none rfl
theorem loadCodeObject asid image len handle places stores tableVa codeVa :
    Statement (.loadCodeObject asid image len handle places stores tableVa codeVa) := fun _ => encodes_none rfl
theorem unloadCodeObject asid handle : Statement (.unloadCodeObject asid handle) := fun _ => encodes_none rfl
theorem bundlePublish d asid handle ent va bundles : Statement (.bundlePublish d asid handle ent va bundles) := fun _ => encodes_none rfl
theorem attestationReport nonce : Statement (.attestationReport nonce) := fun _ => encodes_none rfl
theorem addressSpaceCreate asid words : Statement (.addressSpaceCreate asid words) := fun _ => encodes_none rfl
theorem addressSpaceDelete asid : Statement (.addressSpaceDelete asid) := fun _ => encodes_none rfl
theorem modulePowerDown  : Statement (.modulePowerDown ) := fun _ => encodes_none rfl
theorem commandInFlightComplete g : Statement (.commandInFlightComplete g) := fun _ => encodes_none rfl
theorem icacheDiscardDone g : Statement (.icacheDiscardDone g) := fun _ => encodes_none rfl
theorem recordBufferDrained d : Statement (.recordBufferDrained d) := fun _ => encodes_none rfl

end Sys2Proof.Laws.Encodes
end

