-- ==== Sys2Proof/Laws/Tables.lean ====
section
/-! SUPPORT. Sparse tables, files and memory: read after write, and the canonical form. -/

namespace Sys2Proof

variable {α : Type}

/-- A key reads what was put there last; every other key reads as before. -/
theorem Tab.find_put (t : Tab α) (n m : Nat) (a : α) : Tab.find (Tab.put t n a) m = if m = n then some a else Tab.find t m := by
  induction t with
  | nil => simp [Tab.put, Tab.find, eq_comm]
  | cons p t ih =>
    obtain ⟨k, v⟩ := p
    simp only [Tab.put]
    split
    · simp [Tab.find, eq_comm]
    · split
      · subst_vars; simp only [Tab.find]; grind
      · simp only [Tab.find, ih]; grind

theorem Tab.get_put (d : α) (t : Tab α) (n m : Nat) (a : α) : Tab.get d (Tab.put t n a) m = if m = n then a else Tab.get d t m := by
  simp only [Tab.get, Tab.find_put]; split <;> rfl

/-- Of two writes of one key the second remains. -/
theorem Tab.put_put (t : Tab α) (n : Nat) (a b : α) : Tab.put (Tab.put t n a) n b = Tab.put t n b := by
  induction t with
  | nil => simp [Tab.put]
  | cons p t ih =>
    obtain ⟨k, v⟩ := p
    by_cases h : n < k
    · simp [Tab.put, h]
    · by_cases e : n = k
      · simp [Tab.put, e]
      · simp [Tab.put, h, e, ih]

/-- Removing a key leaves what every other key reads. -/
theorem Tab.find_del_ne (t : Tab α) (n m : Nat) (h : m ≠ n) : Tab.find (Tab.del t n) m = Tab.find t m := by
  induction t with
  | nil => rfl
  | cons p t ih => obtain ⟨k, v⟩ := p; simp only [Tab.del, Tab.find]; split <;> simp_all [Tab.find]; intro e; exact absurd e.symm h

/-- A register of a file reads what was written last, or what it read before. -/
theorem File.get_put (d : α) (free : Nat → Nat → α) (f : File α) (n m : Nat) (a : α) :
    (f.put n a).get d free m = if m = n then a else f.get d free m := by
  by_cases h : m = n <;> simp [File.get, File.put, Tab.find_put, h]

end Sys2Proof

namespace Sys2Proof.Machine

/-! ### Memory -/

/-- Nothing below the first location of a canonical memory is listed. -/
theorem Memory.find_lt {m : Memory} {lo x : Nat} (h : Memory.wfFrom lo m = true) (hx : x < lo) : Tab.find m x = none := by
  induction m generalizing lo with
  | nil => rfl
  | cons p t ih =>
    obtain ⟨k, v⟩ := p
    simp only [Memory.wfFrom, Bool.and_eq_true, decide_eq_true_eq] at h
    simp only [Tab.find]
    rw [if_neg (by omega)]
    exact ih h.2 (by omega)

theorem Memory.wfFrom_le {m : Memory} {lo lo' : Nat} (h : Memory.wfFrom lo m = true) (hl : lo' ≤ lo) : Memory.wfFrom lo' m = true := by
  cases m with
  | nil => rfl
  | cons p t =>
    obtain ⟨k, v⟩ := p
    simp only [Memory.wfFrom, Bool.and_eq_true, decide_eq_true_eq] at h ⊢
    exact ⟨⟨by omega, h.1.2⟩, h.2⟩

theorem Memory.wfFrom_put {m : Memory} {lo a : Nat} {b : Byte} (h : Memory.wfFrom lo m = true) (ha : lo ≤ a) (hb : b ≠ 0) :
    Memory.wfFrom lo (Tab.put m a b) = true := by
  induction m generalizing lo with
  | nil => simp only [Tab.put, Memory.wfFrom, Bool.and_eq_true, decide_eq_true_eq]; exact ⟨⟨ha, hb⟩, trivial⟩
  | cons p t ih =>
    obtain ⟨k, v⟩ := p
    simp only [Memory.wfFrom, Bool.and_eq_true, decide_eq_true_eq] at h
    simp only [Tab.put]
    split
    · simp only [Memory.wfFrom, Bool.and_eq_true, decide_eq_true_eq]; exact ⟨⟨ha, hb⟩, ⟨by omega, h.1.2⟩, h.2⟩
    · split
      · simp only [Memory.wfFrom, Bool.and_eq_true, decide_eq_true_eq]; subst_vars; exact ⟨⟨ha, hb⟩, h.2⟩
      · simp only [Memory.wfFrom, Bool.and_eq_true, decide_eq_true_eq]; exact ⟨h.1, ih h.2 (by omega)⟩

theorem Memory.wfFrom_del {m : Memory} {lo a : Nat} (h : Memory.wfFrom lo m = true) : Memory.wfFrom lo (Tab.del m a) = true := by
  induction m generalizing lo with
  | nil => rfl
  | cons p t ih =>
    obtain ⟨k, v⟩ := p
    simp only [Memory.wfFrom, Bool.and_eq_true, decide_eq_true_eq] at h
    simp only [Tab.del]
    split
    · exact Memory.wfFrom_le h.2 (by omega)
    · simp only [Memory.wfFrom, Bool.and_eq_true, decide_eq_true_eq]; exact ⟨h.1, ih h.2⟩

/-- Removing locations keeps the form. -/
theorem Memory.wfFrom_filter {m : Memory} {lo : Nat} (f : Host.Cell → Bool) (h : Memory.wfFrom lo m = true) :
    Memory.wfFrom lo (m.filter f) = true := by
  induction m generalizing lo with
  | nil => rfl
  | cons p t ih =>
    obtain ⟨k, v⟩ := p
    simp only [Memory.wfFrom, Bool.and_eq_true, decide_eq_true_eq] at h
    simp only [List.filter_cons]
    split
    · simp only [Memory.wfFrom, Bool.and_eq_true, decide_eq_true_eq]; exact ⟨h.1, ih h.2⟩
    · exact ih (Memory.wfFrom_le h.2 (by omega))

theorem memPut_wf {m : Memory} (a : Nat) (b : Byte) (h : m.wf = true) : (memPut m a b).wf = true := by
  unfold memPut; split
  · exact Memory.wfFrom_del h
  · exact Memory.wfFrom_put h (Nat.zero_le _) ‹_›

theorem Memory.find_del {m : Memory} {lo a : Nat} (h : Memory.wfFrom lo m = true) : Tab.find (Tab.del m a) a = none := by
  induction m generalizing lo with
  | nil => rfl
  | cons p t ih =>
    obtain ⟨k, v⟩ := p
    simp only [Memory.wfFrom, Bool.and_eq_true, decide_eq_true_eq] at h
    simp only [Tab.del]
    split
    · exact Memory.find_lt h.2 (by omega)
    · simp only [Tab.find, if_neg ‹_›]; exact ih h.2

/-- Read after a write of one byte. -/
theorem memGet_memPut {m : Memory} (a x : Nat) (b : Byte) (h : m.wf = true) :
    memGet (memPut m a b) x = if x = a then b else memGet m x := by
  unfold memPut memGet
  split
  · split
    · subst_vars; simp [Tab.get, Memory.find_del h]
    · simp [Tab.get, Tab.find_del_ne _ _ _ ‹_›]
  · rw [Tab.get_put]

theorem memWrite_wf {m : Memory} (a x n : Nat) (h : m.wf = true) : (memWrite m a x n).wf = true := by
  induction n generalizing m a x with
  | zero => exact h
  | succ n ih => exact ih _ _ (memPut_wf _ _ h)

/-- A write leaves every byte outside it. -/
theorem memGet_memWrite {m : Memory} (a x n y : Nat) (h : m.wf = true) (hy : y < a ∨ a + n ≤ y) :
    memGet (memWrite m a x n) y = memGet m y := by
  induction n generalizing m a x with
  | zero => rfl
  | succ n ih => simp only [memWrite]; rw [ih _ _ (memPut_wf _ _ h) (by omega), memGet_memPut _ _ _ h, if_neg (by omega)]

/-- Bytes that read alike make the same number. -/
theorem memRead_congr {m m' : Memory} (a n : Nat) (h : ∀ i, i < n → memGet m' (a + i) = memGet m (a + i)) :
    memRead m' a n = memRead m a n := by
  induction n generalizing a with
  | zero => rfl
  | succ n ih =>
    simp only [memRead]
    rw [ih (a + 1) (fun i hi => by have := h (i + 1) (by omega); rwa [show a + 1 + i = a + (i + 1) by omega]), ← Nat.add_zero a, h 0 (by omega)]

/-- What was written is read. -/
theorem memRead_memWrite {m : Memory} (a x n : Nat) (h : m.wf = true) : memRead (memWrite m a x n) a n = x % 2 ^ (8 * n) := by
  induction n generalizing m a x with
  | zero => simp [memRead, Nat.mod_one]
  | succ n ih =>
    simp only [memRead, memWrite]
    rw [ih _ _ (memPut_wf _ _ h), memGet_memWrite _ _ _ _ (memPut_wf _ _ h) (by omega), memGet_memPut _ _ _ h, if_pos rfl]
    have e : 2 ^ (8 * (n + 1)) = 256 * 2 ^ (8 * n) := by rw [Nat.mul_add, Nat.pow_add]; omega
    rw [e, Nat.mod_mul, BitVec.toNat_ofNat]

theorem memRead_lt (m : Memory) (a n : Nat) : memRead m a n < 2 ^ (8 * n) := by
  induction n generalizing a with
  | zero => simp [memRead]
  | succ n ih =>
    have e : 2 ^ (8 * (n + 1)) = 256 * 2 ^ (8 * n) := by rw [Nat.mul_add, Nat.pow_add]; omega
    have := ih (a + 1)
    have := (memGet m a).isLt
    simp only [memRead, e]; omega

/-! ### Sorting keeps a list's entries -/

theorem insertBy_perm (le : α → α → Bool) (x : α) (l : List α) : (insertBy le x l).Perm (x :: l) := by
  induction l with
  | nil => exact .refl _
  | cons y t ih =>
    simp only [insertBy]
    split
    · exact .refl _
    · exact (ih.cons y).trans (.swap x y t)

theorem sortBy_perm (le : α → α → Bool) (l : List α) : (sortBy le l).Perm l := by
  induction l with
  | nil => exact .refl _
  | cons x t ih => exact (insertBy_perm le x _).trans (ih.cons x)

@[simp] theorem sortBy_single (le : α → α → Bool) (x : α) : sortBy le [x] = [x] := rfl
@[simp] theorem sortBy_nil (le : α → α → Bool) : sortBy le ([] : List α) = [] := rfl

end Sys2Proof.Machine
end

