-- ==== Sys2Proof/Laws/State.lean ====
section
/-! SUPPORT. What each update of State leaves in each field, and what the accessors read after it. -/

namespace Sys2Proof.Machine

variable (s : State) (i j : Nat)

/-! ### `setC` -/

section
variable (x : CoreC)
@[simp] theorem State.setC_focus : (s.setC i x).focus = s.focus := rfl
@[simp] theorem State.setC_now : (s.setC i x).now = s.now := rfl
@[simp] theorem State.setC_fresh : (s.setC i x).fresh = s.fresh := rfl
@[simp] theorem State.setC_agenda : (s.setC i x).agenda = s.agenda := rfl
@[simp] theorem State.setC_power : (s.setC i x).power = s.power := rfl
@[simp] theorem State.setC_mem : (s.setC i x).mem = s.mem := rfl
@[simp] theorem State.setC_pcores : (s.setC i x).pcores = s.pcores := rfl
@[simp] theorem State.setC_dies : (s.setC i x).dies = s.dies := rfl
@[simp] theorem State.setC_clus : (s.setC i x).clus = s.clus := rfl
@[simp] theorem State.setC_ces : (s.setC i x).ces = s.ces := rfl
@[simp] theorem State.setC_home : (s.setC i x).home = s.home := rfl
@[simp] theorem State.setC_portVm : (s.setC i x).portVm = s.portVm := rfl
@[simp] theorem State.setC_prof : (s.setC i x).prof = s.prof := rfl
@[simp] theorem State.setC_wakes : (s.setC i x).wakes = s.wakes := rfl
@[simp] theorem State.setC_qdesc : (s.setC i x).qdesc = s.qdesc := rfl
@[simp] theorem State.setC_binds : (s.setC i x).binds = s.binds := rfl
@[simp] theorem State.setC_chans : (s.setC i x).chans = s.chans := rfl
@[simp] theorem State.setC_tasks : (s.setC i x).tasks = s.tasks := rfl
@[simp] theorem State.setC_ntask : (s.setC i x).ntask = s.ntask := rfl
@[simp] theorem State.setC_parts : (s.setC i x).parts = s.parts := rfl
@[simp] theorem State.setC_grps : (s.setC i x).grps = s.grps := rfl
@[simp] theorem State.setC_ngrp : (s.setC i x).ngrp = s.ngrp := rfl
@[simp] theorem State.setC_live : (s.setC i x).live = s.live := rfl
@[simp] theorem State.setC_objs : (s.setC i x).objs = s.objs := rfl
@[simp] theorem State.setC_frames : (s.setC i x).frames = s.frames := rfl
@[simp] theorem State.setC_stagemap : (s.setC i x).stagemap = s.stagemap := rfl
@[simp] theorem State.setC_weights : (s.setC i x).weights = s.weights := rfl
@[simp] theorem State.setC_qlimit : (s.setC i x).qlimit = s.qlimit := rfl
@[simp] theorem State.setC_qused : (s.setC i x).qused = s.qused := rfl
@[simp] theorem State.setC_limits : (s.setC i x).limits = s.limits := rfl
@[simp] theorem State.setC_dbg : (s.setC i x).dbg = s.dbg := rfl
@[simp] theorem State.setC_blocks : (s.setC i x).blocks = s.blocks := rfl
@[simp] theorem State.setC_bps : (s.setC i x).bps = s.bps := rfl
@[simp] theorem State.setC_dslots : (s.setC i x).dslots = s.dslots := rfl
@[simp] theorem State.setC_dumps : (s.setC i x).dumps = s.dumps := rfl
@[simp] theorem State.setC_chains : (s.setC i x).chains = s.chains := rfl
@[simp] theorem State.setC_torn : (s.setC i x).torn = s.torn := rfl
@[simp] theorem State.setC_invcmd : (s.setC i x).invcmd = s.invcmd := rfl
@[simp] theorem State.setC_invva : (s.setC i x).invva = s.invva := rfl
@[simp] theorem State.setC_invstat : (s.setC i x).invstat = s.invstat := rfl
@[simp] theorem State.setC_invnow : (s.setC i x).invnow = s.invnow := rfl
@[simp] theorem State.setC_bar2 : (s.setC i x).bar2 = s.bar2 := rfl
@[simp] theorem State.setC_msix : (s.setC i x).msix = s.msix := rfl
@[simp] theorem State.setC_irqs : (s.setC i x).irqs = s.irqs := rfl
@[simp] theorem State.setC_host : (s.setC i x).host = s.host := rfl
@[simp] theorem State.setC_peers : (s.setC i x).peers = s.peers := rfl
@[simp] theorem State.setC_islands : (s.setC i x).islands = s.islands := rfl
@[simp] theorem State.setC_plimit : (s.setC i x).plimit = s.plimit := rfl
@[simp] theorem State.setC_boot : (s.setC i x).boot = s.boot := rfl
@[simp] theorem State.setC_recording : (s.setC i x).recording = s.recording := rfl
@[simp] theorem State.setC_record : (s.setC i x).record = s.record := rfl
@[simp] theorem State.setC_streams : (s.setC i x).streams = s.streams := rfl
@[simp] theorem State.setC_recAt : (s.setC i x).recAt = s.recAt := rfl
@[simp] theorem State.setC_altered : (s.setC i x).altered = s.altered := rfl
@[simp] theorem State.setC_flashBad : (s.setC i x).flashBad = s.flashBad := rfl
@[simp] theorem State.setC_bad : (s.setC i x).bad = s.bad := rfl
@[simp] theorem State.coreC_setC : (s.setC i x).coreC j = if j = i then x else s.coreC j := Tab.get_put ..
@[simp] theorem State.coreP_setC : (s.setC i x).coreP j = s.coreP j := rfl
@[simp] theorem State.die_setC : (s.setC i x).die j = s.die j := rfl
@[simp] theorem State.cluster_setC : (s.setC i x).cluster j = s.cluster j := rfl
@[simp] theorem State.ce_setC : (s.setC i x).ce j = s.ce j := rfl
@[simp] theorem State.chan_setC : (s.setC i x).chan j = s.chan j := rfl
@[simp] theorem State.port_setC : (s.setC i x).port j = s.port j := rfl
@[simp] theorem State.block_setC : (s.setC i x).block j = s.block j := rfl
@[simp] theorem State.island_setC : (s.setC i x).island j = s.island j := rfl
@[simp] theorem State.part_setC : (s.setC i x).part j = s.part j := rfl
end

/-! ### `setP` -/

section
variable (x : CoreP)
@[simp] theorem State.setP_focus : (s.setP i x).focus = s.focus := rfl
@[simp] theorem State.setP_now : (s.setP i x).now = s.now := rfl
@[simp] theorem State.setP_fresh : (s.setP i x).fresh = s.fresh := rfl
@[simp] theorem State.setP_agenda : (s.setP i x).agenda = s.agenda := rfl
@[simp] theorem State.setP_power : (s.setP i x).power = s.power := rfl
@[simp] theorem State.setP_mem : (s.setP i x).mem = s.mem := rfl
@[simp] theorem State.setP_cores : (s.setP i x).cores = s.cores := rfl
@[simp] theorem State.setP_dies : (s.setP i x).dies = s.dies := rfl
@[simp] theorem State.setP_clus : (s.setP i x).clus = s.clus := rfl
@[simp] theorem State.setP_ces : (s.setP i x).ces = s.ces := rfl
@[simp] theorem State.setP_home : (s.setP i x).home = s.home := rfl
@[simp] theorem State.setP_portVm : (s.setP i x).portVm = s.portVm := rfl
@[simp] theorem State.setP_prof : (s.setP i x).prof = s.prof := rfl
@[simp] theorem State.setP_wakes : (s.setP i x).wakes = s.wakes := rfl
@[simp] theorem State.setP_qdesc : (s.setP i x).qdesc = s.qdesc := rfl
@[simp] theorem State.setP_binds : (s.setP i x).binds = s.binds := rfl
@[simp] theorem State.setP_chans : (s.setP i x).chans = s.chans := rfl
@[simp] theorem State.setP_tasks : (s.setP i x).tasks = s.tasks := rfl
@[simp] theorem State.setP_ntask : (s.setP i x).ntask = s.ntask := rfl
@[simp] theorem State.setP_parts : (s.setP i x).parts = s.parts := rfl
@[simp] theorem State.setP_grps : (s.setP i x).grps = s.grps := rfl
@[simp] theorem State.setP_ngrp : (s.setP i x).ngrp = s.ngrp := rfl
@[simp] theorem State.setP_live : (s.setP i x).live = s.live := rfl
@[simp] theorem State.setP_objs : (s.setP i x).objs = s.objs := rfl
@[simp] theorem State.setP_frames : (s.setP i x).frames = s.frames := rfl
@[simp] theorem State.setP_stagemap : (s.setP i x).stagemap = s.stagemap := rfl
@[simp] theorem State.setP_weights : (s.setP i x).weights = s.weights := rfl
@[simp] theorem State.setP_qlimit : (s.setP i x).qlimit = s.qlimit := rfl
@[simp] theorem State.setP_qused : (s.setP i x).qused = s.qused := rfl
@[simp] theorem State.setP_limits : (s.setP i x).limits = s.limits := rfl
@[simp] theorem State.setP_dbg : (s.setP i x).dbg = s.dbg := rfl
@[simp] theorem State.setP_blocks : (s.setP i x).blocks = s.blocks := rfl
@[simp] theorem State.setP_bps : (s.setP i x).bps = s.bps := rfl
@[simp] theorem State.setP_dslots : (s.setP i x).dslots = s.dslots := rfl
@[simp] theorem State.setP_dumps : (s.setP i x).dumps = s.dumps := rfl
@[simp] theorem State.setP_chains : (s.setP i x).chains = s.chains := rfl
@[simp] theorem State.setP_torn : (s.setP i x).torn = s.torn := rfl
@[simp] theorem State.setP_invcmd : (s.setP i x).invcmd = s.invcmd := rfl
@[simp] theorem State.setP_invva : (s.setP i x).invva = s.invva := rfl
@[simp] theorem State.setP_invstat : (s.setP i x).invstat = s.invstat := rfl
@[simp] theorem State.setP_invnow : (s.setP i x).invnow = s.invnow := rfl
@[simp] theorem State.setP_bar2 : (s.setP i x).bar2 = s.bar2 := rfl
@[simp] theorem State.setP_msix : (s.setP i x).msix = s.msix := rfl
@[simp] theorem State.setP_irqs : (s.setP i x).irqs = s.irqs := rfl
@[simp] theorem State.setP_host : (s.setP i x).host = s.host := rfl
@[simp] theorem State.setP_peers : (s.setP i x).peers = s.peers := rfl
@[simp] theorem State.setP_islands : (s.setP i x).islands = s.islands := rfl
@[simp] theorem State.setP_plimit : (s.setP i x).plimit = s.plimit := rfl
@[simp] theorem State.setP_boot : (s.setP i x).boot = s.boot := rfl
@[simp] theorem State.setP_recording : (s.setP i x).recording = s.recording := rfl
@[simp] theorem State.setP_record : (s.setP i x).record = s.record := rfl
@[simp] theorem State.setP_streams : (s.setP i x).streams = s.streams := rfl
@[simp] theorem State.setP_recAt : (s.setP i x).recAt = s.recAt := rfl
@[simp] theorem State.setP_altered : (s.setP i x).altered = s.altered := rfl
@[simp] theorem State.setP_flashBad : (s.setP i x).flashBad = s.flashBad := rfl
@[simp] theorem State.setP_bad : (s.setP i x).bad = s.bad := rfl
@[simp] theorem State.coreP_setP : (s.setP i x).coreP j = if j = i then x else s.coreP j := Tab.get_put ..
@[simp] theorem State.coreC_setP : (s.setP i x).coreC j = s.coreC j := rfl
@[simp] theorem State.die_setP : (s.setP i x).die j = s.die j := rfl
@[simp] theorem State.cluster_setP : (s.setP i x).cluster j = s.cluster j := rfl
@[simp] theorem State.ce_setP : (s.setP i x).ce j = s.ce j := rfl
@[simp] theorem State.chan_setP : (s.setP i x).chan j = s.chan j := rfl
@[simp] theorem State.port_setP : (s.setP i x).port j = s.port j := rfl
@[simp] theorem State.block_setP : (s.setP i x).block j = s.block j := rfl
@[simp] theorem State.island_setP : (s.setP i x).island j = s.island j := rfl
@[simp] theorem State.part_setP : (s.setP i x).part j = s.part j := rfl
end

/-! ### `setDie` -/

section
variable (x : Die)
@[simp] theorem State.setDie_focus : (s.setDie i x).focus = s.focus := rfl
@[simp] theorem State.setDie_now : (s.setDie i x).now = s.now := rfl
@[simp] theorem State.setDie_fresh : (s.setDie i x).fresh = s.fresh := rfl
@[simp] theorem State.setDie_agenda : (s.setDie i x).agenda = s.agenda := rfl
@[simp] theorem State.setDie_power : (s.setDie i x).power = s.power := rfl
@[simp] theorem State.setDie_mem : (s.setDie i x).mem = s.mem := rfl
@[simp] theorem State.setDie_cores : (s.setDie i x).cores = s.cores := rfl
@[simp] theorem State.setDie_pcores : (s.setDie i x).pcores = s.pcores := rfl
@[simp] theorem State.setDie_clus : (s.setDie i x).clus = s.clus := rfl
@[simp] theorem State.setDie_ces : (s.setDie i x).ces = s.ces := rfl
@[simp] theorem State.setDie_home : (s.setDie i x).home = s.home := rfl
@[simp] theorem State.setDie_portVm : (s.setDie i x).portVm = s.portVm := rfl
@[simp] theorem State.setDie_prof : (s.setDie i x).prof = s.prof := rfl
@[simp] theorem State.setDie_wakes : (s.setDie i x).wakes = s.wakes := rfl
@[simp] theorem State.setDie_qdesc : (s.setDie i x).qdesc = s.qdesc := rfl
@[simp] theorem State.setDie_binds : (s.setDie i x).binds = s.binds := rfl
@[simp] theorem State.setDie_chans : (s.setDie i x).chans = s.chans := rfl
@[simp] theorem State.setDie_tasks : (s.setDie i x).tasks = s.tasks := rfl
@[simp] theorem State.setDie_ntask : (s.setDie i x).ntask = s.ntask := rfl
@[simp] theorem State.setDie_parts : (s.setDie i x).parts = s.parts := rfl
@[simp] theorem State.setDie_grps : (s.setDie i x).grps = s.grps := rfl
@[simp] theorem State.setDie_ngrp : (s.setDie i x).ngrp = s.ngrp := rfl
@[simp] theorem State.setDie_live : (s.setDie i x).live = s.live := rfl
@[simp] theorem State.setDie_objs : (s.setDie i x).objs = s.objs := rfl
@[simp] theorem State.setDie_frames : (s.setDie i x).frames = s.frames := rfl
@[simp] theorem State.setDie_stagemap : (s.setDie i x).stagemap = s.stagemap := rfl
@[simp] theorem State.setDie_weights : (s.setDie i x).weights = s.weights := rfl
@[simp] theorem State.setDie_qlimit : (s.setDie i x).qlimit = s.qlimit := rfl
@[simp] theorem State.setDie_qused : (s.setDie i x).qused = s.qused := rfl
@[simp] theorem State.setDie_limits : (s.setDie i x).limits = s.limits := rfl
@[simp] theorem State.setDie_dbg : (s.setDie i x).dbg = s.dbg := rfl
@[simp] theorem State.setDie_blocks : (s.setDie i x).blocks = s.blocks := rfl
@[simp] theorem State.setDie_bps : (s.setDie i x).bps = s.bps := rfl
@[simp] theorem State.setDie_dslots : (s.setDie i x).dslots = s.dslots := rfl
@[simp] theorem State.setDie_dumps : (s.setDie i x).dumps = s.dumps := rfl
@[simp] theorem State.setDie_chains : (s.setDie i x).chains = s.chains := rfl
@[simp] theorem State.setDie_torn : (s.setDie i x).torn = s.torn := rfl
@[simp] theorem State.setDie_invcmd : (s.setDie i x).invcmd = s.invcmd := rfl
@[simp] theorem State.setDie_invva : (s.setDie i x).invva = s.invva := rfl
@[simp] theorem State.setDie_invstat : (s.setDie i x).invstat = s.invstat := rfl
@[simp] theorem State.setDie_invnow : (s.setDie i x).invnow = s.invnow := rfl
@[simp] theorem State.setDie_bar2 : (s.setDie i x).bar2 = s.bar2 := rfl
@[simp] theorem State.setDie_msix : (s.setDie i x).msix = s.msix := rfl
@[simp] theorem State.setDie_irqs : (s.setDie i x).irqs = s.irqs := rfl
@[simp] theorem State.setDie_host : (s.setDie i x).host = s.host := rfl
@[simp] theorem State.setDie_peers : (s.setDie i x).peers = s.peers := rfl
@[simp] theorem State.setDie_islands : (s.setDie i x).islands = s.islands := rfl
@[simp] theorem State.setDie_plimit : (s.setDie i x).plimit = s.plimit := rfl
@[simp] theorem State.setDie_boot : (s.setDie i x).boot = s.boot := rfl
@[simp] theorem State.setDie_recording : (s.setDie i x).recording = s.recording := rfl
@[simp] theorem State.setDie_record : (s.setDie i x).record = s.record := rfl
@[simp] theorem State.setDie_streams : (s.setDie i x).streams = s.streams := rfl
@[simp] theorem State.setDie_recAt : (s.setDie i x).recAt = s.recAt := rfl
@[simp] theorem State.setDie_altered : (s.setDie i x).altered = s.altered := rfl
@[simp] theorem State.setDie_flashBad : (s.setDie i x).flashBad = s.flashBad := rfl
@[simp] theorem State.setDie_bad : (s.setDie i x).bad = s.bad := rfl
@[simp] theorem State.die_setDie : (s.setDie i x).die j = if j = i then x else s.die j := Tab.get_put ..
@[simp] theorem State.coreC_setDie : (s.setDie i x).coreC j = s.coreC j := rfl
@[simp] theorem State.coreP_setDie : (s.setDie i x).coreP j = s.coreP j := rfl
@[simp] theorem State.cluster_setDie : (s.setDie i x).cluster j = s.cluster j := rfl
@[simp] theorem State.ce_setDie : (s.setDie i x).ce j = s.ce j := rfl
@[simp] theorem State.chan_setDie : (s.setDie i x).chan j = s.chan j := rfl
@[simp] theorem State.port_setDie : (s.setDie i x).port j = s.port j := rfl
@[simp] theorem State.block_setDie : (s.setDie i x).block j = s.block j := rfl
@[simp] theorem State.island_setDie : (s.setDie i x).island j = s.island j := rfl
@[simp] theorem State.part_setDie : (s.setDie i x).part j = s.part j := rfl
end

/-! ### `setCluster` -/

section
variable (x : Cluster)
@[simp] theorem State.setCluster_focus : (s.setCluster i x).focus = s.focus := rfl
@[simp] theorem State.setCluster_now : (s.setCluster i x).now = s.now := rfl
@[simp] theorem State.setCluster_fresh : (s.setCluster i x).fresh = s.fresh := rfl
@[simp] theorem State.setCluster_agenda : (s.setCluster i x).agenda = s.agenda := rfl
@[simp] theorem State.setCluster_power : (s.setCluster i x).power = s.power := rfl
@[simp] theorem State.setCluster_mem : (s.setCluster i x).mem = s.mem := rfl
@[simp] theorem State.setCluster_cores : (s.setCluster i x).cores = s.cores := rfl
@[simp] theorem State.setCluster_pcores : (s.setCluster i x).pcores = s.pcores := rfl
@[simp] theorem State.setCluster_dies : (s.setCluster i x).dies = s.dies := rfl
@[simp] theorem State.setCluster_ces : (s.setCluster i x).ces = s.ces := rfl
@[simp] theorem State.setCluster_home : (s.setCluster i x).home = s.home := rfl
@[simp] theorem State.setCluster_portVm : (s.setCluster i x).portVm = s.portVm := rfl
@[simp] theorem State.setCluster_prof : (s.setCluster i x).prof = s.prof := rfl
@[simp] theorem State.setCluster_wakes : (s.setCluster i x).wakes = s.wakes := rfl
@[simp] theorem State.setCluster_qdesc : (s.setCluster i x).qdesc = s.qdesc := rfl
@[simp] theorem State.setCluster_binds : (s.setCluster i x).binds = s.binds := rfl
@[simp] theorem State.setCluster_chans : (s.setCluster i x).chans = s.chans := rfl
@[simp] theorem State.setCluster_tasks : (s.setCluster i x).tasks = s.tasks := rfl
@[simp] theorem State.setCluster_ntask : (s.setCluster i x).ntask = s.ntask := rfl
@[simp] theorem State.setCluster_parts : (s.setCluster i x).parts = s.parts := rfl
@[simp] theorem State.setCluster_grps : (s.setCluster i x).grps = s.grps := rfl
@[simp] theorem State.setCluster_ngrp : (s.setCluster i x).ngrp = s.ngrp := rfl
@[simp] theorem State.setCluster_live : (s.setCluster i x).live = s.live := rfl
@[simp] theorem State.setCluster_objs : (s.setCluster i x).objs = s.objs := rfl
@[simp] theorem State.setCluster_frames : (s.setCluster i x).frames = s.frames := rfl
@[simp] theorem State.setCluster_stagemap : (s.setCluster i x).stagemap = s.stagemap := rfl
@[simp] theorem State.setCluster_weights : (s.setCluster i x).weights = s.weights := rfl
@[simp] theorem State.setCluster_qlimit : (s.setCluster i x).qlimit = s.qlimit := rfl
@[simp] theorem State.setCluster_qused : (s.setCluster i x).qused = s.qused := rfl
@[simp] theorem State.setCluster_limits : (s.setCluster i x).limits = s.limits := rfl
@[simp] theorem State.setCluster_dbg : (s.setCluster i x).dbg = s.dbg := rfl
@[simp] theorem State.setCluster_blocks : (s.setCluster i x).blocks = s.blocks := rfl
@[simp] theorem State.setCluster_bps : (s.setCluster i x).bps = s.bps := rfl
@[simp] theorem State.setCluster_dslots : (s.setCluster i x).dslots = s.dslots := rfl
@[simp] theorem State.setCluster_dumps : (s.setCluster i x).dumps = s.dumps := rfl
@[simp] theorem State.setCluster_chains : (s.setCluster i x).chains = s.chains := rfl
@[simp] theorem State.setCluster_torn : (s.setCluster i x).torn = s.torn := rfl
@[simp] theorem State.setCluster_invcmd : (s.setCluster i x).invcmd = s.invcmd := rfl
@[simp] theorem State.setCluster_invva : (s.setCluster i x).invva = s.invva := rfl
@[simp] theorem State.setCluster_invstat : (s.setCluster i x).invstat = s.invstat := rfl
@[simp] theorem State.setCluster_invnow : (s.setCluster i x).invnow = s.invnow := rfl
@[simp] theorem State.setCluster_bar2 : (s.setCluster i x).bar2 = s.bar2 := rfl
@[simp] theorem State.setCluster_msix : (s.setCluster i x).msix = s.msix := rfl
@[simp] theorem State.setCluster_irqs : (s.setCluster i x).irqs = s.irqs := rfl
@[simp] theorem State.setCluster_host : (s.setCluster i x).host = s.host := rfl
@[simp] theorem State.setCluster_peers : (s.setCluster i x).peers = s.peers := rfl
@[simp] theorem State.setCluster_islands : (s.setCluster i x).islands = s.islands := rfl
@[simp] theorem State.setCluster_plimit : (s.setCluster i x).plimit = s.plimit := rfl
@[simp] theorem State.setCluster_boot : (s.setCluster i x).boot = s.boot := rfl
@[simp] theorem State.setCluster_recording : (s.setCluster i x).recording = s.recording := rfl
@[simp] theorem State.setCluster_record : (s.setCluster i x).record = s.record := rfl
@[simp] theorem State.setCluster_streams : (s.setCluster i x).streams = s.streams := rfl
@[simp] theorem State.setCluster_recAt : (s.setCluster i x).recAt = s.recAt := rfl
@[simp] theorem State.setCluster_altered : (s.setCluster i x).altered = s.altered := rfl
@[simp] theorem State.setCluster_flashBad : (s.setCluster i x).flashBad = s.flashBad := rfl
@[simp] theorem State.setCluster_bad : (s.setCluster i x).bad = s.bad := rfl
@[simp] theorem State.cluster_setCluster : (s.setCluster i x).cluster j = if j = i then x else s.cluster j := Tab.get_put ..
@[simp] theorem State.coreC_setCluster : (s.setCluster i x).coreC j = s.coreC j := rfl
@[simp] theorem State.coreP_setCluster : (s.setCluster i x).coreP j = s.coreP j := rfl
@[simp] theorem State.die_setCluster : (s.setCluster i x).die j = s.die j := rfl
@[simp] theorem State.ce_setCluster : (s.setCluster i x).ce j = s.ce j := rfl
@[simp] theorem State.chan_setCluster : (s.setCluster i x).chan j = s.chan j := rfl
@[simp] theorem State.port_setCluster : (s.setCluster i x).port j = s.port j := rfl
@[simp] theorem State.block_setCluster : (s.setCluster i x).block j = s.block j := rfl
@[simp] theorem State.island_setCluster : (s.setCluster i x).island j = s.island j := rfl
@[simp] theorem State.part_setCluster : (s.setCluster i x).part j = s.part j := rfl
end

/-! ### `setCe` -/

section
variable (x : CopyEng)
@[simp] theorem State.setCe_focus : (s.setCe i x).focus = s.focus := rfl
@[simp] theorem State.setCe_now : (s.setCe i x).now = s.now := rfl
@[simp] theorem State.setCe_fresh : (s.setCe i x).fresh = s.fresh := rfl
@[simp] theorem State.setCe_agenda : (s.setCe i x).agenda = s.agenda := rfl
@[simp] theorem State.setCe_power : (s.setCe i x).power = s.power := rfl
@[simp] theorem State.setCe_mem : (s.setCe i x).mem = s.mem := rfl
@[simp] theorem State.setCe_cores : (s.setCe i x).cores = s.cores := rfl
@[simp] theorem State.setCe_pcores : (s.setCe i x).pcores = s.pcores := rfl
@[simp] theorem State.setCe_dies : (s.setCe i x).dies = s.dies := rfl
@[simp] theorem State.setCe_clus : (s.setCe i x).clus = s.clus := rfl
@[simp] theorem State.setCe_home : (s.setCe i x).home = s.home := rfl
@[simp] theorem State.setCe_portVm : (s.setCe i x).portVm = s.portVm := rfl
@[simp] theorem State.setCe_prof : (s.setCe i x).prof = s.prof := rfl
@[simp] theorem State.setCe_wakes : (s.setCe i x).wakes = s.wakes := rfl
@[simp] theorem State.setCe_qdesc : (s.setCe i x).qdesc = s.qdesc := rfl
@[simp] theorem State.setCe_binds : (s.setCe i x).binds = s.binds := rfl
@[simp] theorem State.setCe_chans : (s.setCe i x).chans = s.chans := rfl
@[simp] theorem State.setCe_tasks : (s.setCe i x).tasks = s.tasks := rfl
@[simp] theorem State.setCe_ntask : (s.setCe i x).ntask = s.ntask := rfl
@[simp] theorem State.setCe_parts : (s.setCe i x).parts = s.parts := rfl
@[simp] theorem State.setCe_grps : (s.setCe i x).grps = s.grps := rfl
@[simp] theorem State.setCe_ngrp : (s.setCe i x).ngrp = s.ngrp := rfl
@[simp] theorem State.setCe_live : (s.setCe i x).live = s.live := rfl
@[simp] theorem State.setCe_objs : (s.setCe i x).objs = s.objs := rfl
@[simp] theorem State.setCe_frames : (s.setCe i x).frames = s.frames := rfl
@[simp] theorem State.setCe_stagemap : (s.setCe i x).stagemap = s.stagemap := rfl
@[simp] theorem State.setCe_weights : (s.setCe i x).weights = s.weights := rfl
@[simp] theorem State.setCe_qlimit : (s.setCe i x).qlimit = s.qlimit := rfl
@[simp] theorem State.setCe_qused : (s.setCe i x).qused = s.qused := rfl
@[simp] theorem State.setCe_limits : (s.setCe i x).limits = s.limits := rfl
@[simp] theorem State.setCe_dbg : (s.setCe i x).dbg = s.dbg := rfl
@[simp] theorem State.setCe_blocks : (s.setCe i x).blocks = s.blocks := rfl
@[simp] theorem State.setCe_bps : (s.setCe i x).bps = s.bps := rfl
@[simp] theorem State.setCe_dslots : (s.setCe i x).dslots = s.dslots := rfl
@[simp] theorem State.setCe_dumps : (s.setCe i x).dumps = s.dumps := rfl
@[simp] theorem State.setCe_chains : (s.setCe i x).chains = s.chains := rfl
@[simp] theorem State.setCe_torn : (s.setCe i x).torn = s.torn := rfl
@[simp] theorem State.setCe_invcmd : (s.setCe i x).invcmd = s.invcmd := rfl
@[simp] theorem State.setCe_invva : (s.setCe i x).invva = s.invva := rfl
@[simp] theorem State.setCe_invstat : (s.setCe i x).invstat = s.invstat := rfl
@[simp] theorem State.setCe_invnow : (s.setCe i x).invnow = s.invnow := rfl
@[simp] theorem State.setCe_bar2 : (s.setCe i x).bar2 = s.bar2 := rfl
@[simp] theorem State.setCe_msix : (s.setCe i x).msix = s.msix := rfl
@[simp] theorem State.setCe_irqs : (s.setCe i x).irqs = s.irqs := rfl
@[simp] theorem State.setCe_host : (s.setCe i x).host = s.host := rfl
@[simp] theorem State.setCe_peers : (s.setCe i x).peers = s.peers := rfl
@[simp] theorem State.setCe_islands : (s.setCe i x).islands = s.islands := rfl
@[simp] theorem State.setCe_plimit : (s.setCe i x).plimit = s.plimit := rfl
@[simp] theorem State.setCe_boot : (s.setCe i x).boot = s.boot := rfl
@[simp] theorem State.setCe_recording : (s.setCe i x).recording = s.recording := rfl
@[simp] theorem State.setCe_record : (s.setCe i x).record = s.record := rfl
@[simp] theorem State.setCe_streams : (s.setCe i x).streams = s.streams := rfl
@[simp] theorem State.setCe_recAt : (s.setCe i x).recAt = s.recAt := rfl
@[simp] theorem State.setCe_altered : (s.setCe i x).altered = s.altered := rfl
@[simp] theorem State.setCe_flashBad : (s.setCe i x).flashBad = s.flashBad := rfl
@[simp] theorem State.setCe_bad : (s.setCe i x).bad = s.bad := rfl
@[simp] theorem State.ce_setCe : (s.setCe i x).ce j = if j = i then x else s.ce j := Tab.get_put ..
@[simp] theorem State.coreC_setCe : (s.setCe i x).coreC j = s.coreC j := rfl
@[simp] theorem State.coreP_setCe : (s.setCe i x).coreP j = s.coreP j := rfl
@[simp] theorem State.die_setCe : (s.setCe i x).die j = s.die j := rfl
@[simp] theorem State.cluster_setCe : (s.setCe i x).cluster j = s.cluster j := rfl
@[simp] theorem State.chan_setCe : (s.setCe i x).chan j = s.chan j := rfl
@[simp] theorem State.port_setCe : (s.setCe i x).port j = s.port j := rfl
@[simp] theorem State.block_setCe : (s.setCe i x).block j = s.block j := rfl
@[simp] theorem State.island_setCe : (s.setCe i x).island j = s.island j := rfl
@[simp] theorem State.part_setCe : (s.setCe i x).part j = s.part j := rfl
end

/-! ### `setChan` -/

section
variable (x : Chan)
@[simp] theorem State.setChan_focus : (s.setChan i x).focus = s.focus := rfl
@[simp] theorem State.setChan_now : (s.setChan i x).now = s.now := rfl
@[simp] theorem State.setChan_fresh : (s.setChan i x).fresh = s.fresh := rfl
@[simp] theorem State.setChan_agenda : (s.setChan i x).agenda = s.agenda := rfl
@[simp] theorem State.setChan_power : (s.setChan i x).power = s.power := rfl
@[simp] theorem State.setChan_mem : (s.setChan i x).mem = s.mem := rfl
@[simp] theorem State.setChan_cores : (s.setChan i x).cores = s.cores := rfl
@[simp] theorem State.setChan_pcores : (s.setChan i x).pcores = s.pcores := rfl
@[simp] theorem State.setChan_dies : (s.setChan i x).dies = s.dies := rfl
@[simp] theorem State.setChan_clus : (s.setChan i x).clus = s.clus := rfl
@[simp] theorem State.setChan_ces : (s.setChan i x).ces = s.ces := rfl
@[simp] theorem State.setChan_home : (s.setChan i x).home = s.home := rfl
@[simp] theorem State.setChan_portVm : (s.setChan i x).portVm = s.portVm := rfl
@[simp] theorem State.setChan_prof : (s.setChan i x).prof = s.prof := rfl
@[simp] theorem State.setChan_wakes : (s.setChan i x).wakes = s.wakes := rfl
@[simp] theorem State.setChan_qdesc : (s.setChan i x).qdesc = s.qdesc := rfl
@[simp] theorem State.setChan_binds : (s.setChan i x).binds = s.binds := rfl
@[simp] theorem State.setChan_tasks : (s.setChan i x).tasks = s.tasks := rfl
@[simp] theorem State.setChan_ntask : (s.setChan i x).ntask = s.ntask := rfl
@[simp] theorem State.setChan_parts : (s.setChan i x).parts = s.parts := rfl
@[simp] theorem State.setChan_grps : (s.setChan i x).grps = s.grps := rfl
@[simp] theorem State.setChan_ngrp : (s.setChan i x).ngrp = s.ngrp := rfl
@[simp] theorem State.setChan_live : (s.setChan i x).live = s.live := rfl
@[simp] theorem State.setChan_objs : (s.setChan i x).objs = s.objs := rfl
@[simp] theorem State.setChan_frames : (s.setChan i x).frames = s.frames := rfl
@[simp] theorem State.setChan_stagemap : (s.setChan i x).stagemap = s.stagemap := rfl
@[simp] theorem State.setChan_weights : (s.setChan i x).weights = s.weights := rfl
@[simp] theorem State.setChan_qlimit : (s.setChan i x).qlimit = s.qlimit := rfl
@[simp] theorem State.setChan_qused : (s.setChan i x).qused = s.qused := rfl
@[simp] theorem State.setChan_limits : (s.setChan i x).limits = s.limits := rfl
@[simp] theorem State.setChan_dbg : (s.setChan i x).dbg = s.dbg := rfl
@[simp] theorem State.setChan_blocks : (s.setChan i x).blocks = s.blocks := rfl
@[simp] theorem State.setChan_bps : (s.setChan i x).bps = s.bps := rfl
@[simp] theorem State.setChan_dslots : (s.setChan i x).dslots = s.dslots := rfl
@[simp] theorem State.setChan_dumps : (s.setChan i x).dumps = s.dumps := rfl
@[simp] theorem State.setChan_chains : (s.setChan i x).chains = s.chains := rfl
@[simp] theorem State.setChan_torn : (s.setChan i x).torn = s.torn := rfl
@[simp] theorem State.setChan_invcmd : (s.setChan i x).invcmd = s.invcmd := rfl
@[simp] theorem State.setChan_invva : (s.setChan i x).invva = s.invva := rfl
@[simp] theorem State.setChan_invstat : (s.setChan i x).invstat = s.invstat := rfl
@[simp] theorem State.setChan_invnow : (s.setChan i x).invnow = s.invnow := rfl
@[simp] theorem State.setChan_bar2 : (s.setChan i x).bar2 = s.bar2 := rfl
@[simp] theorem State.setChan_msix : (s.setChan i x).msix = s.msix := rfl
@[simp] theorem State.setChan_irqs : (s.setChan i x).irqs = s.irqs := rfl
@[simp] theorem State.setChan_host : (s.setChan i x).host = s.host := rfl
@[simp] theorem State.setChan_peers : (s.setChan i x).peers = s.peers := rfl
@[simp] theorem State.setChan_islands : (s.setChan i x).islands = s.islands := rfl
@[simp] theorem State.setChan_plimit : (s.setChan i x).plimit = s.plimit := rfl
@[simp] theorem State.setChan_boot : (s.setChan i x).boot = s.boot := rfl
@[simp] theorem State.setChan_recording : (s.setChan i x).recording = s.recording := rfl
@[simp] theorem State.setChan_record : (s.setChan i x).record = s.record := rfl
@[simp] theorem State.setChan_streams : (s.setChan i x).streams = s.streams := rfl
@[simp] theorem State.setChan_recAt : (s.setChan i x).recAt = s.recAt := rfl
@[simp] theorem State.setChan_altered : (s.setChan i x).altered = s.altered := rfl
@[simp] theorem State.setChan_flashBad : (s.setChan i x).flashBad = s.flashBad := rfl
@[simp] theorem State.setChan_bad : (s.setChan i x).bad = s.bad := rfl
@[simp] theorem State.chan_setChan : (s.setChan i x).chan j = if j = i then x else s.chan j := Tab.get_put ..
@[simp] theorem State.coreC_setChan : (s.setChan i x).coreC j = s.coreC j := rfl
@[simp] theorem State.coreP_setChan : (s.setChan i x).coreP j = s.coreP j := rfl
@[simp] theorem State.die_setChan : (s.setChan i x).die j = s.die j := rfl
@[simp] theorem State.cluster_setChan : (s.setChan i x).cluster j = s.cluster j := rfl
@[simp] theorem State.ce_setChan : (s.setChan i x).ce j = s.ce j := rfl
@[simp] theorem State.port_setChan : (s.setChan i x).port j = s.port j := rfl
@[simp] theorem State.block_setChan : (s.setChan i x).block j = s.block j := rfl
@[simp] theorem State.island_setChan : (s.setChan i x).island j = s.island j := rfl
@[simp] theorem State.part_setChan : (s.setChan i x).part j = s.part j := rfl
end

/-! ### `setPort` -/

section
variable (x : Port)
@[simp] theorem State.setPort_focus : (s.setPort i x).focus = s.focus := rfl
@[simp] theorem State.setPort_now : (s.setPort i x).now = s.now := rfl
@[simp] theorem State.setPort_fresh : (s.setPort i x).fresh = s.fresh := rfl
@[simp] theorem State.setPort_agenda : (s.setPort i x).agenda = s.agenda := rfl
@[simp] theorem State.setPort_power : (s.setPort i x).power = s.power := rfl
@[simp] theorem State.setPort_mem : (s.setPort i x).mem = s.mem := rfl
@[simp] theorem State.setPort_cores : (s.setPort i x).cores = s.cores := rfl
@[simp] theorem State.setPort_pcores : (s.setPort i x).pcores = s.pcores := rfl
@[simp] theorem State.setPort_dies : (s.setPort i x).dies = s.dies := rfl
@[simp] theorem State.setPort_clus : (s.setPort i x).clus = s.clus := rfl
@[simp] theorem State.setPort_ces : (s.setPort i x).ces = s.ces := rfl
@[simp] theorem State.setPort_home : (s.setPort i x).home = s.home := rfl
@[simp] theorem State.setPort_portVm : (s.setPort i x).portVm = s.portVm := rfl
@[simp] theorem State.setPort_prof : (s.setPort i x).prof = s.prof := rfl
@[simp] theorem State.setPort_wakes : (s.setPort i x).wakes = s.wakes := rfl
@[simp] theorem State.setPort_qdesc : (s.setPort i x).qdesc = s.qdesc := rfl
@[simp] theorem State.setPort_binds : (s.setPort i x).binds = s.binds := rfl
@[simp] theorem State.setPort_chans : (s.setPort i x).chans = s.chans := rfl
@[simp] theorem State.setPort_tasks : (s.setPort i x).tasks = s.tasks := rfl
@[simp] theorem State.setPort_ntask : (s.setPort i x).ntask = s.ntask := rfl
@[simp] theorem State.setPort_parts : (s.setPort i x).parts = s.parts := rfl
@[simp] theorem State.setPort_grps : (s.setPort i x).grps = s.grps := rfl
@[simp] theorem State.setPort_ngrp : (s.setPort i x).ngrp = s.ngrp := rfl
@[simp] theorem State.setPort_live : (s.setPort i x).live = s.live := rfl
@[simp] theorem State.setPort_objs : (s.setPort i x).objs = s.objs := rfl
@[simp] theorem State.setPort_frames : (s.setPort i x).frames = s.frames := rfl
@[simp] theorem State.setPort_stagemap : (s.setPort i x).stagemap = s.stagemap := rfl
@[simp] theorem State.setPort_weights : (s.setPort i x).weights = s.weights := rfl
@[simp] theorem State.setPort_qlimit : (s.setPort i x).qlimit = s.qlimit := rfl
@[simp] theorem State.setPort_qused : (s.setPort i x).qused = s.qused := rfl
@[simp] theorem State.setPort_limits : (s.setPort i x).limits = s.limits := rfl
@[simp] theorem State.setPort_dbg : (s.setPort i x).dbg = s.dbg := rfl
@[simp] theorem State.setPort_blocks : (s.setPort i x).blocks = s.blocks := rfl
@[simp] theorem State.setPort_bps : (s.setPort i x).bps = s.bps := rfl
@[simp] theorem State.setPort_dslots : (s.setPort i x).dslots = s.dslots := rfl
@[simp] theorem State.setPort_dumps : (s.setPort i x).dumps = s.dumps := rfl
@[simp] theorem State.setPort_chains : (s.setPort i x).chains = s.chains := rfl
@[simp] theorem State.setPort_torn : (s.setPort i x).torn = s.torn := rfl
@[simp] theorem State.setPort_invcmd : (s.setPort i x).invcmd = s.invcmd := rfl
@[simp] theorem State.setPort_invva : (s.setPort i x).invva = s.invva := rfl
@[simp] theorem State.setPort_invstat : (s.setPort i x).invstat = s.invstat := rfl
@[simp] theorem State.setPort_invnow : (s.setPort i x).invnow = s.invnow := rfl
@[simp] theorem State.setPort_bar2 : (s.setPort i x).bar2 = s.bar2 := rfl
@[simp] theorem State.setPort_msix : (s.setPort i x).msix = s.msix := rfl
@[simp] theorem State.setPort_irqs : (s.setPort i x).irqs = s.irqs := rfl
@[simp] theorem State.setPort_host : (s.setPort i x).host = s.host := rfl
@[simp] theorem State.setPort_islands : (s.setPort i x).islands = s.islands := rfl
@[simp] theorem State.setPort_plimit : (s.setPort i x).plimit = s.plimit := rfl
@[simp] theorem State.setPort_boot : (s.setPort i x).boot = s.boot := rfl
@[simp] theorem State.setPort_recording : (s.setPort i x).recording = s.recording := rfl
@[simp] theorem State.setPort_record : (s.setPort i x).record = s.record := rfl
@[simp] theorem State.setPort_streams : (s.setPort i x).streams = s.streams := rfl
@[simp] theorem State.setPort_recAt : (s.setPort i x).recAt = s.recAt := rfl
@[simp] theorem State.setPort_altered : (s.setPort i x).altered = s.altered := rfl
@[simp] theorem State.setPort_flashBad : (s.setPort i x).flashBad = s.flashBad := rfl
@[simp] theorem State.setPort_bad : (s.setPort i x).bad = s.bad := rfl
@[simp] theorem State.port_setPort : (s.setPort i x).port j = if j = i then x else s.port j := Tab.get_put ..
@[simp] theorem State.coreC_setPort : (s.setPort i x).coreC j = s.coreC j := rfl
@[simp] theorem State.coreP_setPort : (s.setPort i x).coreP j = s.coreP j := rfl
@[simp] theorem State.die_setPort : (s.setPort i x).die j = s.die j := rfl
@[simp] theorem State.cluster_setPort : (s.setPort i x).cluster j = s.cluster j := rfl
@[simp] theorem State.ce_setPort : (s.setPort i x).ce j = s.ce j := rfl
@[simp] theorem State.chan_setPort : (s.setPort i x).chan j = s.chan j := rfl
@[simp] theorem State.block_setPort : (s.setPort i x).block j = s.block j := rfl
@[simp] theorem State.island_setPort : (s.setPort i x).island j = s.island j := rfl
@[simp] theorem State.part_setPort : (s.setPort i x).part j = s.part j := rfl
end

/-! ### `setBlock` -/

section
variable (x : Block)
@[simp] theorem State.setBlock_focus : (s.setBlock i x).focus = s.focus := rfl
@[simp] theorem State.setBlock_now : (s.setBlock i x).now = s.now := rfl
@[simp] theorem State.setBlock_fresh : (s.setBlock i x).fresh = s.fresh := rfl
@[simp] theorem State.setBlock_agenda : (s.setBlock i x).agenda = s.agenda := rfl
@[simp] theorem State.setBlock_power : (s.setBlock i x).power = s.power := rfl
@[simp] theorem State.setBlock_mem : (s.setBlock i x).mem = s.mem := rfl
@[simp] theorem State.setBlock_cores : (s.setBlock i x).cores = s.cores := rfl
@[simp] theorem State.setBlock_pcores : (s.setBlock i x).pcores = s.pcores := rfl
@[simp] theorem State.setBlock_dies : (s.setBlock i x).dies = s.dies := rfl
@[simp] theorem State.setBlock_clus : (s.setBlock i x).clus = s.clus := rfl
@[simp] theorem State.setBlock_ces : (s.setBlock i x).ces = s.ces := rfl
@[simp] theorem State.setBlock_home : (s.setBlock i x).home = s.home := rfl
@[simp] theorem State.setBlock_portVm : (s.setBlock i x).portVm = s.portVm := rfl
@[simp] theorem State.setBlock_prof : (s.setBlock i x).prof = s.prof := rfl
@[simp] theorem State.setBlock_wakes : (s.setBlock i x).wakes = s.wakes := rfl
@[simp] theorem State.setBlock_qdesc : (s.setBlock i x).qdesc = s.qdesc := rfl
@[simp] theorem State.setBlock_binds : (s.setBlock i x).binds = s.binds := rfl
@[simp] theorem State.setBlock_chans : (s.setBlock i x).chans = s.chans := rfl
@[simp] theorem State.setBlock_tasks : (s.setBlock i x).tasks = s.tasks := rfl
@[simp] theorem State.setBlock_ntask : (s.setBlock i x).ntask = s.ntask := rfl
@[simp] theorem State.setBlock_parts : (s.setBlock i x).parts = s.parts := rfl
@[simp] theorem State.setBlock_grps : (s.setBlock i x).grps = s.grps := rfl
@[simp] theorem State.setBlock_ngrp : (s.setBlock i x).ngrp = s.ngrp := rfl
@[simp] theorem State.setBlock_live : (s.setBlock i x).live = s.live := rfl
@[simp] theorem State.setBlock_objs : (s.setBlock i x).objs = s.objs := rfl
@[simp] theorem State.setBlock_frames : (s.setBlock i x).frames = s.frames := rfl
@[simp] theorem State.setBlock_stagemap : (s.setBlock i x).stagemap = s.stagemap := rfl
@[simp] theorem State.setBlock_weights : (s.setBlock i x).weights = s.weights := rfl
@[simp] theorem State.setBlock_qlimit : (s.setBlock i x).qlimit = s.qlimit := rfl
@[simp] theorem State.setBlock_qused : (s.setBlock i x).qused = s.qused := rfl
@[simp] theorem State.setBlock_limits : (s.setBlock i x).limits = s.limits := rfl
@[simp] theorem State.setBlock_dbg : (s.setBlock i x).dbg = s.dbg := rfl
@[simp] theorem State.setBlock_bps : (s.setBlock i x).bps = s.bps := rfl
@[simp] theorem State.setBlock_dslots : (s.setBlock i x).dslots = s.dslots := rfl
@[simp] theorem State.setBlock_dumps : (s.setBlock i x).dumps = s.dumps := rfl
@[simp] theorem State.setBlock_chains : (s.setBlock i x).chains = s.chains := rfl
@[simp] theorem State.setBlock_torn : (s.setBlock i x).torn = s.torn := rfl
@[simp] theorem State.setBlock_invcmd : (s.setBlock i x).invcmd = s.invcmd := rfl
@[simp] theorem State.setBlock_invva : (s.setBlock i x).invva = s.invva := rfl
@[simp] theorem State.setBlock_invstat : (s.setBlock i x).invstat = s.invstat := rfl
@[simp] theorem State.setBlock_invnow : (s.setBlock i x).invnow = s.invnow := rfl
@[simp] theorem State.setBlock_bar2 : (s.setBlock i x).bar2 = s.bar2 := rfl
@[simp] theorem State.setBlock_msix : (s.setBlock i x).msix = s.msix := rfl
@[simp] theorem State.setBlock_irqs : (s.setBlock i x).irqs = s.irqs := rfl
@[simp] theorem State.setBlock_host : (s.setBlock i x).host = s.host := rfl
@[simp] theorem State.setBlock_peers : (s.setBlock i x).peers = s.peers := rfl
@[simp] theorem State.setBlock_islands : (s.setBlock i x).islands = s.islands := rfl
@[simp] theorem State.setBlock_plimit : (s.setBlock i x).plimit = s.plimit := rfl
@[simp] theorem State.setBlock_boot : (s.setBlock i x).boot = s.boot := rfl
@[simp] theorem State.setBlock_recording : (s.setBlock i x).recording = s.recording := rfl
@[simp] theorem State.setBlock_record : (s.setBlock i x).record = s.record := rfl
@[simp] theorem State.setBlock_streams : (s.setBlock i x).streams = s.streams := rfl
@[simp] theorem State.setBlock_recAt : (s.setBlock i x).recAt = s.recAt := rfl
@[simp] theorem State.setBlock_altered : (s.setBlock i x).altered = s.altered := rfl
@[simp] theorem State.setBlock_flashBad : (s.setBlock i x).flashBad = s.flashBad := rfl
@[simp] theorem State.setBlock_bad : (s.setBlock i x).bad = s.bad := rfl
@[simp] theorem State.block_setBlock : (s.setBlock i x).block j = if j = i then x else s.block j := Tab.get_put ..
@[simp] theorem State.coreC_setBlock : (s.setBlock i x).coreC j = s.coreC j := rfl
@[simp] theorem State.coreP_setBlock : (s.setBlock i x).coreP j = s.coreP j := rfl
@[simp] theorem State.die_setBlock : (s.setBlock i x).die j = s.die j := rfl
@[simp] theorem State.cluster_setBlock : (s.setBlock i x).cluster j = s.cluster j := rfl
@[simp] theorem State.ce_setBlock : (s.setBlock i x).ce j = s.ce j := rfl
@[simp] theorem State.chan_setBlock : (s.setBlock i x).chan j = s.chan j := rfl
@[simp] theorem State.port_setBlock : (s.setBlock i x).port j = s.port j := rfl
@[simp] theorem State.island_setBlock : (s.setBlock i x).island j = s.island j := rfl
@[simp] theorem State.part_setBlock : (s.setBlock i x).part j = s.part j := rfl
end

/-! ### `setIsland` -/

section
variable (x : Island)
@[simp] theorem State.setIsland_focus : (s.setIsland i x).focus = s.focus := rfl
@[simp] theorem State.setIsland_now : (s.setIsland i x).now = s.now := rfl
@[simp] theorem State.setIsland_fresh : (s.setIsland i x).fresh = s.fresh := rfl
@[simp] theorem State.setIsland_agenda : (s.setIsland i x).agenda = s.agenda := rfl
@[simp] theorem State.setIsland_power : (s.setIsland i x).power = s.power := rfl
@[simp] theorem State.setIsland_mem : (s.setIsland i x).mem = s.mem := rfl
@[simp] theorem State.setIsland_cores : (s.setIsland i x).cores = s.cores := rfl
@[simp] theorem State.setIsland_pcores : (s.setIsland i x).pcores = s.pcores := rfl
@[simp] theorem State.setIsland_dies : (s.setIsland i x).dies = s.dies := rfl
@[simp] theorem State.setIsland_clus : (s.setIsland i x).clus = s.clus := rfl
@[simp] theorem State.setIsland_ces : (s.setIsland i x).ces = s.ces := rfl
@[simp] theorem State.setIsland_home : (s.setIsland i x).home = s.home := rfl
@[simp] theorem State.setIsland_portVm : (s.setIsland i x).portVm = s.portVm := rfl
@[simp] theorem State.setIsland_prof : (s.setIsland i x).prof = s.prof := rfl
@[simp] theorem State.setIsland_wakes : (s.setIsland i x).wakes = s.wakes := rfl
@[simp] theorem State.setIsland_qdesc : (s.setIsland i x).qdesc = s.qdesc := rfl
@[simp] theorem State.setIsland_binds : (s.setIsland i x).binds = s.binds := rfl
@[simp] theorem State.setIsland_chans : (s.setIsland i x).chans = s.chans := rfl
@[simp] theorem State.setIsland_tasks : (s.setIsland i x).tasks = s.tasks := rfl
@[simp] theorem State.setIsland_ntask : (s.setIsland i x).ntask = s.ntask := rfl
@[simp] theorem State.setIsland_parts : (s.setIsland i x).parts = s.parts := rfl
@[simp] theorem State.setIsland_grps : (s.setIsland i x).grps = s.grps := rfl
@[simp] theorem State.setIsland_ngrp : (s.setIsland i x).ngrp = s.ngrp := rfl
@[simp] theorem State.setIsland_live : (s.setIsland i x).live = s.live := rfl
@[simp] theorem State.setIsland_objs : (s.setIsland i x).objs = s.objs := rfl
@[simp] theorem State.setIsland_frames : (s.setIsland i x).frames = s.frames := rfl
@[simp] theorem State.setIsland_stagemap : (s.setIsland i x).stagemap = s.stagemap := rfl
@[simp] theorem State.setIsland_weights : (s.setIsland i x).weights = s.weights := rfl
@[simp] theorem State.setIsland_qlimit : (s.setIsland i x).qlimit = s.qlimit := rfl
@[simp] theorem State.setIsland_qused : (s.setIsland i x).qused = s.qused := rfl
@[simp] theorem State.setIsland_limits : (s.setIsland i x).limits = s.limits := rfl
@[simp] theorem State.setIsland_dbg : (s.setIsland i x).dbg = s.dbg := rfl
@[simp] theorem State.setIsland_blocks : (s.setIsland i x).blocks = s.blocks := rfl
@[simp] theorem State.setIsland_bps : (s.setIsland i x).bps = s.bps := rfl
@[simp] theorem State.setIsland_dslots : (s.setIsland i x).dslots = s.dslots := rfl
@[simp] theorem State.setIsland_dumps : (s.setIsland i x).dumps = s.dumps := rfl
@[simp] theorem State.setIsland_chains : (s.setIsland i x).chains = s.chains := rfl
@[simp] theorem State.setIsland_torn : (s.setIsland i x).torn = s.torn := rfl
@[simp] theorem State.setIsland_invcmd : (s.setIsland i x).invcmd = s.invcmd := rfl
@[simp] theorem State.setIsland_invva : (s.setIsland i x).invva = s.invva := rfl
@[simp] theorem State.setIsland_invstat : (s.setIsland i x).invstat = s.invstat := rfl
@[simp] theorem State.setIsland_invnow : (s.setIsland i x).invnow = s.invnow := rfl
@[simp] theorem State.setIsland_bar2 : (s.setIsland i x).bar2 = s.bar2 := rfl
@[simp] theorem State.setIsland_msix : (s.setIsland i x).msix = s.msix := rfl
@[simp] theorem State.setIsland_irqs : (s.setIsland i x).irqs = s.irqs := rfl
@[simp] theorem State.setIsland_host : (s.setIsland i x).host = s.host := rfl
@[simp] theorem State.setIsland_peers : (s.setIsland i x).peers = s.peers := rfl
@[simp] theorem State.setIsland_plimit : (s.setIsland i x).plimit = s.plimit := rfl
@[simp] theorem State.setIsland_boot : (s.setIsland i x).boot = s.boot := rfl
@[simp] theorem State.setIsland_recording : (s.setIsland i x).recording = s.recording := rfl
@[simp] theorem State.setIsland_record : (s.setIsland i x).record = s.record := rfl
@[simp] theorem State.setIsland_streams : (s.setIsland i x).streams = s.streams := rfl
@[simp] theorem State.setIsland_recAt : (s.setIsland i x).recAt = s.recAt := rfl
@[simp] theorem State.setIsland_altered : (s.setIsland i x).altered = s.altered := rfl
@[simp] theorem State.setIsland_flashBad : (s.setIsland i x).flashBad = s.flashBad := rfl
@[simp] theorem State.setIsland_bad : (s.setIsland i x).bad = s.bad := rfl
@[simp] theorem State.island_setIsland : (s.setIsland i x).island j = if j = i then x else s.island j := Tab.get_put ..
@[simp] theorem State.coreC_setIsland : (s.setIsland i x).coreC j = s.coreC j := rfl
@[simp] theorem State.coreP_setIsland : (s.setIsland i x).coreP j = s.coreP j := rfl
@[simp] theorem State.die_setIsland : (s.setIsland i x).die j = s.die j := rfl
@[simp] theorem State.cluster_setIsland : (s.setIsland i x).cluster j = s.cluster j := rfl
@[simp] theorem State.ce_setIsland : (s.setIsland i x).ce j = s.ce j := rfl
@[simp] theorem State.chan_setIsland : (s.setIsland i x).chan j = s.chan j := rfl
@[simp] theorem State.port_setIsland : (s.setIsland i x).port j = s.port j := rfl
@[simp] theorem State.block_setIsland : (s.setIsland i x).block j = s.block j := rfl
@[simp] theorem State.part_setIsland : (s.setIsland i x).part j = s.part j := rfl
end

/-! ### `setPart` -/

section
variable (x : Part)
@[simp] theorem State.setPart_focus : (s.setPart i x).focus = s.focus := rfl
@[simp] theorem State.setPart_now : (s.setPart i x).now = s.now := rfl
@[simp] theorem State.setPart_fresh : (s.setPart i x).fresh = s.fresh := rfl
@[simp] theorem State.setPart_agenda : (s.setPart i x).agenda = s.agenda := rfl
@[simp] theorem State.setPart_power : (s.setPart i x).power = s.power := rfl
@[simp] theorem State.setPart_mem : (s.setPart i x).mem = s.mem := rfl
@[simp] theorem State.setPart_cores : (s.setPart i x).cores = s.cores := rfl
@[simp] theorem State.setPart_pcores : (s.setPart i x).pcores = s.pcores := rfl
@[simp] theorem State.setPart_dies : (s.setPart i x).dies = s.dies := rfl
@[simp] theorem State.setPart_clus : (s.setPart i x).clus = s.clus := rfl
@[simp] theorem State.setPart_ces : (s.setPart i x).ces = s.ces := rfl
@[simp] theorem State.setPart_home : (s.setPart i x).home = s.home := rfl
@[simp] theorem State.setPart_portVm : (s.setPart i x).portVm = s.portVm := rfl
@[simp] theorem State.setPart_prof : (s.setPart i x).prof = s.prof := rfl
@[simp] theorem State.setPart_wakes : (s.setPart i x).wakes = s.wakes := rfl
@[simp] theorem State.setPart_qdesc : (s.setPart i x).qdesc = s.qdesc := rfl
@[simp] theorem State.setPart_binds : (s.setPart i x).binds = s.binds := rfl
@[simp] theorem State.setPart_chans : (s.setPart i x).chans = s.chans := rfl
@[simp] theorem State.setPart_tasks : (s.setPart i x).tasks = s.tasks := rfl
@[simp] theorem State.setPart_ntask : (s.setPart i x).ntask = s.ntask := rfl
@[simp] theorem State.setPart_grps : (s.setPart i x).grps = s.grps := rfl
@[simp] theorem State.setPart_ngrp : (s.setPart i x).ngrp = s.ngrp := rfl
@[simp] theorem State.setPart_live : (s.setPart i x).live = s.live := rfl
@[simp] theorem State.setPart_objs : (s.setPart i x).objs = s.objs := rfl
@[simp] theorem State.setPart_frames : (s.setPart i x).frames = s.frames := rfl
@[simp] theorem State.setPart_stagemap : (s.setPart i x).stagemap = s.stagemap := rfl
@[simp] theorem State.setPart_weights : (s.setPart i x).weights = s.weights := rfl
@[simp] theorem State.setPart_qlimit : (s.setPart i x).qlimit = s.qlimit := rfl
@[simp] theorem State.setPart_qused : (s.setPart i x).qused = s.qused := rfl
@[simp] theorem State.setPart_limits : (s.setPart i x).limits = s.limits := rfl
@[simp] theorem State.setPart_dbg : (s.setPart i x).dbg = s.dbg := rfl
@[simp] theorem State.setPart_blocks : (s.setPart i x).blocks = s.blocks := rfl
@[simp] theorem State.setPart_bps : (s.setPart i x).bps = s.bps := rfl
@[simp] theorem State.setPart_dslots : (s.setPart i x).dslots = s.dslots := rfl
@[simp] theorem State.setPart_dumps : (s.setPart i x).dumps = s.dumps := rfl
@[simp] theorem State.setPart_chains : (s.setPart i x).chains = s.chains := rfl
@[simp] theorem State.setPart_torn : (s.setPart i x).torn = s.torn := rfl
@[simp] theorem State.setPart_invcmd : (s.setPart i x).invcmd = s.invcmd := rfl
@[simp] theorem State.setPart_invva : (s.setPart i x).invva = s.invva := rfl
@[simp] theorem State.setPart_invstat : (s.setPart i x).invstat = s.invstat := rfl
@[simp] theorem State.setPart_invnow : (s.setPart i x).invnow = s.invnow := rfl
@[simp] theorem State.setPart_bar2 : (s.setPart i x).bar2 = s.bar2 := rfl
@[simp] theorem State.setPart_msix : (s.setPart i x).msix = s.msix := rfl
@[simp] theorem State.setPart_irqs : (s.setPart i x).irqs = s.irqs := rfl
@[simp] theorem State.setPart_host : (s.setPart i x).host = s.host := rfl
@[simp] theorem State.setPart_peers : (s.setPart i x).peers = s.peers := rfl
@[simp] theorem State.setPart_islands : (s.setPart i x).islands = s.islands := rfl
@[simp] theorem State.setPart_plimit : (s.setPart i x).plimit = s.plimit := rfl
@[simp] theorem State.setPart_boot : (s.setPart i x).boot = s.boot := rfl
@[simp] theorem State.setPart_recording : (s.setPart i x).recording = s.recording := rfl
@[simp] theorem State.setPart_record : (s.setPart i x).record = s.record := rfl
@[simp] theorem State.setPart_streams : (s.setPart i x).streams = s.streams := rfl
@[simp] theorem State.setPart_recAt : (s.setPart i x).recAt = s.recAt := rfl
@[simp] theorem State.setPart_altered : (s.setPart i x).altered = s.altered := rfl
@[simp] theorem State.setPart_flashBad : (s.setPart i x).flashBad = s.flashBad := rfl
@[simp] theorem State.setPart_bad : (s.setPart i x).bad = s.bad := rfl
@[simp] theorem State.part_setPart : (s.setPart i x).part j = if j = i then x else s.part j := Tab.get_put ..
@[simp] theorem State.coreC_setPart : (s.setPart i x).coreC j = s.coreC j := rfl
@[simp] theorem State.coreP_setPart : (s.setPart i x).coreP j = s.coreP j := rfl
@[simp] theorem State.die_setPart : (s.setPart i x).die j = s.die j := rfl
@[simp] theorem State.cluster_setPart : (s.setPart i x).cluster j = s.cluster j := rfl
@[simp] theorem State.ce_setPart : (s.setPart i x).ce j = s.ce j := rfl
@[simp] theorem State.chan_setPart : (s.setPart i x).chan j = s.chan j := rfl
@[simp] theorem State.port_setPart : (s.setPart i x).port j = s.port j := rfl
@[simp] theorem State.block_setPart : (s.setPart i x).block j = s.block j := rfl
@[simp] theorem State.island_setPart : (s.setPart i x).island j = s.island j := rfl
end

/-! ### `modC` -/

section
variable (f : CoreC → CoreC)
@[simp] theorem State.modC_focus : (s.modC i f).focus = s.focus := rfl
@[simp] theorem State.modC_now : (s.modC i f).now = s.now := rfl
@[simp] theorem State.modC_fresh : (s.modC i f).fresh = s.fresh := rfl
@[simp] theorem State.modC_agenda : (s.modC i f).agenda = s.agenda := rfl
@[simp] theorem State.modC_power : (s.modC i f).power = s.power := rfl
@[simp] theorem State.modC_mem : (s.modC i f).mem = s.mem := rfl
@[simp] theorem State.modC_pcores : (s.modC i f).pcores = s.pcores := rfl
@[simp] theorem State.modC_dies : (s.modC i f).dies = s.dies := rfl
@[simp] theorem State.modC_clus : (s.modC i f).clus = s.clus := rfl
@[simp] theorem State.modC_ces : (s.modC i f).ces = s.ces := rfl
@[simp] theorem State.modC_home : (s.modC i f).home = s.home := rfl
@[simp] theorem State.modC_portVm : (s.modC i f).portVm = s.portVm := rfl
@[simp] theorem State.modC_prof : (s.modC i f).prof = s.prof := rfl
@[simp] theorem State.modC_wakes : (s.modC i f).wakes = s.wakes := rfl
@[simp] theorem State.modC_qdesc : (s.modC i f).qdesc = s.qdesc := rfl
@[simp] theorem State.modC_binds : (s.modC i f).binds = s.binds := rfl
@[simp] theorem State.modC_chans : (s.modC i f).chans = s.chans := rfl
@[simp] theorem State.modC_tasks : (s.modC i f).tasks = s.tasks := rfl
@[simp] theorem State.modC_ntask : (s.modC i f).ntask = s.ntask := rfl
@[simp] theorem State.modC_parts : (s.modC i f).parts = s.parts := rfl
@[simp] theorem State.modC_grps : (s.modC i f).grps = s.grps := rfl
@[simp] theorem State.modC_ngrp : (s.modC i f).ngrp = s.ngrp := rfl
@[simp] theorem State.modC_live : (s.modC i f).live = s.live := rfl
@[simp] theorem State.modC_objs : (s.modC i f).objs = s.objs := rfl
@[simp] theorem State.modC_frames : (s.modC i f).frames = s.frames := rfl
@[simp] theorem State.modC_stagemap : (s.modC i f).stagemap = s.stagemap := rfl
@[simp] theorem State.modC_weights : (s.modC i f).weights = s.weights := rfl
@[simp] theorem State.modC_qlimit : (s.modC i f).qlimit = s.qlimit := rfl
@[simp] theorem State.modC_qused : (s.modC i f).qused = s.qused := rfl
@[simp] theorem State.modC_limits : (s.modC i f).limits = s.limits := rfl
@[simp] theorem State.modC_dbg : (s.modC i f).dbg = s.dbg := rfl
@[simp] theorem State.modC_blocks : (s.modC i f).blocks = s.blocks := rfl
@[simp] theorem State.modC_bps : (s.modC i f).bps = s.bps := rfl
@[simp] theorem State.modC_dslots : (s.modC i f).dslots = s.dslots := rfl
@[simp] theorem State.modC_dumps : (s.modC i f).dumps = s.dumps := rfl
@[simp] theorem State.modC_chains : (s.modC i f).chains = s.chains := rfl
@[simp] theorem State.modC_torn : (s.modC i f).torn = s.torn := rfl
@[simp] theorem State.modC_invcmd : (s.modC i f).invcmd = s.invcmd := rfl
@[simp] theorem State.modC_invva : (s.modC i f).invva = s.invva := rfl
@[simp] theorem State.modC_invstat : (s.modC i f).invstat = s.invstat := rfl
@[simp] theorem State.modC_invnow : (s.modC i f).invnow = s.invnow := rfl
@[simp] theorem State.modC_bar2 : (s.modC i f).bar2 = s.bar2 := rfl
@[simp] theorem State.modC_msix : (s.modC i f).msix = s.msix := rfl
@[simp] theorem State.modC_irqs : (s.modC i f).irqs = s.irqs := rfl
@[simp] theorem State.modC_host : (s.modC i f).host = s.host := rfl
@[simp] theorem State.modC_peers : (s.modC i f).peers = s.peers := rfl
@[simp] theorem State.modC_islands : (s.modC i f).islands = s.islands := rfl
@[simp] theorem State.modC_plimit : (s.modC i f).plimit = s.plimit := rfl
@[simp] theorem State.modC_boot : (s.modC i f).boot = s.boot := rfl
@[simp] theorem State.modC_recording : (s.modC i f).recording = s.recording := rfl
@[simp] theorem State.modC_record : (s.modC i f).record = s.record := rfl
@[simp] theorem State.modC_streams : (s.modC i f).streams = s.streams := rfl
@[simp] theorem State.modC_recAt : (s.modC i f).recAt = s.recAt := rfl
@[simp] theorem State.modC_altered : (s.modC i f).altered = s.altered := rfl
@[simp] theorem State.modC_flashBad : (s.modC i f).flashBad = s.flashBad := rfl
@[simp] theorem State.modC_bad : (s.modC i f).bad = s.bad := rfl
@[simp] theorem State.coreC_modC : (s.modC i f).coreC j = if j = i then f (s.coreC i) else s.coreC j := Tab.get_put ..
@[simp] theorem State.coreP_modC : (s.modC i f).coreP j = s.coreP j := rfl
@[simp] theorem State.die_modC : (s.modC i f).die j = s.die j := rfl
@[simp] theorem State.cluster_modC : (s.modC i f).cluster j = s.cluster j := rfl
@[simp] theorem State.ce_modC : (s.modC i f).ce j = s.ce j := rfl
@[simp] theorem State.chan_modC : (s.modC i f).chan j = s.chan j := rfl
@[simp] theorem State.port_modC : (s.modC i f).port j = s.port j := rfl
@[simp] theorem State.block_modC : (s.modC i f).block j = s.block j := rfl
@[simp] theorem State.island_modC : (s.modC i f).island j = s.island j := rfl
@[simp] theorem State.part_modC : (s.modC i f).part j = s.part j := rfl
end

/-! ### `modP` -/

section
variable (f : CoreP → CoreP)
@[simp] theorem State.modP_focus : (s.modP i f).focus = s.focus := rfl
@[simp] theorem State.modP_now : (s.modP i f).now = s.now := rfl
@[simp] theorem State.modP_fresh : (s.modP i f).fresh = s.fresh := rfl
@[simp] theorem State.modP_agenda : (s.modP i f).agenda = s.agenda := rfl
@[simp] theorem State.modP_power : (s.modP i f).power = s.power := rfl
@[simp] theorem State.modP_mem : (s.modP i f).mem = s.mem := rfl
@[simp] theorem State.modP_cores : (s.modP i f).cores = s.cores := rfl
@[simp] theorem State.modP_dies : (s.modP i f).dies = s.dies := rfl
@[simp] theorem State.modP_clus : (s.modP i f).clus = s.clus := rfl
@[simp] theorem State.modP_ces : (s.modP i f).ces = s.ces := rfl
@[simp] theorem State.modP_home : (s.modP i f).home = s.home := rfl
@[simp] theorem State.modP_portVm : (s.modP i f).portVm = s.portVm := rfl
@[simp] theorem State.modP_prof : (s.modP i f).prof = s.prof := rfl
@[simp] theorem State.modP_wakes : (s.modP i f).wakes = s.wakes := rfl
@[simp] theorem State.modP_qdesc : (s.modP i f).qdesc = s.qdesc := rfl
@[simp] theorem State.modP_binds : (s.modP i f).binds = s.binds := rfl
@[simp] theorem State.modP_chans : (s.modP i f).chans = s.chans := rfl
@[simp] theorem State.modP_tasks : (s.modP i f).tasks = s.tasks := rfl
@[simp] theorem State.modP_ntask : (s.modP i f).ntask = s.ntask := rfl
@[simp] theorem State.modP_parts : (s.modP i f).parts = s.parts := rfl
@[simp] theorem State.modP_grps : (s.modP i f).grps = s.grps := rfl
@[simp] theorem State.modP_ngrp : (s.modP i f).ngrp = s.ngrp := rfl
@[simp] theorem State.modP_live : (s.modP i f).live = s.live := rfl
@[simp] theorem State.modP_objs : (s.modP i f).objs = s.objs := rfl
@[simp] theorem State.modP_frames : (s.modP i f).frames = s.frames := rfl
@[simp] theorem State.modP_stagemap : (s.modP i f).stagemap = s.stagemap := rfl
@[simp] theorem State.modP_weights : (s.modP i f).weights = s.weights := rfl
@[simp] theorem State.modP_qlimit : (s.modP i f).qlimit = s.qlimit := rfl
@[simp] theorem State.modP_qused : (s.modP i f).qused = s.qused := rfl
@[simp] theorem State.modP_limits : (s.modP i f).limits = s.limits := rfl
@[simp] theorem State.modP_dbg : (s.modP i f).dbg = s.dbg := rfl
@[simp] theorem State.modP_blocks : (s.modP i f).blocks = s.blocks := rfl
@[simp] theorem State.modP_bps : (s.modP i f).bps = s.bps := rfl
@[simp] theorem State.modP_dslots : (s.modP i f).dslots = s.dslots := rfl
@[simp] theorem State.modP_dumps : (s.modP i f).dumps = s.dumps := rfl
@[simp] theorem State.modP_chains : (s.modP i f).chains = s.chains := rfl
@[simp] theorem State.modP_torn : (s.modP i f).torn = s.torn := rfl
@[simp] theorem State.modP_invcmd : (s.modP i f).invcmd = s.invcmd := rfl
@[simp] theorem State.modP_invva : (s.modP i f).invva = s.invva := rfl
@[simp] theorem State.modP_invstat : (s.modP i f).invstat = s.invstat := rfl
@[simp] theorem State.modP_invnow : (s.modP i f).invnow = s.invnow := rfl
@[simp] theorem State.modP_bar2 : (s.modP i f).bar2 = s.bar2 := rfl
@[simp] theorem State.modP_msix : (s.modP i f).msix = s.msix := rfl
@[simp] theorem State.modP_irqs : (s.modP i f).irqs = s.irqs := rfl
@[simp] theorem State.modP_host : (s.modP i f).host = s.host := rfl
@[simp] theorem State.modP_peers : (s.modP i f).peers = s.peers := rfl
@[simp] theorem State.modP_islands : (s.modP i f).islands = s.islands := rfl
@[simp] theorem State.modP_plimit : (s.modP i f).plimit = s.plimit := rfl
@[simp] theorem State.modP_boot : (s.modP i f).boot = s.boot := rfl
@[simp] theorem State.modP_recording : (s.modP i f).recording = s.recording := rfl
@[simp] theorem State.modP_record : (s.modP i f).record = s.record := rfl
@[simp] theorem State.modP_streams : (s.modP i f).streams = s.streams := rfl
@[simp] theorem State.modP_recAt : (s.modP i f).recAt = s.recAt := rfl
@[simp] theorem State.modP_altered : (s.modP i f).altered = s.altered := rfl
@[simp] theorem State.modP_flashBad : (s.modP i f).flashBad = s.flashBad := rfl
@[simp] theorem State.modP_bad : (s.modP i f).bad = s.bad := rfl
@[simp] theorem State.coreP_modP : (s.modP i f).coreP j = if j = i then f (s.coreP i) else s.coreP j := Tab.get_put ..
@[simp] theorem State.coreC_modP : (s.modP i f).coreC j = s.coreC j := rfl
@[simp] theorem State.die_modP : (s.modP i f).die j = s.die j := rfl
@[simp] theorem State.cluster_modP : (s.modP i f).cluster j = s.cluster j := rfl
@[simp] theorem State.ce_modP : (s.modP i f).ce j = s.ce j := rfl
@[simp] theorem State.chan_modP : (s.modP i f).chan j = s.chan j := rfl
@[simp] theorem State.port_modP : (s.modP i f).port j = s.port j := rfl
@[simp] theorem State.block_modP : (s.modP i f).block j = s.block j := rfl
@[simp] theorem State.island_modP : (s.modP i f).island j = s.island j := rfl
@[simp] theorem State.part_modP : (s.modP i f).part j = s.part j := rfl
end

/-! ### `modChan` -/

section
variable (f : Chan → Chan)
@[simp] theorem State.modChan_focus : (s.modChan i f).focus = s.focus := rfl
@[simp] theorem State.modChan_now : (s.modChan i f).now = s.now := rfl
@[simp] theorem State.modChan_fresh : (s.modChan i f).fresh = s.fresh := rfl
@[simp] theorem State.modChan_agenda : (s.modChan i f).agenda = s.agenda := rfl
@[simp] theorem State.modChan_power : (s.modChan i f).power = s.power := rfl
@[simp] theorem State.modChan_mem : (s.modChan i f).mem = s.mem := rfl
@[simp] theorem State.modChan_cores : (s.modChan i f).cores = s.cores := rfl
@[simp] theorem State.modChan_pcores : (s.modChan i f).pcores = s.pcores := rfl
@[simp] theorem State.modChan_dies : (s.modChan i f).dies = s.dies := rfl
@[simp] theorem State.modChan_clus : (s.modChan i f).clus = s.clus := rfl
@[simp] theorem State.modChan_ces : (s.modChan i f).ces = s.ces := rfl
@[simp] theorem State.modChan_home : (s.modChan i f).home = s.home := rfl
@[simp] theorem State.modChan_portVm : (s.modChan i f).portVm = s.portVm := rfl
@[simp] theorem State.modChan_prof : (s.modChan i f).prof = s.prof := rfl
@[simp] theorem State.modChan_wakes : (s.modChan i f).wakes = s.wakes := rfl
@[simp] theorem State.modChan_qdesc : (s.modChan i f).qdesc = s.qdesc := rfl
@[simp] theorem State.modChan_binds : (s.modChan i f).binds = s.binds := rfl
@[simp] theorem State.modChan_tasks : (s.modChan i f).tasks = s.tasks := rfl
@[simp] theorem State.modChan_ntask : (s.modChan i f).ntask = s.ntask := rfl
@[simp] theorem State.modChan_parts : (s.modChan i f).parts = s.parts := rfl
@[simp] theorem State.modChan_grps : (s.modChan i f).grps = s.grps := rfl
@[simp] theorem State.modChan_ngrp : (s.modChan i f).ngrp = s.ngrp := rfl
@[simp] theorem State.modChan_live : (s.modChan i f).live = s.live := rfl
@[simp] theorem State.modChan_objs : (s.modChan i f).objs = s.objs := rfl
@[simp] theorem State.modChan_frames : (s.modChan i f).frames = s.frames := rfl
@[simp] theorem State.modChan_stagemap : (s.modChan i f).stagemap = s.stagemap := rfl
@[simp] theorem State.modChan_weights : (s.modChan i f).weights = s.weights := rfl
@[simp] theorem State.modChan_qlimit : (s.modChan i f).qlimit = s.qlimit := rfl
@[simp] theorem State.modChan_qused : (s.modChan i f).qused = s.qused := rfl
@[simp] theorem State.modChan_limits : (s.modChan i f).limits = s.limits := rfl
@[simp] theorem State.modChan_dbg : (s.modChan i f).dbg = s.dbg := rfl
@[simp] theorem State.modChan_blocks : (s.modChan i f).blocks = s.blocks := rfl
@[simp] theorem State.modChan_bps : (s.modChan i f).bps = s.bps := rfl
@[simp] theorem State.modChan_dslots : (s.modChan i f).dslots = s.dslots := rfl
@[simp] theorem State.modChan_dumps : (s.modChan i f).dumps = s.dumps := rfl
@[simp] theorem State.modChan_chains : (s.modChan i f).chains = s.chains := rfl
@[simp] theorem State.modChan_torn : (s.modChan i f).torn = s.torn := rfl
@[simp] theorem State.modChan_invcmd : (s.modChan i f).invcmd = s.invcmd := rfl
@[simp] theorem State.modChan_invva : (s.modChan i f).invva = s.invva := rfl
@[simp] theorem State.modChan_invstat : (s.modChan i f).invstat = s.invstat := rfl
@[simp] theorem State.modChan_invnow : (s.modChan i f).invnow = s.invnow := rfl
@[simp] theorem State.modChan_bar2 : (s.modChan i f).bar2 = s.bar2 := rfl
@[simp] theorem State.modChan_msix : (s.modChan i f).msix = s.msix := rfl
@[simp] theorem State.modChan_irqs : (s.modChan i f).irqs = s.irqs := rfl
@[simp] theorem State.modChan_host : (s.modChan i f).host = s.host := rfl
@[simp] theorem State.modChan_peers : (s.modChan i f).peers = s.peers := rfl
@[simp] theorem State.modChan_islands : (s.modChan i f).islands = s.islands := rfl
@[simp] theorem State.modChan_plimit : (s.modChan i f).plimit = s.plimit := rfl
@[simp] theorem State.modChan_boot : (s.modChan i f).boot = s.boot := rfl
@[simp] theorem State.modChan_recording : (s.modChan i f).recording = s.recording := rfl
@[simp] theorem State.modChan_record : (s.modChan i f).record = s.record := rfl
@[simp] theorem State.modChan_streams : (s.modChan i f).streams = s.streams := rfl
@[simp] theorem State.modChan_recAt : (s.modChan i f).recAt = s.recAt := rfl
@[simp] theorem State.modChan_altered : (s.modChan i f).altered = s.altered := rfl
@[simp] theorem State.modChan_flashBad : (s.modChan i f).flashBad = s.flashBad := rfl
@[simp] theorem State.modChan_bad : (s.modChan i f).bad = s.bad := rfl
@[simp] theorem State.chan_modChan : (s.modChan i f).chan j = if j = i then f (s.chan i) else s.chan j := Tab.get_put ..
@[simp] theorem State.coreC_modChan : (s.modChan i f).coreC j = s.coreC j := rfl
@[simp] theorem State.coreP_modChan : (s.modChan i f).coreP j = s.coreP j := rfl
@[simp] theorem State.die_modChan : (s.modChan i f).die j = s.die j := rfl
@[simp] theorem State.cluster_modChan : (s.modChan i f).cluster j = s.cluster j := rfl
@[simp] theorem State.ce_modChan : (s.modChan i f).ce j = s.ce j := rfl
@[simp] theorem State.port_modChan : (s.modChan i f).port j = s.port j := rfl
@[simp] theorem State.block_modChan : (s.modChan i f).block j = s.block j := rfl
@[simp] theorem State.island_modChan : (s.modChan i f).island j = s.island j := rfl
@[simp] theorem State.part_modChan : (s.modChan i f).part j = s.part j := rfl
end

/-! ### `modBlock` -/

section
variable (f : Block → Block)
@[simp] theorem State.modBlock_focus : (s.modBlock i f).focus = s.focus := rfl
@[simp] theorem State.modBlock_now : (s.modBlock i f).now = s.now := rfl
@[simp] theorem State.modBlock_fresh : (s.modBlock i f).fresh = s.fresh := rfl
@[simp] theorem State.modBlock_agenda : (s.modBlock i f).agenda = s.agenda := rfl
@[simp] theorem State.modBlock_power : (s.modBlock i f).power = s.power := rfl
@[simp] theorem State.modBlock_mem : (s.modBlock i f).mem = s.mem := rfl
@[simp] theorem State.modBlock_cores : (s.modBlock i f).cores = s.cores := rfl
@[simp] theorem State.modBlock_pcores : (s.modBlock i f).pcores = s.pcores := rfl
@[simp] theorem State.modBlock_dies : (s.modBlock i f).dies = s.dies := rfl
@[simp] theorem State.modBlock_clus : (s.modBlock i f).clus = s.clus := rfl
@[simp] theorem State.modBlock_ces : (s.modBlock i f).ces = s.ces := rfl
@[simp] theorem State.modBlock_home : (s.modBlock i f).home = s.home := rfl
@[simp] theorem State.modBlock_portVm : (s.modBlock i f).portVm = s.portVm := rfl
@[simp] theorem State.modBlock_prof : (s.modBlock i f).prof = s.prof := rfl
@[simp] theorem State.modBlock_wakes : (s.modBlock i f).wakes = s.wakes := rfl
@[simp] theorem State.modBlock_qdesc : (s.modBlock i f).qdesc = s.qdesc := rfl
@[simp] theorem State.modBlock_binds : (s.modBlock i f).binds = s.binds := rfl
@[simp] theorem State.modBlock_chans : (s.modBlock i f).chans = s.chans := rfl
@[simp] theorem State.modBlock_tasks : (s.modBlock i f).tasks = s.tasks := rfl
@[simp] theorem State.modBlock_ntask : (s.modBlock i f).ntask = s.ntask := rfl
@[simp] theorem State.modBlock_parts : (s.modBlock i f).parts = s.parts := rfl
@[simp] theorem State.modBlock_grps : (s.modBlock i f).grps = s.grps := rfl
@[simp] theorem State.modBlock_ngrp : (s.modBlock i f).ngrp = s.ngrp := rfl
@[simp] theorem State.modBlock_live : (s.modBlock i f).live = s.live := rfl
@[simp] theorem State.modBlock_objs : (s.modBlock i f).objs = s.objs := rfl
@[simp] theorem State.modBlock_frames : (s.modBlock i f).frames = s.frames := rfl
@[simp] theorem State.modBlock_stagemap : (s.modBlock i f).stagemap = s.stagemap := rfl
@[simp] theorem State.modBlock_weights : (s.modBlock i f).weights = s.weights := rfl
@[simp] theorem State.modBlock_qlimit : (s.modBlock i f).qlimit = s.qlimit := rfl
@[simp] theorem State.modBlock_qused : (s.modBlock i f).qused = s.qused := rfl
@[simp] theorem State.modBlock_limits : (s.modBlock i f).limits = s.limits := rfl
@[simp] theorem State.modBlock_dbg : (s.modBlock i f).dbg = s.dbg := rfl
@[simp] theorem State.modBlock_bps : (s.modBlock i f).bps = s.bps := rfl
@[simp] theorem State.modBlock_dslots : (s.modBlock i f).dslots = s.dslots := rfl
@[simp] theorem State.modBlock_dumps : (s.modBlock i f).dumps = s.dumps := rfl
@[simp] theorem State.modBlock_chains : (s.modBlock i f).chains = s.chains := rfl
@[simp] theorem State.modBlock_torn : (s.modBlock i f).torn = s.torn := rfl
@[simp] theorem State.modBlock_invcmd : (s.modBlock i f).invcmd = s.invcmd := rfl
@[simp] theorem State.modBlock_invva : (s.modBlock i f).invva = s.invva := rfl
@[simp] theorem State.modBlock_invstat : (s.modBlock i f).invstat = s.invstat := rfl
@[simp] theorem State.modBlock_invnow : (s.modBlock i f).invnow = s.invnow := rfl
@[simp] theorem State.modBlock_bar2 : (s.modBlock i f).bar2 = s.bar2 := rfl
@[simp] theorem State.modBlock_msix : (s.modBlock i f).msix = s.msix := rfl
@[simp] theorem State.modBlock_irqs : (s.modBlock i f).irqs = s.irqs := rfl
@[simp] theorem State.modBlock_host : (s.modBlock i f).host = s.host := rfl
@[simp] theorem State.modBlock_peers : (s.modBlock i f).peers = s.peers := rfl
@[simp] theorem State.modBlock_islands : (s.modBlock i f).islands = s.islands := rfl
@[simp] theorem State.modBlock_plimit : (s.modBlock i f).plimit = s.plimit := rfl
@[simp] theorem State.modBlock_boot : (s.modBlock i f).boot = s.boot := rfl
@[simp] theorem State.modBlock_recording : (s.modBlock i f).recording = s.recording := rfl
@[simp] theorem State.modBlock_record : (s.modBlock i f).record = s.record := rfl
@[simp] theorem State.modBlock_streams : (s.modBlock i f).streams = s.streams := rfl
@[simp] theorem State.modBlock_recAt : (s.modBlock i f).recAt = s.recAt := rfl
@[simp] theorem State.modBlock_altered : (s.modBlock i f).altered = s.altered := rfl
@[simp] theorem State.modBlock_flashBad : (s.modBlock i f).flashBad = s.flashBad := rfl
@[simp] theorem State.modBlock_bad : (s.modBlock i f).bad = s.bad := rfl
@[simp] theorem State.block_modBlock : (s.modBlock i f).block j = if j = i then f (s.block i) else s.block j := Tab.get_put ..
@[simp] theorem State.coreC_modBlock : (s.modBlock i f).coreC j = s.coreC j := rfl
@[simp] theorem State.coreP_modBlock : (s.modBlock i f).coreP j = s.coreP j := rfl
@[simp] theorem State.die_modBlock : (s.modBlock i f).die j = s.die j := rfl
@[simp] theorem State.cluster_modBlock : (s.modBlock i f).cluster j = s.cluster j := rfl
@[simp] theorem State.ce_modBlock : (s.modBlock i f).ce j = s.ce j := rfl
@[simp] theorem State.chan_modBlock : (s.modBlock i f).chan j = s.chan j := rfl
@[simp] theorem State.port_modBlock : (s.modBlock i f).port j = s.port j := rfl
@[simp] theorem State.island_modBlock : (s.modBlock i f).island j = s.island j := rfl
@[simp] theorem State.part_modBlock : (s.modBlock i f).part j = s.part j := rfl
end

/-! ### `write` -/

section
variable (a x n : Nat)

/-- A write is to memory, or nothing. -/
theorem State.write_mem : s.write a x n = { s with mem := (s.write a x n).mem } := by unfold State.write; split <;> rfl

@[simp] theorem State.write_focus : (s.write a x n).focus = s.focus := by rw [State.write_mem]
@[simp] theorem State.write_now : (s.write a x n).now = s.now := by rw [State.write_mem]
@[simp] theorem State.write_fresh : (s.write a x n).fresh = s.fresh := by rw [State.write_mem]
@[simp] theorem State.write_agenda : (s.write a x n).agenda = s.agenda := by rw [State.write_mem]
@[simp] theorem State.write_power : (s.write a x n).power = s.power := by rw [State.write_mem]
@[simp] theorem State.write_cores : (s.write a x n).cores = s.cores := by rw [State.write_mem]
@[simp] theorem State.write_pcores : (s.write a x n).pcores = s.pcores := by rw [State.write_mem]
@[simp] theorem State.write_dies : (s.write a x n).dies = s.dies := by rw [State.write_mem]
@[simp] theorem State.write_clus : (s.write a x n).clus = s.clus := by rw [State.write_mem]
@[simp] theorem State.write_ces : (s.write a x n).ces = s.ces := by rw [State.write_mem]
@[simp] theorem State.write_home : (s.write a x n).home = s.home := by rw [State.write_mem]
@[simp] theorem State.write_portVm : (s.write a x n).portVm = s.portVm := by rw [State.write_mem]
@[simp] theorem State.write_prof : (s.write a x n).prof = s.prof := by rw [State.write_mem]
@[simp] theorem State.write_wakes : (s.write a x n).wakes = s.wakes := by rw [State.write_mem]
@[simp] theorem State.write_qdesc : (s.write a x n).qdesc = s.qdesc := by rw [State.write_mem]
@[simp] theorem State.write_binds : (s.write a x n).binds = s.binds := by rw [State.write_mem]
@[simp] theorem State.write_chans : (s.write a x n).chans = s.chans := by rw [State.write_mem]
@[simp] theorem State.write_tasks : (s.write a x n).tasks = s.tasks := by rw [State.write_mem]
@[simp] theorem State.write_ntask : (s.write a x n).ntask = s.ntask := by rw [State.write_mem]
@[simp] theorem State.write_parts : (s.write a x n).parts = s.parts := by rw [State.write_mem]
@[simp] theorem State.write_grps : (s.write a x n).grps = s.grps := by rw [State.write_mem]
@[simp] theorem State.write_ngrp : (s.write a x n).ngrp = s.ngrp := by rw [State.write_mem]
@[simp] theorem State.write_live : (s.write a x n).live = s.live := by rw [State.write_mem]
@[simp] theorem State.write_objs : (s.write a x n).objs = s.objs := by rw [State.write_mem]
@[simp] theorem State.write_frames : (s.write a x n).frames = s.frames := by rw [State.write_mem]
@[simp] theorem State.write_stagemap : (s.write a x n).stagemap = s.stagemap := by rw [State.write_mem]
@[simp] theorem State.write_weights : (s.write a x n).weights = s.weights := by rw [State.write_mem]
@[simp] theorem State.write_qlimit : (s.write a x n).qlimit = s.qlimit := by rw [State.write_mem]
@[simp] theorem State.write_qused : (s.write a x n).qused = s.qused := by rw [State.write_mem]
@[simp] theorem State.write_limits : (s.write a x n).limits = s.limits := by rw [State.write_mem]
@[simp] theorem State.write_dbg : (s.write a x n).dbg = s.dbg := by rw [State.write_mem]
@[simp] theorem State.write_blocks : (s.write a x n).blocks = s.blocks := by rw [State.write_mem]
@[simp] theorem State.write_bps : (s.write a x n).bps = s.bps := by rw [State.write_mem]
@[simp] theorem State.write_dslots : (s.write a x n).dslots = s.dslots := by rw [State.write_mem]
@[simp] theorem State.write_dumps : (s.write a x n).dumps = s.dumps := by rw [State.write_mem]
@[simp] theorem State.write_chains : (s.write a x n).chains = s.chains := by rw [State.write_mem]
@[simp] theorem State.write_torn : (s.write a x n).torn = s.torn := by rw [State.write_mem]
@[simp] theorem State.write_invcmd : (s.write a x n).invcmd = s.invcmd := by rw [State.write_mem]
@[simp] theorem State.write_invva : (s.write a x n).invva = s.invva := by rw [State.write_mem]
@[simp] theorem State.write_invstat : (s.write a x n).invstat = s.invstat := by rw [State.write_mem]
@[simp] theorem State.write_invnow : (s.write a x n).invnow = s.invnow := by rw [State.write_mem]
@[simp] theorem State.write_bar2 : (s.write a x n).bar2 = s.bar2 := by rw [State.write_mem]
@[simp] theorem State.write_msix : (s.write a x n).msix = s.msix := by rw [State.write_mem]
@[simp] theorem State.write_irqs : (s.write a x n).irqs = s.irqs := by rw [State.write_mem]
@[simp] theorem State.write_host : (s.write a x n).host = s.host := by rw [State.write_mem]
@[simp] theorem State.write_peers : (s.write a x n).peers = s.peers := by rw [State.write_mem]
@[simp] theorem State.write_islands : (s.write a x n).islands = s.islands := by rw [State.write_mem]
@[simp] theorem State.write_plimit : (s.write a x n).plimit = s.plimit := by rw [State.write_mem]
@[simp] theorem State.write_boot : (s.write a x n).boot = s.boot := by rw [State.write_mem]
@[simp] theorem State.write_recording : (s.write a x n).recording = s.recording := by rw [State.write_mem]
@[simp] theorem State.write_record : (s.write a x n).record = s.record := by rw [State.write_mem]
@[simp] theorem State.write_streams : (s.write a x n).streams = s.streams := by rw [State.write_mem]
@[simp] theorem State.write_recAt : (s.write a x n).recAt = s.recAt := by rw [State.write_mem]
@[simp] theorem State.write_altered : (s.write a x n).altered = s.altered := by rw [State.write_mem]
@[simp] theorem State.write_flashBad : (s.write a x n).flashBad = s.flashBad := by rw [State.write_mem]
@[simp] theorem State.write_bad : (s.write a x n).bad = s.bad := by rw [State.write_mem]
@[simp] theorem State.coreC_write : (s.write a x n).coreC j = s.coreC j := by rw [State.write_mem]; rfl
@[simp] theorem State.coreP_write : (s.write a x n).coreP j = s.coreP j := by rw [State.write_mem]; rfl
@[simp] theorem State.die_write : (s.write a x n).die j = s.die j := by rw [State.write_mem]; rfl
@[simp] theorem State.cluster_write : (s.write a x n).cluster j = s.cluster j := by rw [State.write_mem]; rfl
@[simp] theorem State.ce_write : (s.write a x n).ce j = s.ce j := by rw [State.write_mem]; rfl
@[simp] theorem State.chan_write : (s.write a x n).chan j = s.chan j := by rw [State.write_mem]; rfl
@[simp] theorem State.port_write : (s.write a x n).port j = s.port j := by rw [State.write_mem]; rfl
@[simp] theorem State.block_write : (s.write a x n).block j = s.block j := by rw [State.write_mem]; rfl
@[simp] theorem State.island_write : (s.write a x n).island j = s.island j := by rw [State.write_mem]; rfl
@[simp] theorem State.part_write : (s.write a x n).part j = s.part j := by rw [State.write_mem]; rfl
end


/-! ### The CRC of R55 in pieces -/

theorem crcFrom_add (c : BitVec 32) (x m n : Nat) : crcFrom c x (m + n) = crcFrom (crcFrom c x m) (x / 256 ^ m) n := by
  induction m generalizing c x with
  | zero => simp [crcFrom]
  | succ m ih => rw [Nat.add_right_comm, crcFrom, ih, crcFrom, Nat.div_div_eq_div_mul, Nat.pow_succ, Nat.mul_comm]

/-- Two updates of one core are one. -/
theorem State.setC_setC (s : State) (i : Nat) (x y : CoreC) : (s.setC i x).setC i y = s.setC i y := by
  simp [State.setC, Tab.put_put]
theorem State.setP_setP (s : State) (i : Nat) (x y : CoreP) : (s.setP i x).setP i y = s.setP i y := by
  simp [State.setP, Tab.put_put]
theorem State.modC_modC (s : State) (i : Nat) (f k : CoreC → CoreC) : (s.modC i f).modC i k = s.modC i (fun c => k (f c)) := by
  unfold State.modC
  rw [State.setC_setC, State.coreC_setC, if_pos rfl]
theorem State.modP_modP (s : State) (i : Nat) (f k : CoreP → CoreP) : (s.modP i f).modP i k = s.modP i (fun c => k (f c)) := by
  unfold State.modP
  rw [State.setP_setP, State.coreP_setP, if_pos rfl]

/-- The canonical form depends on memory alone, and every write keeps it. -/
theorem State.MemOk.of_mem {s t : State} (h : s.MemOk) (e : t.mem = s.mem) : t.MemOk := by
  unfold State.MemOk at *
  rw [e, h]
theorem State.zeroPieces_memOk {s : State} (l : List (Nat × Nat)) (h : s.MemOk) : (s.zeroPieces l).MemOk := Memory.wfFrom_filter _ h
theorem State.withAnswers_memOk {s : State} (m : Memory) (h : s.MemOk) : (s.withAnswers m).MemOk := by
  have keep : ∀ (l m : Memory), m.wf = true → (l.foldl (fun x c => memPut x c.1 c.2) m).wf = true := by
    intro l
    induction l with
    | nil => exact fun _ h => h
    | cons c l ih => exact fun m h => ih _ (memPut_wf _ _ h)
  exact keep _ _ (Memory.wfFrom_filter _ h)
theorem State.write_memOk {s : State} (a x n : Nat) (h : s.MemOk) : (s.write a x n).MemOk := by
  unfold State.write
  split
  · exact h
  · exact memWrite_wf a x n h

end Sys2Proof.Machine
end

