-- ==== Sys2Proof/Laws/Portable.lean ====
section
/-! SUPPORT. What the shared operations of the portable layer do: registers read after write, and going on. -/

namespace Sys2Proof.Machine

/-- x[n] after a write of x[rd]; x0 stays zero. -/
@[simp] theorem CoreP.xr_setX (c : CoreP) (rd n : Nat) (w : Word) :
    (c.setX rd w).xr n = if n = rd ∧ n ≠ 0 then w else c.xr n := by
  unfold CoreP.setX CoreP.xr
  by_cases h : rd = 0
  · simp only [h, if_true]; split <;> simp_all
  · simp only [h, if_false, File.get_put]; by_cases hn : n = 0 <;> simp [hn]

/-- q[n] after a write of q[rd]. -/
@[simp] theorem CoreP.qr_setQ (c : CoreP) (rd n : Nat) (v : TVal) : (c.setQ rd v).qr n = if n = rd then v else c.qr n := File.get_put ..

section
variable (c : CoreP) (rd : Nat) (w : Word)
@[simp] theorem CoreP.setX_q : (c.setX rd w).q = c.q := by unfold CoreP.setX; split <;> rfl
@[simp] theorem CoreP.setX_pc : (c.setX rd w).pc = c.pc := by unfold CoreP.setX; split <;> rfl
@[simp] theorem CoreP.setX_flg : (c.setX rd w).flg = c.flg := by unfold CoreP.setX; split <;> rfl
@[simp] theorem CoreP.setX_tiles : (c.setX rd w).tiles = c.tiles := by unfold CoreP.setX; split <;> rfl
@[simp] theorem CoreP.setX_cause : (c.setX rd w).cause = c.cause := by unfold CoreP.setX; split <;> rfl
@[simp] theorem CoreP.setX_retired : (c.setX rd w).retired = c.retired := by unfold CoreP.setX; split <;> rfl
@[simp] theorem CoreP.setX_hold : (c.setX rd w).hold = c.hold := by unfold CoreP.setX; split <;> rfl
@[simp] theorem CoreP.setX_mmac : (c.setX rd w).mmac = c.mmac := by unfold CoreP.setX; split <;> rfl
@[simp] theorem CoreP.setX_drawn : (c.setX rd w).drawn = c.drawn := by unfold CoreP.setX; split <;> rfl
@[simp] theorem CoreP.setX_cont : (c.setX rd w).cont = c.cont := by unfold CoreP.setX; split <;> rfl
end

/-- Going to an address changes the core's pc and what counts instructions and arrivals. -/
theorem State.goTo_spec (s : State) (g a : Nat) :
    s.goTo g a = { s with pcores := (s.goTo g a).pcores } ∧ (∀ h, h ≠ g → (s.goTo g a).coreP h = s.coreP h) ∧
    ((s.goTo g a).coreP g).pc = a % 2 ^ 64 ∧ ((s.goTo g a).coreP g).retired = (s.coreP g).retired + 1 ∧
    ((s.goTo g a).coreP g).x = (s.coreP g).x ∧ ((s.goTo g a).coreP g).q = (s.coreP g).q ∧
    ((s.goTo g a).coreP g).flg = (s.coreP g).flg ∧ ((s.goTo g a).coreP g).tiles = (s.coreP g).tiles ∧
    ((s.goTo g a).coreP g).cause = (s.coreP g).cause ∧ ((s.goTo g a).coreP g).drawn = (s.coreP g).drawn := by
  refine ⟨rfl, ?_, ?_⟩
  · intro h hh; simp [State.goTo, hh]
  · simp [State.goTo]

/-- A core that writes x[rd] and goes on. -/
theorem State.doneX_putX (s : State) (rd : BitVec 5) (w : Word) : s.putX (s.doneX s.focus rd.toNat w) rd w := by
  obtain ⟨h1, h2, h3, h4, h5, h6, h7, h8, h9, -⟩ :=
    (s.modP s.focus (fun c => c.setX rd.toNat w)).goTo_spec s.focus
      (((s.modP s.focus (fun c => c.setX rd.toNat w)).coreP s.focus).pc + 4)
  refine ⟨h1, ?_, ?_, ?_, ?_, ?_, ?_, ?_, ?_⟩
  · intro g hg; exact (h2 g hg).trans (by simp [hg])
  · intro n
    have : ((s.doneX s.focus rd.toNat w).coreP s.focus).xr n = ((s.coreP s.focus).setX rd.toNat w).xr n := by
      unfold CoreP.xr; rw [show ((s.doneX s.focus rd.toNat w).coreP s.focus).x = ((s.coreP s.focus).setX rd.toNat w).x from
        h5.trans (by simp)]
    rw [this, CoreP.xr_setX]
  · exact h3.trans (by simp)
  · exact h4.trans (by simp)
  · exact h6.trans (by simp)
  · exact h7.trans (by simp)
  · exact h8.trans (by simp)
  · exact h9.trans (by simp)

/-- A core that writes q[rd], raises flags and goes on. -/
theorem State.doneQ_putQ (s : State) (rd : BitVec 5) (v : TVal) (fl : Flags) : s.putQ (s.doneQ s.focus rd.toNat (.ok v fl)) rd v fl := by
  obtain ⟨h1, h2, h3, h4, h5, h6, h7, h8, h9, -⟩ :=
    (s.modP s.focus (fun c => (c.setQ rd.toNat v).raise fl)).goTo_spec s.focus
      (((s.modP s.focus (fun c => (c.setQ rd.toNat v).raise fl)).coreP s.focus).pc + 4)
  refine ⟨h1, ?_, ?_, ?_, ?_, ?_, ?_, ?_, ?_⟩
  · intro g hg; exact (h2 g hg).trans (by simp [hg])
  · intro n
    have : ((s.doneQ s.focus rd.toNat (.ok v fl)).coreP s.focus).qr n = ((s.coreP s.focus).setQ rd.toNat v).qr n := by
      unfold CoreP.qr; rw [show ((s.doneQ s.focus rd.toNat (.ok v fl)).coreP s.focus).q = ((s.coreP s.focus).setQ rd.toNat v).q from
        h6.trans (by simp [CoreP.raise])]
    rw [this, CoreP.qr_setQ]
  · exact h3.trans (by simp [CoreP.raise, CoreP.setQ])
  · exact h4.trans (by simp [CoreP.raise, CoreP.setQ])
  · exact h5.trans (by simp [CoreP.raise, CoreP.setQ])
  · exact h7.trans (by simp [CoreP.raise, CoreP.setQ])
  · exact h8.trans (by simp [CoreP.raise, CoreP.setQ])
  · exact h9.trans (by simp [CoreP.raise, CoreP.setQ])

/-- A core that goes on with no register changed. -/
theorem State.advance_putNone (s : State) : s.putNone (s.advance s.focus) := by
  obtain ⟨h1, h2, h3, h4, h5, h6, h7, h8, h9, -⟩ := s.goTo_spec s.focus ((s.coreP s.focus).pc + 4)
  exact ⟨h1, h2, h3, h4, h5, h6, h7, h8, h9⟩

/-- The same after a store. -/
theorem State.write_putNone (s : State) (a x n : Nat) : s.putNone ((s.write a x n).advance s.focus) := by
  have e : (s.write a x n).advance s.focus = (s.write a x n).goTo s.focus ((s.coreP s.focus).pc + 4) := by simp [State.advance]
  obtain ⟨h1, h2, h3, h4, h5, h6, h7, h8, h9, -⟩ := (s.write a x n).goTo_spec s.focus ((s.coreP s.focus).pc + 4)
  simp only [State.coreP_write] at h2 h3 h4 h5 h6 h7 h8 h9
  rw [e]
  exact ⟨by rw [h1, State.write_mem], h2, h3, h4, h5, h6, h7, h8, h9⟩

/-! ### The frames of an instruction -/

theorem baseOp_eq (s : State) (body : Nat → CoreP → State) : baseOp s body = .next (body s.focus (s.coreP s.focus)) := rfl

/-- A hint of 5 to 7 traps, and every other instruction acts (R389). -/
theorem xpolOp_bad {h : BitVec 3} {s : State} (body : Nat → CoreP → State) (hh : 5 ≤ h.toNat) :
    xpolOp h s body = .next (s.trapP s.focus 0x07 h.toNat) := by simp [xpolOp, hh]
theorem xpolOp_ok {h : BitVec 3} {s : State} (body : Nat → CoreP → State) (hh : h.toNat < 5) :
    xpolOp h s body = .next (body s.focus (s.coreP s.focus)) := by simp [xpolOp, Nat.not_le.2 hh]

end Sys2Proof.Machine
end

