-- ==== Sys2Proof/Tests/Slice0.lean ====
section
/-! SUPPORT. Tests: words of the spec's encodings decode to their instructions, ill-formed terms are refused, single steps give
what the spec's text gives for the operands, and every hypothesis of the statements is met by some state. -/

namespace Sys2Proof.Tests

open Machine

set_option Elab.async false
set_option synthInstance.maxSize 2000

/-! ### Decoding -/

/-- Each word decodes to the instruction beside it. -/
abbrev reads (nbits : Nat) (l : List (Nat × Instr)) : Prop := l.all (fun x => decide (decodeTableWord nbits x.1 = some x.2)) = true


/-- Decoding, integer units (R288, R297 to R302): guard 5, source o2, unit ia1, K = 1. -/
theorem test_decode_ia_1 : reads 24 [
    (0xA21289, .iaAdd 5 66 1 1), (0xA2128B, .iaSub 5 66 1 1), (0xA2128D, .iaAnd 5 66 1 1), (0xA2128F, .iaOr 5 66 1 1),
    (0xA21291, .iaXor 5 66 1 1), (0xA21293, .iaAndn 5 66 1 1), (0xA21295, .iaShl 5 66 1 1), (0xA21297, .iaShr 5 66 1 1),
    (0xA21299, .iaSra 5 66 1 1), (0xA2129B, .iaRol 5 66 1 1), (0xA2129D, .iaMin 5 66 1 1), (0xA2129F, .iaMax 5 66 1 1),
    (0xA212A1, .iaMinn 5 66 1 1), (0xA212A3, .iaMaxn 5 66 1 1), (0xA212A5, .iaMul 5 66 1 1), (0xA212A7, .iaMulh 5 66 1 1),
    (0xA212A9, .iaMulhn 5 66 1 1), (0xA212AB, .iaDiv 5 66 1 1), (0xA212AD, .iaDivn 5 66 1 1), (0xA212AF, .iaRem 5 66 1 1),
    (0xA212B1, .iaRemn 5 66 1 1), (0xA212B3, .iaCmpeq 5 66 1 1), (0xA212B5, .iaCmpne 5 66 1 1),
    (0xA212B7, .iaCmplt 5 66 1 1), (0xA212B9, .iaCmpltn 5 66 1 1)] := by decide +kernel

/-- Decoding, integer units (R288, R297 to R302): guard 5, source o2, unit ia1, K = 1. -/
theorem test_decode_ia_2 : reads 24 [
    (0xA212BB, .iaCmple 5 66 1 1), (0xA212BD, .iaCmplen 5 66 1 1), (0xA212BF, .iaSel 5 66 1 1), (0xA212C1, .iaLea 5 66 1 1),
    (0xA212C3, .iaBfx 5 66 1 1), (0xA212C5, .iaBfi 5 66 1 1), (0xA212C7, .iaClz 5 66 1 1), (0xA212C9, .iaCtz 5 66 1 1),
    (0xA212CB, .iaPopc 5 66 1 1), (0xA212CD, .iaMov 5 66 1 1), (0xA212CF, .iaSext 5 66 1 1), (0xA212D1, .iaZext 5 66 1 1)] := by decide +kernel

/-- Decoding, vector units (R290, R323 to R340): unit va1. -/
theorem test_decode_va_1 : reads 24 [
    (0xA21389, .vadd 5 66 1 1), (0xA2138B, .vsub 5 66 1 1), (0xA2138D, .vmul 5 66 1 1), (0xA2138F, .vfma 5 66 1 1),
    (0xA21391, .vmax 5 66 1 1), (0xA21393, .vmin 5 66 1 1), (0xA21395, .vabs 5 66 1 1), (0xA21397, .vneg 5 66 1 1),
    (0xA21399, .vcmpeq 5 66 1 1), (0xA2139B, .vcmplt 5 66 1 1), (0xA2139D, .vcmple 5 66 1 1), (0xA2139F, .vsel 5 66 1 1),
    (0xA213A1, .vcvt 5 66 1 1), (0xA213A3, .vsplat 5 66 1 1), (0xA213A5, .vperm 5 66 1 1), (0xA213A7, .vshuf 5 66 1 1),
    (0xA213A9, .vredadd 5 66 1 1), (0xA213AB, .vredmax 5 66 1 1), (0xA213AD, .vexp2 5 66 1 1), (0xA213AF, .vlog2 5 66 1 1),
    (0xA213B1, .vrcp 5 66 1 1), (0xA213B3, .vrsq 5 66 1 1), (0xA213B5, .vdot2 5 66 1 1), (0xA213B7, .vscl 5 66 1 1),
    (0xA213B9, .vpln 5 66 1 1)] := by decide +kernel

/-- Decoding, vector units (R290, R323 to R340): unit va1. -/
theorem test_decode_va_2 : reads 24 [
    (0xA213BB, .vupl 5 66 1 1), (0xA213BD, .vand 5 66 1 1), (0xA213BF, .vor 5 66 1 1), (0xA213C1, .vxor 5 66 1 1),
    (0xA213C3, .vshl 5 66 1 1), (0xA213C5, .vshr 5 66 1 1), (0xA213C7, .vidx 5 66 1 1), (0xA213C9, .vext 5 66 1 1),
    (0xA213CB, .vins 5 66 1 1), (0xA213CD, .vclmp 5 66 1 1), (0xA213CF, .vtag 5 66 1 1)] := by decide +kernel

/-- Decoding, matrix engine (R291, R345 to R349). -/
theorem test_decode_me : reads 24 [
    (0xA21409, .mePa 5 66 1), (0xA2140B, .mePb 5 66 1), (0xA2140D, .meAcc 5 66 1), (0xA2140F, .meSh 5 66 1),
    (0xA21411, .meDr 5 66 1), (0xA21413, .meClr 5 66 1), (0xA21415, .meCls 5 66 1), (0xA21417, .meThr 5 66 1),
    (0xA21419, .meSeq 5 66 1), (0xA2141B, .meSqs 5 66 1)] := by decide +kernel

/-- Decoding, scratchpad (R292, R351 to R357). -/
theorem test_decode_ls : reads 24 [
    (0xA21489, .lsLd 5 66 1), (0xA2148B, .lsSt 5 66 1), (0xA2148D, .lsVld 5 66 1), (0xA2148F, .lsVst 5 66 1),
    (0xA21491, .lsVlds 5 66 1), (0xA21493, .lsVgat 5 66 1), (0xA21495, .lsVsca 5 66 1), (0xA21497, .lsCld 5 66 1),
    (0xA21499, .lsCst 5 66 1), (0xA2149B, .lsMst 5 66 1), (0xA2149D, .lsPld 5 66 1), (0xA2149F, .lsTld 5 66 1),
    (0xA214A1, .lsAld 5 66 1), (0xA214A3, .lsAst 5 66 1)] := by decide +kernel

/-- Decoding, control (R293, R303 to R319). -/
theorem test_decode_ct : reads 24 [
    (0xA21509, .ctBr 5 66 1), (0xA2150B, .ctBrc 5 66 1), (0xA2150D, .ctCall 5 66 1), (0xA2150F, .ctRet 5 66 1),
    (0xA21511, .ctJr 5 66 1), (0xA21513, .ctLoop 5 66 1), (0xA21515, .ctLbrk 5 66 1), (0xA21517, .ctLend 5 66 1),
    (0xA21519, .ctFuse 5 66 1), (0xA2151B, .ctDecouple 5 66 1), (0xA2151D, .ctRejoin 5 66 1), (0xA2151F, .ctSusp 5 66 1),
    (0xA21521, .ctYield 5 66 1), (0xA21523, .ctTrap 5 66 1), (0xA21525, .ctBrk 5 66 1), (0xA21527, .ctKr 5 66 1),
    (0xA21529, .ctKw 5 66 1), (0xA2152B, .ctEret 5 66 1), (0xA2152D, .ctPand 5 66 1), (0xA2152F, .ctPor 5 66 1),
    (0xA21531, .ctPxor 5 66 1), (0xA21533, .ctPnot 5 66 1), (0xA21535, .ctTokw 5 66 1)] := by decide +kernel

/-- Decoding, synchronisation (R294, R361 to R382). -/
theorem test_decode_as : reads 24 [
    (0xA21589, .asPost 5 66 1), (0xA2158B, .asTwait 5 66 1), (0xA2158D, .asTstat 5 66 1), (0xA2158F, .asBalloc 5 66 1),
    (0xA21591, .asBarr 5 66 1), (0xA21593, .asBwait 5 66 1), (0xA21595, .asBfree 5 66 1), (0xA21597, .asHbind 5 66 1),
    (0xA21599, .asHacq 5 66 1), (0xA2159B, .asHrel 5 66 1), (0xA2159D, .asHpub 5 66 1), (0xA2159F, .asHobs 5 66 1),
    (0xA215A1, .asSae 5 66 1), (0xA215A3, .asSaer 5 66 1), (0xA215A5, .asTpost 5 66 1), (0xA215A7, .asNotify 5 66 1),
    (0xA215A9, .asSortx 5 66 1), (0xA215AB, .asRnd 5 66 1), (0xA215AD, .asPmark 5 66 1), (0xA215AF, .asIcinv 5 66 1)] := by decide +kernel

/-- Decoding, plain moves (R276, R277). -/
theorem test_decode_move : reads 24 [
    (0xA210CA, .moveToRegister 5 66 101), (0xA21384, .moveToPort 5 66 7 2), (0xA211FE, .moveToNullSink 5 66)] := by decide +kernel

/-- Decoding, vector instructions (R389, R390, R393): hint 1, x21 or q21, q10, q6. -/
theorem test_decode_q_1 : reads 32 [
    (0x2155030B, .qadd 1 21 10 6), (0x2155130B, .qsub 1 21 10 6), (0x2155230B, .qmul 1 21 10 6),
    (0x2155330B, .qfma 1 21 10 6), (0x2155430B, .qmax 1 21 10 6), (0x2155530B, .qmin 1 21 10 6), (0x2005630B, .qabs 1 10 6),
    (0x2005730B, .qneg 1 10 6), (0x2355030B, .qclmp 1 21 10 6), (0x2355130B, .qcmpeq 1 21 10 6),
    (0x2355230B, .qcmplt 1 21 10 6), (0x2355330B, .qcmple 1 21 10 6), (0x2355430B, .qsel 1 21 10 6),
    (0x2355530B, .qand 1 21 10 6), (0x2355630B, .qor 1 21 10 6), (0x2355730B, .qxor 1 21 10 6),
    (0x2555030B, .qshl 1 21 10 6), (0x2555130B, .qshr 1 21 10 6), (0x2555230B, .qidx 1 21 10 6),
    (0x2555330B, .qext 1 21 10 6), (0x2555430B, .qins 1 21 10 6), (0x2555530B, .qperm 1 21 10 6),
    (0x2555630B, .qshuf 1 21 10 6), (0x2405730B, .qredadd 1 10 6), (0x2605030B, .qredmax 1 10 6)] := by decide +kernel

/-- Decoding, vector instructions (R389, R390, R393): hint 1, x21 or q21, q10, q6. -/
theorem test_decode_q_2 : reads 32 [
    (0x2605130B, .qexp2 1 10 6), (0x2605230B, .qlog2 1 10 6), (0x2605330B, .qrcp 1 10 6), (0x2605430B, .qrsq 1 10 6),
    (0x2755530B, .qdot2 1 21 10 6), (0x2755630B, .qscl 1 21 10 6), (0x2755730B, .qpln 1 21 10 6),
    (0x2955030B, .qupl 1 21 10 6), (0x2955130B, .qcvtx 1 21 10 6), (0x2955230B, .qsortx 1 21 10 6),
    (0x2AC5030B, .qsplat 1 12 10 6), (0x2AC5130B, .qcvt 1 12 10 6), (0x2AC5230B, .qtag 1 12 10 6),
    (0x2C95032B, .qld 1 12 9 10 6), (0x2095132B, .qst 1 9 10 6), (0x2155232B, .qlds 1 21 10 6),
    (0x2355232B, .qgat 1 21 10 6), (0x2555232B, .qsca 1 21 10 6), (0x2755232B, .qmst 1 21 10 6)] := by decide +kernel

/-- Decoding, tile instructions (R394, R395). -/
theorem test_decode_tile : reads 32 [
    (0x200001DB, .mclr 1 3), (0x2010115B, .mcls 1 1 2), (0x2155205B, .mthr 1 21 10), (0x215531DB, .mmac 1 21 10 3),
    (0x2151C35B, .mdr 1 21 3 6), (0x2151D35B, .mrd 1 21 3 6), (0x215561DB, .mwr 1 21 10 3)] := by decide +kernel

/-- Decoding, synchronisation and system instructions (R396, R400). -/
theorem test_decode_system : reads 32 [
    (0x2005037B, .qpost 1 10 6), (0x2155107B, .twait 1 21 10), (0x2005237B, .tstat 1 10 6), (0x2155337B, .hbind 1 21 10 6),
    (0x21554A7B, .hacq 1 21 10 2 4), (0x2155527B, .hrel 1 21 10 4), (0x2000627B, .hpub 1 4), (0x2000727B, .hobs 1 4),
    (0x2205037B, .tpost 1 10 6), (0x2200107B, .cend 1), (0x2205207B, .csusp 1 10), (0x2205307B, .cyield 1 10),
    (0x2205407B, .notify 1 10), (0x2205507B, .pmark 1 10), (0x2200637B, .qrnd 1 6)] := by decide +kernel

/-- Decoding, the RV64 base of R384 with its published encodings, CSRs of R387. -/
theorem test_decode_base : reads 32 [
    (0x00B50533, .portableIntegerOp (.op 0 0 10 10 11)), (0x40B50533, .portableIntegerOp (.op 0x20 0 10 10 11)),
    (0x02B50533, .portableIntegerOp (.op 1 0 10 10 11)), (0xFFF00293, .portableIntegerOp (.opImm 0 5 0 0xFFF)),
    (0x41F2D293, .portableIntegerOp (.opImm 5 5 5 0x41F)), (0x0012829B, .portableIntegerOp (.opImm32 0 5 5 1)),
    (0x00B5053B, .portableIntegerOp (.op32 0 0 10 10 11)), (0x123452B7, .portableIntegerOp (.lui 5 0x12345)),
    (0x00001297, .portableIntegerOp (.auipc 5 1)), (0x00853583, .portableLoad 3 11 10 8),
    (0xFEB53C23, .portableStore 3 10 11 0xFF8), (0x0FF0000F, .fence 0 0xF 0xF 0 0), (0x0000100F, .fenceI 0 0 0),
    (0x00000073, .ecall), (0x00100073, .ebreak), (0x02B54533, .portableDivide 0 4 10 10 11),
    (0x02B5753B, .portableDivide 1 7 10 10 11), (0x00B50463, .portableBranchJump (.branch 0 10 11 4)),
    (0xFF9FF0EF, .portableBranchJump (.jal 1 0xFFFFC)), (0x00008067, .portableBranchJump (.jalr 0 1 0)),
    (0x80051573, .csrAccess 0x800 1 10 10), (0xCC602573, .csrAccess 0xCC6 2 10 0)] := by decide +kernel

/-! ### Ill-formed terms -/

/-- Not one of these is well-formed. -/
abbrev refused (l : List Instr) : Prop := l.all (fun i => !WellFormed i) = true

/-- Source code 0x08E, which R274 leaves illegal. -/
theorem test_ill_source_1 : refused [
    .iaAdd 5 0x8E 1 1, .iaSub 5 0x8E 1 1, .iaAnd 5 0x8E 1 1, .iaOr 5 0x8E 1 1, .iaXor 5 0x8E 1 1, .iaAndn 5 0x8E 1 1,
    .iaShl 5 0x8E 1 1, .iaShr 5 0x8E 1 1, .iaSra 5 0x8E 1 1, .iaRol 5 0x8E 1 1, .iaMin 5 0x8E 1 1, .iaMax 5 0x8E 1 1,
    .iaMinn 5 0x8E 1 1, .iaMaxn 5 0x8E 1 1, .iaMul 5 0x8E 1 1, .iaMulh 5 0x8E 1 1, .iaMulhn 5 0x8E 1 1, .iaDiv 5 0x8E 1 1,
    .iaDivn 5 0x8E 1 1, .iaRem 5 0x8E 1 1, .iaRemn 5 0x8E 1 1, .iaCmpeq 5 0x8E 1 1, .iaCmpne 5 0x8E 1 1,
    .iaCmplt 5 0x8E 1 1, .iaCmpltn 5 0x8E 1 1, .iaCmple 5 0x8E 1 1, .iaCmplen 5 0x8E 1 1, .iaSel 5 0x8E 1 1,
    .iaLea 5 0x8E 1 1, .iaBfx 5 0x8E 1 1, .iaBfi 5 0x8E 1 1, .iaClz 5 0x8E 1 1, .iaCtz 5 0x8E 1 1, .iaPopc 5 0x8E 1 1,
    .iaMov 5 0x8E 1 1, .iaSext 5 0x8E 1 1, .iaZext 5 0x8E 1 1, .vadd 5 0x8E 1 1, .vsub 5 0x8E 1 1, .vmul 5 0x8E 1 1,
    .vfma 5 0x8E 1 1, .vmax 5 0x8E 1 1, .vmin 5 0x8E 1 1, .vabs 5 0x8E 1 1, .vneg 5 0x8E 1 1, .vcmpeq 5 0x8E 1 1,
    .vcmplt 5 0x8E 1 1, .vcmple 5 0x8E 1 1, .vsel 5 0x8E 1 1, .vcvt 5 0x8E 1 1] := by decide +kernel

/-- Source code 0x08E, which R274 leaves illegal. -/
theorem test_ill_source_2 : refused [
    .vsplat 5 0x8E 1 1, .vperm 5 0x8E 1 1, .vshuf 5 0x8E 1 1, .vredadd 5 0x8E 1 1, .vredmax 5 0x8E 1 1, .vexp2 5 0x8E 1 1,
    .vlog2 5 0x8E 1 1, .vrcp 5 0x8E 1 1, .vrsq 5 0x8E 1 1, .vdot2 5 0x8E 1 1, .vscl 5 0x8E 1 1, .vpln 5 0x8E 1 1,
    .vupl 5 0x8E 1 1, .vand 5 0x8E 1 1, .vor 5 0x8E 1 1, .vxor 5 0x8E 1 1, .vshl 5 0x8E 1 1, .vshr 5 0x8E 1 1,
    .vidx 5 0x8E 1 1, .vext 5 0x8E 1 1, .vins 5 0x8E 1 1, .vclmp 5 0x8E 1 1, .vtag 5 0x8E 1 1, .mePa 5 0x8E 1,
    .mePb 5 0x8E 1, .meAcc 5 0x8E 1, .meSh 5 0x8E 1, .meDr 5 0x8E 1, .meClr 5 0x8E 1, .meCls 5 0x8E 1, .meThr 5 0x8E 1,
    .meSeq 5 0x8E 1, .meSqs 5 0x8E 1, .lsLd 5 0x8E 1, .lsSt 5 0x8E 1, .lsVld 5 0x8E 1, .lsVst 5 0x8E 1, .lsVlds 5 0x8E 1,
    .lsVgat 5 0x8E 1, .lsVsca 5 0x8E 1, .lsCld 5 0x8E 1, .lsCst 5 0x8E 1, .lsMst 5 0x8E 1, .lsPld 5 0x8E 1, .lsTld 5 0x8E 1,
    .lsAld 5 0x8E 1, .lsAst 5 0x8E 1, .ctBr 5 0x8E 1, .ctBrc 5 0x8E 1, .ctCall 5 0x8E 1] := by decide +kernel

/-- Source code 0x08E, which R274 leaves illegal. -/
theorem test_ill_source_3 : refused [
    .ctRet 5 0x8E 1, .ctJr 5 0x8E 1, .ctLoop 5 0x8E 1, .ctLbrk 5 0x8E 1, .ctLend 5 0x8E 1, .ctFuse 5 0x8E 1,
    .ctDecouple 5 0x8E 1, .ctRejoin 5 0x8E 1, .ctSusp 5 0x8E 1, .ctYield 5 0x8E 1, .ctTrap 5 0x8E 1, .ctBrk 5 0x8E 1,
    .ctKr 5 0x8E 1, .ctKw 5 0x8E 1, .ctEret 5 0x8E 1, .ctPand 5 0x8E 1, .ctPor 5 0x8E 1, .ctPxor 5 0x8E 1, .ctPnot 5 0x8E 1,
    .ctTokw 5 0x8E 1, .asPost 5 0x8E 1, .asTwait 5 0x8E 1, .asTstat 5 0x8E 1, .asBalloc 5 0x8E 1, .asBarr 5 0x8E 1,
    .asBwait 5 0x8E 1, .asBfree 5 0x8E 1, .asHbind 5 0x8E 1, .asHacq 5 0x8E 1, .asHrel 5 0x8E 1, .asHpub 5 0x8E 1,
    .asHobs 5 0x8E 1, .asSae 5 0x8E 1, .asSaer 5 0x8E 1, .asTpost 5 0x8E 1, .asNotify 5 0x8E 1, .asSortx 5 0x8E 1,
    .asRnd 5 0x8E 1, .asPmark 5 0x8E 1, .asIcinv 5 0x8E 1, .moveToRegister 5 0x8E 101, .moveToPort 5 0x8E 7 2,
    .moveToNullSink 5 0x8E] := by decide +kernel

/-- Destinations that R276 and R277 do not assign, and a port that its unit lacks. -/
theorem test_ill_dest : refused [
    .moveToRegister 0 0 0x50, .moveToRegister 0 0 0x80, .moveToRegister 0 0 0xFE, .moveToPort 0 0 3 0, .moveToPort 0 0 12 0,
    .moveToPort 0 0 4 3] := by decide +kernel

/-- Tile numbers, scopes and conditions out of range (R394, R396). -/
theorem test_ill_portable : refused [
    .mclr 0 4, .mcls 0 0 1, .mcls 0 2 0, .mmac 0 0 0 4, .mdr 0 0 4 0, .mrd 0 0 4 0, .mwr 0 0 0 4, .hacq 0 0 0 0 5,
    .hacq 0 0 0 3 0, .hrel 0 0 0 5, .hpub 0 5, .hobs 0 5] := by decide +kernel

/-- Function codes that RV64 does not assign (R384), and CSR accesses that R387 makes illegal. -/
theorem test_ill_base : refused [
    .portableLoad 7 0 0 0, .portableStore 4 0 0 0, .fence 8 3 3 0 0, .portableDivide 0 3 0 0 0,
    .portableBranchJump (.branch 2 0 0 0), .portableBranchJump (.branch 3 0 0 0), .csrAccess 0x804 1 0 0,
    .csrAccess 0xCC7 2 0 0, .csrAccess 0xCC0 1 0 0, .csrAccess 0xCC0 2 0 1, .csrAccess 0x800 0 0 0, .csrAccess 0x800 4 0 0,
    .portableIntegerOp (.opImm 1 0 0 0x040), .portableIntegerOp (.opImm 5 0 0 0x440),
    .portableIntegerOp (.opImm32 1 0 0 0x020), .portableIntegerOp (.opImm32 2 0 0 0), .portableIntegerOp (.op 0x20 1 0 0 0),
    .portableIntegerOp (.op 1 4 0 0 0), .portableIntegerOp (.op 2 0 0 0 0), .portableIntegerOp (.op32 0 2 0 0 0),
    .portableIntegerOp (.op32 1 4 0 0 0)] := by decide +kernel

/-! ### Small states -/

/-- A code object of one entry with an empty list: spans of its `.suspend` loops, and where it is published. -/
def obj1 (spans : List (Nat × Nat × Nat)) (pub : Tab Nat) : CodeObj :=
  ⟨[⟨0, [], 0, [], spans, pub, [], []⟩], [], 0, [], 0, [], [], [], []⟩

/-- The next state that an outcome answers; a state like no other where it answers none. -/
def after (o : Host.Outcome State Fault Refusal) : State :=
  match o with
  | .next t => t
  | _ => { State.reset with now := 999999 }

/-- The machine after reset with core 0, of gear C, changed. -/
def onC (f : CoreC → CoreC) : State := State.reset.modC 0 f

/-- The machine after reset with core 512, of gear S, in focus and changed. -/
def onP (f : CoreP → CoreP) : State := ({ State.reset with focus := 512 } : State).modP 512 f

/-- Core 0 with trigger value `t` in g2 and ports a and b of unit `u`. -/
def native (u : Nat) (t a b : Word) : State := onC (fun c => { c with
  g := c.g.put 2 t, ports := (c.ports.put (4 * u) (TVal.ofWord a)).put (4 * u + 1) (TVal.ofWord b) })

/-- The result in flight that an instruction has started on core 0: value and flags. -/
def started (o : Host.Outcome State Fault Refusal) : Option (Word × Flags) :=
  ((after o).coreC 0).infl.getLast?.map (fun r => (r.val.word, r.fl))

/-- The cause code that core 0 is to stop with. -/
def trapped (o : Host.Outcome State Fault Refusal) : Option Nat := ((after o).coreC 0).stop.map (fun r => causeCode r.cause)

/-- The cause code that core 512 is to stop with. -/
def trappedP (o : Host.Outcome State Fault Refusal) : Option Nat := ((after o).coreP 512).stop.map (fun r => causeCode r.1)

/-- Register x`n` of core 512 after an instruction on x1 = a, x2 = b, x3 = d. -/
def xAfter (i : Instr) (a b d : Word) (n : Nat) : Word :=
  ((after (exec i (onP (fun c => { c with x := ((c.x.put 1 a).put 2 b).put 3 d })))).coreP 512).xr n

/-! ### Integer units (R297 to R302) -/

abbrev ia (i : Instr) (t a b : Word) (r : Word) : Prop := started (exec i (native 0 t a b)) = some (r, 0)

theorem test_ia_add_wraps : ia (.iaAdd 0 2 0 0) 2 0xFFFFFFFFFFFFFFFF 0 1 := by decide +kernel
theorem test_ia_sub_order : ia (.iaSub 0 2 0 0) 3 1 0 0xFFFFFFFFFFFFFFFE := by decide +kernel
theorem test_ia_logic : ia (.iaAnd 0 2 0 0) 0b1100 0b1010 0 0b1000 ∧ ia (.iaOr 0 2 0 0) 0b1100 0b1010 0 0b1110 ∧
    ia (.iaXor 0 2 0 0) 0b1100 0b1010 0 0b0110 ∧ ia (.iaAndn 0 2 0 0) 0b1100 0b1010 0 0b0010 := by decide +kernel
/-- Shift counts are t[5:0]: 65 shifts by 1. -/
theorem test_ia_shifts : ia (.iaShl 0 2 0 0) 65 3 0 6 ∧ ia (.iaShr 0 2 0 0) 65 0x8000000000000000 0 0x4000000000000000 ∧
    ia (.iaSra 0 2 0 0) 65 0x8000000000000000 0 0xC000000000000000 ∧
    ia (.iaRol 0 2 0 0) 4 0xF000000000000001 0 0x1F := by decide +kernel
theorem test_ia_minmax : ia (.iaMin 0 2 0 0) 1 0xFFFFFFFFFFFFFFFF 0 0xFFFFFFFFFFFFFFFF ∧ ia (.iaMax 0 2 0 0) 1 0xFFFFFFFFFFFFFFFF 0 1 ∧
    ia (.iaMinn 0 2 0 0) 1 0xFFFFFFFFFFFFFFFF 0 1 ∧ ia (.iaMaxn 0 2 0 0) 1 0xFFFFFFFFFFFFFFFF 0 0xFFFFFFFFFFFFFFFF := by
  decide +kernel
/-- (−1)·(−1): low half 1, signed high half 0, unsigned high half 2^64 − 2. -/
theorem test_ia_mul : ia (.iaMul 0 2 0 0) 0xFFFFFFFFFFFFFFFF 0xFFFFFFFFFFFFFFFF 0 1 ∧
    ia (.iaMulh 0 2 0 0) 0xFFFFFFFFFFFFFFFF 0xFFFFFFFFFFFFFFFF 0 0 ∧
    ia (.iaMulhn 0 2 0 0) 0xFFFFFFFFFFFFFFFF 0xFFFFFFFFFFFFFFFF 0 0xFFFFFFFFFFFFFFFE := by decide +kernel
/-- −7 divided by 2 is −3 with remainder −1; −2^63 by −1 is −2^63 with remainder 0. -/
theorem test_ia_div : ia (.iaDiv 0 2 0 0) 2 0xFFFFFFFFFFFFFFF9 0 0xFFFFFFFFFFFFFFFD ∧
    ia (.iaRem 0 2 0 0) 2 0xFFFFFFFFFFFFFFF9 0 0xFFFFFFFFFFFFFFFF ∧
    ia (.iaDiv 0 2 0 0) 0xFFFFFFFFFFFFFFFF 0x8000000000000000 0 0x8000000000000000 ∧
    ia (.iaRem 0 2 0 0) 0xFFFFFFFFFFFFFFFF 0x8000000000000000 0 0 ∧ ia (.iaDivn 0 2 0 0) 10 25 0 2 ∧
    ia (.iaRemn 0 2 0 0) 10 25 0 5 := by decide +kernel
/-- A zero divisor gives all ones or the dividend, and IDZ (bit 6). -/
theorem test_ia_div_zero : started (exec (.iaDiv 0 2 0 0) (native 0 0 5 0)) = some (0xFFFFFFFFFFFFFFFF, 0x40) ∧
    started (exec (.iaRemn 0 2 0 0) (native 0 0 5 0)) = some (5, 0x40) := by decide +kernel
theorem test_ia_compare : ia (.iaCmpeq 0 2 0 0) 5 5 0 1 ∧ ia (.iaCmpne 0 2 0 0) 5 5 0 0 ∧
    ia (.iaCmplt 0 2 0 0) 0 0xFFFFFFFFFFFFFFFF 0 1 ∧ ia (.iaCmpltn 0 2 0 0) 0 0xFFFFFFFFFFFFFFFF 0 0 ∧
    ia (.iaCmple 0 2 0 0) 5 5 0 1 ∧ ia (.iaCmplen 0 2 0 0) 5 6 0 0 := by decide +kernel
/-- p4 is false: port b; trigger 3 names no condition. -/
theorem test_ia_sel : ia (.iaSel 0 2 0 0) 4 10 20 20 ∧ trapped (exec (.iaSel 0 2 0 0) (native 0 3 10 20)) = some 1 := by
  decide +kernel
/-- POS 4, LEN 8 with sign: bits 11:4 of 0xABC0 are 0xBC; LEN 0 traps. -/
theorem test_ia_fields : ia (.iaLea 0 2 0 0) 3 100 2 116 ∧ ia (.iaBfx 0 2 0 0) (8192 + 8 * 64 + 4) 0xABC0 0 0xFFFFFFFFFFFFFFBC ∧
    ia (.iaBfi 0 2 0 0) (8 * 64 + 4) 0xF00F 0xAB 0xFABF ∧ trapped (exec (.iaBfx 0 2 0 0) (native 0 4 0 0)) = some 1 := by
  decide +kernel
theorem test_ia_count : ia (.iaClz 0 2 0 0) 1 0 0 63 ∧ ia (.iaClz 0 2 0 0) 0 0 0 64 ∧ ia (.iaCtz 0 2 0 0) 8 0 0 3 ∧
    ia (.iaPopc 0 2 0 0) 0xF0F 0 0 8 ∧ ia (.iaMov 0 2 0 0) 77 0 0 77 := by decide +kernel
theorem test_ia_extend : ia (.iaSext 0 2 0 0) 8 0x80 0 0xFFFFFFFFFFFFFF80 ∧ ia (.iaZext 0 2 0 0) 8 0x1FF 0 0xFF ∧
    trapped (exec (.iaSext 0 2 0 0) (native 0 65 1 0)) = some 1 := by decide +kernel

/-! ### Vector units (R323 to R340) -/

/-- Lanes 0 and 1 of width `w`, the others zero. -/
def two (tag : BitVec 5) (w x y : Nat) : TVal := ⟨BitVec.ofNat 1024 (x + y * 2 ^ w), tag⟩

/-- A scalar. -/
def sc (n : Nat) : TVal := TVal.ofWord (BitVec.ofNat 64 n)

/-- Core 0 with v0 = t, which slot 2 owns, and ports a and b of va0. -/
def vecIn (t a b : TVal) : State := onC (fun c => { c with v := c.v.put 0 t, ports := (c.ports.put 8 a).put 9 b })

/-- The started result's tag, lanes 0 and 1 of width `w`, and flags. -/
def lanes (w : Nat) (o : Host.Outcome State Fault Refusal) : Option (BitVec 5 × Nat × Nat × Flags) :=
  ((after o).coreC 0).infl.getLast?.map (fun r => (r.val.tag, vlane r.val w 0, vlane r.val w 1, r.fl))

/-- The move on t, a, b gives lanes x and y of width `w` with a tag and flags. -/
abbrev va (i : Instr) (t a b : TVal) (w : Nat) (r : BitVec 5 × Nat × Nat × Flags) : Prop :=
  lanes w (exec i (vecIn t a b)) = some r

/-- Binary32: 2 + 1 = 3, 1 − 2 = −1, 2 · 1.5 = 3, 2 · 1.5 + 1 = 4. -/
theorem test_va_float : va (.vadd 0 0x60 0 0) (two 1 32 0x40000000 0) (two 1 32 0x3F800000 0) ⟨0, 0⟩ 32 (1, 0x40400000, 0, 0) ∧
    va (.vsub 0 0x60 0 0) (two 1 32 0x40000000 0) (two 1 32 0x3F800000 0) ⟨0, 0⟩ 32 (1, 0xBF800000, 0, 0) ∧
    va (.vmul 0 0x60 0 0) (two 1 32 0x40000000 0) (two 1 32 0x3FC00000 0) ⟨0, 0⟩ 32 (1, 0x40400000, 0, 0) ∧
    va (.vfma 0 0x60 0 0) (two 1 32 0x3F800000 0) (two 1 32 0x40000000 0) (two 1 32 0x3FC00000 0) 32 (1, 0x40800000, 0, 0) := by decide +kernel
/-- INT8 wraps; ∞ − ∞ is the canonical NaN with IV (bit 4); tags must agree. -/
theorem test_va_corners : va (.vadd 0 0x60 0 0) (two 6 8 0x7F 1) (two 6 8 1 2) ⟨0, 0⟩ 8 (6, 0x80, 3, 0) ∧
    va (.vsub 0 0x60 0 0) (two 1 32 0x7F800000 0) (two 1 32 0x7F800000 0) ⟨0, 0⟩ 32 (1, 0x7FC00000, 0, 0x10) ∧
    trapped (exec (.vadd 0 0x60 0 0) (vecIn (two 1 32 0 0) (two 2 16 0 0) ⟨0, 0⟩)) = some 6 := by decide +kernel
/-- INT8 −1 and 1; a float lane with a NaN gives the canonical NaN. -/
theorem test_va_order : va (.vmax 0 0x60 0 0) (two 6 8 0xFF 2) (two 6 8 1 1) ⟨0, 0⟩ 8 (6, 1, 2, 0) ∧
    va (.vmin 0 0x60 0 0) (two 6 8 0xFF 2) (two 6 8 1 1) ⟨0, 0⟩ 8 (6, 0xFF, 1, 0) ∧
    va (.vmax 0 0x60 0 0) (two 1 32 0x7F800001 0) (two 1 32 0 0) ⟨0, 0⟩ 32 (1, 0x7FC00000, 0, 0) ∧
    va (.vabs 0 0x60 0 0) (two 6 8 0x80 0xFF) ⟨0, 0⟩ ⟨0, 0⟩ 8 (6, 0x80, 1, 0) ∧
    va (.vneg 0 0x60 0 0) (two 1 32 0x3F800000 0) ⟨0, 0⟩ ⟨0, 0⟩ 32 (1, 0xBF800000, 0x80000000, 0) ∧
    va (.vclmp 0 0x60 0 0) (two 4 32 5 9) (two 4 32 7 7) (two 4 32 6 8) 32 (4, 6, 8, 0) := by decide +kernel
/-- −0 equals +0; the bits of the mask beyond the lanes are zero. -/
theorem test_va_compare : va (.vcmpeq 0 0x60 0 0) (two 1 32 0x80000000 1) (two 1 32 0 2) ⟨0, 0⟩ 1 (0x13, 1, 0, 0) ∧
    va (.vcmplt 0 0x60 0 0) (two 7 32 5 1) (two 7 32 4 1) ⟨0, 0⟩ 1 (0x13, 1, 0, 0) ∧
    va (.vcmple 0 0x60 0 0) (two 7 32 5 1) (two 7 32 6 1) ⟨0, 0⟩ 1 (0x13, 0, 1, 0) ∧
    va (.vsel 0 0x60 0 0) (two 0x13 1 0 1) (two 7 32 5 6) (two 7 32 8 9) 32 (7, 8, 6, 0) := by decide +kernel
theorem test_va_bits : va (.vand 0 0x60 0 0) (two 7 32 12 0) (two 7 32 10 3) ⟨0, 0⟩ 32 (7, 8, 0, 0) ∧
    va (.vor 0 0x60 0 0) (two 7 32 12 0) (two 7 32 10 3) ⟨0, 0⟩ 32 (7, 14, 3, 0) ∧
    va (.vxor 0 0x60 0 0) (two 7 32 12 0) (two 7 32 10 3) ⟨0, 0⟩ 32 (7, 6, 3, 0) ∧
    va (.vshl 0 0x60 0 0) (two 6 8 0x81 1) (sc 1) ⟨0, 0⟩ 8 (6, 2, 2, 0) ∧
    va (.vshr 0 0x60 0 0) (two 6 8 0x80 0x7F) (sc 8) ⟨0, 0⟩ 8 (6, 0xFF, 0, 0) := by decide +kernel
theorem test_va_move : va (.vsplat 0 0x60 0 0) (sc 0x1FF) (sc 6) ⟨0, 0⟩ 8 (6, 0xFF, 0xFF, 0) ∧
    va (.vidx 0 0x60 0 0) (sc (3 * 2 ^ 32 + 0xFFFFFFFF)) ⟨0, 0⟩ ⟨0, 0⟩ 32 (0x12, 0xFFFFFFFF, 2, 0) ∧
    va (.vext 0 0x60 0 0) (two 7 32 5 6) (sc 1) ⟨0, 0⟩ 32 (7, 6, 0, 0) ∧
    va (.vins 0 0x60 0 0) (two 7 32 5 6) (sc 1) (sc 9) 32 (7, 5, 9, 0) ∧
    va (.vperm 0 0x60 0 0) (two 9 8 5 6) (two 0 8 0x80 1) ⟨0, 0⟩ 8 (9, 0, 6, 0) ∧
    va (.vshuf 0 0x60 0 0) (two 9 8 5 6) (sc (4 * 2 ^ 8 + 1 * 2 ^ 16)) ⟨0, 0⟩ 8 (9, 6, 6, 0) ∧
    va (.vtag 0 0x60 0 0) (two 0 8 5 6) (sc 9) ⟨0, 0⟩ 8 (9, 5, 6, 0) ∧
    trapped (exec (.vtag 0 0x60 0 0) (vecIn (two 0 8 5 6) (sc 0x14) ⟨0, 0⟩)) = some 6 := by decide +kernel
/-- Sums in lane 0; exp2 3 = 8, log2 8 = 3, 1/2 = 0.5, 1/√4 = 0.5. -/
theorem test_va_reduce : va (.vredadd 0 0x60 0 0) (two 7 32 5 6) ⟨0, 0⟩ ⟨0, 0⟩ 32 (7, 11, 0, 0) ∧
    va (.vredmax 0 0x60 0 0) (two 7 32 5 6) ⟨0, 0⟩ ⟨0, 0⟩ 32 (7, 6, 0, 0) := by decide +kernel
theorem test_va_transcendental :
    (lanes 32 (exec (.vexp2 0 0x60 0 0) (vecIn (two 1 32 0x40400000 0) ⟨0, 0⟩ ⟨0, 0⟩))).map (fun r => r.2.1) = some 0x41000000 ∧
    (lanes 32 (exec (.vlog2 0 0x60 0 0) (vecIn (two 1 32 0x41000000 0) ⟨0, 0⟩ ⟨0, 0⟩))).map (fun r => r.2.1) = some 0x40400000 ∧
    (lanes 32 (exec (.vrcp 0 0x60 0 0) (vecIn (two 1 32 0x40000000 0) ⟨0, 0⟩ ⟨0, 0⟩))).map (fun r => r.2.1) = some 0x3F000000 ∧
    (lanes 32 (exec (.vrsq 0 0x60 0 0) (vecIn (two 1 32 0x40800000 0) ⟨0, 0⟩ ⟨0, 0⟩))).map (fun r => r.2.1) = some 0x3F000000 := by decide +kernel
/-- BF16 2 · 1 + 1 · 1 + 1 = 4; INT32 3 scaled by 2 is 6.0; FP32 2.5 to INT8 away from zero is 3. -/
theorem test_va_convert : va (.vdot2 0 0x60 0 0) (two 2 16 0x4000 0x3F80) (two 2 16 0x3F80 0x3F80) (two 1 32 0x3F800000 0) 32
      (1, 0x40800000, 0, 0) ∧
    va (.vscl 0 0x60 0 0) (two 4 32 3 0) (two 1 32 0x40000000 0) ⟨0, 0⟩ 32 (1, 0x40C00000, 0, 0) ∧
    va (.vcvt 0 0x60 0 0) (two 1 32 0x40200000 0) (sc 6) ⟨0, 0⟩ 8 (6, 3, 0, 1) := by decide +kernel
/-- BNI-2 (tag 0x0A): code bit 7 of element 0 is plane 0, which is bit 15 of slice word 0; and back, with plane 1 at byte 16. -/
theorem test_va_planes : va (.vpln 0 0x60 0 0) ⟨1, 9⟩ (sc 0x0A) ⟨0, 0⟩ 16 (0x0A, 0x8000, 0, 0) ∧
    va (.vupl 0 0x60 0 0) ⟨0x8080, 0x0A⟩ (sc 9) ⟨0, 0⟩ 128 (9, 1, 1, 0) := by decide +kernel

/-! ### Matrix, scratchpad, control and synchronisation units -/

/-- `native` with four ports. -/
def native4 (u : Nat) (t a b c d : Word) : State := (native u t a b).modC 0 (fun x => { x with
  ports := (x.ports.put (4 * u + 2) (TVal.ofWord c)).put (4 * u + 3) (TVal.ofWord d) })

/-- What holds slot `u` of core 0. -/
def holdOf (u : Nat) (o : Host.Outcome State Fault Refusal) : Option HoldOp := (((after o).coreC 0).slot u).hold.map Hold.op

/-- What stands in the FIFO, and the tokens owed. -/
def fifo (o : Host.Outcome State Fault Refusal) : List MeOp × Nat :=
  (((after o).coreC 0).eng.fifo.map Cmd.op, ((after o).coreC 0).eng.iss)

/-- Banks 0 to 3; classes of a pair; rotations up to 95 and 159; thresholds of 48 bits; a row up to 95 (R345, R348). -/
theorem test_me_checks : fifo (exec (.meClr 0 2 0) (native 4 3 0 0)) = ([.clr], 0) ∧
    trapped (exec (.meClr 0 2 0) (native 4 4 0 0)) = some 1 ∧ fifo (exec (.meCls 0 2 0) (native 4 5 0 0)) = ([.cls], 0) ∧
    trapped (exec (.meCls 0 2 0) (native 4 2 0 0)) = some 1 ∧
    fifo (exec (.meSh 0 2 0) (native 4 (95 + 159 * 128) 0 0)) = ([.sh], 0) ∧
    trapped (exec (.meSh 0 2 0) (native 4 96 0 0)) = some 1 ∧
    fifo (exec (.meThr 0 2 0) (native 4 0xFFFFFFFFFFFF 0 0)) = ([.thr], 0) ∧
    fifo (exec (.meDr 0 2 0) (native 4 95 0 0)) = ([.dr], 1) ∧ trapped (exec (.meDr 0 2 0) (native 4 96 0 0)) = some 1 := by
  decide +kernel
/-- Nothing is staged: cause 0x06 (R347); no slices: cause 0x01 (R349); `me.sqs` owes a token (R194). -/
theorem test_me_sequence : trapped (exec (.meAcc 0 2 0) (native 4 0 0 0)) = some 6 ∧
    trapped (exec (.meSeq 0 2 0) (native 4 0 0 0)) = some 1 ∧
    fifo (exec (.meSeq 0 2 0) (native4 4 (2 ^ 34 + 1) 0x10000000 0 0x10000000 0)) = ([.seq], 1) ∧
    fifo (exec (.meSqs 0 2 0) (native 4 0 0 0)) = ([], 1) := by decide +kernel
/-- A base outside space 1 traps with cause 0x09 (R182). -/
theorem test_me_push : fifo (exec (.mePa 0 2 0) (native4 4 0 0x10000000 0 0 0)) = ([.pa], 0) ∧
    fifo (exec (.mePb 0 2 0) (native4 4 0 0 0 0x10000000 0)) = ([.pb], 0) ∧
    trapped (exec (.mePb 0 2 0) (native4 4 0 0x10000000 0 0 0)) = some 9 := by decide +kernel

/-- Core 0 with bytes at offset 128 of its scratchpad. -/
def withPad (x n : Nat) (s : State) : State := s.write (locCore 0 128) x n

theorem test_ls_ld : started (exec (.lsLd 0 2 0) (withPad 0x1122334455667788 8 (native 5 128 0 0))) = some (0x1122334455667788, 0) ∧
    trapped (exec (.lsLd 0 2 0) (native 5 4 0 0)) = some 0x0A ∧ trapped (exec (.lsLd 0 2 0) (native 5 0x80000 0 0)) = some 9 ∧
    started (exec (.lsLd 0 2 0) (native 5 0x7FFF8 0 0)) = some (0, 0) := by decide +kernel
theorem test_ls_st : (after (exec (.lsSt 0 2 0) (native 5 0x0102030405060708 0x7FFF8 0))).read (locCore 0 0x7FFF8) 2 = 0x0708 ∧
    trapped (exec (.lsSt 0 2 0) (native 5 1 0x80000 0)) = some 9 := by decide +kernel
theorem test_ls_vector : started (exec (.lsVld 0 2 0) (withPad 77 8 (native 5 128 0 0))) = some (77, 0) ∧
    lanes 32 (exec (.lsTld 0 2 0) (withPad (5 + 6 * 2 ^ 32) 8 (native 5 128 7 0))) = some (7, 5, 6, 0) ∧
    lanes 32 (exec (.lsVlds 0 2 0) (withPad (5 + 6 * 2 ^ 64) 16 (native 5 128 8 0))) = some (0, 5, 6, 0) ∧
    (after (exec (.lsVst 0 2 0) (native 5 9 128 0))).read (locCore 0 128) 8 = 9 := by decide +kernel
/-- Core 0 with v0 = t, wide ports a and b of ls. -/
def lsIn (t a b : TVal) : State := onC (fun c => { c with v := c.v.put 0 t, ports := (c.ports.put 20 a).put 21 b })
/-- Index lanes 1 and 0 of 4 bytes from BASE 128; a mask that writes lane 1 alone. -/
theorem test_ls_indexed :
    lanes 32 (exec (.lsVgat 0 0x60 0) (withPad (5 + 6 * 2 ^ 32) 8 (lsIn (two 0x12 32 1 0) (sc 128) ⟨0, 0⟩))) = some (0, 6, 5, 0) ∧
    (after (exec (.lsMst 0 0x60 0) (lsIn (two 0 8 7 8) (sc 128) (two 0x13 1 0 1)))).read (locCore 0 128) 2 = 0x0800 := by
  decide +kernel
theorem test_ls_scatter :
    (after (exec (.lsVsca 0 0x60 0) (lsIn (two 0 32 7 8) (sc 128) (two 0x12 32 9 9)))).read (locCore 0 164) 4 = 8 := by
  decide +kernel
/-- BNI-2, planes 64 bytes apart: element 0 of plane 0 is bit 15. -/
theorem test_ls_pld : lanes 16 (exec (.lsPld 0 2 0) (withPad 1 1 (native 5 0 (128 + 64 * 2 ^ 32 + 2 * 2 ^ 52) 0))) =
    some (0x0A, 0x8000, 0, 0) := by decide +kernel
/-- Not staged: the slot holds; a store stages two lines; a row of +0. -/
theorem test_ls_cluster : holdOf 5 (exec (.lsCld 0 2 0) (native 5 0x10000000 0 0)) = some .cld ∧
    ((after (exec (.lsCst 0 2 0) (native 5 1 0x10000000 0))).coreC 0).wst.map StLine.addr = [0, 64] ∧
    trapped (exec (.lsCld 0 2 0) (native 5 128 0 0)) = some 9 ∧ lanes 32 (exec (.lsAld 0 2 0) (native 5 0 0 0)) = some (1, 0, 0, 0) ∧
    trapped (exec (.lsAst 0 2 0) (native 5 0 0 0)) = some 6 := by decide +kernel

/-- The request of an s6 move. -/
def asked (o : Host.Outcome State Fault Refusal) : Option Ctl := ((after o).coreC 0).ctl

/-- Targets count from the bundle at 0; condition 0 is p0, which is true; a misaligned target traps. -/
theorem test_ct_branch : asked (exec (.ctBr 0 2 0) (native 6 64 0 0)) = some (.jump 64) ∧
    asked (exec (.ctBrc 0 2 0) (native 6 64 0 0)) = some (.jump 64) ∧ asked (exec (.ctBrc 0 2 0) (native 6 64 8 0)) = none ∧
    asked (exec (.ctJr 0 2 0) (native 6 96 0 0)) = some (.jump 96) ∧ asked (exec (.ctRet 0 2 0) (native 6 96 0 0)) = some (.jump 96) ∧
    trapped (exec (.ctBr 0 2 0) (native 6 8 0 0)) = some 0x0A := by decide +kernel
theorem test_ct_call : asked (exec (.ctCall 0 2 0) (native 6 64 0 0)) = some (.jump 64) ∧
    started (exec (.ctCall 0 2 0) (native 6 64 0 0)) = some (32, 0) := by decide +kernel
theorem test_ct_loop : asked (exec (.ctLoop 0 2 0) (native 6 1 5 0)) = some (.loop 5 1) ∧
    trapped (exec (.ctLbrk 0 2 0) (native 6 0 0 0)) = some 1 ∧ trapped (exec (.ctEret 0 2 0) (native 6 0 0 0)) = some 1 ∧
    asked (exec (.ctDecouple 0 2 0) (native 6 0 0 0)) = none := by decide +kernel
theorem test_ct_lend_fuse : ((after (exec (.ctLend 0 2 0) (native 6 9 0 0))).coreC 0).pend.map PendW.dst = [.bank 1] ∧
    trapped (exec (.ctFuse 0 2 0) (native 6 1 0 0)) = some 8 ∧ holdOf 6 (exec (.ctRejoin 0 2 0) (native 6 0 0 0)) = none := by
  decide +kernel
theorem test_ct_end : holdOf 6 (exec (.ctSusp 0 2 0) (native 6 0 0 0)) = some .susp ∧
    holdOf 6 (exec (.ctYield 0 2 0) (native 6 0 0 0)) = none ∧ trapped (exec (.ctTrap 0 2 0) (native 6 7 0 0)) = some 0x0D ∧
    trapped (exec (.ctBrk 0 2 0) (native 6 0 0 0)) = some 0x0C := by decide +kernel
/-- `k.flg` is 0x08, `k.epc` 0x14: a user may not write it (R317). -/
theorem test_ct_kregs : started (exec (.ctKr 0 2 0) ((native 6 8 0 0).modC 0 (fun c => { c with flg := 0x41 }))) = some (0x41, 0) ∧
    trapped (exec (.ctKw 0 2 0) (native 6 0x14 5 0)) = some 8 ∧
    ((after (exec (.ctKw 0 2 0) (native 6 8 5 0))).coreC 0).pend.map PendW.dst = [.kreg 8] := by decide +kernel
theorem test_ct_predicates : started (exec (.ctPand 0 2 0) (native 6 3 2 0)) = some (0, 0) ∧
    started (exec (.ctPor 0 2 0) (native 6 3 2 0)) = some (1, 0) ∧ started (exec (.ctPxor 0 2 0) (native 6 3 1 0)) = some (0, 0) ∧
    started (exec (.ctPnot 0 2 0) (native 6 2 0 0)) = some (1, 0) ∧ trapped (exec (.ctTokw 0 2 0) (native 6 1 0 0)) = some 0x0B := by
  decide +kernel

/-- A channel that is not the ASID's and a barrier that is none trap with cause 0x01 (R364, R366). -/
theorem test_as_checks : trapped (exec (.asTwait 0 2 0) (native 7 0 0 0)) = some 1 ∧ trapped (exec (.asTstat 0 2 0) (native 7 0 0 0)) = some 1 ∧
    trapped (exec (.asBarr 0 2 0) (native 7 5 0 0)) = some 1 ∧ trapped (exec (.asBfree 0 2 0) (native 7 5 0 0)) = some 1 ∧
    trapped (exec (.asBwait 0 2 0) (native 7 5 0 0)) = some 1 ∧ trapped (exec (.asPost 0 2 0) (native 7 0 0 0)) = some 1 ∧
    trapped (exec (.asHpub 0 2 0) (native 7 5 0 0)) = some 1 ∧ trapped (exec (.asSaer 0 2 0) (native 7 0 0 0)) = some 1 := by
  decide +kernel
theorem test_as_holds : holdOf 7 (exec (.asBalloc 0 2 0) (native 7 4 0 0)) = some .balloc ∧
    holdOf 7 (exec (.asHpub 0 2 0) (native 7 4 0 0)) = some .hpub ∧ holdOf 7 (exec (.asHobs 0 2 0) (native 7 4 0 0)) = some .hobs ∧
    holdOf 7 (exec (.asTpost 0 2 0) (native 7 0 0 0)) = some .tpost ∧ holdOf 7 (exec (.asRnd 0 2 0) (native 7 0 0 0)) = some .rnd ∧
    holdOf 7 (exec (.asIcinv 0 2 0) (native 7 1 0 0)) = some .icinv := by decide +kernel
/-- A draw that waits in the die's pool is the result. -/
theorem test_as_rnd : started (exec (.asRnd 0 2 0) ((native 7 0 0 0).setDie 0 { Die.reset with draws := [42] })) = some (42, 0) := by
  decide +kernel

/-- A register write waits for the cycle's end; v0 belongs to slot 2, so slot 0 may not write it (R162, R282). -/
theorem test_moves : ((after (exec (.moveToRegister 0 2 5) (native 0 9 0 0))).coreC 0).pend.map (fun p => (p.dst, p.val.word)) = [(.g 5, 9)] ∧
    trapped (exec (.moveToRegister 0 2 0x60) (native 0 9 0 0)) = some 4 ∧
    (((after (exec (.moveToPort 0 2 4 1) (native 0 9 0 0))).coreC 0).port 0 1).word = 9 ∧
    after (exec (.moveToNullSink 0 2) (native 0 9 0 0)) = native 0 9 0 0 := by decide +kernel

/-! ### The portable layer -/

abbrev px (op : IntOp) (a b r : Word) : Prop := xAfter (.portableIntegerOp op) a b 0 5 = r

/-- x5 := from x1 and x2 (R384; the RISC-V definitions). -/
theorem test_rv_op : px (.op 0 0 5 1 2) 0xFFFFFFFFFFFFFFFF 2 1 ∧ px (.op 0x20 0 5 1 2) 1 2 0xFFFFFFFFFFFFFFFF ∧
    px (.op 0 2 5 1 2) 0xFFFFFFFFFFFFFFFF 0 1 ∧ px (.op 0 3 5 1 2) 0xFFFFFFFFFFFFFFFF 0 0 ∧
    px (.op 0x20 5 5 1 2) 0x8000000000000000 65 0xC000000000000000 ∧ px (.op 1 2 5 1 2) 0xFFFFFFFFFFFFFFFF 2 0xFFFFFFFFFFFFFFFF ∧
    px (.op 1 3 5 1 2) 0xFFFFFFFFFFFFFFFF 2 1 := by decide +kernel
theorem test_rv_imm : px (.opImm 0 5 1 0xFFF) 5 0 4 ∧ px (.opImm 3 5 1 0xFFF) 5 0 1 ∧ px (.opImm 5 5 1 0x404) 0xF000000000000000 0 0xFF00000000000000 ∧
    px (.opImm32 0 5 1 1) 0x7FFFFFFF 0 0xFFFFFFFF80000000 ∧ px (.op32 0 5 5 1 2) 0xF00000000 1 0 ∧
    px (.lui 5 0x80000) 0 0 0xFFFFFFFF80000000 := by decide +kernel
/-- x0 stays zero; the pc goes on by four. -/
theorem test_rv_x0 : xAfter (.portableIntegerOp (.opImm 0 0 1 1)) 7 0 0 0 = 0 ∧
    ((after (exec (.portableIntegerOp (.opImm 0 0 1 1)) (onP id))).coreP 512).pc = 4 := by decide +kernel
theorem test_rv_div : xAfter (.portableDivide 0 4 5 1 2) 0xFFFFFFFFFFFFFFF9 2 0 5 = 0xFFFFFFFFFFFFFFFD ∧
    xAfter (.portableDivide 0 5 5 1 2) 7 0 0 5 = 0xFFFFFFFFFFFFFFFF ∧ xAfter (.portableDivide 1 6 5 1 2) 0x180000007 4 0 5 = 0xFFFFFFFFFFFFFFFF ∧
    ((after (exec (.portableDivide 0 4 5 1 2) (onP id))).coreP 512).flg = 0x40 := by decide +kernel
/-- Core 512 with a doubleword at 16 of its local buffer, x1 = 16. -/
def withLocal (x : Nat) : State := (onP (fun c => { c with x := c.x.put 1 16 })).write (locCore 512 16) x 8
theorem test_rv_load : ((after (exec (.portableLoad 0 5 1 1) (withLocal 0x8000))).coreP 512).xr 5 = 0xFFFFFFFFFFFFFF80 ∧
    ((after (exec (.portableLoad 5 5 1 0) (withLocal 0x8000))).coreP 512).xr 5 = 0x8000 ∧
    trappedP (exec (.portableLoad 1 5 1 1) (withLocal 0)) = some 0x0A ∧
    trappedP (exec (.portableLoad 0 5 0 0xFFF) (withLocal 0)) = some 9 := by decide +kernel
theorem test_rv_store : (after (exec (.portableStore 1 1 1 2) (withLocal 0xFFFFFFFFFFFFFFFF))).read (locCore 512 16) 8 = 0xFFFFFFFF0010FFFF ∧
    trappedP (exec (.portableStore 3 1 1 4) (withLocal 0)) = some 0x0A := by decide +kernel
theorem test_rv_jump : ((after (exec (.portableBranchJump (.jal 5 4)) (onP (fun c => { c with pc := 64 })))).coreP 512).pc = 72 ∧
    ((after (exec (.portableBranchJump (.jal 5 4)) (onP (fun c => { c with pc := 64 })))).coreP 512).xr 5 = 68 ∧
    trappedP (exec (.portableBranchJump (.jalr 0 0 2)) (onP id)) = some 0x0A ∧
    ((after (exec (.portableBranchJump (.branch 1 0 0 8)) (onP id))).coreP 512).pc = 4 ∧
    ((after (exec (.portableBranchJump (.branch 0 0 0 8)) (onP id))).coreP 512).pc = 16 := by decide +kernel
/-- `xflg` (0x800) is read and replaced; a read-only CSR is not written (R387). -/
theorem test_rv_csr : xAfter (.csrAccess 0x800 1 5 1) 0x3 0 0 5 = 0 ∧
    ((after (exec (.csrAccess 0x800 5 0 3) (onP id))).coreP 512).flg = 3 ∧
    trappedP (exec (.csrAccess 0xCC0 1 0 0) (onP id)) = some 1 := by decide +kernel
theorem test_rv_system : trappedP (exec .ecall (onP id)) = some 0x0D ∧ trappedP (exec .ebreak (onP id)) = some 0x0C ∧
    ((after (exec (.fence 0 15 15 0 0) (onP id))).coreP 512).pc = 4 ∧ ((after (exec (.fenceI 0 0 0) (onP id))).coreP 512).pc = 4 ∧
    trappedP (exec (.cend 5) (onP id)) = some 7 := by decide +kernel

/-- q5 of core 512 from q1 = a, q2 = b, q5 = d. -/
def qAfter (i : Instr) (a b d : TVal) (w : Nat) : BitVec 5 × Nat × Nat :=
  let q := ((after (exec i (onP (fun c => { c with q := ((c.q.put 1 a).put 2 b).put 5 d })))).coreP 512).qr 5
  (q.tag, vlane q w 0, vlane q w 1)

/-- qadd d, a, b: rs1 is a (R390): 5 − 7 in INT32. -/
theorem test_q_arith : qAfter (.qsub 0 2 1 5) (two 4 32 5 1) (two 4 32 7 0) ⟨0, 0⟩ 32 = (4, 0xFFFFFFFE, 1) ∧
    qAfter (.qadd 0 2 1 5) (two 4 32 5 1) (two 4 32 7 0) ⟨0, 0⟩ 32 = (4, 12, 1) ∧
    qAfter (.qmul 0 2 1 5) (two 6 8 5 1) (two 6 8 7 0) ⟨0, 0⟩ 8 = (6, 35, 0) ∧
    qAfter (.qfma 0 2 1 5) (two 4 32 5 1) (two 4 32 7 0) (two 4 32 1 1) 32 = (4, 36, 1) ∧
    qAfter (.qneg 0 1 5) (two 6 8 1 0x80) ⟨0, 0⟩ ⟨0, 0⟩ 8 = (6, 0xFF, 0x80) ∧ qAfter (.qabs 0 1 5) (two 6 8 0xFF 2) ⟨0, 0⟩ ⟨0, 0⟩ 8 = (6, 1, 2) ∧
    qAfter (.qmax 0 2 1 5) (two 6 8 0xFF 2) (two 6 8 1 1) ⟨0, 0⟩ 8 = (6, 1, 2) ∧
    qAfter (.qmin 0 2 1 5) (two 6 8 0xFF 2) (two 6 8 1 1) ⟨0, 0⟩ 8 = (6, 0xFF, 1) := by decide +kernel
theorem test_q_compare : qAfter (.qcmplt 0 2 1 5) (two 7 32 4 1) (two 7 32 5 1) ⟨0, 0⟩ 1 = (0x13, 1, 0) ∧
    qAfter (.qcmple 0 2 1 5) (two 7 32 6 1) (two 7 32 5 1) ⟨0, 0⟩ 1 = (0x13, 0, 1) ∧
    qAfter (.qcmpeq 0 2 1 5) (two 7 32 5 1) (two 7 32 5 2) ⟨0, 0⟩ 1 = (0x13, 1, 0) ∧
    qAfter (.qsel 0 2 1 5) (two 7 32 5 6) (two 7 32 8 9) (two 0x13 1 0 1) 32 = (7, 8, 6) ∧
    qAfter (.qand 0 2 1 5) (two 7 32 12 0) (two 7 32 10 3) ⟨0, 0⟩ 32 = (7, 8, 0) ∧
    qAfter (.qxor 0 2 1 5) (two 7 32 12 0) (two 7 32 10 3) ⟨0, 0⟩ 32 = (7, 6, 3) ∧
    qAfter (.qor 0 2 1 5) (two 7 32 12 0) (two 7 32 10 3) ⟨0, 0⟩ 32 = (7, 14, 3) := by decide +kernel
theorem test_q_reduce : qAfter (.qredadd 0 1 5) (two 7 32 5 6) ⟨0, 0⟩ ⟨0, 0⟩ 32 = (7, 11, 0) ∧
    qAfter (.qredmax 0 1 5) (two 7 32 5 6) ⟨0, 0⟩ ⟨0, 0⟩ 32 = (7, 6, 0) ∧
    qAfter (.qtag 0 9 1 5) (two 0 8 5 6) ⟨0, 0⟩ ⟨0, 0⟩ 8 = (9, 5, 6) ∧ qAfter (.qperm 0 2 1 5) (two 9 8 5 6) (two 0 8 0x80 1) ⟨0, 0⟩ 8 = (9, 0, 6) := by
  decide +kernel
/-- The portable splat saturates to its format (R391): 300 becomes 127 in INT8. -/
theorem test_q_scalar :
    (let q := ((after (exec (.qsplat 0 6 1 5) (onP (fun c => { c with x := c.x.put 1 300 })))).coreP 512).qr 5; (q.tag, vlane q 8 0)) = (6, 127) ∧
    ((after (exec (.qext 0 2 1 5) (onP (fun c => { c with x := c.x.put 2 1, q := c.q.put 1 (two 7 32 5 6) })))).coreP 512).xr 5 = 6 := by
  decide +kernel
theorem test_q_memory :
    (let q := ((after (exec (.qld 0 7 0 1 5) ((onP (fun c => { c with x := c.x.put 1 128 })).write (locCore 512 128) 9 4))).coreP 512).qr 5
     (q.tag, vlane q 32 0)) = (7, 9) ∧
    trappedP (exec (.qld 0 0x11 0 1 5) (onP id)) = some 6 ∧
    (after (exec (.qst 0 1 0 5) (onP (fun c => { c with q := c.q.put 5 (two 7 32 9 8) })))).read (locCore 512 128) 8 = 8 * 2 ^ 32 + 9 := by
  decide +kernel

/-- Tile 1 is cleared; the pair of tiles 2 and 3 becomes a split class; thresholds; a row of +0 (R394). -/
theorem test_tiles : ((after (exec (.mcls 0 1 2) (onP id))).coreP 512).tiles.split1 = true ∧
    ((after (exec (.mthr 0 2 1) (onP (fun c => { c with x := (c.x.put 1 7).put 2 9 })))).coreP 512).tiles.agv = 7 ∧
    ((after (exec (.mclr 0 1) (onP id))).coreP 512).pc = 4 ∧ ((after (exec (.mrd 0 0 1 5) (onP id))).coreP 512).qr 5 = ⟨0, 1⟩ ∧
    ((after (exec (.mdr 0 0 1 5) (onP id))).coreP 512).qr 5 = ⟨0, 1⟩ := by decide +kernel

/-- What holds core 512. -/
def holdP (o : Host.Outcome State Fault Refusal) : Option HoldOp := ((after o).coreP 512).hold.map Hold.op

/-- Scope 5 traps; a pool without draws holds (R380, R396, R397). -/
theorem test_sync_holds : holdP (exec (.hpub 0 4) (onP id)) = some .hpub ∧ holdP (exec (.hobs 0 4) (onP id)) = some .hobs ∧
    trappedP (exec (.hpub 0 5) (onP id)) = some 1 ∧ holdP (exec (.qrnd 0 5) (onP id)) = some .rnd ∧
    holdP (exec (.tpost 0 1 5) (onP id)) = some .tpost ∧ trappedP (exec (.twait 0 2 1) (onP id)) = some 1 ∧
    trappedP (exec (.tstat 0 1 5) (onP id)) = some 1 := by decide +kernel
/-- A retired continuation leaves an idle core; a yield that nothing asked for is no operation (R400). -/
theorem test_ends : ((after (exec (.cend 0) (onP (fun c => { c with run := .running })))).coreP 512).run = .idle ∧
    ((after (exec (.cyield 0 1) (onP id))).coreP 512).pc = 4 ∧
    ((after (exec (.pmark 0 1) (onP id))).coreP 512).pc = 4 := by decide +kernel

/-! ### States that meet the hypotheses of the statements: native moves

`meets u s src P` says that the core in focus issues a move of unit u and source `src`, with the context of that move in `P`. -/

def ctx (s : State) (u : Nat) (src : BitVec 10) : MoveCtx :=
  let c := s.coreC s.focus
  let y := c.context u
  match c.source y.1 y.2 src with
  | .ok (v, w) => ⟨s.focus, c, y.1, y.2, v, w⟩
  | .error _ => ⟨999, c, y.1, y.2, ⟨0, 0⟩, false⟩

abbrev meets (u : Nat) (s : State) (src : BitVec 10) (P : MoveCtx → Prop) : Prop := s.issues u 0 src (ctx s u src) ∧ P (ctx s u src)

/-- O10, O11, O13: a move of each integer and vector unit issues, from a scalar and from a vector register. -/
theorem witness_issues : meets 0 (native 0 1 2 3) 2 (fun x => x.val.word = 1 ∧ x.pA.word = 2) ∧ meets 1 (native 1 1 2 3) 2 (fun x => x.slot = 1) ∧
    meets 2 (vecIn ⟨1, 1⟩ ⟨2, 1⟩ ⟨3, 1⟩) 0x60 (fun x => x.val = ⟨1, 1⟩ ∧ x.pA = ⟨2, 1⟩ ∧ x.pB = ⟨3, 1⟩) ∧
    meets 3 (native 3 1 2 3) 2 (fun x => x.slot = 3) := by decide +kernel

/-- O10, O11: zero and non-zero divisors, both orders of the compares, zero and all ones for the counts. -/
theorem witness_integer_bounds : meets 0 (native 0 0 2 3) 2 (fun x => x.val.word = 0) ∧
    meets 1 (native 1 0xFFFFFFFFFFFFFFFF 0x8000000000000000 3) 2 (fun x => x.val.word = BitVec.allOnes 64) := by decide +kernel

/-- O12: each clause at the ends of its range. -/
theorem witness_integer_checked : meets 0 (native 0 4 1 2) 2 (fun x => 4 ≤ x.val.word.toNat ∧ x.val.word.toNat ≤ 7) ∧
    meets 0 (native 0 7 1 2) 2 (fun x => 4 ≤ x.val.word.toNat ∧ x.val.word.toNat ≤ 7) ∧
    meets 0 (native 0 3 1 2) 2 (fun x => x.val.word.toNat < 4 ∨ 7 < x.val.word.toNat) ∧
    meets 0 (native 0 8 1 2) 2 (fun x => x.val.word.toNat < 4 ∨ 7 < x.val.word.toNat) ∧
    meets 0 (native 0 1 1 2) 2 (fun x => 1 ≤ x.val.word.toNat ∧ x.val.word.toNat ≤ 64) ∧
    meets 0 (native 0 64 1 2) 2 (fun x => 1 ≤ x.val.word.toNat ∧ x.val.word.toNat ≤ 64) ∧
    meets 0 (native 0 0 1 2) 2 (fun x => x.val.word.toNat = 0 ∨ 64 < x.val.word.toNat) ∧
    meets 0 (native 0 65 1 2) 2 (fun x => x.val.word.toNat = 0 ∨ 64 < x.val.word.toNat) := by decide +kernel
theorem witness_bit_fields : meets 0 (native 0 (64 * 64 + 63) 1 2) 2 (fun x => x.val.word.toNat < 2 ^ 14 ∧ x.val.word.toNat / 64 % 128 = 64 ∧
      x.val.word.getLsbD 13 = false) ∧
    meets 0 (native 0 (8192 + 64) 1 2) 2 (fun x => x.val.word.toNat < 2 ^ 14 ∧ x.val.word.toNat / 64 % 128 = 1 ∧ x.val.word.getLsbD 13 = true) ∧
    meets 0 (native 0 (2 ^ 14) 1 2) 2 (fun x => 2 ^ 14 ≤ x.val.word.toNat) ∧
    meets 0 (native 0 (65 * 64) 1 2) 2 (fun x => 64 < x.val.word.toNat / 64 % 128) := by decide +kernel

/-- O13: an operation that gives a result and one that traps, on operands of va0. -/
theorem witness_vector_results : (∃ v fl, opVadd (two 6 8 1 2) (two 6 8 3 4) = .ok v fl) ∧ (∃ c d, opVadd ⟨0, 1⟩ ⟨0, 2⟩ = .trap c d) :=
  ⟨⟨_, _, rfl⟩, ⟨_, _, rfl⟩⟩
/-- O14: the tags and lane numbers of its clauses, the last lane among them. -/
theorem witness_vector_lanes : isINX 6 = true ∧ isINX 0x12 = true ∧ badTag 0 = false ∧ badTag 0x13 = false ∧ badTag 0x11 = true ∧ badTag 0x14 = true ∧
    (sc 127).word.toNat < laneN 6 ∧ (sc 0).word.toNat < laneN 6 ∧ laneN 6 = 128 ∧ (sc 31).word.toNat < 32 ∧
    badTag ((sc 31).word.setWidth 5) = true ∧ badTag ((sc 16).word.setWidth 5) = false := by decide +kernel

/-- Core 0 with two staged slices of one format. -/
def sliced (t : Word) : State := (native 4 t 0 0).modC 0 (fun c => { c with
  eng := { c.eng with a := some ⟨2, [], []⟩, b := some ⟨2, [], []⟩ } })
/-- O15: the checks pass and fail, with and without a token; a sequence runs or none does. -/
theorem witness_matrix_commands :
    meets 4 (sliced 4) 2 (fun x => accCheck x.val.word x.c.eng.view = .ok true) ∧
    meets 4 (sliced 3) 2 (fun x => accCheck x.val.word x.c.eng.view = .ok false) ∧
    meets 4 (native 4 0 0 0) 2 (fun x => accCheck x.val.word x.c.eng.view = .error (6, 0x1F)) ∧
    meets 4 (native4 4 (2 ^ 34 + 1) 0x10000000 0 0x10000000 0) 2 (fun x => seqCheck x x.c.eng.view = .ok true) ∧
    meets 4 (native 4 0 0 0) 2 (fun x => seqCheck x x.c.eng.view = .error (1, 0)) ∧
    meets 4 (native 4 0 0 0) 2 (fun x => x.val.word = 0 ∧ x.c.eng.seq = none) ∧
    meets 4 ((native 4 0 0 0).modC 0 (fun c => { c with eng := { c.eng with seq := some ⟨0, 0, 0, false, false, 0⟩ } })) 2
      (fun x => x.val.word = 0 ∧ x.c.eng.seq ≠ none) ∧
    meets 4 (native 4 1 0 0) 2 (fun x => x.val.word ≠ 0) := by decide +kernel
/-- Core 0 whose bank A belongs to slot 4, v0 to v2 in BF16. -/
def lent : State := onC (fun c => { c with bank := 0xFE, v := ((c.v.put 0 ⟨0, 2⟩).put 1 ⟨0, 2⟩).put 2 ⟨0, 2⟩ })
/-- O16: pushes from the cluster scratchpad and from registers. -/
theorem witness_matrix_pushes :
    meets 4 (native4 4 (2 ^ 16 - 1) 0x10000000 0 0x10000000 0) 2 (fun x => x.val.word.toNat < 2 ^ 16 ∧
      fmtTag (bitsOf (x.c.port x.slot 1).word 36 4) = some 2 ∧ fmtTag (bitsOf (x.c.port x.slot 3).word 36 4) = some 2 ∧
      sliceCheck 2 (x.c.port x.slot 0).word (x.c.port x.slot 1).word 96 x.val.word.toNat = none ∧
      sliceCheck 2 (x.c.port x.slot 2).word (x.c.port x.slot 3).word 160 x.val.word.toNat = none) ∧
    (let c := lent.coreC 0
     let y := c.context 4
     c.guard y.1 y.2 0 = true ∧ (regSlice c 0 2 96).isOk ∧ (regSlice c 0 3 160).isOk ∧
      regScaleCheck 2 (c.port y.1 0).word (c.port y.1 1).word 96 = none ∧
      regScaleCheck 2 (c.port y.1 2).word (c.port y.1 3).word 160 = none) := by decide +kernel

/-- O17: addresses at the ends of the scratchpad, in the window space, and ones that fail. -/
theorem witness_loads :
    meets 5 (native 5 0x7FFF8 0 0) 2 (fun x => (plainAddr x.g x.val.word 8).isOk) ∧
    meets 5 (native 5 0x2000FF80 0 0) 2 (fun x => (plainAddr x.g x.val.word 128).isOk) ∧
    meets 5 (native 5 0 19 0) 2 (fun x => (plainAddr x.g x.val.word 128).isOk ∧ x.pA.word.toNat < 32 ∧ badTag (x.pA.word.setWidth 5) = false) ∧
    meets 5 (native 5 0 4 0) 2 (fun x => (strideSet x.g x.val.word x.pA.word).isOk) ∧
    meets 5 (lsIn (two 0x12 32 1 0) (sc 128) ⟨0, 0⟩) 0x60 (fun x => (indexSet x.g x.pA.word x.val).isOk) ∧
    meets 5 (native 5 0 (64 * 2 ^ 32 + 2 * 2 ^ 52) 0) 2 (fun x => let a := x.pA.word
      let p := bitsOf a 52 4
      let pp := bitsOf a 32 16
      pldOk a x.val.word = true ∧ bitsOf a 0 32 % 16 = 0 ∧
        (coreSpace x.g (bitsOf a 28 4) (bitsOf a 0 28) ((p - 1) * pp + (x.val.word.toNat + 64 * bniK p - 1) / 8 + 1)).isOk) ∧
    meets 5 (native 5 0x80000 0 0) 2 (fun x => plainAddr x.g x.val.word 8 = .error (9, 0x80000)) ∧
    meets 5 (native 5 4 0 0) 2 (fun x => plainAddr x.g x.val.word 8 = .error (0x0A, 4)) := by decide +kernel
/-- O18: stores at the ends of the scratchpad, elements at one address and at several, a masked store. -/
theorem witness_stores :
    meets 5 (native 5 1 0x7FFF8 0) 2 (fun x => (native 5 1 0x7FFF8 0).MemOk ∧ bitsOf x.pA.word 28 4 = 0 ∧ (plainAddr x.g x.pA.word 8).isOk) ∧
    meets 5 (native 5 1 0x7FF80 0) 2 (fun x => bitsOf x.pA.word 28 4 = 0 ∧ (plainAddr x.g x.pA.word 128).isOk) ∧
    meets 5 (lsIn (two 0 32 7 8) (sc 128) (two 0x12 32 9 9)) 0x60 (fun x => bitsOf x.pA.word 28 4 = 0 ∧ (indexSet x.g x.pA.word x.pB).isOk) ∧
    meets 5 (lsIn (two 0 8 7 8) (sc 128) (two 0x13 1 0 1)) 0x60 (fun x => bitsOf x.pA.word 28 4 = 0 ∧ (maskAddr x.g x.pA.word x.pB).isOk) := by
  unfold State.MemOk
  decide +kernel
/-- Core 0 with the lines at 0 and 64 staged, and one with fifteen written lines. -/
def stagedTwo (n : Nat) : State := (native 5 0x10000000 0x10000000 0).modC 0 (fun c => { c with
  wst := (List.range n).map (fun i => ⟨64 * i, 0, 0, 0⟩) })
/-- O19: staged and unstaged lines, room and none, rows of both kinds, a bank that a command uses, operands that fail. -/
theorem witness_cluster_rows :
    meets 5 (stagedTwo 2) 2 (fun x => clusAddr x.val.word 128 = .ok 0 ∧ (x.c.staged 0).isSome ∧ (x.c.staged (0 + 64)).isSome) ∧
    meets 5 (stagedTwo 1) 2 (fun x => clusAddr x.val.word 128 = .ok 0 ∧ x.c.staged (0 + 64) = none) ∧
    meets 5 (stagedTwo 14) 2 (fun x => clusAddr x.pA.word 128 = .ok 0 ∧ x.c.wst.length ≤ 14) ∧
    meets 5 (stagedTwo 15) 2 (fun x => clusAddr x.pA.word 128 = .ok 0 ∧ 14 < x.c.wst.length) ∧
    meets 5 (native 5 0 128 0) 2 (fun x => clusAddr x.val.word 128 = .error (9, 0) ∧ clusAddr x.pA.word 128 = .error (9, 128)) ∧
    meets 5 (native 5 (95 + 4 * 128) 0 0) 2 (fun x => rowDescOk x.val.word = true) ∧ meets 5 (native 5 96 96 0) 2 (fun x => rowDescOk x.val.word = false ∧ rowDescOk x.pA.word = false) ∧
    meets 5 (lsIn ⟨0, 1⟩ (sc 0) ⟨0, 0⟩) 0x60 (fun x => rowDescOk x.pA.word = true ∧ x.val.tag = (if x.pA.word.getLsbD 12 then 0x07 else 0x01)) ∧
    meets 5 (lsIn ⟨0, 1⟩ (sc 4096) ⟨0, 0⟩) 0x60 (fun x => rowDescOk x.pA.word = true ∧ x.val.tag ≠ (if x.pA.word.getLsbD 12 then 0x07 else 0x01)) := by
  decide +kernel

/-- Core 0 at a bundle in a loop's kernel. -/
def looping (t : Word) : State := (native 6 t 0 0).modC 0 (fun c => { c with loop := { LoopSt.none with act := true, len := 1, n := 2, start := 0 } })
/-- O20: targets at both ends, conditions and their inverses, inside and outside a kernel, loops, interrupts, tandems. -/
theorem witness_control_transfers :
    meets 6 (native 6 0xFFFFFFFFFFE0 15 0) 2 (fun x => x.bun.inKernel = false ∧ x.val.word.toInt < 2 ^ 47 ∨ x.val.word.toInt = 2 ^ 48 - 32) ∧
    meets 6 (native 6 64 15 0) 2 (fun x => x.bun.inKernel = false ∧ -(2 ^ 47) ≤ x.val.word.toInt ∧ x.val.word.toInt < 2 ^ 47 ∧
      0 ≤ (x.bun.addr : Int) + x.val.word.toInt ∧ (x.bun.addr : Int) + x.val.word.toInt < 2 ^ 48 ∧
      ((x.bun.addr : Int) + x.val.word.toInt) % 32 = 0 ∧ x.pA.word.toNat < 16) ∧
    meets 6 (native 6 64 16 0) 2 (fun x => 16 ≤ x.pA.word.toNat) ∧
    meets 6 (native 6 0xFFFFFFFFFFE0 0 0) 2 (fun x => x.bun.inKernel = false ∧ x.val.word.toNat < 2 ^ 48 ∧ x.val.word.toNat % 32 = 0) ∧
    meets 6 (looping 0) 2 (fun x => x.bun.inKernel = true) ∧
    meets 6 (native 6 0x7FFF 0 0) 2 (fun x => x.val.word.toNat < 2 ^ 15 ∧ x.pA.word.toNat < 2 ^ 32 ∧ x.bun.loop.act = false ∧ x.c.inH = false ∧
      (bitsOf x.val.word 12 3 = 0 ∨ x.val.word.getLsbD 11 = true)) ∧
    meets 6 (looping 0) 2 (fun x => x.val.word = 0 ∧ x.bun.loop.act = true) ∧
    meets 6 (native 6 0 0 0) 2 (fun x => x.val.word = 0 ∧ x.c.inH = false ∧ x.c.dec = false) := by decide +kernel
/-- A handler's core in a bundle whose SYN is 0xFF. -/
def handler : State := (native 6 0 0 0).modC 0 (fun c => { c with inH := true, cur := some (6, ⟨0, 0, 0xFF000000000000, 0, LoopSt.none⟩) })
theorem witness_eret : meets 6 handler 2 (fun x => x.val.word = 0 ∧ x.c.inH = true ∧ bunSyn x.bun.bits = 0xFF ∧ x.bun.inKernel = false) := by
  decide +kernel

/-- Core 0 at system privilege. -/
def system (t a : Word) : State := (native 6 t a 0).modC 0 (fun c => { c with sys := true })
/-- O21. -/
theorem witness_control_other :
    meets 6 (native 6 15 0 0) 2 (fun x => x.val.word.toNat < 16 ∧ x.c.inH = false ∧ x.c.bankBusy (x.val.word.toNat % 4) = false) ∧
    meets 6 ((native 6 0 0 0).modC 0 (fun c => { c with pend := [⟨.v 0, ⟨0, 0⟩, 0⟩] })) 2
      (fun x => x.val.word.toNat < 16 ∧ x.c.inH = false ∧ x.c.bankBusy (x.val.word.toNat % 4) = true) ∧
    meets 6 (system 1 0) 2 (fun x => 1 ≤ x.val.word.toNat ∧ x.val.word.toNat ≤ 4 ∧ x.c.priv = true ∧ x.c.tw = 0 ∧ x.c.group = []) ∧
    meets 6 (system 4 0) 2 (fun x => 1 ≤ x.val.word.toNat ∧ x.val.word.toNat ≤ 4 ∧ x.c.priv = true) ∧
    meets 6 (native 6 0 0 0) 2 (fun x => x.c.priv = false ∧ x.val.word = 0 ∧ x.c.inH = false) ∧
    meets 6 ((native 6 2 0 0).modC 0 (fun c => { c with eng := { c.eng with ret := 2 } })) 2 (fun x => x.val.word.toNat ≤ x.c.eng.ret) ∧
    meets 6 ((native 6 2 0 0).modC 0 (fun c => { c with eng := { c.eng with ret := 1, iss := 1 } })) 2
      (fun x => x.c.eng.ret < x.val.word.toNat ∧ x.val.word.toNat ≤ x.c.eng.iss + x.c.eng.ret) ∧
    meets 6 (native 6 0xFFFF 0 0) 2 (fun x => x.val.word.toNat < 2 ^ 16 ∧ x.c.eng.iss + x.c.eng.ret < x.val.word.toNat) := by decide +kernel
/-- O22: registers that may be read and written, one that does not exist, the ends of the ranges at both privileges. -/
theorem witness_control_registers :
    meets 6 (native 6 8 0 0) 2 (fun x => ((native 6 8 0 0).kview x.g x.bun.loop 8).isSome) ∧
    meets 6 (native 6 255 0 0) 2 (fun x => (native 6 255 0 0).kreg x.g x.bun.loop 255 = none) ∧
    meets 6 (native 6 0x0C 0 0) 2 (fun x => x.val.word.toNat = 0x0C) ∧ meets 6 (system 0x24 0) 2 (fun x => x.c.priv = true ∧ x.val.word.toNat = 0x24) ∧
    meets 6 (system 0x13 0) 2 (fun x => x.c.priv = true ∧ x.val.word.toNat = 0x13) ∧
    meets 6 (native 6 0x09 0 0) 2 (fun x => x.val.word.toNat = 9) ∧ meets 6 (native 6 0x0B 0 0) 2 (fun x => x.val.word.toNat = 0x0B) ∧
    meets 6 (native 6 0x0E 0 0) 2 (fun x => x.c.priv = false ∧ x.val.word.toNat = 0x0E) ∧
    meets 6 (native 6 0xFFFF 0 0) 2 (fun x => x.val.word.toNat < 2 ^ 16) ∧ meets 6 (native 6 0x10000 0 0) 2 (fun x => 2 ^ 16 ≤ x.val.word.toNat) := by
  decide +kernel
/-- Core 0 that asks for a write-back of the image at n; at 0 stands a record of gear C, code object 1, entry 0, no wait. -/
def imageAt (n : Nat) : State :=
  let s := native 6 (0x8000000000000000 + BitVec.ofNat 64 n) 0 0
  ({ s with objs := [(1, obj1 [] [])] } : State).write (locCore 0 0) (2 ^ 34 + 1 + 0xFFFF * 2 ^ 128) 64
/-- O23. -/
theorem witness_susp_yield :
    meets 6 (native 6 0 0 0) 2 (fun x => (x.c.group = [] ∨ x.c.dec = false) ∧ x.c.inH = false ∧ x.val.word = 0) ∧
    meets 6 (imageAt 0) 2 (fun x => x.c.group = [] ∧ x.val.word.getLsbD 63 = true ∧ bitsOf x.val.word 32 31 = 0 ∧
      ((imageAt 0).suspImage x.g x.c.asid x.c.sys x.val.word).isOk) ∧
    meets 6 (imageAt 4) 2 (fun x => x.val.word.getLsbD 63 = true ∧ bitsOf x.val.word 32 31 = 0 ∧
      ((imageAt 4).suspImage x.g x.c.asid x.c.sys x.val.word).isOk = false) ∧
    meets 6 (native 6 0xFFFFFFFF 0 0) 2 (fun x => x.val.word.toNat < 2 ^ 32 ∧ x.c.mayHonour = false) ∧
    meets 6 ((native 6 0 0 0).modC 0 (fun c => { c with soft := some 0, cont := some { Rec.zero with w3 := 64 } })) 2 (fun x => x.c.mayHonour = true ∧ x.bun.loop.act = false) ∧
    meets 6 (native 6 0x100000000 0 0) 2 (fun x => 2 ^ 32 ≤ x.val.word.toNat) := by decide +kernel
/-- Cores 0 and 1 in lock-step, core 1 in focus and its own guard and operands of no account; core 0 holds at a `susp`. -/
def following : State :=
  let s := after (exec (.ctSusp 0 2 0) (native 6 0 0 0))
  let lock := fun (c : CoreC) => { c with group := [0, 1], lead := 0, dec := false }
  { (s.modC 0 lock).modC 1 lock with focus := 1 }
/-- O23: the other member of a lock-step tandem follows lane 0. -/
theorem witness_follows : following.leader following.focus ≠ following.focus ∧
    ((((after (exec (.ctSusp 0 2 0) following)).coreC 1).slot 6).hold.map Hold.op) = some .susp := by decide +kernel

/-- Core 0 runs ASID 1, whose channels 0 and 1 belong to it, with a barrier at 0, a hasp entry at 0 of die 0 and one draw; at 0
of its scratchpad stands an image for channel 1. -/
def synced (t a b : Word) : State :=
  let s := (native 7 t a b).modC 0 (fun c => { c with cont := some { Rec.zero with w1 := 0x0040000000000000 } })
  ({ s with
    chans := [(0, { Chan.reset with owner := some (0, 0), asid := 1 }), (1, { Chan.reset with owner := some (0, 1), asid := 1 })]
    dies := [(0, { Die.reset with barriers := [(0, ⟨2, 0, 0, 1, 1⟩)], hasps := [(0, ⟨1, 0, 0, locCore 0 0, []⟩)], draws := [42] })] } : State).write
      (locCore 0 56) 1 8
/-- O24. -/
theorem witness_as_packets :
    meets 7 (synced 0 1 0) 2 (fun x => ((synced 0 1 0).image x.g x.val.word).isOk ∧
      (synced 0 1 0).chanOf x.pA.word.toNat x.c.asid = true ∧ (synced 0 1 0).chanOf x.val.word.toNat x.c.asid = true) ∧
    meets 7 (synced 64 1 0) 2 (fun x => ((synced 64 1 0).image x.g x.val.word).isOk ∧
      (synced 64 1 0).postCheck x.c.asid x.c.sys (((synced 64 1 0).image x.g x.val.word).toOption.getD []) = true) ∧
    meets 7 (native 7 0x7FFC0 0 0) 2 (fun x => ((native 7 0x7FFC0 0 0).image x.g x.val.word).isOk ∧
      (native 7 0x7FFC0 0 0).postCheck x.c.asid x.c.sys (((native 7 0 0 0).image x.g x.val.word).toOption.getD []) = false) ∧
    meets 7 (native 7 0x80000 2048 0) 2 (fun x => ((native 7 0x80000 0 0).image x.g x.val.word).isOk = false ∧
      ¬(x.pA.word.toNat < 2 ^ 16 ∧ (native 7 0x80000 0 0).chanOf x.pA.word.toNat x.c.asid = true)) ∧
    meets 7 (synced 0xFFFFFFFFFFFF 0 0) 2 (fun x => x.val.word.toNat < 2 ^ 48) := by decide +kernel
/-- O25: a barrier of the ASID and none, hasps that may be bound, acquired and released, both ends of the scopes. -/
theorem witness_barriers_hasps :
    meets 7 (synced (4 * 2 ^ 16 + 0xFFFF) 0 0) 2 (fun x => x.val.word.toNat < 2 ^ 19 ∧ x.val.word.toNat / 2 ^ 16 < 5 ∧ x.val.word.toNat % 2 ^ 16 ≠ 0) ∧
    meets 7 (synced (2 ^ 16) 0 0) 2 (fun x => x.val.word.toNat % 2 ^ 16 = 0) ∧
    meets 7 (synced 0 0 0) 2 (fun x => ((synced 0 0 0).barrierAt x.val.word.toNat).map Barrier.asid = some x.c.asid ∧
      ((synced 0 0 0).barrierAt (x.val.word.toNat % 2 ^ 32)).map Barrier.asid = some x.c.asid) ∧
    meets 7 (synced 1 0 0) 2 (fun x => (synced 1 0 0).barrierAt x.val.word.toNat = none) ∧
    meets 7 (synced 0 0 64) 2 (fun x => hbindCheck x.val.word x.pA.word x.pB.word false = none) ∧
    meets 7 (synced 0 4 0) 2 (fun x => (synced 0 4 0).hacqCheck x.c.asid x.val.word x.pA.word = none) ∧
    meets 7 (synced 0 0 4) 2 (fun x => (synced 0 0 4).hrelCheck x.c.asid x.pA.word x.pB.word = none) ∧
    meets 7 (synced 4 0 0) 2 (fun x => x.val.word.toNat < 5) ∧ meets 7 (synced 5 0 0) 2 (fun x => ¬x.val.word.toNat < 5) := by decide +kernel
/-- Core 0 with one INT32 scatter operation at 0 of its cluster scratchpad; result entries that are filled or not. -/
def scatter (t : Nat) : State := onC (fun c => { c with
  g := c.g.put 2 (BitVec.ofNat 64 t), ports := ((c.ports.put 28 ⟨0, 0x12⟩).put 29 ⟨0, 4⟩).put 30 ⟨0, 0⟩ })
def waiting (r : Option Word) : State := (native 7 0 0 0).setCluster 0 ⟨[], [(0, r)], []⟩
/-- O26. -/
theorem witness_as_other :
    meets 7 (scatter 0x10000000) 2 (fun x => (saeOps x.val.word x.pA x.pB x.pC).isOk ∧ ((scatter 0).cluster 0).room 1 false = true) ∧
    meets 7 (scatter 0) 2 (fun x => (saeOps x.val.word x.pA x.pB x.pC).isOk = false) ∧
    meets 7 (waiting (some 5)) 2 (fun x => x.val.word = 0 ∧ ((waiting (some 5)).cluster (clusterOf x.g)).nextEntry x.g = some (some 5)) ∧
    meets 7 (waiting none) 2 (fun x => x.val.word = 0 ∧ ((waiting none).cluster (clusterOf x.g)).nextEntry x.g = some none) ∧
    meets 7 (native 7 0 0 0) 2 (fun x => ((native 7 0 0 0).cluster (clusterOf x.g)).nextEntry x.g = none ∧ (State.reset.die (dieOf x.g)).draws = []) ∧
    meets 7 (synced 0x8000000000000001 0 0) 2 (fun x => (synced 0x8000000000000001 0 0).notifyCheck x.c.asid x.val.word = none) ∧
    meets 7 (synced 0 0 0) 2 (fun x => x.val.word = 0 ∧ ((synced 0 0 0).die (dieOf x.g)).draws = [42]) ∧
    meets 7 (native 7 1 0 0) 2 (fun x => x.val.word ≠ 0) ∧
    meets 7 (native 7 0xFFFFFFFF 0x3FFFFFFFFFFFFF 0) 2 (fun x => x.pA.word.toNat < 2 ^ 54 ∧ x.val.word.toNat < 2 ^ 32) ∧
    (match opSortx 0 ⟨0, 0x12⟩ ⟨0, 0x12⟩ with | .ok _ _ => true | .trap _ _ => false) = true := by decide +kernel

/-- O27: a register write in a handler and outside one, registers that slot 0 and slot 2 may write or not, ports of both widths. -/
theorem witness_plain_moves : meets 0 (native 0 9 0 0) 2 (fun x => x.c.inH = false ∧ x.c.mayWrite x.slot 0 = false) ∧
    meets 0 handler 2 (fun x => x.c.inH = true) ∧ meets 0 (onC (fun c => { c with cur := some (2, ⟨0, 0, 0, 0, LoopSt.none⟩) })) 2
      (fun x => x.c.mayWrite x.slot 0 = true ∧ x.c.mayWrite x.slot 15 = true) ∧
    meets 0 (native 0 9 0 0) 2 (fun x => x.g = 0) ∧ meets 7 (native 7 9 0 0) 2 (fun x => x.g = 0) := by decide +kernel
/-- O28, O29, O30: a move that is guarded off (p1 false), and moves whose next state differs from the state before. -/
theorem witness_guards : decodeMove 0x201208 = .ok (.iaAdd 1 2 0 0) ∧
    CoreC.guard ((onC (fun c => { c with cur := some (0, ⟨0, 0, 0, 0, LoopSt.none⟩) })).coreC 0) 0 ⟨0, 0, 0, 0, LoopSt.none⟩
      ((0x201208 : BitVec 24).extractLsb' 21 3) = false := by decide +kernel
theorem witness_frames : decodeMove 0x001208 = .ok (.iaAdd 0 2 0 0) ∧ (0x001208 : BitVec 24).extractLsb' 8 3 = 2 ∧
    after (exec (.iaAdd 0 2 0 0) (native 0 1 2 3)) ≠ native 0 1 2 3 := by decide +kernel

/-! ### States that meet the hypotheses of the statements: steps and the portable layer -/

/-- O3: a module that serves, with a portable word at core 512, whose step is its instruction's. -/
theorem witness_step_portable : let s := State.reset.withFetchWord 32 0x00000073
    s.power = true ∧ s.boot.failed = none ∧ s.agenda = [] ∧ s.served = true ∧ isGearC s.focus = false ∧ s.runOf s.focus = .running ∧
      s.paused s.focus = false ∧ (s.coreP s.focus).hold = none ∧ ((s.fetchP s.focus).1.bind Except.toOption) = some .ecall ∧
      trappedP (step s) = some 0x0D := by decide +kernel
theorem witness_step_portable_idle : (State.reset.withFetchWord 32 0x00000073).actionP 512 = none := by
  have h : ((State.reset.withFetchWord 32 0x00000073).actionP 512).isSome = false := by decide +kernel
  simpa using h

/-- O4: core 0 with one move in its slot's turn; a word that is no move. -/
theorem witness_step_move : let s := State.reset.withFetchWord 24 0x001208
    s.power = true ∧ s.boot.failed = none ∧ s.agenda = [] ∧ s.served = true ∧ isGearC s.focus = true ∧ s.runOf s.focus = .running ∧
      s.paused s.focus = false ∧ (s.actionC (s.leader s.focus)).isSome = false ∧
      (s.nextMove (s.leader s.focus)).map (fun x => (decodeMove (slotBits x.2.2.bits x.2.1), (bunSur x.2.2.bits).getLsbD x.2.1)) =
        some (.ok (.iaAdd 0 2 0 0), false) ∧ started (step s) = some (0, 0) := by decide +kernel
theorem witness_step_illegal : let s := State.reset.withFetchWord 24 0x047208
    ((s.nextMove (s.leader s.focus)).bind (fun x => (decodeMove (slotBits x.2.2.bits x.2.1)).toOption)).isNone ∧
      (s.nextMove (s.leader s.focus)).isSome ∧ trapped (step s) = some 1 := by decide +kernel

/-- O5, O9: an event on the agenda of a living machine, bring-up, no power, a bring-up that failed. -/
theorem witness_step_event : let s : State := { State.reset with agenda := [.event 5 (.powerLimit 2000)] }
    s.power = true ∧ s.boot.failed = none ∧ s.recording = false ∧ encode (.powerLimit 2000) = none ∧ WellFormed (.powerLimit 2000) = true ∧
      (after (step s)).plimit = 2000 ∧ (after (step s)).now = 5 ∧ State.reset.served = false := by decide +kernel
theorem witness_alive : State.reset.alive := ⟨rfl, rfl⟩
theorem witness_stopped : step { State.reset with power := false } = .fault .moduleOff ∧
    step { State.reset with boot := { Boot.reset with failed := some (0x10, 0) } } = .fault .bringUpFailed := ⟨rfl, rfl⟩

/-- O7, O8: memory in its form, empty and not. -/
theorem witness_mem_ok : State.reset.mem.wf = true ∧ (State.reset.write 5 0x0100 2).mem.wf = true ∧
    (State.reset.write 5 0x0100 2).mem = [(6, 1)] := by decide +kernel

/-- Core 512 with x1 = a, x2 = b. -/
def pst (a b : Word) : State := onP (fun c => { c with x := (c.x.put 1 a).put 2 b })

/-- O31, O32: shifts of both kinds, zero and other divisors. -/
theorem witness_portable_integer : (0x0 : BitVec 12).getLsbD 10 = false ∧ (0x43F : BitVec 12).getLsbD 10 = true ∧
    ((pst 7 0).coreP 512).xr 2 = 0 ∧ ((pst 7 2).coreP 512).xr 2 ≠ 0 := by decide +kernel
/-- O33, O34: addresses at both ends of the buffer, beyond it, and off their alignment. -/
theorem witness_portable_addresses : let A := fun (a : Word) => (((pst a 0).coreP 512).xr 1 + (0 : BitVec 12).signExtend 64).toNat
    (A 0 < 0x80000 ∧ A 0 % 8 = 0) ∧ (A 0x7FFF8 < 0x80000 ∧ A 0x7FFF8 % 8 = 0) ∧ 0x80000 ≤ A 0x80000 ∧ (A 0x7FFFF < 0x80000 ∧ A 0x7FFFF % 2 ≠ 0) ∧
      (pst 0 0).mem.wf = true ∧ (3 : BitVec 3).toNat < 4 ∧ (6 : BitVec 3) ≠ 7 := by decide +kernel
/-- O36: the ends of the CSR ranges. -/
theorem witness_csr : (0x800 : BitVec 12).toNat = 0x800 ∧ (0xCC0 : BitVec 12).toNat = 0xCC0 ∧ (0xCC6 : BitVec 12).toNat = 0xCC6 ∧
    (0x7FF : BitVec 12).toNat < 0x800 ∧ 0x803 < (0x804 : BitVec 12).toNat ∧ 0xCC6 < (0xCC7 : BitVec 12).toNat ∧ (0xCBF : BitVec 12).toNat < 0xCC0 := by
  decide +kernel
/-- O37: Xpol words with hints 5 and 7. -/
theorem witness_hints : decodeWord 0xA200107B = .ok (.cend 5) ∧ (0xA200107B : BitVec 32).extractLsb' 29 3 = 5 ∧
    (0xA200107B : BitVec 32).extractLsb' 0 7 = 0x7B ∧ decodeWord 0xE000000B = .ok (.qadd 7 0 0 0) ∧ (0xE000000B : BitVec 32).extractLsb' 0 7 = 0x0B := by
  decide +kernel

/-- The value that a vector function gives. -/
def okV (r : VRes) : Bool := match r with | .ok _ _ => true | .trap _ _ => false
/-- O38: a result and a trap, and the operations that take scalar operands. -/
theorem witness_portable_vectors : (0 : BitVec 3).toNat < 5 ∧ (4 : BitVec 3).toNat < 5 ∧ okV (opVadd (two 6 8 1 2) (two 6 8 1 2)) = true ∧
    okV (opVadd ⟨0, 1⟩ ⟨0, 2⟩) = false ∧ (0xFFFFFFFF : Word).toNat < 2 ^ 32 ∧ okV (opVext (two 7 32 5 6) (sc 31)) = true ∧
    okV (opVpln ⟨1, 9⟩ (sc 0x0A)) = true ∧ okV (opVupl ⟨3, 0x0A⟩ (sc 9)) = true ∧ okV (opVcvt (two 1 32 0 0) (sc 6)) = true := by decide +kernel

/-- Core 512 with x1 = a, x2 = b, q1 = q and q5. -/
def pvec (a b : Word) (q : TVal) : State := onP (fun c => { c with x := (c.x.put 1 a).put 2 b, q := (c.q.put 1 q).put 5 ⟨7, 0⟩ })
/-- O39. -/
theorem witness_portable_vector_memory : (pvec 0 0 ⟨0, 0⟩).mem.wf = true ∧ badTag 0x13 = false ∧ badTag 0x1F = true ∧
    (0x7FF80 : Word).toNat < 0x80000 ∧ (0x7FF80 : Word).toNat % 128 = 0 ∧
    bitsOf 0 28 4 = 0 ∧ (strideSet 512 0 4).isOk ∧ (indexSet 512 128 (two 0x12 32 1 0)).isOk ∧ (maskAddr 512 (2 ^ 32) ⟨1, 0x13⟩).isOk ∧
    bitsOf (2 ^ 32) 28 4 = 0 := by decide +kernel
/-- O40: both classes of a pair, both kinds of rows, slices that pass their checks and slices that do not. -/
theorem witness_portable_tiles : ((pst 0xFFFFFFFF 0xFFFF).coreP 512).xr 1 = 0xFFFFFFFF ∧ (0xFFFFFFFF : Word).toNat < 2 ^ 32 ∧ (0xFFFF : Word).toNat < 2 ^ 16 ∧
    rowDescOk 0 = true ∧ rowDescOk 4096 = true ∧ bitsOf 4096 10 2 = 0 ∧ drCheck (tileDesc 95 3) Tiles.reset.view = true ∧
    mmacCheck Tiles.reset 3 (2 ^ 32) 0 = .ok 2 ∧ mmacCheck Tiles.reset 3 (2 * 2 ^ 32) (2 ^ 34) = .ok 0x0C ∧ mmacCheck Tiles.reset 0 0 0 = .error (1, 0) ∧
    (onP id).coreP 512 = { CoreP.reset with step1 := false } := by decide +kernel

/-- Core 512 runs ASID 1 with its channel 0, a hasp entry, and an image for the channel at 0. -/
def psync (a b : Word) : State :=
  let s := (pst a b).modP 512 (fun c => { c with cont := some { Rec.zero with w1 := 0x0040000000000000 } })
  { s with
    chans := [(0, { Chan.reset with owner := some (0, 0), asid := 1 })]
    dies := [(0, { Die.reset with hasps := [(0, ⟨1, 0, 0, locHost 0, []⟩)], draws := [42] })] }
/-- O41. -/
theorem witness_portable_sync : ((psync 0 0).localImage 512 0).isOk ∧
    (psync 0 0).postCheck 1 false (((psync 0 0).localImage 512 0).toOption.getD []) = true ∧ 0x80000 ≤ (0x80000 : Word).toNat ∧
    (psync 0 0).chanOf 0 ((psync 0 0).coreP 512).asid = true ∧ hbindCheck 0 0 64 true = none ∧
    (psync 0 0).hacqCheck 1 0 (acqDesc 2 4) = none ∧ (psync 0 0).hrelCheck 1 0 4 = none ∧ (psync 0 0).notifyCheck 1 0 = none ∧
    ((psync 0 0).die (dieOf 512)).draws = [42] ∧ ((pst 0 0).die (dieOf 512)).draws = [] ∧ (4 : BitVec 3).toNat < 5 ∧ 5 ≤ (5 : BitVec 3).toNat := by
  decide +kernel
/-- A core with a request that it may honour, outside every loop, and one inside a loop at its pc. -/
def asked512 (spans : List (Nat × Nat × Nat)) : State :=
  let s := onP (fun c => { c with run := .running, soft := some 0, cont := some { Rec.zero with w0 := 1, w1 := 0x0040000000000000, w3 := 64 } })
  ({ s with objs := [(0x100001, obj1 spans [])] } : State).write (locCore 512 0) (2 ^ 32 + 1 + 0xFFFF * 2 ^ 128) 64
/-- O42. -/
theorem witness_portable_ends : ((asked512 []).suspImage 512 1 false 0).isOk ∧ ((asked512 []).coreP 512).mayHonour = true ∧ (asked512 []).inSpan 512 = false ∧
    ((asked512 [(0, 0, 4)]).coreP 512).mayHonour = true ∧ (asked512 [(0, 0, 4)]).inSpan 512 = true ∧ ((onP id).coreP 512).mayHonour = false ∧
    isGearC 512 = false := by decide +kernel

/-! ### Events of a core: single steps, and states that meet the hypotheses -/

/-- Core 0 runs, changed. -/
def running (f : CoreC → CoreC) : State := onC (fun c => f { c with run := .running })

/-- A held operation with trigger value t and ports a and b. -/
def hold (op : HoldOp) (t a b val : Word) (img : List Word) : Hold :=
  ⟨op, TVal.ofWord t, TVal.ofWord a, TVal.ofWord b, ⟨0, 0⟩, false, 0, 0, 0, val, img⟩

/-- Core 0 runs ASID 1 and holds slot `u`. -/
def heldC (u : Nat) (h : Hold) : State := running (fun c => { c with
  cont := some { Rec.zero with w1 := 0x0040000000000000 }, slots := c.slots.modify u (fun q => { q with hold := some h }) })

/-- An empty bundle that SYN gathers. -/
def synBundle : Bun := ⟨0, 64, noopMove.setWidth 256 * (List.range 8).foldl (fun x k => x ||| (1 : BitVec 256) <<< (64 + 24 * k)) 0 ||| 0xFF000000000000, 0, LoopSt.none⟩
def interrupted : State := running (fun c => { c with win := [synBundle], uq := [5], uivec := 128, fidx := 1 })
/-- Core 0 at the end of a kernel of one bundle. -/
def atEnd (pass : Nat) : State := running (fun c => { c with
  loop := { LoopSt.none with act := true, len := 1, n := 1, nst := 1, pass := pass }, fetch := 32, fidx := 1
  slots := c.slots.map (fun q => { q with next := 1 }) })

/-- O43: dispatch, both ends of a pass, a write and a landing result, an interrupt. -/
theorem witness_cycle : (running id).runOf 0 = .running ∧ ((running id).coreC ((running id).leader 0)).phase = .start ∧
    (atEnd 1).passEndDue ((atEnd 1).leader 0) = true ∧ (atEnd 0).passEndDue ((atEnd 0).leader 0) = true ∧
    ((after (exec (.loopPassEnd 0) (atEnd 1))).coreC 0).loop.act = false ∧ ((after (exec (.loopPassEnd 0) (atEnd 0))).coreC 0).fetch = 0 ∧
    (interrupted.interruptDue 0).isSome ∧ ((after (exec (.userInterruptTake 0) interrupted)).coreC 0).uiepc = 64 := by decide +kernel
/-- Core 0 at the end of its cycle with a write and a result. -/
def landing : State := running (fun c => { c with phase := .finish, infl := [⟨0, 0, 0, TVal.ofWord 9, 0x40, true, false⟩] })
def writing (d : Dst) : State := running (fun c => { c with phase := .issue, pend := [⟨d, TVal.ofWord 9, 0⟩] })
theorem witness_landing : (landing.coreC 0).group = [] ∧ (landing.coreC 0).todo = [] ∧ (landing.coreC 0).ctl = none ∧ (landing.coreC 0).wnd = [] ∧
    ((landing.coreC 0).slot 0).frz = none ∧ ((after (exec (.resultLand 0) landing)).coreC 0).flg = 0x40 ∧
    (((after (exec (.resultLand 0) landing)).coreC 0).latch 0).word = 9 ∧ ((after (exec (.resultLand 0) (writing (.g 5)))).coreC 0).regG 5 = 9 ∧
    ((after (exec (.resultLand 0) (writing (.v 5)))).coreC 0).regV 5 = TVal.ofWord 9 := by decide +kernel

def cmd (op : MeOp) (t : Word) (tok : Bool) : Cmd := ⟨op, t, 0, 0, 0, 0, none, none, false, tok, 0, 0, false⟩
/-- Core 0 with an engine in some state. -/
def engineOf (now : Nat) (f : Engine → Engine) : State := { running (fun c => { c with eng := f c.eng }) with now := now }
/-- O44: the head of the FIFO, a sequence and its drains, tokens, commands without one, the limiter. -/
theorem witness_engine :
    (((engineOf 0 (fun e => { e with fifo := [cmd .clr 1 false] })).coreC 0).eng.canTake 0) = true ∧
    (((engineOf 0 (fun e => { e with fifo := [cmd .seq 2 false] })).coreC 0).eng.canTake 0) = true ∧
    (let q : SeqPos := ⟨0, 0, 0, false, false, 0⟩; q.j + 1 < bitsOf 2 16 16 + bitsOf 2 0 16) ∧
    ((engineOf 10000 (fun e => { e with fifo := [cmd .acc 0 false] })).coreC 0).eng.needsAdmit 10000 = true ∧
    ((after (exec (.engineWakeAdmit 0) (engineOf 10000 (fun e => { e with fifo := [cmd .acc 0 false] })))).coreC 0).eng.woken = true ∧
    ((after (exec (.engineWakeAdmit 0) { engineOf 10000 (fun e => { e with fifo := [cmd .acc 0 false] }) with
      wakes := List.replicate 32 9000 })).coreC 0).eng.woken = false ∧
    -- the beat that is accepted leaves idle
    (after (exec (.engineConsume 0) (engineOf 10000 (fun e => { e with fifo := [cmd .acc 0 false], woken := true })))).wakes = [10000] := by
  decide +kernel
/-- O44: a resumed sequence whose engine is asleep waits for its admission, and leaves idle at its beat; a `cld` that comes first holds
the reader. -/
theorem witness_resumed_sequence :
    (let e : Bool → State := fun w => engineOf 20000 (fun e => { e with
       fifo := [cmd .seq 2 false], seq := some ⟨0, 0, 0, false, false, 0⟩, asleep := true, woken := w })
     ((e false).coreC 0).eng.needsAdmit 20000 = true ∧ (after (exec (.sequencerStep 0) (e false))).wakes = [] ∧
       ((e true).coreC 0).eng.needsAdmit 20000 = false ∧ ((e true).coreC 0).eng.draining = false ∧
       (after (exec (.sequencerStep 0) (e true))).wakes = [20000] ∧
       (e true).seqLoses 0 (cmd .seq 2 false) ⟨0, 0, 0, false, false, 0⟩ = false) ∧
    (let s := (engineOf 0 (fun e => { e with fifo := [{ cmd .pa 0 false with pb := 3 <<< 36 }] })).modC 1 (fun c => { c with
       slots := c.slots.modify 5 (fun q => { q with hold := some (hold .cld 0x10000000 0 0 0 []) }) })
     s.readerLoses 0 [0] = true ∧ s.readerLoses 0 [64] = true ∧ s.readerLoses 0 [128] = false) := by decide +kernel
theorem witness_engine_steps :
    ((after (exec (.engineConsume 0) (engineOf 0 (fun e => { e with fifo := [cmd .clr 1 false] })))).coreC 0).eng.fifo = [] ∧
    ((after (exec (.sequencerStep 0) (engineOf 0 (fun e => { e with fifo := [cmd .seq 2 false], seq := some ⟨0, 0, 0, false, false, 0⟩ })))).coreC 0).eng.seq =
      some ⟨1, 0, 0, false, false, 0⟩ ∧
    ((after (exec (.sequencerStep 0) (engineOf 0 (fun e => { e with fifo := [cmd .seq 2 false], seq := some ⟨1, 95, 3, true, false, 0⟩ })))).coreC 0).eng.seq =
      some ⟨1, 95, 4, true, false, 0⟩ ∧
    ((after (exec (.tokenReturn 0) (engineOf 0 (fun e => { e with cur := some (cmd .dr 0 true), iss := 1, out := some ⟨7, 1⟩ })))).coreC 0).eng.ret = 1 ∧
    ((after (exec (.tokenReturn 0) (engineOf 0 (fun e => { e with cur := some (cmd .dr 0 true), iss := 1, out := some ⟨7, 1⟩ })))).coreC 0).infl.map Infl.val = [⟨7, 1⟩] ∧
    ((after (exec (.commandInFlightComplete 0) (engineOf 0 (fun e => { e with cur := some (cmd .clr 0 false) })))).coreC 0).eng.cur = none := by
  decide +kernel

/-- ASID 1's channel 1 at a timeline value, with a fault or without. -/
def onTimeline (tl : Nat) (bad : List (Nat × Nat)) (s : State) : State :=
  { s with chans := [(1, { Chan.reset with owner := some (0, 1), asid := 1, tl := tl, pending := !bad.isEmpty, faulted := bad })] }
def withHasp (s : State) : State := { s with dies := [(0, { Die.reset with hasps := [(0, ⟨1, 0, 0, locCore 0 64, []⟩)] })] }
/-- O45: a grant, a drain, a timeline reached, not reached, and faulted. -/
theorem witness_releases :
    ((after (exec (.clusterGrant 0) (heldC 5 (hold .cld 0x10000000 0 0 0 [])))).coreC 0).rst.map StLine.addr = [0, 64] ∧
    (after (exec (.writeStagingDrain 0) (stagedTwo 1))).cores ≠ (stagedTwo 1).cores ∧
    reached 5 5 = true ∧ reached 4 5 = false ∧ (onTimeline 5 [] (heldC 7 (hold .twait 5 1 0 0 []))).coveredFault 1 1 5 = none ∧
    (onTimeline 5 [(5, 1)] (heldC 7 (hold .twait 5 1 0 0 []))).coveredFault 1 1 5 = some (5, 1) ∧
    (onTimeline 5 [(5, 1)] (heldC 7 (hold .twait 5 1 0 0 []))).coveredFault 2 1 5 = none ∧
    holdOf 7 (exec (.twaitRelease 0) (onTimeline 5 [] (heldC 7 (hold .twait 5 1 0 0 [])))) = none ∧
    holdOf 7 (exec (.twaitRelease 0) (onTimeline 4 [] (heldC 7 (hold .twait 5 1 0 0 [])))) = some .twait ∧
    (onTimeline 5 [] (heldC 7 (hold .twait 5 1 0 0 []))).heldAs 0 = some (hold .twait 5 1 0 0 []) := by decide +kernel
/-- Hasps: a condition that holds, a release that no staged line delays, publication, a name to bind, bound before or not. -/
theorem witness_hasps : ((withHasp (heldC 7 (hold .hacq 0 16 0 0 []))).hasp 1 0).isSome ∧ haspCond 1 0 0 = true ∧
    holdOf 7 (exec (.hacqRelease 0) (withHasp (heldC 7 (hold .hacq 0 16 0 0 [])))) = none ∧
    (after (exec (.hrelDone 0) (withHasp (heldC 7 (hold .hrel 77 0 0 0 []))))).read (locCore 0 64) 8 = 77 ∧
    holdOf 7 (exec (.hpubDone 0) (heldC 7 (hold .hpub 4 0 0 0 []))) = none ∧ (heldC 7 (hold .hpub 4 0 0 0 [])).published 0 4 = true ∧
    holdOf 7 (exec (.hpubDone 0) (heldC 7 (hold .hobs 4 0 0 0 []))) = none ∧
    (((heldC 7 (hold .hbind 0x0100000000000040 0 64 0 [])).haspLoc 0 0x0100000000000040).1).isOk ∧
    (((heldC 7 (hold .hbind 0x40 0 64 0 [])).haspLoc 0 0x40).1).isOk = false ∧
    holdOf 7 (exec (.hbindDone 0 true) (heldC 7 (hold .hbind 0x40 0 64 0 []))) = some .hbind ∧
    holdOf 7 (exec (.hbindDone 0 true) (after (exec (.hbindDone 0 true) (heldC 7 (hold .hbind 0x40 0 64 0 []))))) = none ∧
    ((after (exec (.hbindDone 0 true) (heldC 7 (hold .hbind 0x0100000000000040 0 64 0 [])))).die 0).hasps.length = 1 ∧
    ((after (exec (.hbindDone 0 true) (withHasp (heldC 7 (hold .hbind 0x0100000000000040 0 64 0 []))))).die 0).hasps.map (fun p => p.2.regions.length) = [1] := by
  decide +kernel

/-- A table whose first n keys are taken has none free below n. -/
def full {α : Type} (n : Nat) (a : α) : Tab α := (List.range n).map (fun i => (i, a))
theorem find_full {α : Type} (a : α) (l : List Nat) (i : Nat) (h : i ∈ l) : (Tab.find (l.map (fun i => (i, a))) i).isSome = true := by
  induction l with
  | nil => simp at h
  | cons x t ih =>
    simp only [List.map_cons, Tab.find]
    split
    · rfl
    · exact ih (by simpa [show ¬ i = x from fun e => by simp_all] using h)
theorem lowestFree_full {α : Type} (n : Nat) (a : α) : lowestFree (full n a) n = none := by
  simp only [lowestFree, full, List.find?_eq_none, List.mem_range]
  intro i hi
  have := find_full a (List.range n) i (by simp; omega)
  intro h
  rw [Option.isNone_iff_eq_none] at h
  rw [h] at this
  cases this
/-- O45, O46: tables with no entry left. -/
theorem witness_tables_full : lowestFree (full 16384 (⟨1, 0, 0, 5, []⟩ : HaspEnt)) 16384 = none ∧ lowestFree (full 278528 (⟨1, 0, 0, 5, []⟩ : HaspEnt)) 278528 = none ∧
    lowestFree (full 4096 (⟨1, 0, 0, 0, 0⟩ : Barrier)) 4096 = none := ⟨lowestFree_full _ _, lowestFree_full _ _, lowestFree_full _ _⟩

/-! ### Ends of held operations, stops, the scheduler -/

/-- ASID 1 of this state has tables that map the first GiB onto host memory, page by page writable and executable. -/
def mapped (s : State) : State :=
  ((((s.write 64 0x10001 8).write 0x10000 0x8000000000011001 8).write 0x11000 0x8000000000012001 8).write 0x12000 0x000300000000009F 8)

/-- ASID 1's channel 1, its write index at 0x1000 and ring at 0x2000 of host memory. -/
def channel (s : State) (pkts : List Pkt) : State :=
  { s with chans := [(1, { Chan.reset with owner := some (0, 1), asid := 1, widx := 0x1000, ring := 0x2000, log := 6, pkts := pkts })] }

/-- A started packet of number n. -/
def pkt (n : Nat) (ws : List Word) : Pkt := ⟨n, ws, none, none, false, 0, false, 0, none, false, none, false, 1, none, [], [], []⟩

theorem witness_barrier_ends : (let s := { heldC 7 (hold .bwait 0 0 0 0 []) with dies := [(0, { Die.reset with barriers := [(0, ⟨2, 0, 1, 1, 1⟩)] })] }
      (s.barrierAt 0).isSome ∧ s.heldAs 0 = some (hold .bwait 0 0 0 0 []) ∧ holdOf 7 (exec (.bwaitRelease 0) s) = none) ∧
    lowestFree (Die.reset.barriers) 4096 = some 0 ∧
    holdOf 7 (exec (.ballocDone 0) (heldC 7 (hold .balloc 0x10005 0 0 0 []))) = none := by decide +kernel
/-- A claim: the index word at 0x1000 goes from 6 to 7. -/
theorem witness_claim : let s := (mapped (channel (heldC 7 (hold .post 0 0 0 1 [1])) [])).write (locHost 0x1000) 6 8
    ((s.engPieces (engOf 1) 1 0x1000 8 .write).1).isOk ∧ (after (exec (.postClaim 0) s)).read (locHost 0x1000) 8 = 7 ∧
      holdOf 7 (exec (.postClaim 0) s) = none := by decide +kernel
theorem witness_other_ends : holdOf 7 (exec (.tpostDone 0) (heldC 7 (hold .tpost 0 0 0 0 []))) = none ∧
    holdOf 7 (exec (.icacheDiscardDone 0) (heldC 7 (hold .icinv 64 0 0 0 []))) = none ∧ State.reset.wantsDraw 0 = [] ∧
    (heldC 7 (hold .rnd 0 0 0 0 [])).wantsDraw 0 = [0] ∧ ((after (exec (.entropyReady 0 5) State.reset)).die 0).draws = [5] ∧
    holdOf 7 (exec (.entropyReady 0 5) (heldC 7 (hold .rnd 0 0 0 0 []))) = none := by decide +kernel
/-- Cores 0 and 1, a decoupled tandem, both at a `rejoin` in the bundle at 64. -/
def rejoining : State :=
  let c : CoreC := { CoreC.reset with
    run := .running, group := [0, 1], dec := true, fidx := 1, win := [{ synBundle with addr := 64 }]
    slots := (CoreC.reset.slots.map (fun q => { q with next := 1 })).modify 6 (fun q => { q with hold := some (hold .rejoin 0 0 0 0 []) }) }
  { State.reset with cores := [(0, c), (1, { c with lane := 1 })] }
theorem witness_tandems : (rejoining.coreC 0).group ≠ [] ∧ (rejoining.coreC 0).dec = true ∧ (∀ m ∈ (rejoining.coreC 0).group, (rejoining.coreC m).waitsAt .rejoin = true) ∧
    (∀ m ∈ (rejoining.coreC 0).group, rejoinAddr (rejoining.coreC m) = rejoinAddr (rejoining.coreC 0)) ∧
    ((after (exec (.rejoinRelease 0) rejoining)).coreC 1).fetch = 96 ∧
    (let s := (heldC 6 (hold .fuse 1 0 0 0 [])).modC 0 (fun c => { c with
       win := [{ synBundle with addr := 64 }], fidx := 1, slots := c.slots.map (fun q => { q with next := 1 }) })
     (s.coreC 0).waitsAt .fuse = true ∧ s.vacant 1 = true ∧ ((after (exec (.fuseRelease 0) s)).coreC 1).lane = 1 ∧
       ((after (exec (.fuseRelease 0) s)).coreC 1).fetch = 96) ∧
    -- a member at another address than lane 0's
    (let s := rejoining.modC 1 (fun c => { c with win := [{ synBundle with addr := 128 }] })
     ((s.coreC 0).group.filter (fun m => decide (rejoinAddr (s.coreC m) ≠ rejoinAddr (s.coreC 0)))) = [1] ∧
       ((after (exec (.rejoinRelease 0) s)).coreC 1).stop.map (fun r => causeCode r.cause) = some 1 ∧
       ((after (exec (.rejoinRelease 0) s)).coreC 0).stop = none) := by decide +kernel
/-- A cluster with one trigger that adds 5 to the INT32 at 0. -/
def triggered : State := State.reset.setCluster 0 ⟨[⟨0, 0, false, false, 0, [(0, 5, 0)]⟩], [], []⟩
theorem witness_sae : (triggered.cluster 0).queue.take 1 ≠ [] ∧ 1 ≤ (triggered.cluster 0).queue.length ∧
    (((triggered.cluster 0).queue.take 1).map (fun t => t.ops.length)).sum ≤ 64 ∧
    (∀ t ∈ (triggered.cluster 0).queue.take 1, ∀ l ∈ (triggered.coreC t.core).wst, t.at_ < l.at_) ∧
    triggered.cldFirst 0 srcSae (saeLines (saeWindow ((triggered.cluster 0).queue.take 1))) = false ∧
    (after (exec (.saeApply 0 1) triggered)).read (locClus 0 0) 4 = 5 := by decide +kernel

/-- Core 0 with every slot frozen before a stop. -/
def frozen : State := running (fun c => { c with
  stop := some ⟨0, 64, causeWord false 6 0x0D 7, some 0, none⟩, slots := c.slots.map (fun q => { q with frz := some 0 }) })
/-- O47. -/
theorem witness_stop : isGearC 0 = true ∧ (frozen.coreC 0).allFrozen = true ∧ (frozen.coreC 0).stop.isSome ∧ (frozen.coreC 0).infl = [] ∧
    (frozen.coreC 0).wnd = [] ∧ (frozen.coreC 0).eng.cur = none ∧ (frozen.coreC 0).eng.sqs = [] ∧ (frozen.coreC 0).run = .running ∧
    ((after (exec (.stop 0) frozen)).coreC 0).run = .stopped ∧ causeCode ((after (exec (.stop 0) frozen)).coreC 0).cause = 0x0D := by decide +kernel

/-- A record of ASID 1: priority 0, width code `tw`, gears `gm`, KEY. -/
def rec1 (pri tw gm key : Nat) : Rec := { Rec.zero with
  w0 := BitVec.ofNat 64 (pri * 2 ^ 46 + tw * 2 ^ 35 + gm * 2 ^ 32 + 1), w1 := BitVec.ofNat 64 (2 ^ 54 + key), w2 := 0xFFFF, w3 := 64 }
/-- A runnable task of it in partition 0. -/
def task1 (r : Rec) : Task := ⟨r, .runnable, 0, 0, 0, true, 0, 1, 0, 0, true, none, 0, 0, 0, none, false, 0, none, false, false⟩
def queued (now : Nat) (l : List (Nat × Task)) : State := { State.reset with
  now := now, live := [1], tasks := l, ntask := 5, parts := [(0, ⟨[], [(0, [1])], none, [], [], 0⟩)], objs := [(0x100001, obj1 [] [(0, 128)])] }
/-- O48: a core that has run too long, was asked, would shift, meets a breakpoint or a cadence. -/
theorem witness_async :
    (let s : State := { running (fun c => { c with soft := some 0 }) with now := 200000000 }
     s.runOf 0 = .running ∧ 0 + 1000 * 200 ≤ s.now ∧ bitsOf (s.limitOf (s.asidOf 0)) 32 16 = 100 ∧ bitsOf (s.limitOf (s.asidOf 0)) 0 20 = 200 ∧
       trapped (exec (.watchdog 0) s) = some 0x22 ∧ trapped (exec (.preemptionDeadline 0) s) = some 0x30 ∧
       trapped (exec (.sramError 4 9 0 false) s) = none ∧
       (after (exec (.sramError 4 9 0 false) s)).bad = [⟨4, 0, 9, none⟩] ∧ trapped (exec (.sramError 3 9 0 false) s) = some 0x21) ∧
    (let s := mapped { running (fun c => { c with task := some 0 }) with tasks := [(0, { task1 (rec1 0 0 1 0x1000) with asked := true })] }
     s.wouldShift 0 = true ∧ ((after (exec (.shiftRequest 0) s)).coreC 0).shift = true) ∧
    (let s : State := { running id with blocks := [(0, { Block.reset with cen := true })] }
     s.cadenceDue 0 = true ∧ trapped (exec (.cadenceBreakpoint 0) s) = some 0x31) := by decide +kernel
theorem witness_breakpoints :
    (let s : State := { running (fun c => { c with phase := .issue, win := [synBundle], fidx := 1, todo := [(0, 0)], slots := c.slots.modify 0 (fun q => { q with next := 1 }) }) with bps := [(0, 0x8000000000000040)] }
     s.breakpointDue 0 = some (0, false) ∧ trapped (exec (.breakpoint 0) s) = some 0x0C) ∧
    (let s : State := { onP (fun c => { c with run := .running, pc := 64 }) with bps := [(0, 0x8000000000000040)] }
     s.breakpointDue 512 = some (0, false) ∧ trappedP (exec (.breakpoint 512) s) = some 0x0C) := by decide +kernel
theorem witness_stops_ends :
    (let s := onP (fun c => { c with run := .running, stop := some (causeWord false 0 0x0D 3, none) })
     (s.coreP 512).stop.isSome ∧ ((after (exec (.stop 512) s)).coreP 512).run = .stopped) ∧
    (let s := (mapped (asked512 [(3, 0, 4)])).modP 512 (fun c => { c with arrived := true })
     s.boundary 512 = some (3, 0) ∧ ((after (exec (.handOver 512) s)).coreP 512).run = .idle) ∧
    (let s := running (fun c => { c with fidx := 1, slots := (c.slots.map (fun q => { q with next := 1 })).modify 6 (fun q => { q with
       hold := some (hold .susp 0 0 0 0 []) }) })
     (s.endReached 0).isSome ∧ ((after (exec (.handOver 0) s)).coreC 0).run = .idle) := by decide +kernel

/-- O48, O49: a record that is picked, dispatched, resumed. -/
theorem witness_dispatch :
    (let s := queued 0 [(0, task1 (rec1 0 0 4 0))]
     (s.pick 0 0).1 = some (0, task1 (rec1 0 0 4 0)) ∧ s.coresFor 0 0 (task1 (rec1 0 0 4 0)) = some [0] ∧
       ((after (exec (.dispatch 0 0) s)).coreC 0).run ≠ .idle) ∧
    (let t := { task1 (rec1 0 0 4 0) with ctx := some ⟨[CoreC.reset], none, [[]], 0x0021, none, (0, 0)⟩ }
     let s := queued 0 [(0, t)]
     (s.pick 0 0).1 = some (0, t) ∧ ((after (exec (.resume 0 0) s)).coreC 0).run = .running) := by decide +kernel
/-- O49: a wait that has come, gathering, both pre-emptions. -/
theorem witness_scheduler :
    (let s := queued 7 [(0, { task1 { rec1 0 0 4 0 with w2 := 0x50001 } with st := .waiting })]
     let s : State := { s with chans := [(1, { Chan.reset with tl := 5 })] }
     (reached (s.chan 1).tl 5 = true) ∧ ((after (exec (.recordWake 0) s)).task 0).map Task.st = some .runnable) ∧
    (let s : State := { queued 64000 [(0, task1 (rec1 0 1 4 0))] with
       parts := [(0, ⟨[], [], none, [], [(0, 0)], 0⟩)]
       cores := (List.range 8).map (fun i => (2 * i + 1, { CoreC.reset with run := .running })) }
     s.gatherers 0 = [(0, task1 (rec1 0 1 4 0))] ∧ ((after (exec (.gatherStart 0) s)).part 0).gather = some (0, 64000, false)) ∧
    (let s : State := { queued 1000000 [(0, task1 (rec1 0 1 4 0))] with parts := [(0, ⟨[], [], some (0, 0, false), [], [], 0⟩)] }
     ((after (exec (.gatherPreempt 0) s)).part 0).gather = some (0, 0, true)) ∧
    (let s : State := { queued 20000 [(0, task1 (rec1 7 0 4 0)), (1, { task1 (rec1 0 0 4 0) with st := .running })] with
       parts := [(0, ⟨[], [], none, [(0, 0)], [], 0⟩)]
       cores := (0, { CoreC.reset with run := .running, task := some 1 }) :: (List.range 15).map (fun i => (i + 1, { CoreC.reset with run := .stopped })) }
     s.ready 0 0 (task1 (rec1 7 0 4 0)) = true ∧ (task1 (rec1 7 0 4 0)).eff 20000 = 7 ∧ (∀ c ∈ partCores 0, s.idleCore c = false) ∧
       (s.runningIn 0).length = 1 ∧ ((after (exec (.level7Preempt 0) s)).coreC 0).soft = some 20000) := by decide +kernel
theorem witness_launch_groups :
    (let p := { pkt 5 [0, 9, 0, 0, 0, 0, 0, 0] with group := some 0 }
     let s : State := { channel State.reset [p] with grps := [(0, ⟨1, 1, 5⟩)] }
     Tab.find s.grps 0 = some ⟨1, 1, 5⟩ ∧ s.groupBusy 0 ⟨1, 1, 5⟩ = false ∧ s.pkt 1 5 = some p ∧ (s.groupWord 1 p).1 = some 0 ∧
       (after (exec (.launchGroupComplete 0) s)).grps = []) := by decide +kernel

/-! ### Queues, packets, peers, translation, host -/

/-- Channel 1 with its write index and, in its first slot, a NULL packet whose CRC is good or not. -/
def submitted (good : Bool) : State :=
  let s := mapped (channel State.reset [])
  let s := s.write (locHost 0x1000) 1 8
  let ws : List Word := [0x10000, 0, 0, 0, 0, 0, 0, 1]
  s.write (locHost 0x2000) (ofWords (ws.set 7 (if good then BitVec.ofNat 64 ((pktCrc ws).toNat * 2 ^ 32 + 1) else 1))) 64

/-- O50. -/
theorem witness_queue_packets :
    ((submitted true).frontEnd 1).1.isSome ∧ ((submitted true).frontEnd 1).1.map Prod.snd = some true ∧
    ((submitted false).frontEnd 1).1.map Prod.snd = some false ∧
    (((after (exec (.takePacket 1) (submitted true))).chan 1).pkts.map (fun p => (p.n, p.op, p.bad))) = [(1, 0, false)] ∧
    ((after (exec (.takePacket 1) (submitted false))).chan 1).matched = some 0 ∧
    (let s : State := { (submitted false).modChan 1 (fun c => { c with matched := some 0 }) with now := 100000 }
     ((s.frontEnd 1).1.map Prod.snd, ((s.frontEnd 1).2.chan 1).matched, (s.frontEnd 1).2.now) = (some false, some 0, 100000) ∧
     (((after (exec (.packetCrcTimeout 1) s)).chan 1).ridx, ((after (exec (.packetCrcTimeout 1) s)).chan 1).pkts.map Pkt.bad) = (1, [true])) ∧
    (let s := submitted true
     (s.chan 1).owner = some (0, 1) ∧ ((after (exec (.queueAbort 1) s)).chan 1).owner = none) := by decide +kernel
theorem test_queue_close : let s := { State.reset with qdesc := [(1, [0, 0, 0, 0, 0, 0, 1, 0])] }
    s.descValid 0 1 = true ∧ s.descValid 0 0 = false ∧ (after (exec (.queueClose 0 0) s)).qdesc = s.qdesc ∧
      (after (exec (.queueCreate 0 1) s)).qdesc = s.qdesc ∧ (after (exec (.queueClose 0 1) { s with chans := [(1, { Chan.reset with owner := some (0, 1) })] })).descValid 0 1 = false := by decide +kernel

/-- Channel 1 bound with ASID 1. -/
def bind1 (ch : Nat) : Word := BitVec.ofNat 64 (2 ^ 63 + ch * 2 ^ 26 + 2 ^ 16)
/-- O51: each refusal of a binding, and one that is written; ASID 1 is of VM 1. -/
theorem witness_binding :
    (let s := State.reset.write 72 1 8
     s.descValid 1 0 = false ∧ (bind1 1).getLsbD 63 = true ∧ bitsOf (bind1 1) 26 11 = 1 ∧ descVm (s.readDesc (1 / 512) 1) = 1 ∧
       bitsOf (bind1 1) 37 26 = 0 ∧ bitsOf (bind1 1) 0 16 = 0 ∧ s.binds = [] ∧ (s.chan 1).owner = none ∧
       (after (exec (.channelBind 1 0 (bind1 1)) s)).bindWord 1 0 = bind1 1 ∧
       bitsOf (bind1 63) 26 11 % 64 = 63 ∧ (after (exec (.channelBind 1 0 (bind1 63)) s)).binds = [] ∧
       descVm (s.readDesc 0 1) ≠ 64 ∧ (after (exec (.channelBind 64 15 (bind1 1)) s)).binds = [] ∧
       (after (exec (.channelBind 1 0 (bind1 1 ||| 1)) s)).binds = [] ∧ (after (exec (.channelBind 1 0 (1 ||| 0xA0000)) s)).bindWord 1 0 = 0xA0000) ∧
    (let s : State := { State.reset.write 72 1 8 with binds := [(17, bind1 1)] }
     (after (exec (.channelBind 1 0 (bind1 1)) s)).binds = s.binds ∧ (after (exec (.channelBind 1 1 (bind1 1)) s)).binds = s.binds) ∧
    (let s := (channel State.reset []).write 72 1 8
     (s.chan 1).owner = some (0, 1) ∧ (after (exec (.channelBind 1 0 (bind1 1)) s)).binds = []) ∧
    (let s : State := { State.reset.write 72 1 8 with qdesc := [(4096, [0, 0, 0, 0, 0, 0, 1, 0])] }
     s.descValid 1 0 = true ∧ (after (exec (.channelBind 1 0 (bind1 1)) s)).binds = []) := by decide +kernel

/-- Channel 1 with one started packet of ASID 1. -/
def act (op : Nat) (w1 w2 w3 w4 w6 : Word) : Pkt := pkt 1 [BitVec.ofNat 64 (0x10000 + op), w1, w2, w3, w4, 0, w6, 1]
def acting (p : Pkt) : State := mapped (channel State.reset [p])
/-- Byte `a` of core 0's scratchpad as a packet's address word. -/
def spad (a : Nat) : Word := BitVec.ofNat 64 (2 ^ 56 + a)
def rowsOf (n b : Nat) : Word := BitVec.ofNat 64 (n * 2 ^ 32 + b)
abbrev runs (p : Pkt) : Prop := (acting p).pkt 1 1 = some p ∧ p.done = false ∧ p.bad = false ∧ p.fault = none ∧ p.phase ≠ 0
/-- O52: NULL, started or not. -/
theorem witness_null : runs (act 0 0 0 0 0 0) ∧ (act 0 0 0 0 0 0).op = 0 ∧
    (let p := { act 0 0 0 0 0 0 with phase := 0 }
     (acting p).pkt 1 1 = some p ∧ p.acq = false ∧ ((acting p).chan 1).mayStart p = true) ∧
    (((after (exec (.nullPacket 1 1) (acting (act 0 0 0 0 0 0)))).pkt 1 1).map Pkt.done) = some true := by decide +kernel
/-- The status of packet 1 after an instruction: next row, finished, code. -/
def status (o : Host.Outcome State Fault Refusal) : Option (Nat × Bool × Nat) := ((after o).pkt 1 1).map (fun p => (p.row, p.done, p.code))
abbrev goes (r : RowOut × State) : Bool := match r.1 with | .go => true | _ => false
theorem witness_rows :
    (let p := act 1 (spad 0) (spad 64) (rowsOf 2 8) 0x1000000010 0
     let s := (acting p).write (locCore 0 0) 0xABCD 8
     s.pkt 1 1 = some p ∧ p.op = 1 ∧ p.rows ≠ 0 ∧ p.rb ≠ 0 ∧ s.windowGone p 2 = false ∧ p.converts = false ∧
       goes (s.oneRow 1 p (some 0) 0 (fun x => x)) ∧ status (exec (.copy 1 1) s) = some (1, false, 0) ∧
       (after (exec (.copy 1 1) s)).read (locCore 0 64) 8 = 0xABCD) ∧
    (let p := { act 2 0 (spad 64) (rowsOf 2 8) 0x1000000000 7 with row := 1 }
     p.op = 2 ∧ p.rows ≤ p.row + 1 ∧ goes ((acting p).oneRow 1 p none 16 (fun _ => 7)) ∧ status (exec (.fill 1 1) (acting p)) = some (2, true, 0) ∧
       (after (exec (.fill 1 1) (acting p))).read (locCore 0 80) 8 = 7) ∧
    (let p := { act 3 (spad 0) (spad 64) (rowsOf 1 8) 0x10 0 with list := [3] }
     let s := (acting p).write (locCore 0 48) 5 8
     p.op = 3 ∧ goes (s.oneRow 1 p (some 48) 0 (fun x => x)) ∧ (after (exec (.gather 1 1) s)).read (locCore 0 64) 8 = 5) ∧
    (let p := { act 4 (spad 0) (spad 64) (rowsOf 1 8) 0x1000000000 0 with list := [3] }
     let s := (acting p).write (locCore 0 0) 5 8
     p.op = 4 ∧ goes (s.oneRow 1 p (some 0) 48 (fun x => x)) ∧ (after (exec (.scatter 1 1) s)).read (locCore 0 112) 8 = 5) := by decide +kernel
/-- A converting copy; no rows; a window whose tandem is gone. -/
theorem witness_more_rows :
    (let p := { act 1 (spad 0) (spad 64) (rowsOf 1 8) 0 0 with words := (act 1 (spad 0) (spad 64) (rowsOf 1 8) 0 0).words.set 5 0x001C1A }
     p.converts = true ∧ goes ((acting p).oneRow 1 p (some 0) 0 (fun x => p.convRow x ((acting p).scaleOf p 0)))) ∧
    status (exec (.copy 1 1) (acting (act 1 (spad 0) (spad 64) 0 0 0))) = some (0, true, 0) ∧
    (let p := act 2 0 (BitVec.ofNat 64 (3 * 2 ^ 56)) (rowsOf 1 8) 0 0
     (acting p).windowGone p 2 = true ∧ status (exec (.fill 1 1) (acting p)) = some (0, true, 5)) := by decide +kernel
theorem witness_other_packets :
    (let p := act 0x0A 0 (spad 64) 0 0 9
     p.op = 0x0A ∧ (acting p).windowGone p 2 = false ∧
       goes ((acting p).oneRow 1 { p with words := p.words.set 3 ((1 : Word) <<< 32 ||| 8) } none 0 (fun _ => 9)) ∧
       (after (exec (.signal 1 1) (acting p))).read (locCore 0 64) 8 = 9) ∧
    (let p := act 5 0 (spad 64) (rowsOf 1 8) 2 9
     let s := (acting p).write (locCore 0 64) 5 8
     p.op = 5 ∧ p.addr 2 % p.rb = 0 ∧ p.space 2 ≠ 0 ∧ (s.rowLocs 1 p 2 0 p.rb .write).1.toOption = some [(locCore 0 64, 8)] ∧
       (after (exec (.atom 1 1) s)).read (locCore 0 64) 8 = 14) ∧
    (let p := act 0x0B 0 0 0 2 5
     let s : State := { acting p with chans := (acting p).chans ++ [(2, { Chan.reset with tl := 5 })] }
     p.op = 0x0B ∧ reached ((acting p).chan 2).tl 5 = false ∧ status (exec (.waittl 1 1) (acting p)) = some (0, false, 0) ∧
       reached (s.chan 2).tl 5 = true ∧ (s.chan 2).wrote = [] ∧ status (exec (.waittl 1 1) s) = some (0, true, 0)) ∧
    (let p := act 0x0C 0 0 (rowsOf 1 64) 0 15
     p.op = 0x0C ∧ ((acting p).rowLocs 1 p 1 0 64 .code).1.isOk ∧ status (exec (.icinv 1 1) (acting p)) = some (0, true, 0)) ∧
    (let p := act 0x09 0 0 (rowsOf 1 64) 0 0
     let q := { p with group := some 0, row := 1 }
     p.op = 0x09 ∧ p.group = none ∧ status (exec (.launch 1 1) (acting p)) = some (0, true, 5) ∧ runs q ∧
       status (exec (.launch 1 1) (acting q)) = some (1, false, 0)) := by decide +kernel

/-- O53: a segment of 64 KiB of ASID 1 whose map entry lies at host byte 0x3000; segment word `w`. -/
def segAt (w : Nat) (p : Pkt) : State :=
  ({ acting p with objs := [(0x100001, ⟨[], [⟨0x200000, 0x10000, 4096, 0, 0x10000, [locHost 0x3000]⟩], 0, [], 0, [], [], [], []⟩)] } : State).write (locHost 0x3000) w 8
def segRef : SegRef := ⟨0x100001, 0x200000, 0x10000, locHost 0x3000, 4096, 0⟩
def mover (op phase : Nat) : Pkt := { act op 0x200000 0 (rowsOf 1 0x10000) 0 0 with phase := phase }
theorem witness_segments :
    ((segAt 0 (mover 7 1)).moveSeg (mover 7 1)) = some segRef ∧ (segAt 0 (mover 7 1)).segWord segRef = 0 ∧
    (mover 7 1).op = 7 ∧ (mover 8 1).op = 8 ∧ runs (mover 7 1) ∧ runs (mover 8 3) ∧
    ((after (exec (.promote 1 1 []) (segAt 0 (mover 7 1)))).pkt 1 1).map Pkt.phase = some 3 ∧
    (after (exec (.promote 1 1 []) (segAt 0 (mover 7 1)))).segWord segRef = 0x2000000000000000 ∧
    ((after (exec (.demote 1 1) (segAt (2 ^ 62) (mover 8 1)))).pkt 1 1).map Pkt.phase = some 3 ∧
    bitsOf ((segAt (2 ^ 61) (mover 7 3)).segWord segRef) 62 2 = 0 ∧ status (exec (.promote 1 1 []) (segAt (2 ^ 61) (mover 7 3))) = some (0, true, 0) ∧
    bitsOf ((segAt (3 * 2 ^ 61) (mover 8 3)).segWord segRef) 62 2 = 1 ∧ status (exec (.demote 1 1) (segAt (3 * 2 ^ 61) (mover 8 3))) = some (0, true, 0) ∧
    (let s : State := { segAt (3 * 2 ^ 61) (mover 7 3) with qlimit := [(0, 15)] }
     status (exec (.promote 1 1 []) s) = some (0, true, 2)) := by decide +kernel
theorem witness_peer_packets :
    (let p := act 6 0 0 0 0 0
     runs p ∧ p.op = 6 ∧ p.rows = 0 ∧ (∀ q ∈ ((acting p).chan 1).pkts, q.n = 1 → q = p) ∧
       ((after (exec (.send 1 1) (acting p))).pkt 1 1).map (fun q => (q.done, q.complete)) = some (true, true)) ∧
    (let p := { act 6 0 0 (rowsOf 1 8) 0 1 with done := true, sent := some 0 }
     let s := acting p
     let t : State := { s.setPort 0 { Port.reset with sends := [(1, 1, 1)] } with now := 10000000 }
     s.waitsAck 1 1 = some p ∧ t.waitsAck 1 1 = some p ∧ (s.port 0).sends = [] ∧ (t.port 0).sends = [(1, 1, 1)] ∧
       ((after (exec (.sendAcknowledged 1 1) s)).pkt 1 1).map Pkt.acked = some true ∧
       ((after (exec (.sendAckTimeout 1 1) t)).pkt 1 1).map (fun q => (q.code, q.acked)) = some (3, true)) := by decide +kernel
theorem witness_ports :
    (let s : State := { State.reset.setPort 2 { Port.reset with lanes := 8, unack := [⟨0, []⟩] } with now := 8000 }
     (s.port 2).lanes ≠ 0 ∧ (s.port 2).replay < 16 ∧ ((after (exec (.flitReplay 2) s)).port 2).replay = 1 ∧
       ((after (exec (.flitReceive 2 0 [] false) s)).port 2).drop = true) ∧
    (let s := State.reset.setPort 2 { Port.reset with lanes := 8, replay := 16 }
     ((after (exec (.portRetrain 2 3) s)).port 2).lanes = 0 ∧ ((after (exec (.portRetrain 2 1) s)).port 2).lanes = 4) := by decide +kernel
/-- O54: a parked fault of packet 1 since 0. -/
def faulted (now : Nat) : State := { acting { act 0 0 0 0 0 0 with fault := some (1, 0) } with now := now }
theorem witness_faults :
    ((faulted 100000000).pkt 1 1).bind Pkt.fault = some (1, 0) ∧
    ((after (exec (.faultResolved 1 1) (faulted 5))).pkt 1 1).bind Pkt.fault = none ∧
    status (exec (.faultUnrecoverable 1 1) (faulted 5)) = some (0, true, 4) ∧
    status (exec (.faultTimeout 1 1) (faulted 100000000)) = some (0, true, 4) ∧
    (let s := (acting (act 0 0 0 0 0 0)).modChan 1 (fun c => { c with parked := some (1, 0) })
     (s.chan 1).halted = false ∧ ((after (exec (.faultResolved 1 0) s)).chan 1).parked = none) := by decide +kernel
theorem witness_invalidation :
    State.reset.invstat.getLsbD 0 = false ∧ bitsOf State.reset.invva 54 10 = 0 ∧ bitsOf State.reset.invva 0 12 = 0 ∧
    (after (exec (.invalidateAsid 5) State.reset)).invstat.getLsbD 0 = true ∧ (after (exec (.invalidateAsid 0x80000) State.reset)).invstat.getLsbD 2 = true ∧
    (let s := { State.reset with invstat := 1, invnow := some (1, 0, 5, 0) }
     (∀ e ∈ s.ces, ∀ t ∈ e.2.tlb, t.2.retired = true → t.2.holders = []) ∧ bitsOf (after (exec .invalidateComplete s)).invstat 32 32 = 1 ∧
       (after (exec (.invalidateVa 0) s)).invstat.getLsbD 2 = true) ∧
    (let s := State.reset.setDie 0 { Die.reset with rlc := [(5, 0)] }
     s.chunkMapped 0 = false ∧ (List.range 4).all (fun d => decide (({ s with home := Tab.put s.home 0 8 } : State).backing d ≤ 4 * 61035)) = true ∧
       (after (exec (.homeMapChange 0 8) s)).home = [(0, 8)]) := by decide +kernel
/-- O55: chunk 0 of HBM is present and BAR2 has 8 bytes and more. -/
def windowed : State := { State.reset with home := [(0, 8)], bar2 := 4096 }
theorem witness_host :
    ((windowed.bar2Locs 0 64 2 .write).1.toOption = some [(64, 2)]) ∧ ((windowed.bar2Locs 0 64 8 .read).1.toOption = some [(64, 8)]) ∧
    (windowed.bar2Locs 0 4096 8 .read).1.toOption = none ∧
    (after (exec (.hostBar2Write 0 64 [5, 6]) windowed)).read 64 2 = 0x605 ∧
    (after (exec (.hostBar2Read 0 64 8) (windowed.write 64 9 8))).host = [.data 9 8] ∧
    (after (exec (.hostBar2Read 0 4096 8) windowed)).host = [.unsupported] ∧
    hostAtomOk .fetchAdd 64 8 = true ∧ hostAtomOk .cas 64 4 = false ∧
    (after (exec (.hostAtomic 0 64 8 .fetchAdd 3 0) (windowed.write 64 9 8))).read 64 8 = 12 ∧
    (after (exec (.hostAtomic 0 64 4 .cas 3 0) windowed)).host = [.unsupported] ∧
    (State.reset.pfWrite 0x100008 7).isSome ∧ State.reset.pfWrite 4 7 = none ∧ (after (exec (.registerWrite 0 0x100008 7) State.reset)).invva = 7 ∧
    (after (exec (.registerWrite 0 4 7) State.reset)).host = [.unsupported] ∧
    (after (exec (.registerWrite 1 1016 7) State.reset)).qdesc = (State.reset.descWrite 1 15 7 7).qdesc := by decide +kernel

/-! ### Power, bring-up, teardown, debug, tracing, loading -/

def islandOf (f : Island → Island) : State := State.reset.setIsland 15 (f (State.reset.island 15))
/-- O56. -/
theorem witness_power :
    (after (exec (.powerLimit 1500) State.reset)).plimit = 1500 ∧ (after (exec (.powerLimit 3001) State.reset)).plimit = State.reset.plimit ∧
    clockOk 1200 = true ∧ clockOk 1250 = false ∧ (State.reset.island 15).slow = false ∧
    ((after (exec (.frequencyChange 15 1200) State.reset)).island 15).mhz = 1200 ∧
    ((after (exec (.thermalSample 15 [1, 104, 3, 4]) State.reset)).island 15).slow = true ∧
    (let s := islandOf (fun x => { x with hot := 100, mhz := 1250 })
     1200 < (s.island 15).mhz ∧ ((after (exec (.throttleStep 15) s)).island 15).mhz = 1200) ∧
    (let s : State := { running id with now := 10000001, islands := [(15, { State.reset.island 15 with fatal := some 0 })] }
     (s.island 15).fatal = some 0 ∧ (∃ p ∈ s.cores, p.2.run = .running) ∧ (after (exec (.fatalThermalFault 15 0) s)).fresh = s.fresh) := by decide +kernel
theorem witness_bring_up :
    (let s : State := { State.reset with power := false }
     s.power = false ∧ (after (exec .bringUp s)).power = true) ∧
    (let s : State := { State.reset with boot := { State.reset.boot with pos := 0, journal := [], failed := none } }
     s.power = true ∧ bootInsts[s.boot.pos]? = some (1, 0, 1, true) ∧ bootPlan (s.boot.prior 1 0) 1 true = .run 0 ∧
       (after (exec .bringUp s)).boot.pos = 1) ∧
    (after (exec (.driverMeasurementExtend 0 5 [1]) State.reset)).dies = State.reset.dies ∧
    (let s : State := { State.reset with boot := { State.reset.boot with sealed := false } }
     (after (exec (.attestationReport 0) s)).host = s.host) ∧
    (let s : State := { State.reset with boot := { State.reset.boot with sealed := true } }
     s.boot.sealed = true ∧ (after (exec .journalClear s)).boot.journal = []) := by decide +kernel
/-- ASID 1 in teardown with no core of its own; a dump already held. -/
def tearing : State := { State.reset with chains := [(1, [])], dslots := [(1, 0x8000000000000000)], live := [1], home := [(5, 12)] }
/-- A dump area in chunk 5, which is local to die 0. -/
def dumpAt : Nat := 0xA00000
/-- O57. -/
theorem witness_teardown :
    tearing.inTeardown 1 = true ∧ tearing.allStopped 1 = true ∧ tearing.torn.contains 1 = false ∧
    tearing.dumpArea dumpAt (tearing.dumpBytes 1 dumpAt) = true ∧ tearing.dumpArea 0 0 = false ∧
    -- a dump must lie in local chunks to its end
    tearing.dumpArea dumpAt 0x200000 = true ∧ tearing.dumpArea dumpAt 0x201000 = false ∧
    (after (exec (.teardown 1 dumpAt) tearing)).inTeardown 1 = false ∧ (after (exec (.teardown 1 dumpAt) tearing)).irqs ≠ [] ∧ bitsOf ((after (exec (.dumpSlotRelease 1) tearing)).dslot 1) 62 2 = 0 ∧
    (let s := queued 0 [(0, task1 (rec1 8 0 4 0))]
     (s.tasks.map (fun t => (t.2.r.asid, t.2.r.held)) = [(1, true)]) ∧ (after (exec (.releaseHeld 1) s)).tasks.map (fun t => t.2.r.held) = [false]) ∧
    (after (exec (.debuggerDetach 1) { State.reset with bps := [(9, 5), (16, 5)] })).bps = [(16, 5)] ∧
    1 ∉ State.reset.live ∧ 1 ∈ tearing.live ∧ (after (exec (.addressSpaceCreate 1 []) State.reset)).live = [1] ∧
    (after (exec (.addressSpaceDelete 1) tearing)).live = [] ∧
    (let s := State.reset.modBlock 3 (fun b => { b with shut := true, shack := false })
     (s.block 3).shut = true ∧ s.chans = [] ∧ ((after (exec (.shutterAck 3) s)).block 3).shack = true) := by decide +kernel

/-- Core 0 and core 512 in a debug block changed by f. -/
def debugged (r : Run) (f : Block → Block) : State :=
  ({ State.reset with
     cores := [(0, { CoreC.reset with run := r, stop := some ⟨1, 64, 0, none, none⟩ })], pcores := [(512, { CoreP.reset with run := r })]
     dbg := [(0, 1)] } : State).modBlock 0 f |>.modBlock 512 f
def haltedB (b : Block) : Block := { b with halted := true }
/-- O58: the blocks in which each command acts or is refused. -/
theorem witness_debug :
    (debugged .running id).groupOf 0 = [0] ∧ (debugged .running id).groupOf 512 = [512] ∧ ((debugged .running id).block 0).busy = false ∧
    (debugged .running id).runOf 0 = .running ∧ (debugged .running id).attached ((debugged .running id).asidOf 0) = true ∧
    ((after (exec (.halt 0) (debugged .running (fun b => { b with err := true })))).block 0).busy = true ∧
    ((debugged .stopped haltedB).block 0).halted = true ∧ ((debugged .stopped haltedB).coreC 0).stop.isSome ∧
    ((after (exec (.runHalted 0) (debugged .stopped haltedB))).coreC 0).run = .running ∧
    ((after (exec (.stepHalted 512) (debugged .stopped haltedB))).coreP 512).step1 = true ∧
    ((after (exec (.stepHalted 0) (debugged .stopped haltedB))).coreC 0).step1 = true ∧
    ((debugged .stopped haltedB).block 0).shut = false ∧ ((after (exec (.shut 0) (debugged .stopped haltedB))).block 0).shut = true ∧
    ((after (exec (.openShutter 0) (debugged .stopped (fun b => { b with shut := true })))).block 0).shut = false ∧
    ((debugged .stopped haltedB).block 512).halted = true ∧ ((debugged .stopped haltedB).block 512).busy = false ∧
    ((debugged .stopped haltedB).write 0x50 ((State.reset.die 0).step.toNat) 8).imageFits 0 0 = true ∧
    ((after (exec (.halt 0) (debugged .running (fun b => { b with busy := true })))).block 0).err = true := by decide +kernel

/-- Die 0 samples every bundle or every engine step. -/
def sampling (kind : Nat) : State := (running id).setDie 0 { Die.reset with trace := [(4, BitVec.ofNat 64 (2 ^ 63 + kind * 2 ^ 62 + 1))] }
/-- O59. -/
theorem witness_tracing :
    eventKnown 0x0101 = true ∧ eventKnown 0x0100 = false ∧
    (after (exec (.profileSessionWrite 1 0 0x800000000000003F) State.reset)).prof = [(16, 0x8000000000000000)] ∧
    (after (exec (.profileSessionWrite 1 1 0x8000000000000101) State.reset)).prof = [(17, 0x8000000000000101)] ∧
    bitsOf (Tab.get 0 (after (exec (.profileSessionWrite 1 8 0x8000000000000100) State.reset)).prof 24) 62 2 = 2 ∧
    (sampling 0).sampleDue 0 0 = true ∧ (sampling 1).sampleDue 0 1 = true ∧
    (let s : State := { running id with boot := { Boot.reset with mode := 2 } }
     s.boot.mode = 2 ∧ trapped (exec (.replayDivergence 0) s) = some 0x31 ∧ trapped (exec .recordRegionFull s) = some 0x31) ∧
    (let s : State := { State.reset with recording := true }
     s.boot.mode ≠ 2 ∧ ((after (exec (.recordBufferFull 3) s)).die 3).recFull = true ∧ (after (exec .recordRegionFull s)).recording = false) := by decide +kernel
/-- O59: a recorded turn; a replay whose next turn is due, waits, diverges or is held by the debugger. -/
theorem witness_replay :
    (let s : State := { running id with recording := true, agenda := [.core 0] }
     (after (step s)).record = [⟨.core 0, 0, none, []⟩]) ∧
    (let s : Word → State := fun c => { running id with boot := { Boot.reset with mode := 2 }, record := [⟨.event 7 (.powerLimit 2000), c, none, []⟩, ⟨.core 0, c, none, []⟩] }
     (s 0).replaying = true ∧ (after (step (s 0))).plimit = 2000 ∧ (after (step (s 0))).record.length = 1 ∧
       (after (step (s 1))).plimit = 3000 ∧ (after (step (s 1))).record.length = 2 ∧ (s 1).runOf 0 = .running ∧ (s 1).paused 0 = false ∧
       (after (step ({ s 1 with cores := [] }))).record = [] ∧
       after (step { s 0 with blocks := [(0, { Block.reset with halted := true })] }) =
         after (settled (.next { s 0 with blocks := [(0, { Block.reset with halted := true })] }))) := by decide +kernel

/-- A code object's image of one entry whose list is one instruction: header, sections 1, 3 and 6, entry record, list. -/
def imageBody : Nat := ofWords [0x000300014E544C50, 0x0000000100000000, 184, 0, 0, 0, 0, 0,
  0x0000000000000001, 0x0000004000000070, 0x0000000000000003, 0x00000004000000B0, 0x0000000000000006, 0x00000000000000B4]
def image1 : Nat := imageBody + 2950154600 <<< 480
theorem test_image_crc : imgCrc image1 184 = 2950154600 := by
  have h : image1 - imgField image1 0x3C 4 <<< (8 * 0x3C) = imageBody := by decide +kernel
  have h1 : crcFrom 0xFFFFFFFF imageBody 46 = 1578255524 := by decide +kernel
  have h2 : crcFrom 1578255524 (imageBody / 256 ^ 46) 46 = 3941611830 := by decide +kernel
  have h3 : crcFrom 3941611830 (imageBody / 256 ^ 46 / 256 ^ 46) 46 = 395814939 := by decide +kernel
  have h4 : crcFrom 395814939 (imageBody / 256 ^ 46 / 256 ^ 46 / 256 ^ 46) 46 = ~~~2950154600 := by decide +kernel
  rw [imgCrc, h, crc32, show 184 = 46 + (46 + (46 + 46)) from rfl, crcFrom_add, crcFrom_add, crcFrom_add, h1, h2, h3, h4]
  decide
theorem witness_image : imgRefused image1 184 = none := by
  simp only [imgRefused, test_image_crc]
  decide +kernel
/-- The image lies at VA 0x4000 of ASID 1. -/
def loadable (x : Nat) : State := (mapped State.reset).write (locHost 0x4000) x 184
/-- O60: an image that is accepted, and one of zeros. -/
theorem witness_load :
    imgRefused 0 184 = some 1 ∧
    ((loadable image1).vaRead 0 1 0x4000 184).1.toOption = some image1 ∧ ((loadable 0).vaRead 0 1 0x4000 184).1.toOption = some 0 ∧
    imgBuffers image1 = 0 ∧ imgFrames image1 (imgSects image1) = 0 ∧ (loadable image1).qused = [] ∧ (loadable image1).obj 1 5 = none ∧
    (loadable image1).codeFree 1 0x8000 4096 = true ∧
    (({ loadable image1 with dies := [(2, { Die.reset with bcache := [(codeKey 1 0x8000, 0)] })] } : State).codeFree 1 0x8000 4096) = false ∧
    (((loadable image1).storeAll []).objMapped 1 image1 0 []) = some [] ∧
    (((loadable image1).storeAll []).loadAt 1 0x8000 image1 184).isSome ∧ hwOffs (imgSects image1) = [] ∧
    (loadable image1).noHandle 1 = false ∧ (after (exec (.loadCodeObject 1 0x4000 184 5 [] ⟨[], []⟩ 0 0x8000) (loadable 0))).host = [.refused 1] := by decide +kernel
theorem witness_publish :
    (let s : State := { State.reset with objs := [(0x100001, obj1 [] [])] }
     (s.obj 1 1).isSome ∧ ((s.obj 1 1).bind (fun o => o.ents[0]?)).map (fun e => Tab.find e.pub 3) = some none ∧
       (after (exec (.bundlePublish 3 1 1 0 64 ⟨0, [7], [(0, 0, 5)], []⟩) s)).objs = s.objs ∧ s.publishFirst 3 1 1 0 = false ∧
       ({ s with objs := (0x100000, obj1 [] []) :: s.objs } : State).publishFirst 3 1 1 0 = true ∧
       ((((s.giveUp 3 1 1 0).obj 1 1).bind (fun o => o.ents[0]?)).map Entry.tried) = some [3] ∧
       ((((s.publishAt 3 1 1 0 64 0 [7] [] (some [⟨0, 0, []⟩])).obj 1 1).bind (fun o => o.ents[0]?)).map (fun e => Tab.find e.pub 3)) = some (some 64) ∧
       (let t := { s with home := [(0, 15)] }
        t.vaClear 3 1 64 32 (obj1 [] []) = true ∧
        -- an address that another object's bundles or a portable list have
        ({ t with dies := [(3, { Die.reset with bcache := [(codeKey 1 0, 0)] })] } : State).vaClear 3 1 64 32 (obj1 [] []) = false ∧
        ({ t with objs := [(0x100002, { obj1 [] [] with ents := [⟨0, [], 0x40, [0x13], [], [], [], []⟩] })] } : State).vaClear 3 1 64 32
          (obj1 [] []) = false ∧
        t.cacheRoom 3 1 64 0 32 (obj1 [] []) = true ∧ t.cacheRoom 2 1 64 0 32 (obj1 [] []) = false) ∧
       (after (exec (.unloadCodeObject 1 1) s)).objs = []) ∧
    (let s := queued 0 [(0, task1 (rec1 0 0 4 0))]
     (s.obj 1 1).isSome ∧ (s.tasks.map (fun t => (t.2.r.asid, t.2.r.code))) = [(1, 1)] ∧ (after (exec (.unloadCodeObject 1 1) s)).objs = s.objs) := by decide +kernel

/-! ### The review's cases: bounds where clauses meet, and what each event newly does -/

/-- O4: slot 0 of core 0 stands for an instruction with hint 5. -/
theorem witness_step_hint : let s := State.reset.withFetchWord 24 0x001208
    let s := s.setDie 0 { s.die 0 with marks := [(8 * codeKey ((s.coreC 0).asid) ((s.coreC 0).addrOf 0), 5)] }
    ((s.nextMove (s.leader s.focus)).bind (fun x => s.hintAt x.1 x.2.1 x.2.2)) = some 5 ∧ trapped (step s) = some 7 := by decide +kernel
/-- O39: addresses of `qld` and `qst` beyond the buffer and off their alignment. -/
theorem witness_vector_traps : 0x80000 ≤ (0x80000 : Word).toNat ∧ (0x7FF81 : Word).toNat < 0x80000 ∧ (0x7FF81 : Word).toNat % 128 ≠ 0 ∧
    trappedP (exec (.qst 0 0 1 5) (pvec 0x7FF81 0 ⟨0, 0⟩)) = some 0x0A ∧ trappedP (exec (.qst 0 0 1 5) (pvec 0x80000 0 ⟨0, 0⟩)) = some 0x09 ∧
    (∃ l, indexSet 512 128 (two 0x12 32 1 0) = .ok l ∧ l.length = 32) := by
  refine ⟨by decide, by decide, by decide, by decide +kernel, by decide +kernel, ?_⟩
  exact ⟨((indexSet 512 128 (two 0x12 32 1 0)).toOption).getD [], by decide +kernel, by decide +kernel⟩
/-- O44: a push that a sequence generates, a sequence's `me.sqs` whose turn has come, in a handler and outside one. -/
theorem witness_engine_more :
    (let s := engineOf 0 (fun e => { e with fifo := [cmd .seq 2 false], seq := some ⟨0, 0, 0, false, false, 0⟩ })
     (s.coreC 0).eng.cur = none ∧ (s.coreC 0).eng.quiet = false ∧
       ((after (exec (.commandInFlightComplete 0) s)).coreC 0).eng.seq.map SeqPos.ph = some 1) ∧
    (let s := engineOf 0 (fun e => { e with sqs := [⟨0, true, some 7, false, true⟩], iss := 1 })
     ((after (exec (.tokenReturn 0) s)).coreC 0).eng.ret = 1 ∧ ((after (exec (.tokenReturn 0) s)).coreC 0).latch 4 = ⟨0, 0⟩ ∧
       ((after (exec (.tokenReturn 0) s)).coreC 0).infl = [⟨4, 0, 0, TVal.ofWord 7, 0, true, true⟩]) ∧
    (let s := engineOf 0 (fun e => { e with cur := some { cmd .dr 0 true with hb := true }, iss := 1, out := some ⟨7, 1⟩ })
     ((after (exec (.tokenReturn 0) s)).coreC 0).infl = [⟨4, 0, 0, ⟨7, 1⟩, 0, true, true⟩]) ∧
    -- what returned lands in the handler's latches; of two in one cycle the later one is the newer
    (let c : CoreC := { CoreC.reset with infl := [⟨4, 0, 0, ⟨7, 1⟩, 0, true, true⟩] }
     readLatch (c.landAll (fun _ => none)).l2 2 4 = ⟨7, 1⟩ ∧ (c.landAll (fun _ => none)).latch 4 = ⟨0, 0⟩) ∧
    (let c : CoreC := { CoreC.reset with infl := [⟨4, 0, 0, ⟨7, 1⟩, 0, true, false⟩, ⟨4, 0, 0, ⟨8, 1⟩, 0, true, false⟩] }
     (c.landAll (fun _ => none)).latch 4 = ⟨8, 1⟩ ∧ (c.landAll (fun _ => none)).latch 12 = ⟨7, 1⟩ ∧ (c.landAll (fun _ => none)).col = 0x10) := by
  decide +kernel
/-- O46: a claim whose write index does not translate; a KEY that is tried once more. -/
theorem witness_claim_fault :
    (let s := channel (heldC 7 (hold .post 0 0 0 1 [1])) []
     ((s.engPieces (engOf 1) 1 0x1000 8 .write).1).isOk = false ∧ s.windowPending 0 = [] ∧
       ((after (exec (.postClaim 0) s)).chan 1).parked = some (0x0A, 0) ∧ holdOf 7 (exec (.postClaim 0) s) = some .post) ∧
    (let s := heldC 7 (hold .tpost 0 0 0 0 (List.replicate 8 0))
     (s.heldAs 0).map Hold.st = some 0) := by decide +kernel
/-- O47: every hypothesis about the engine and the stop of `frozen`. -/
theorem witness_stop_more : (frozen.coreC 0).phase = .start ∧ (frozen.coreC 0).eng.seq = none ∧ (frozen.coreC 0).mine = none := by decide +kernel
/-- O48: a word that an access meets; a core that has a point to honour keeps its deadline away; a yield's end. -/
theorem witness_soft_errors :
    (let s : State := { running id with bad := [⟨1, 0, 9, none⟩] }
     let b : BadWord := ⟨1, 0, 9, none⟩
     s.bad = [b] ∧ b.met = none ∧ b.hit (locCore 0 72, 8) = true ∧ b.hit (locCore 0 64, 8) = false ∧ b.code ≠ 2 ∧ s.runOf b.unit = .running ∧
       ((s.meetBad (some 0) (fun b => b.hit (locCore 0 72, 8))).coreC 0).stop.map (fun r => causeCode r.cause) = some 0x21) ∧
    (let s : State := { running (fun c => { c with soft := some 0, honour := some (0, 0) }) with now := 200000000 }
     s.honouring 0 = true ∧ trapped (exec (.preemptionDeadline 0) s) = none) ∧
    (let s := running (fun c => { c with fidx := 1, slots := (c.slots.map (fun q => { q with next := 1 })).modify 6 (fun q => { q with
       hold := some (hold .susp 0 0 0 0 []) }) })
     (s.endsNow (s.leader 0)).isSome) := by decide +kernel
/-- O49: a record to be placed again, one whose KEY faults, two that may gather, a word in a window without a tandem. -/
theorem witness_evaluation :
    (let s := queued 0 [(0, task1 (rec1 0 0 4 0))]
     ((s.place (rec1 0 0 4 0) 0 0).1.toOption.map Place.part) = some 0 ∧ (task1 (rec1 0 0 4 0)).st ≠ .running) ∧
    (let s := queued 0 [(0, task1 (rec1 0 0 4 0x1000))]
     (s.place (rec1 0 0 4 0x1000) 0 0).1.toOption.isNone ∧ (after (exec (.derailleurReevaluate 0) s)).tasks = s.tasks) ∧
    (let s : State := { queued 64000 [(0, task1 (rec1 0 1 4 0))] with
       parts := [(0, ⟨[], [], none, [], [(0, 0)], 0⟩)]
       cores := (List.range 8).map (fun i => (2 * i + 1, { CoreC.reset with run := .running })) }
     (s.gatherers 0).map Prod.fst = [0]) ∧
    (let p := { pkt 5 [0, 9, BitVec.ofNat 64 (3 * 2 ^ 56), 0, 0, 0, 0, 0] with group := some 0 }
     let s : State := { channel State.reset [p] with grps := [(0, ⟨1, 1, 5⟩)] }
     p.w 2 ≠ 0 ∧ s.windowGone p 2 = true ∧ s.groupBusy 0 ⟨1, 1, 5⟩ = false ∧
       ((after (exec (.launchGroupComplete 0) s)).pkt 1 5).map Pkt.code = some 5) := by decide +kernel

/-- A descriptor of function 0 for channel 1: ring 0x2000, write index 0x1000, status 0x4000, ASID 1, 2^log slots. -/
def creating (log : Nat) : State :=
  { mapped State.reset with qdesc := [(1, [0x2000, 0x1000, 0, 0x4000, 0, BitVec.ofNat 64 (2 ^ 16 + log), 0, 0])] }
/-- O50: a queue that is created, fields that are not legal. -/
theorem witness_queue_create :
    (creating 6).descChan 0 1 = some 1 ∧ (creating 6).descAsid 0 1 = 1 ∧ (creating 6).descValid 0 1 = false ∧ ((creating 6).chan 1).owner = none ∧
    (creating 6).boundChan 1 = false ∧
    (let a := (creating 6).engPieces (engOf 1) 1 0x2000 (64 * 2 ^ 6) .write
     let b := a.2.engPieces (engOf 1) 1 0x1000 64 .write
     a.1.isOk ∧ b.1.isOk ∧ (b.2.engPieces (engOf 1) 1 0x4000 (8 * 2 ^ 6) .write).1.isOk) ∧
    (after (exec (.queueCreate 0 1) (creating 5))).descWord 0 1 6 = 2 := by decide +kernel
/-- O50: an open queue that is closed; the head packet that completes; a packet that an abort completes. -/
theorem witness_queue_ends :
    (let s : State := { channel State.reset [] with qdesc := [(1, [0, 0, 0, 0, 0, 0, 1, 0])] }
     s.descValid 0 1 = true ∧ (s.chans.find? (fun c => decide (c.2.owner = some (0, 1)))).map Prod.fst = some 1 ∧ (s.chan 1).closing = none ∧
       (s.chan 1).pkts = []) ∧
    (let p := { pkt 1 [0x10000, 0, 0, 0, 0, 0, 0, 1] with done := true, code := 5 }
     let s := (mapped (channel State.reset [p])).modChan 1 (fun c => { c with stat := 0x4000 })
     (s.chan 1).unread = false ∧ (s.chan 1).parked = none ∧ p.complete = true ∧
       (s.feWrite 1 ((s.chan 1).statVa p.n) (statusWord p.n p.op p.code) 8).1.isOk ∧ ((after (exec (.packetComplete 1) s)).chan 1).tl = 1) ∧
    (let p := pkt 1 [0x10000, 0, 0, 0, 0, 0, 0, 1]
     p.bad = false ∧ (abortPkt p).code = 7) := by decide +kernel

/-- O52: an ATOM whose operand lies in host memory; a converting row whose window stands; a record that is invalid. -/
theorem witness_more_packets :
    (let p := act 5 0 0x2000 (rowsOf 1 8) 2 9
     let s := acting p
     runs p ∧ p.addr 2 % p.rb = 0 ∧ s.movHeld p.asid (p.addr 2) p.rb = false ∧ p.w 1 = 0 ∧
       ((s.rowLocs 1 p 2 0 p.rb .write).1.toOption.map (fun l => l.map (fun x => decide (locHost 0 ≤ x.1 ∧ x.1 < locPeer 0 0)))) = some [true] ∧
       status (exec (.atom 1 1) s) = some (0, true, 5)) ∧
    (let p := act 9 0 0 (rowsOf 1 64) 0 0
     let s := acting p
     ((s.rowLocs 1 p 1 0 64 .read).1).isOk ∧ s.grps.length < 4096 ∧ s.flashFails [] = false) := by decide +kernel

/-- O56: an island between 97 and 100 degrees and at 100, throttled or not; a sealed module with its keys. -/
theorem witness_heat :
    (let s := islandOf (fun x => { x with hot := 97 })
     97 ≤ (s.island 15).hot ∧ (s.island 15).hot < 100 ∧ ((after (exec (.frequencyChange 15 1200) s)).island 15).mhz = (s.island 15).mhz) ∧
    (let s := islandOf (fun x => { x with hot := 100 })
     100 ≤ (s.island 15).hot ∧ ((after (exec (.frequencyChange 15 2400) s)).island 15).mhz = (s.island 15).mhz) ∧
    (let s := islandOf (fun x => { x with hot := 96, slow := true, mhz := 1500 })
     (s.island 15).hot < 97 ∧ (s.island 15).slow = true ∧ ((after (exec (.frequencyChange 15 2400) s)).island 15).mhz = 1500) ∧
    (let s : State := { State.reset with boot := { State.reset.boot with sealed := true, keys := some ([], []) } }
     s.boot.sealed = true ∧ s.boot.keys = some ([], []) ∧ (after (exec (.attestationReport 0) s)).host.length = 1) := by decide +kernel
/-- R38: a record's CHK, and the copy that serves when the first fails. -/
theorem test_journal_copy :
    (let r : JRec := ⟨1, 0x10, 3, 1, 1, 9, 0, 0⟩
     let good := { r with chk := r.sum }
     let bad := { good with meth := 0 }
     ({ Boot.reset with journal := [good], copy := [good] } : Boot).records = [good] ∧
       ({ Boot.reset with journal := [bad], copy := [good] } : Boot).records = [good] ∧
       ({ Boot.reset with journal := [bad], copy := [bad] } : Boot).records = []) := by decide +kernel
/-- O57: a teardown that the debugger requests of a halted context. -/
theorem witness_teardown_request :
    (let s := debugged .stopped haltedB
     s.inTeardown 0 = false ∧ s.mayRequest 0 = true ∧ (after (exec (.teardown 0 0) s)).inTeardown 0 = true) := by decide +kernel
/-- O53: a whole request of a peer, one row of 8 bytes to PA 64. -/
theorem witness_peer_request :
    (let s : State := { State.reset.setPort 2 { Port.reset with lanes := 8 } with home := [(0, 8)] }
     let hdr := setBits (flitHdr 3 0 5) 36 12 1
     let pay := msgBytes 1 0 64 8 (bytesOf 8 0xABCD)
     let pay := pay ++ List.replicate (232 - pay.length) 0
     let q := (s.port 2).take hdr pay true s.now
     q.wire = (s.port 2).wire ∧ q.inbox.map Prod.fst = [5] ∧ (after (exec (.flitReceive 2 hdr pay true) s)).read 64 8 = 0xABCD ∧
       ((after (exec (.flitReceive 2 hdr pay true) s)).port 2).got = 1 ∧ ((after (exec (.flitReceive 2 hdr pay true) s)).port 2).owed = 0) := by
  decide +kernel
/-- O53: the moves that copy: sixteen free frames of chunk 0, leaves that walk, dirty pages of a segment in HBM. -/
def movable (w : Nat) (p : Pkt) : State := { segAt w p with home := [(0, 8), (5, 8)] }
theorem witness_moves :
    (let s := (movable (3 * 2 ^ 61) (mover 7 3)).loadDesc (engOf 1) 1
     bitsOf (s.segWord segRef) 62 2 ≠ 0 ∧
       (s.framePieces (engOf 1 / 8) 1 segRef ((List.range 16).map (fun i => 0xA00000 + 4096 * i))).map List.length = some 16 ∧
       (s.framePieces (engOf 1 / 8) 1 segRef (List.replicate 16 0xA00000)) = none ∧ s.reservable (engOf 1 / 8) 1 segRef = true ∧
       -- firmware's own chunk has no frame for an object
       (s.framePieces (engOf 1 / 8) 1 segRef ((List.range 16).map (fun i => 0x100000 + 4096 * i))) = none ∧
       s.flashFails [(locFlash (s.segFlash segRef), 0x10000)] = false ∧ (s.segLeaves (engOf 1 / 8) 1 segRef).isOk ∧
       Tab.get 0 s.qused 0 + 16 ≤ Tab.get 0xFFFFFFFF s.qlimit 0) ∧
    (let s := (movable (2 ^ 61) (mover 8 3)).loadDesc (engOf 1) 1
     bitsOf (s.segWord segRef) 62 2 ≠ 1 ∧ (s.segLeaves (engOf 1 / 8) 1 segRef).isOk ∧
       (let ls := (s.segLeaves (engOf 1 / 8) 1 segRef).toOption.getD []
        let desc := s.readDesc (engOf 1 / 8) 1
        (dirtyLeaves segRef ls).length = 16 ∧
        ((s.leavesLocs (engOf 1 / 8) 1 4096 desc (dirtyLeaves segRef ls)).toOption.map List.length) = some 16 ∧
        -- a leaf of HBM whose frame lies outside the aperture faults
        (s.leavesLocs (engOf 1 / 8) 1 4096 desc [(0x200000, 0x12000, BitVec.ofNat 64 (2 ^ 39 + 0x1F))]).isOk = false)) ∧
    (segAt (3 * 2 ^ 61) (mover 7 2)).shotPending 1 0x200000 0x10000 = false ∧
    ((after (exec (.promote 1 1 []) (segAt (3 * 2 ^ 61) (mover 7 2)))).pkt 1 1).map Pkt.done = some true ∧
    ((after (exec (.demote 1 1) (segAt (2 ^ 61) (mover 8 2)))).pkt 1 1).map Pkt.done = some true := by decide +kernel
/-- O54: no retired translation is held; a parked fault that is declared. -/
theorem witness_translation_more :
    (let s : State := { State.reset with invstat := 1, invnow := some (1, 0, 5, 0) }
     s.retiredHeld (invMatch 1 0 5 0) = false) ∧
    ((after (exec (.faultUnrecoverable 1 1) (faulted 5))).chan 1).pending = true ∧
    ((after (exec (.faultUnrecoverable 1 1) (faulted 5))).chan 1).faulted = [(1, 1)] := by decide +kernel
/-- A home for every portable register; a record with it; a bundle whose slot 2 starts a `vcvt`. -/
def homesAll : List RegHome :=
  (List.range 32).flatMap (fun n => [⟨0, n, 0, n⟩, ⟨1, n, 2, n⟩]) ++ (List.range 4).map (fun n => ⟨2, n, 3, n⟩)
def recAll (bun off : Nat) : BunRec := ⟨bun, off, homesAll⟩
def addBundle : BitVec 256 := oneMoveBundle 0 2 (0x190 <<< 1)
/-- O60: bounds of a publication; a mark that names no bundle. -/
theorem witness_marks :
    let m := fun (words : List (BitVec 256)) marks recs l => marksOk ⟨0, words, marks, recs⟩ l
    m [7] [] [] [] = true ∧ m [addBundle] [(0, 2, 5)] [recAll 0 0] [0xA000000B] = true ∧
    -- the slot that starts the operation, of the first bundle, which does nothing else
    m [addBundle] [(0, 3, 5)] [recAll 0 0] [0xA000000B] = false ∧ m [addBundle] [(1, 2, 5)] [recAll 0 0] [0xA000000B] = false ∧
    m [addBundle ||| 1 <<< 95] [(0, 2, 5)] [recAll 0 0] [0xA000000B] = true ∧
    m [addBundle] [] [recAll 0 0] [0xA000000B] = false ∧ m [addBundle, 7] [(0, 2, 5)] [recAll 0 0, recAll 0 4] [0xA000000B, 0x13] = false ∧
    lonely addBundle 2 = true ∧ lonely (oneMoveBundle 0 3 (0x1D0 <<< 1)) 2 = false ∧ lonely 7 2 = false := by decide +kernel
/-- O60: every bundle and every Xpol instruction has a record, with a home for each register. -/
theorem witness_records :
    recsOk ⟨0, [7], [], [recAll 0 0]⟩ [0xA000000B] = true ∧ recsOk ⟨0, [7], [], [recAll 1 0]⟩ [0xA000000B] = false ∧
    recsOk ⟨0, [7, 7], [], [recAll 0 0]⟩ [0xA000000B] = false ∧ recsOk ⟨0, [7], [], [recAll 0 0]⟩ [0xA000000B, 0xA000000B] = false ∧
    recsOk ⟨0, [7], [], [⟨0, 0, []⟩]⟩ [0xA000000B] = false ∧ (64 : Nat) % 32 = 0 := by decide +kernel

/-! ### The second review's cases -/

/-- O20: a target off its alignment, and offsets and targets at both ends of what is out of range. -/
theorem witness_bad_targets :
    meets 6 (native 6 8 15 0) 2 (fun x => x.bun.inKernel = false ∧ 0 ≤ (x.bun.addr : Int) + x.val.word.toInt ∧
      ((x.bun.addr : Int) + x.val.word.toInt) % 32 ≠ 0 ∧ x.val.word.toNat < 2 ^ 48 ∧ x.val.word.toNat % 32 ≠ 0) ∧
    meets 6 (native 6 0x800000000000 0 0) 2 (fun x => 2 ^ 47 ≤ x.val.word.toInt) ∧
    meets 6 (native 6 0xFFFF7FFFFFFFFFFF 0 0) 2 (fun x => x.val.word.toInt < -(2 ^ 47)) ∧
    meets 6 (native 6 0xFFFFFFFFFFFFFFE0 0 0) 2 (fun x => (x.bun.addr : Int) + x.val.word.toInt < 0) ∧
    meets 6 (native 6 0x1000000000000 0 0) 2 (fun x => 2 ^ 48 ≤ x.val.word.toNat) ∧
    trapped (exec (.ctBr 0 2 0) (native 6 0x800000000000 0 0)) = some 1 ∧ trapped (exec (.ctJr 0 2 0) (native 6 8 0 0)) = some 0x0A ∧
    trapped (exec (.ctJr 0 2 0) (native 6 0x1000000000000 0 0)) = some 1 := by decide +kernel
/-- O21: bank A is lent to slot 2, which owns it, and by TO 3 to its default owner; bank B to slot 3. -/
theorem witness_lend_owner :
    meets 6 (native 6 0 0 0) 2 (fun x => x.val.word.toNat < 16 ∧ x.c.owner 0 = 2) ∧
    after (exec (.ctLend 0 2 0) (native 6 0 0 0)) = native 6 0 0 0 ∧ after (exec (.ctLend 0 2 0) (native 6 12 0 0)) = native 6 12 0 0 ∧
    ((after (exec (.ctLend 0 2 0) (native 6 5 0 0))).coreC 0).pend.map PendW.dst = [.bank 1] := by decide +kernel
/-- O22: registers that no write reaches, at both privileges, and numbers of none, at the ends of their ranges. -/
theorem witness_read_only :
    meets 6 (system 0 5) 2 (fun x => x.val.word.toNat ≤ 0x06 ∧ x.c.priv = true) ∧ meets 6 (native 6 0x1F 5 0) 2 (fun x => x.val.word.toNat = 0x1F ∧ x.c.priv = false) ∧
    meets 6 (system 0x25 5) 2 (fun x => 0x25 ≤ x.val.word.toNat) ∧ meets 6 (native 6 0x17 5 0) 2 (fun x => x.val.word.toNat = 0x17) ∧
    trapped (exec (.ctKw 0 2 0) (system 0 5)) = some 1 ∧ trapped (exec (.ctKw 0 2 0) (native 6 0x1F 5 0)) = some 8 ∧
    trapped (exec (.ctKw 0 2 0) (system 0x25 5)) = some 1 ∧ trapped (exec (.ctKw 0 2 0) (native 6 0x17 5 0)) = some 1 := by decide +kernel

/-- Cores 0 and 1 in lock-step with p1 of each core; core 1 in focus. Lane 0 has made the move `susp` under guard p1 where `b0`. -/
def guardedPair (b0 b1 : Bool) : State :=
  let p := fun (b : Bool) (c : CoreC) => { c with p := c.p.put 1 b, run := .running, group := [0, 1], lead := 0, dec := false }
  let s := ((native 6 0 0 0).modC 0 (p b0)).modC 1 (p b1)
  { after (exec (.ctSusp 1 2 0) s) with focus := 1 }
/-- O23: a follower whose guard is on or off beside a lane 0 whose guard is; members that disagree are stopped. -/
theorem witness_lock_step_ends :
    (let s := guardedPair true false
     let y := (s.coreC 1).context 6
     s.leader 1 = 0 ∧ (s.coreC 1).guard y.1 y.2 1 = false ∧ (((s.coreC 0).slot 6).hold.map Hold.op) = some .susp) ∧
    (let s := guardedPair true true
     let y := (s.coreC 1).context 6
     (s.coreC 1).guard y.1 y.2 1 = true ∧ (((s.coreC 0).slot 6).hold.map Hold.op) = some .susp) ∧
    (let s := guardedPair false true
     let y := (s.coreC 1).context 6
     (s.coreC 1).guard y.1 y.2 1 = true ∧ (s.coreC 0).guard y.1 y.2 1 = false ∧ ((s.coreC 0).slot 6).hold = none ∧
       ((after (exec (.ctSusp 1 2 0) s)).coreC 1).ctl = some .susp) ∧
    (let s := guardedPair true false
     s.leader 0 = 0 ∧ s.members 0 = [0, 1] ∧ (s.coreC 0).ctl = some .susp ∧ (s.coreC 1).ctl = none ∧ (s.coreC 0).stop = none ∧
       ((s.applyCtl 0).coreC 0).stop.map (fun r => causeCode r.cause) = some 1) := by decide +kernel
/-- O24: the slot of a `qpost`, whose image takes the core's number. O25: an arrival that waits for a staged line. -/
theorem witness_marked_post :
    (let s := (synced 0 1 0)
     let x := ctx s 7 2
     let s := s.setDie 0 { s.die 0 with marks := [(8 * codeKey (s.coreC 0).asid x.bun.addr + x.slot, 8)] }
     meets 7 s 2 (fun x => s.markAt x.g x.slot x.bun = some 8 ∧ (s.image x.g x.val.word).isOk)) ∧
    bitsOf ((portImage 5 [0, 2 ^ 56, 0, 0, 0, 0, 0, 0]).getD 1 0) 32 9 = 5 ∧
    (let s := (synced 0 0 0).modC 0 (fun c => { c with wst := [⟨0, 0, 0, 0⟩] })
     meets 7 s 2 (fun x => (s.barrierAt x.val.word.toNat).map (fun b => (b.asid, s.published x.g b.sc)) = some (x.c.asid, false))) := by
  decide +kernel
/-- O36: a CSR that is only read, an immediate source, a write to a read-only one. -/
theorem witness_csr_forms : xAfter (.csrAccess 0xCC0 2 5 0) 0 0 0 5 = (onP id).csrRead 512 0xCC0 ∧
    ((after (exec (.csrAccess 0x800 6 0 3) (onP (fun c => { c with flg := 4 })))).coreP 512).flg = 7 ∧
    ((after (exec (.csrAccess 0x800 7 0 3) (onP (fun c => { c with flg := 7 })))).coreP 512).flg = 4 ∧
    trappedP (exec (.csrAccess 0xCC6 6 0 1) (onP id)) = some 1 ∧ ((1 : BitVec 5) ≠ 0 ∧ (2 : BitVec 3).toNat % 4 ≠ 1) := by decide +kernel
/-- O45: an acquire and a release that the core's own staged write to the word delays, a covered store; no bad word is met. -/
theorem witness_own_writes :
    (let s := (withHasp (heldC 7 (hold .hacq 0 16 0 0 [])))
     let c := s.setDie 0 { s.die 0 with hasps := [(0, ⟨1, 0, 0, locClus 0 64, []⟩)] }
     let c := c.modC 0 (fun c => { c with wst := [⟨64, 0, 0, 0⟩] })
     s.stages 0 1 [(locCore 0 64, 8)] = false ∧ s.badMet (fun b => b.hit (locCore 0 64, 8)) = [] ∧
       c.stages 0 1 [(locClus 0 64, 8)] = true ∧ holdOf 7 (exec (.hacqRelease 0) c) = some .hacq) ∧
    (let s := (heldC 7 (hold .hrel 77 0 1 0 [])).modC 0 (fun c => { c with wst := [⟨64, 0, 0, 0⟩] })
     let e : HaspEnt := ⟨1, 0, 0, locCore 0 64, [(0x0200000000000040, 64)]⟩
     let s := s.setDie 0 { s.die 0 with hasps := [(0, e)] }
     (s.hasp 1 0) = some e ∧ s.covers 0 1 e = true ∧ s.covers 0 0 e = false ∧ holdOf 7 (exec (.hrelDone 0) s) = some .hrel) ∧
    (let s := (heldC 7 (hold .hpub 4 0 0 0 [])).modC 0 (fun c => { c with wst := [⟨64, 0, 0, 0⟩] })
     s.published 0 4 = false ∧ s.published 0 0 = true ∧ holdOf 7 (exec (.hpubDone 0) s) = some .hpub) := by decide +kernel
/-- O46: a claim that has faulted waits; one on an aborted and on a closed queue. O54: it is free again once the fault is resolved. -/
theorem witness_claims :
    (let s := (mapped (channel (heldC 7 { hold .post 0 0 0 1 [1] with st := 0x0A }) [])).write (locHost 0x1000) 6 8
     let s := s.modChan 1 (fun c => { c with parked := some (0x0A, 0) })
     holdOf 7 (exec (.postClaim 0) s) = some .post ∧ s.claimers 1 = [0] ∧ (s.chan 1).halted = false ∧
       (((after (exec (.faultResolved 1 0) s)).heldAs 0).map Hold.st) = some 0) ∧
    (let s := fun (b : Bool) => ((mapped (channel (heldC 7 (hold .post 0 0 0 1 [1])) [])).write (locHost 0x1000) 6 8).modChan 1
       (fun c => { c with closing := some 6, aborted := b })
     (s true).windowPending 0 = [] ∧ ((s true).chan 1).valid = false ∧ ((after (exec (.postClaim 0) (s true))).chan 1).closing = some 7 ∧
       ((after (exec (.postClaim 0) (s false))).chan 1).closing = some 6 ∧ holdOf 7 (exec (.postClaim 0) (s false)) = none) := by decide +kernel
/-- O47, O48: a breakpoint that stands where an asynchronous stop does is its cause. -/
theorem witness_breakpoint_beside :
    (let s : State := { running (fun c => { c with stop := some ⟨0, 64, causeWord true 0 0x31 0, none, none⟩ }) with bps := [(0, 0x8000000000000040)] }
     causeCode (s.breakBeside 0 ⟨0, 64, causeWord true 0 0x31 0, none, none⟩).cause = 0x0C ∧ s.breakpointDue 0 = none) ∧
    (let s : State := { onP (fun c => { c with run := .running, pc := 64 }) with bps := [(0, 0x8000000000000040)] }
     (s.breakBesideP 512 (causeWord true 0 0x31 0, none)).1 = causeWord false 0 0x0C 0 ∧ (s.coreP 512).mayStop = true) := by decide +kernel
/-- O50: nothing is left to an abort: the channel is free. -/
theorem witness_abort_free :
    (let s := (mapped (channel State.reset [])).write (locHost 0x1000) 0 8
     (s.chan 1).pkts = [] ∧ (s.chan 1).closing = none ∧ (s.chan 1).parked = none ∧ s.claimHeld 1 = [] ∧
       ((s.modChan 1 (fun c => { c with closing := some c.ridx, unread := true, claims := [], aborted := true, pkts := [] })).feRead 1
         (s.chan 1).widx 8).1.toOption = some 0 ∧ (s.chan 1).ridx ≤ (s.chan 1).tl ∧ ((after (exec (.queueAbort 1) s)).chan 1).owner = none) := by
  decide +kernel
/-- O52: no retired translation keeps packet 1 waiting; one that took the pin-retired fault waits. -/
theorem witness_pin_waits : (acting (act 0 0 0 0 0 0)).pinWaits 1 (act 0 0 0 0 0 0) = false ∧
    (let p := { act 0 0 0 0 0 0 with retry := true }
     let t : TlbEnt := ⟨1, 1, 0, 12, 0, 0x21, 0, false, [], false, true, [], []⟩
     ({ acting p with ces := [(engOf 1, { (acting p).ce (engOf 1) with tlb := [(0, t)] })] } : State).pinWaits 1 p = true) := by decide +kernel
/-- O53: a DEMOTE whose dirty leaf fails the placement check; a row that leaves the wire with its SEND. -/
theorem witness_move_faults :
    (let s := ((movable (2 ^ 61) (mover 8 3)).write 0x12000 0x000300000000001F 8).loadDesc (engOf 1) 1
     let ls := (s.segLeaves (engOf 1 / 8) 1 segRef).toOption.getD []
     bitsOf (s.segWord segRef) 62 2 ≠ 1 ∧ (s.segLeaves (engOf 1 / 8) 1 segRef).isOk ∧
       (match s.leavesLocs (engOf 1 / 8) 1 4096 (s.readDesc (engOf 1 / 8) 1) (dirtyLeaves segRef ls) with | .error f => f | .ok _ => 0) = 5) ∧
    (let p := { act 6 0 0 (rowsOf 1 8) 0 1 with done := true, sent := some 0 }
     let s : State := { (acting p).setPort 0 { Port.reset with sends := [(1, 1, 1)], wire := [⟨1, 0, 8, 5, some (1, 1)⟩] } with now := 10000000 }
     s.waitsAck 1 1 = some p ∧ (∃ x ∈ (s.port 0).sends, x.2 = (1, 1)) ∧ ((after (exec (.sendAckTimeout 1 1) s)).port 0).wire = []) := by
  decide +kernel
/-- O58: a word of the scratchpad that an image would read. -/
theorem witness_bad_pad : (debugged .stopped haltedB).badPad true [0] = none ∧
    (let s : State := { debugged .stopped haltedB with bad := [⟨1, 0, 9, none⟩] }
     s.badPad true [0] = some (0, ⟨1, 0, 9, none⟩) ∧ (s.block 0).halted = true ∧
       causeCode ((after (exec (.imgout 0) s)).coreC 0).cause = 0x21) := by decide +kernel
/-- O59: a sample comes before what else the core would do; a winner's turn that nobody asked for; a stream's entry that fits; a turn
that the debugger's alteration affects. -/
theorem witness_tracing_more :
    (sampling 0).runOf 0 = .running ∧ (sampling 0).paused 0 = false ∧ ((sampling 0).coreC 0).group = [] ∧ ((sampling 0).coreC 0).phase = .start ∧
    ((sampling 1).coreC 0).tickOf = none ∧ ((after (exec (.engineSample 0) (sampling 1))).coreC 0).unnamed = 1 ∧
    (let t : Turn := .event 0 (.clusterGrant 0)
     let s : State := { State.reset with recording := true, agenda := [t] }
     s.noRequester t = true ∧ (after (step s)).record = [] ∧ State.reset.noRequester (.core 0) = false) ∧
    (let s : State := { running id with boot := { Boot.reset with mode := 2 }, record := [⟨.core 0, 0, none, []⟩, ⟨.core 0, 0, none, []⟩], altered := [0] }
     s.affected (.core 0) = true ∧ ({ s with altered := [] } : State).affected (.core 0) = false ∧ (after (step s)).record = []) ∧
    (let s : State := { State.reset with recording := true, boot := { Boot.reset with region := (0, 2 ^ 40) } }
     s.recAt = 0 ∧ (State.reset.streamsOf State.reset (.event 0 (.clusterGrant 0))).length = 1 ∧ s.boot.region.2 = 2 ^ 40) := by decide +kernel
/-- Core 0 with a staged write of line 0, and a `cld` of the line at 0 that core 1 holds. -/
def contended : State := (stagedTwo 1).modC 1 (fun c => { c with
  slots := c.slots.modify 5 (fun q => { q with hold := some (hold .cld 0x10000000 0 0 0 []) }) })
/-- O4, O19, O45, O52: a member that waits for its tandem's clock; a `cld` with one line staged; drains, readers and copies that a held
`cld` precedes or does not; a grant of both lines. -/
theorem witness_arbitration :
    (let c : CoreC := { CoreC.reset with run := .running, group := [0, 1], dec := true, clk := 5 }
     let s : State := { State.reset with cores := [(0, c), (1, { c with lane := 1, clk := 3 })] }
     s.ahead 0 = true ∧ s.ahead 1 = false ∧ (running id).ahead 0 = false) ∧
    meets 5 (stagedTwo 1) 2 (fun x => (x.c.staged 0).isSome ∧ x.c.staged (0 + 64) = none) ∧
    meets 5 ((stagedTwo 2).modC 0 (fun c => { c with wst := c.wst.drop 1 })) 2 (fun x => x.c.staged 0 = none ∧ (x.c.staged (0 + 64)).isSome) ∧
    ((((after (exec (.lsCld 0 2 0) (stagedTwo 1))).coreC 0).slot 5).hold.map Hold.st = some 1) ∧
    (contended.cldFirst 0 (srcLs 0) [0] = false ∧
      (let s := contended.setCluster 0 { contended.cluster 0 with last := [(0, srcLs 0)] }
       s.cldFirst 0 (srcLs 0) [0] = true ∧ after (exec (.writeStagingDrain 0) s) = s ∧
         s.piecesLose srcCopy [(locClus 0 0, 64)] = true ∧ s.piecesLose srcCopy [(locClus 0 128, 64)] = false)) ∧
    (let h := hold .cld 0x10000000 0 0 0 []
     let s := heldC 5 h
     (s.cldTakes 0 h [0, 1]).1.cldWants = [] ∧ s.cldWins 0 h = [0, 1] ∧
       (((after (exec (.clusterGrant 0) s)).coreC 0).slot 5).hold = none) := by decide +kernel
/-- O26, O45, O53: an `sae` that has no room leaves read staging; a hasp word and a peer's row in a shut scratchpad wait. -/
theorem witness_shutters :
    (let q := List.replicate 256 (⟨1, 0, false, false, 0, [(0, 5, 0)]⟩ : SaeTrig)
     let s := (native 7 0x10000000 0 0).setCluster 0 ⟨q, [], []⟩
     (s.cluster 0).room 1 false = false ∧ (((s.modC 0 (fun c => { c with rst := [⟨0, 0, 0, 0⟩] })).saeDiscard 0 [(0, 5, 0)]).coreC 0).rst = []) ∧
    (let s := (withHasp (heldC 7 (hold .hrel 77 0 0 0 []))).modBlock 0 (fun b => { b with shut := true })
     s.shutAt (locCore 0 64) = true ∧ State.reset.shutAt (locCore 0 64) = false ∧ holdOf 7 (exec (.hrelDone 0) s) = some .hrel) ∧
    (let p := { Port.reset with inbox := [(3, [])] }
     p.waits = true ∧ Port.reset.waits = false ∧ State.reset.shutMsg (msgBytes 1 0 64 8 (bytesOf 8 0xABCD)) = false) := by decide +kernel
/-- O55, O57, O59: an atomic of a VF on a leaf of the host tier; a teardown whose queues have or have not gone; an address space whose
second stage lies nowhere; a recorded pop whose winner has or has not come. -/
theorem witness_fourth_review :
    (let s : State := { (mapped State.reset).write 72 1 8 with live := [1] }
     ((s.bar2Locs 1 64 8 .write).1.toOption = some [(locHost 64, 8)]) ∧ (after (exec (.hostAtomic 1 64 8 .fetchAdd 3 0) s)).host = [.abort]) ∧
    (let s : State := { tearing with torn := [1] }
     s.queuesGone 1 = true ∧ (after (exec (.teardown 1 0) s)).torn = [] ∧
       (let u : State := { s with chans := [(1, { Chan.reset with owner := some (0, 1), asid := 1, aborted := true })] }
        u.queuesGone 1 = false ∧ (after (exec (.teardown 1 0) u)).torn = [1])) ∧
    State.reset.stage2Ok [2, 0, 0, 8] = false ∧ State.reset.stage2Ok [0] = true ∧
    (let s := queued 0 [(0, task1 (rec1 0 0 4 0))]
     let r := fun (w : Nat) => (⟨.event 0 (.dispatch 0 0), 0, some w, []⟩ : Recorded)
     s.absent (r 0) = false ∧ s.absent (r 9) = true ∧ s.popped (.event 0 (.dispatch 0 0)) = some 0 ∧
       ((after (s.forced (r 0))).coreC 0).run = .running) := by decide +kernel
/-- O60: a placement code that the loader refuses, a bundle cache that has room nowhere. -/
theorem witness_refused_placement : (loadable image1).noHandle 1 = false ∧
    (∃ p ∈ [(⟨0, some 3, 0, []⟩ : Placement)], p.plc = some 3) ∧ State.reset.cacheFull 3 1 64 32 (obj1 [] []) = true ∧
    (obj1 [] []).clear 3 64 32 = true ∧ ({ obj1 [] [] with spans := [(3, 64, 32)] } : CodeObj).clear 3 64 32 = false := by decide +kernel

end Sys2Proof.Tests
end

section
/-! PROOFS. The matrix engine: taking commands, the steps of a sequence, what returns and lands, the limiter (O44). -/

namespace Sys2Proof.Machine

/-! ### What counting leaves of a core (R247 to R249) -/

/-- Counting an event changes nothing of a core but its profiling counts. -/
theorem State.coreC_countCore (s : State) (g ev k j : Nat) : ∃ t, (s.countCore g ev k).coreC j = { s.coreC j with prof := t } := by
  unfold State.countCore
  dsimp only
  split
  · exact ⟨_, rfl⟩
  · split
    · by_cases h : j = g
      · exact ⟨_, by rw [State.coreC_modC, if_pos h, h]⟩
      · exact ⟨_, by rw [State.coreC_modC, if_neg h]⟩
    · exact ⟨_, rfl⟩

theorem State.coreC_countBeat (s : State) (g : Nat) (op : MeOp) (j : Nat) :
    ∃ t, (s.countBeat g op).coreC j = { s.coreC j with prof := t } := by
  unfold State.countBeat
  split
  · exact s.coreC_countCore ..
  · exact ⟨_, rfl⟩

section
variable (s : State) (g : Nat) (op : MeOp) (j : Nat)

@[simp] theorem State.coreC_countBeat_eng : ((s.countBeat g op).coreC j).eng = (s.coreC j).eng := by
  obtain ⟨t, h⟩ := s.coreC_countBeat g op j
  rw [h]
@[simp] theorem State.coreC_countBeat_l : ((s.countBeat g op).coreC j).l = (s.coreC j).l := by
  obtain ⟨t, h⟩ := s.coreC_countBeat g op j
  rw [h]
@[simp] theorem State.coreC_countBeat_l2 : ((s.countBeat g op).coreC j).l2 = (s.coreC j).l2 := by
  obtain ⟨t, h⟩ := s.coreC_countBeat g op j
  rw [h]
@[simp] theorem State.coreC_countBeat_infl : ((s.countBeat g op).coreC j).infl = (s.coreC j).infl := by
  obtain ⟨t, h⟩ := s.coreC_countBeat g op j
  rw [h]
end

/-! ### Results of the engine that land (R159, R187) -/

theorem readLatch_put (f : File TVal) (b n m : Nat) (v : TVal) (hm : wideLatch m = true) :
    readLatch (f.put n v) b m = if m = n then v else readLatch f b m := by
  simp only [readLatch, hm, if_true, File.get_put]

/-- A result of the engine pushes the head of l4 back. -/
theorem readLatch_push (f : File TVal) (b : Nat) (v : TVal) :
    readLatch ((f.put 12 (readLatch f b 4)).put 4 v) b 4 = v ∧
      readLatch ((f.put 12 (readLatch f b 4)).put 4 v) b 12 = readLatch f b 4 := by
  constructor <;> simp [readLatch_put, wideLatch]

/-- One result of the engine that has returned lands, whatever is frozen (R195). -/
theorem CoreC.landAll_one {c : CoreC} {v : TVal} {hb : Bool} (frz : Nat → Option Nat)
    (h : c.infl = [⟨4, c.clk, 0, v, 0, true, hb⟩]) :
    c.landAll frz = { c.land ⟨4, c.clk, 0, v, 0, true, hb⟩ with infl := [] } := by
  simp [CoreC.landAll, h, List.range_succ, List.filter_cons]

/-- Two that have returned in one cycle land in the order of return, and set the unit's collision bit (R159). -/
theorem CoreC.landAll_two {c : CoreC} {v w : TVal} (frz : Nat → Option Nat)
    (h : c.infl = [⟨4, c.clk, 0, v, 0, true, false⟩, ⟨4, c.clk, 0, w, 0, true, false⟩]) :
    c.landAll frz = {
      (c.land ⟨4, c.clk, 0, v, 0, true, false⟩).land ⟨4, c.clk, 0, w, 0, true, false⟩ with
      infl := [], col := c.col ||| 0x10 } := by
  simp [CoreC.landAll, h, List.range_succ, List.filter_cons, sortBy, insertBy, CoreC.land, CoreC.raise]

/-! ### The matrix engine takes a command (R36, R178) -/

/-- The engine has accepted command `c`: engine samples name it, and a beat after a gap takes the engine out of idle (R36, R198). -/
def State.accepted (s : State) (g : Nat) (c : Cmd) : State :=
  let e := (s.coreC g).eng
  let t := (s.nameSamples g c).modEng g (fun e => { e with asleep := !isBeat c.op && e.inGap s.now, woken := e.woken && !isBeat c.op })
  if isBeat c.op = true ∧ e.inGap s.now = true then t.leftIdle else t

section
variable {s : State} {g : Nat} {c : Cmd} {l : List Cmd} {q : SeqPos}

theorem execEngineConsume_take (ht : (s.coreC g).eng.canTake s.now = true) (hf : (s.coreC g).eng.fifo = c :: l)
    (hr : s.readerLoses g c.reads = false) : execEngineConsume g s =
      if c.op = .seq then .next ((s.accepted g c).meEffect g c)
      else .next (((s.accepted g c).modEng g (fun e => { e with fifo := l, cur := some c, out := none })).meEffect g c) := by
  unfold execEngineConsume
  simp only [ht, hf, hr, Bool.true_eq_false, Bool.false_eq_true, if_false, Bool.and_eq_true]
  rfl

/-- What comes before the reader at the banks keeps the command at the head (R169). -/
theorem execEngineConsume_shutOut (hf : (s.coreC g).eng.fifo = c :: l) (hr : s.readerLoses g c.reads = true) :
    execEngineConsume g s = .next s := by
  unfold execEngineConsume
  simp only [hf, hr, if_true, ite_self]

/-- A sequence starts at its first slice (R193). -/
theorem State.meEffect_seq (t : State) (h : c.op = .seq) :
    t.meEffect g c = t.modEng g (fun e => { e with seq := some ⟨bitsOf c.t 16 16, 0, 0, false, false, 0⟩ }) := by
  unfold State.meEffect
  rw [h]

/-! ### The steps of a sequence (R193, R194) -/

theorem Engine.draining_of_seq {e : Engine} (h : e.seq = some q) : e.draining = q.drain := by
  unfold Engine.draining
  rw [h]

/-- A drain group is no beat, and waits for no admission. -/
theorem Engine.needsAdmit_of_draining {e : Engine} (now : Nat) (h : e.draining = true) : e.needsAdmit now = false := by
  unfold Engine.needsAdmit
  split
  · simp [h]
  · rfl

theorem State.seqWake_asleep (ha : (s.coreC g).eng.asleep = true) (hd : (s.coreC g).eng.draining = false) :
    s.seqWake g = (s.modEng g (fun e => { e with asleep := false, woken := false })).leftIdle :=
  if_pos (by simp [ha, hd])

theorem State.seqWake_awake (ha : (s.coreC g).eng.asleep = false) : s.seqWake g = s := if_neg (by simp [ha])

theorem State.seqWake_draining (hd : (s.coreC g).eng.draining = true) : s.seqWake g = s := if_neg (by simp [hd])

theorem execSequencerStep_go (hs : (s.coreC g).eng.seq = some q) (hf : (s.coreC g).eng.fifo = c :: l)
    (hq : (s.coreC g).eng.quiet = false) (ha : (s.coreC g).eng.needsAdmit s.now = false) (hl : s.seqLoses g c q = false) :
    execSequencerStep g s = .next (s.seqStep g c q) := by
  unfold execSequencerStep
  dsimp only
  rw [hs, hf]
  dsimp only
  rw [if_neg (by simp [hq, ha, hl])]

theorem execSequencerStep_unadmitted (ha : (s.coreC g).eng.needsAdmit s.now = true) : execSequencerStep g s = .next s := by
  unfold execSequencerStep
  dsimp only
  split
  · rw [if_pos (by simp [ha])]
  · rfl

/-- A beat before the last goes on to the next slice. -/
theorem State.seqStep_beat (hd : q.drain = false) (hq : q.quit = false) (hj : q.j + 1 < bitsOf c.t 16 16 + bitsOf c.t 0 16) :
    s.seqStep g c q = ((s.seqWake g).seqBeat g c q).modEng g (fun e => { e with seq := some { q with j := q.j + 1, ph := 0 } }) := by
  obtain ⟨j, row, cg, drain, quit, ph⟩ := q
  obtain rfl : drain = false := hd
  obtain rfl : quit = false := hq
  have more : decide (j + 1 = bitsOf c.t 16 16 + bitsOf c.t 0 16) = false := decide_eq_false (by dsimp only at hj; omega)
  simp [State.seqStep, more]

/-- A drain group before the last of its row goes on to the next. -/
theorem State.seqStep_drain (hs : (s.coreC g).eng.seq = some q) (hd : q.drain = true) (hq : q.quit = false) (hc : q.cg < 4)
    (hr : q.row < 96) : s.seqStep g c q = (s.seqDrain g c q).modEng g (fun e => { e with seq := some { q with cg := q.cg + 1 } }) := by
  have wake : s.seqWake g = s := State.seqWake_draining ((Engine.draining_of_seq hs).trans hd)
  have row : ¬ q.row = 96 := by omega
  simp [State.seqStep, wake, hd, hq, row, Nat.ne_of_lt hc]

/-! ### Commands that end (R187, R194, R197) -/

/-- The core with the engine's result in flight, if the command that ended has one. -/
def CoreC.landOut (c : CoreC) (hb : Bool) (o : Option TVal) : CoreC :=
  match o with
  | some v => c.landL4 hb v
  | none => c

/-- A command that owes a token returns it, and completes. -/
theorem execTokenReturn_command (hs : (s.coreC g).eng.sqs = []) (hc : (s.coreC g).eng.cur = some c) (ht : c.tok = true) :
    execTokenReturn g s = .next ((s.setC g (CoreC.landOut { s.coreC g with eng := (s.coreC g).eng.tokenBack.complete s.now } c.hb
      (s.coreC g).eng.out)).countBeat g c.op) := by
  unfold execTokenReturn
  simp only [hs, hc, ht, Bool.true_eq_false, if_false]
  rfl

/-- A `me.sqs` whose turn has come returns its progress word. -/
theorem execTokenReturn_sqs {r hb : Bool} {w : Word} {rest : List Sqs} (hs : (s.coreC g).eng.sqs = ⟨0, r, some w, false, hb⟩ :: rest) :
    execTokenReturn g s = .next (s.setC g (({ s.coreC g with eng := { (s.coreC g).eng.tokenBack with sqs := rest } } : CoreC).landL4 hb
      (TVal.ofWord w))) := by
  unfold execTokenReturn
  dsimp only
  rw [hs]
  rfl

/-- A push that a running sequence has generated completes. -/
theorem execCommandInFlightComplete_push (hc : (s.coreC g).eng.cur = none) (hs : (s.coreC g).eng.seq = some q)
    (hf : (s.coreC g).eng.fifo = c :: l) (hq : (s.coreC g).eng.quiet = false) (hd : q.drain = false) (hp : q.ph < 2)
    (ha : (s.coreC g).eng.needsAdmit s.now = false)
    (hr : s.readerLoses g (if q.ph = 0 then q.readsA c else q.readsB c) = false) : execCommandInFlightComplete g s =
      .next ((if q.ph = 0 then (s.seqWake g).seqPushA g c q else s.seqPushB g c q).modEng g
        (fun e => { e with seq := some { q with ph := q.ph + 1 } })) := by
  unfold execCommandInFlightComplete
  dsimp only
  rw [hc, hs, hf]
  dsimp only
  rw [if_neg (by simpa [hq, hd, ha, hr] using hp)]

/-- A command that owes no token completes. -/
theorem execCommandInFlightComplete_command (hc : (s.coreC g).eng.cur = some c) (ht : c.tok = false) :
    execCommandInFlightComplete g s = .next ((s.modEng g (fun e => e.complete s.now)).countBeat g c.op) := by
  unfold execCommandInFlightComplete
  dsimp only
  rw [hc]
  dsimp only
  rw [if_neg (by simp [ht])]
end

/-! ### The limiter (R36) -/

/-- The engines that leave idle in two microseconds, those that are admitted and have still to accept their beat among them. -/
def State.leaving (s : State) : Nat :=
  (s.wakes.filter (fun t => s.now < t + 2000)).length + (s.cores.filter (fun p => p.2.eng.woken)).length

/-- An engine asks before core g's: its first command came earlier, or at that time and its number is lower. -/
def State.askedBefore (s : State) (g : Nat) : Bool :=
  s.cores.any (fun p => p.2.eng.needsAdmit s.now && (decide (p.2.eng.since < (s.coreC g).eng.since) ||
    (decide (p.2.eng.since = (s.coreC g).eng.since) && decide (p.1 < g))))

theorem execEngineWakeAdmit_eq (s : State) (g : Nat) : execEngineWakeAdmit g s =
    if (s.coreC g).eng.needsAdmit s.now && decide (s.leaving < 32) && !s.askedBefore g
    then .next (s.modEng g (fun e => { e with woken := true })) else .next s := rfl

theorem execEngineWakeAdmit_first {s : State} {g : Nat} (ha : (s.coreC g).eng.needsAdmit s.now = true) (hl : s.leaving < 32)
    (hf : ∀ p ∈ s.cores, p.2.eng.needsAdmit s.now = true →
      (s.coreC g).eng.since < p.2.eng.since ∨ ((s.coreC g).eng.since = p.2.eng.since ∧ g ≤ p.1)) :
    execEngineWakeAdmit g s = .next (s.modEng g (fun e => { e with woken := true })) := by
  have first : s.askedBefore g = false := by
    unfold State.askedBefore
    rw [List.any_eq_false]
    intro p hp hb
    simp only [Bool.and_eq_true, Bool.or_eq_true, decide_eq_true_eq] at hb
    have := hf p hp hb.1
    omega
  rw [execEngineWakeAdmit_eq, if_pos (by simp [ha, hl, first])]

theorem execEngineWakeAdmit_full {s : State} {g : Nat} (hl : 32 ≤ s.leaving) : execEngineWakeAdmit g s = .next s := by
  rw [execEngineWakeAdmit_eq, if_neg (by simp [Nat.not_lt.mpr hl])]

/-- Settles O44: from what each step of the engine does where its guards let it, and what lands of the results it returns. -/
theorem engineEvents : Obligations.EngineEvents := by
  intro s g
  refine ⟨fun c l ht hf hr ho => ?_, fun c l ht hf hr ho => ?_, fun c l => execEngineConsume_shutOut,
    fun q c l hs hf hq ha hl hd hu hj => ?_, State.seqWake_asleep, State.seqWake_awake, execSequencerStep_unadmitted,
    fun q c l hs hf hq hl hd hu hc hr => ?_, fun c hs hc ht => ?_, fun r w hb rest hs => ?_, fun c frz v hb h => ?_,
    fun c frz v w h => ?_, fun q c l => execCommandInFlightComplete_push, fun c hc ht => ?_, execEngineWakeAdmit_first,
    execEngineWakeAdmit_full⟩
  · rw [exec_engineConsume, execEngineConsume_take ht hf hr, if_neg ho]
    rfl
  · rw [exec_engineConsume, execEngineConsume_take ht hf hr, if_pos ho, State.meEffect_seq _ ho]
    rfl
  · rw [exec_sequencerStep, execSequencerStep_go hs hf hq ha hl, State.seqStep_beat hd hu hj]
  · have ha := Engine.needsAdmit_of_draining s.now ((Engine.draining_of_seq hs).trans hd)
    rw [exec_sequencerStep, execSequencerStep_go hs hf hq ha hl, State.seqStep_drain hs hd hu hc hr]
  · refine ⟨_, execTokenReturn_command hs hc ht, ?_⟩
    simp only [State.coreC_countBeat_eng, State.coreC_countBeat_l, State.coreC_countBeat_l2, State.coreC_countBeat_infl, State.coreC_setC,
      if_true]
    cases (s.coreC g).eng.out <;> exact ⟨rfl, rfl, rfl, rfl, rfl, rfl⟩
  · refine ⟨_, execTokenReturn_sqs hs, ?_⟩
    rw [State.coreC_setC, if_pos rfl]
    exact ⟨rfl, rfl, rfl, rfl⟩
  · rw [CoreC.landAll_one frz h]
    cases hb
    · exact ⟨(readLatch_push ..).1, rfl, rfl⟩
    · exact ⟨(readLatch_push ..).1, rfl, rfl⟩
  · rw [CoreC.landAll_two frz h]
    exact ⟨(readLatch_push ..).1, (readLatch_push ..).2.trans (readLatch_push ..).1, rfl⟩
  · refine ⟨_, execCommandInFlightComplete_command hc ht, ?_⟩
    simp only [State.coreC_countBeat_eng, State.coreC_countBeat_l, State.modEng, State.coreC_modC, if_true, and_true]
    exact ⟨rfl, rfl, rfl⟩

end Sys2Proof.Machine
end

section
/-! PROOFS. Nothing stops the machine: every instruction, and every step of a living module, answers a next state (O9). -/

namespace Sys2Proof.Machine

/-! ### Outcomes that go on -/

/-- An outcome goes on to a next state: it is neither a fault nor a refusal. -/
def Answers (o : Host.Outcome State Fault Refusal) : Prop := ∃ t, o = .next t

theorem Answers.next (t : State) : Answers (.next t) := ⟨t, rfl⟩

theorem Answers.ite {c : Prop} [Decidable c] {a b : Host.Outcome State Fault Refusal} (ha : Answers a) (hb : Answers b) :
    Answers (if c then a else b) := by
  split
  · exact ha
  · exact hb

theorem Answers.settled {o : Host.Outcome State Fault Refusal} (h : Answers o) : Answers (settled o) := by
  obtain ⟨t, rfl⟩ := h
  exact .next _

/-- An action that may be absent goes on where there is one. -/
def Answered (x : Option (Host.Outcome State Fault Refusal)) : Prop := ∀ o, x = some o → Answers o

theorem Answered.none : Answered none := fun _ h => nomatch h

theorem Answered.some {o : Host.Outcome State Fault Refusal} (h : Answers o) : Answered (some o) := by
  rintro _ ⟨⟩
  exact h

theorem Answered.ite {c : Prop} [Decidable c] {x y : Option (Host.Outcome State Fault Refusal)} (hx : Answered x) (hy : Answered y) :
    Answered (if c then x else y) := by
  split
  · exact hx
  · exact hy

/-! ### The frames of instructions -/

theorem runMove_answers (unit : Nat) (gd : BitVec 3) (src : BitVec 10) (s : State) (body : MoveCtx → State) :
    Answers (runMove unit gd src s body) := .ite (.next _) (by split <;> exact .next _)

section
variable (gd : BitVec 3) (src : BitVec 10) (u k : BitVec 1) (s : State)

theorem iaMove_answers (lat : Nat) (f : CoreC → Word → Word → Word → Option (Word × Flags)) :
    Answers (iaMove gd src u k s lat f) := runMove_answers ..
theorem iaPlain_answers (lat : Nat) (f : Word → Word → Word) : Answers (iaPlain gd src u k s lat f) := iaMove_answers ..
theorem iaDivide_answers (signed quot : Bool) : Answers (iaDivide gd src u k s signed quot) := runMove_answers ..
theorem vaMove_answers (lat : Nat) (f : TVal → TVal → TVal → VRes) : Answers (vaMove gd src u k s lat f) := runMove_answers ..
theorem lsMove_answers (body : MoveCtx → State) : Answers (lsMove gd src s body) := runMove_answers ..
theorem lsLoad_answers (n : Nat) (tagOf : MoveCtx → Except Trap (BitVec 5)) : Answers (lsLoad gd src k s n tagOf) := lsMove_answers ..
theorem lsStoreMove_answers (n : Nat) : Answers (lsStoreMove gd src s n) := lsMove_answers ..
theorem ctMove_answers (check : MoveCtx → Option Trap) (act : MoveCtx → State) : Answers (ctMove gd src s check act) :=
  runMove_answers ..
theorem ctBit_answers (f : Bool → Bool → Bool) : Answers (ctBit gd src k s f) := runMove_answers ..
theorem asMove_answers (check : MoveCtx → Option Trap) (act : MoveCtx → State) : Answers (asMove gd src s check act) :=
  runMove_answers ..
theorem suspMove_answers (ends : CoreC → Bun → Bool) (act : MoveCtx → State) : Answers (suspMove gd src s ends act) :=
  .ite (runMove_answers ..) (.ite (.next _) (.next _))

theorem mePush_answers (op : MeOp) (rows n p : Nat) : Answers (mePush gd src k s op rows n p) := by
  refine .ite (.ite (.next _) ?_) (runMove_answers ..)
  dsimp only
  split
  · exact .next _
  · split <;> exact .next _

theorem meFrame_answers (check : MoveCtx → Option Trap) (body : MoveCtx → State) : Answers (meFrame gd src s check body) := by
  unfold meFrame
  dsimp only
  split
  · split <;> exact .next _
  · exact runMove_answers ..

theorem meMove_answers (op : MeOp) (check : MoveCtx → EngView → Except Trap Bool) : Answers (meMove gd src k s op check) :=
  meFrame_answers ..
end

theorem onHold_answers (g : Nat) (s : State) (ok : HoldOp → Bool) (act : Hold → State) : Answers (onHold g s ok act) := by
  unfold onHold
  split
  · exact .ite (.next _) (.next _)
  · exact .next _

theorem onPkt_answers (s : State) (ch n op : Nat) (act : State → Pkt → State) : Answers (s.onPkt ch n op act) := by
  unfold State.onPkt
  split
  · exact .next _
  · refine .ite (.next _) (.ite (.next _) (.ite (.next _) (.ite ?_ (.next _))))
    split
    · exact .next _
    · exact .ite (.next _) (.next _)

theorem command_answers (s : State) (g : Nat) (ok : Bool) (act : State → List Nat → State) : Answers (s.command g ok act) :=
  .ite (.next _) (.next _)

/-! ### Events whose answer turns on a match -/

section
variable (s : State) (g : Nat)

theorem execLevel7Preempt_answers (p : Nat) : Answers (execLevel7Preempt p s) := .ite (by split <;> exact .next _) (.next _)

theorem execGatherStart_answers (p : Nat) : Answers (execGatherStart p s) := .ite (.next _) (by split <;> exact .next _)

theorem execGatherPreempt_answers (p : Nat) : Answers (execGatherPreempt p s) := by
  unfold execGatherPreempt
  split
  · exact .next _
  · split
    · exact .next _
    · exact .ite (.next _) (.next _)

theorem execEngineConsume_answers : Answers (execEngineConsume g s) := by
  refine .ite (.next _) ?_
  split
  · exact .next _
  · exact .ite (.next _) (.ite (.next _) (.next _))

theorem execSequencerStep_answers : Answers (execSequencerStep g s) := by
  unfold execSequencerStep
  dsimp only
  split
  · exact .ite (.next _) (.next _)
  · exact .next _

theorem execTokenReturn_answers : Answers (execTokenReturn g s) := by
  unfold execTokenReturn
  dsimp only
  split
  · exact .next _
  · split
    · exact .ite (.next _) (.next _)
    · exact .next _

theorem execCommandInFlightComplete_answers : Answers (execCommandInFlightComplete g s) := by
  unfold execCommandInFlightComplete
  dsimp only
  split
  · exact .ite (.next _) (.next _)
  · split
    · exact .ite (.next _) (.next _)
    · exact .next _

theorem execLaunchGroupComplete_answers (grp : Nat) : Answers (execLaunchGroupComplete grp s) := by
  unfold execLaunchGroupComplete
  split
  · exact .next _
  · refine .ite (.next _) ?_
    dsimp only
    split
    · exact .next _
    · refine .ite (.next _) (.ite (.next _) ?_)
      split <;> exact .next _

theorem execPacketCrcTimeout_answers (ch : Nat) : Answers (execPacketCrcTimeout ch s) := by
  unfold execPacketCrcTimeout
  split
  · split
    · exact .ite (.next _) (.next _)
    · exact .next _
  · exact .next _

theorem execClusterGrant_answers : Answers (execClusterGrant g s) := by
  unfold execClusterGrant
  split
  · exact .ite (.ite (.next _) (.next _)) (.next _)
  · exact .next _

theorem execHandOver_answers : Answers (execHandOver g s) :=
  .ite (by split <;> exact .next _) (by split <;> exact .next _)

theorem execDispatch_answers (p : Nat) : Answers (execDispatch p g s) := by
  unfold execDispatch
  dsimp only
  split
  · exact .next _
  · refine .ite (.next _) ?_
    split <;> exact .next _

theorem execResume_answers (p : Nat) : Answers (execResume p g s) := by
  unfold execResume
  dsimp only
  split
  · exact .next _
  · split
    · exact .next _
    · split <;> exact .next _

theorem execStop_answers : Answers (execStop g s) := by
  refine .ite ?_ ?_
  · dsimp only
    split
    · exact .next _
    · exact .ite (.next _) (.ite (.next _) (.next _))
  · dsimp only
    split
    · exact .next _
    · exact .ite (.next _) (.next _)

theorem execSramError_answers (structure_ idx : Nat) (correctable : Bool) : Answers (execSramError structure_ idx g correctable s) := by
  refine .ite (.next _) ?_
  split
  case h_6 => split <;> exact .next _
  case h_7 => split <;> exact .next _
  case h_8 => exact .ite (.next _) (.ite (.next _) (.next _))
  all_goals exact .next _

theorem execBreakpoint_answers : Answers (execBreakpoint g s) := by
  unfold execBreakpoint
  split
  · exact .next _
  · exact .ite (.ite (.next _) (.next _)) (.ite (.next _) (.next _))

theorem execEngineSample_answers : Answers (execEngineSample g s) := .ite (by dsimp only; split <;> exact .next _) (.next _)

theorem execFatalThermalFault_answers (i pa : Nat) : Answers (execFatalThermalFault i pa s) := by
  unfold execFatalThermalFault
  split
  · exact .next _
  · exact .ite (.next _) (.ite (.next _) (.ite (.next _) (.next _)))

theorem execBringUp_answers : Answers (execBringUp s) := by
  refine .ite (.next _) ?_
  split
  · split <;> exact .next _
  · exact .next _

theorem execHostAtomic_answers (fn addr width : Nat) (op : HostAtom) (val cmp : BitVec 64) :
    Answers (execHostAtomic fn addr width op val cmp s) := by
  refine .ite (.next _) ?_
  split
  · exact .next _
  · exact .ite (.next _) (.next _)

theorem execRegisterWrite_answers (fn off : Nat) (val : BitVec 64) : Answers (execRegisterWrite fn off val s) := by
  refine .ite ?_ (.ite (.next _) ?_)
  · split <;> exact .next _
  · split <;> exact .next _

theorem execBundlePublish_answers (d asid handle ent va : Nat) (b : Translation) :
    Answers (execBundlePublish d asid handle ent va b s) := by
  unfold execBundlePublish
  split
  · exact .next _
  · split
    · exact .next _
    · exact .ite (.next _) (.ite (.next _) (.ite (.next _) (.next _)))

theorem execLoadCodeObject_answers (asid image len handle : Nat) (places : List Placement) (stores : Mapping) (tableVa codeVa : Nat) :
    Answers (execLoadCodeObject asid image len handle places stores tableVa codeVa s) := by
  unfold execLoadCodeObject
  dsimp only
  split
  · exact .next _
  · split
    · exact .next _
    · refine .ite (.next _) (.ite (.next _) (.ite (.next _) (.ite (.next _) ?_)))
      split
      · exact .next _
      · split
        · exact .next _
        · split
          · exact .next _
          · split <;> exact .next _
end

/-! ### Every instruction -/

/-- Every instruction answers a next state: its frame does, or each branch of its event. -/
theorem exec_answers (i : Instr) (s : State) : Answers (exec i s) := by
  cases i with dsimp only [exec]
  | iaAdd | iaSub | iaAnd | iaOr | iaXor | iaAndn | iaShl | iaShr | iaSra | iaRol | iaMin | iaMax | iaMinn | iaMaxn | iaMul | iaMulh
  | iaMulhn | iaCmpeq | iaCmpne | iaCmplt | iaCmpltn | iaCmple | iaCmplen | iaClz | iaCtz | iaPopc | iaMov => exact iaPlain_answers ..
  | iaSel | iaLea | iaBfx | iaBfi | iaSext | iaZext => exact iaMove_answers ..
  | iaDiv | iaDivn | iaRem | iaRemn => exact iaDivide_answers ..
  | vadd | vsub | vmul | vfma | vmax | vmin | vabs | vneg | vcmpeq | vcmplt | vcmple | vsel | vcvt | vsplat | vperm | vshuf | vredadd
  | vredmax | vexp2 | vlog2 | vrcp | vrsq | vdot2 | vscl | vpln | vupl | vand | vor | vxor | vshl | vshr | vidx | vext | vins | vclmp
  | vtag => exact vaMove_answers ..
  | mePa | mePb => exact mePush_answers ..
  | meAcc | meSh | meDr | meClr | meCls | meThr | meSeq => exact meMove_answers ..
  | meSqs => exact meFrame_answers ..
  | lsLd | lsVld | lsTld => exact lsLoad_answers ..
  | lsSt | lsVst => exact lsStoreMove_answers ..
  | lsVlds | lsVgat | lsVsca | lsCld | lsCst | lsMst | lsPld | lsAld | lsAst => exact lsMove_answers ..
  | ctBr | ctBrc | ctCall | ctRet | ctJr | ctLoop | ctLbrk | ctLend | ctFuse | ctDecouple | ctRejoin | ctTrap | ctBrk | ctKr | ctKw
  | ctEret | ctTokw => exact ctMove_answers ..
  | ctPand | ctPor | ctPxor | ctPnot => exact ctBit_answers ..
  | ctSusp | ctYield => exact suspMove_answers ..
  | asTwait | asTstat | asBalloc | asBarr | asBwait | asBfree | asHbind | asHacq | asHrel | asHpub | asHobs | asSaer | asNotify | asRnd
  | asIcinv => exact asMove_answers ..
  | asPost | asSae | asTpost | asSortx | asPmark | moveToRegister | moveToPort => exact runMove_answers ..
  -- the portable layer, and events that answer at once
  | moveToNullSink
  | qadd | qsub | qmul | qfma | qmax | qmin | qabs | qneg | qclmp | qcmpeq | qcmplt | qcmple | qsel | qand | qor | qxor | qshl | qshr
  | qidx | qext | qins | qperm | qshuf | qredadd | qredmax | qexp2 | qlog2 | qrcp | qrsq | qdot2 | qscl | qpln | qupl | qcvtx | qsortx
  | qsplat | qcvt | qtag
  | qld | qst | qlds | qgat | qsca | qmst | mclr | mcls | mthr | mmac | mdr | mrd | mwr
  | qpost | twait | tstat | hbind | hacq | hrel | hpub | hobs | tpost | cend | csusp | cyield | notify | pmark | qrnd
  | portableLoad | portableStore | fence | fenceI | ecall | ebreak | portableDivide | portableBranchJump | csrAccess | portableIntegerOp
  | writeStagingDrain | readStagingExpire | derailleurReevaluate | packetComplete | pageWalk | invalidateVa | invalidateAsid
  | invalidateVm | invalidateAll | journalClear | dumpSlotRelease | debuggerDetach | modulePowerDown | releaseHeld => exact .next _
  | nullPacket | copy | fill | gather | scatter | atom | send | promote | demote | launch | signal | waittl | icinv =>
    exact onPkt_answers ..
  | twaitRelease | hacqRelease | hrelDone | hpubDone | hbindDone | bwaitRelease | ballocDone | postClaim | tpostDone
  | icacheDiscardDone => exact onHold_answers ..
  | halt | runHalted | stepHalted | shut | openShutter | imgout | evict => exact command_answers ..
  -- events with one test, then with more
  | bundleDispatch | resultLand | engineWakeAdmit | saeApply | watchdog | softPreemption | queueCreate | queueClose | faultUnrecoverable
  | homeMapChange | flitReceive | flitReplay | portRetrain | powerLimit | driverMeasurementExtend | shutterAck | imgin | cadenceBreakpoint
  | bundleSample | replayDivergence | recordBufferFull | addressSpaceCreate | addressSpaceDelete | recordBufferDrained =>
    exact .ite (.next _) (.next _)
  | loopPassEnd | rejoinRelease | channelBind | profileSessionWrite | recordRegionFull | thermalSample =>
    exact .ite (.next _) (.ite (.next _) (.next _))
  | throttleStep | teardown => exact .ite (.next _) (.ite (.next _) (.ite (.next _) (.next _)))
  | faultResolved => exact .ite (.ite (.next _) (.next _)) (.next _)
  | faultTimeout => exact .ite (.ite (.next _) (.next _)) (.ite (.next _) (.next _))
  | frequencyChange => exact .ite (.ite (.next _) (.ite (.next _) (.next _))) (.next _)
  -- events that answer with what they find
  | userInterruptTake | taskSlotGranted | queueAbort | takePacket | entropyReady | attestationReport | hostBar2Write | hostBar2Read =>
    dsimp only [execUserInterruptTake, execTaskSlotGranted, execQueueAbort, execTakePacket, execEntropyReady, execAttestationReport,
      execHostBar2Write, execHostBar2Read]
    split <;> exact .next _
  -- events that find nothing, or test what they find
  | recordWake | shiftRequest | sendAcknowledged | sendAckTimeout | invalidateComplete | unloadCodeObject | fuseRelease
  | preemptionDeadline =>
    dsimp only [execRecordWake, execShiftRequest, execSendAcknowledged, execSendAckTimeout, execInvalidateComplete, execUnloadCodeObject,
      execFuseRelease, execPreemptionDeadline]
    split
    · exact .next _
    · exact .ite (.next _) (.next _)
  -- the others
  | level7Preempt => exact execLevel7Preempt_answers ..
  | gatherStart => exact execGatherStart_answers ..
  | gatherPreempt => exact execGatherPreempt_answers ..
  | engineConsume => exact execEngineConsume_answers ..
  | sequencerStep => exact execSequencerStep_answers ..
  | tokenReturn => exact execTokenReturn_answers ..
  | commandInFlightComplete => exact execCommandInFlightComplete_answers ..
  | launchGroupComplete => exact execLaunchGroupComplete_answers ..
  | packetCrcTimeout => exact execPacketCrcTimeout_answers ..
  | clusterGrant => exact execClusterGrant_answers ..
  | handOver => exact execHandOver_answers ..
  | dispatch => exact execDispatch_answers ..
  | resume => exact execResume_answers ..
  | stop => exact execStop_answers ..
  | sramError => exact execSramError_answers ..
  | breakpoint => exact execBreakpoint_answers ..
  | engineSample => exact execEngineSample_answers ..
  | fatalThermalFault => exact execFatalThermalFault_answers ..
  | bringUp => exact execBringUp_answers ..
  | hostAtomic => exact execHostAtomic_answers ..
  | registerWrite => exact execRegisterWrite_answers ..
  | bundlePublish => exact execBundlePublish_answers ..
  | loadCodeObject => exact execLoadCodeObject_answers ..

/-! ### Every turn -/

section
variable (s : State)

theorem issueMove_answers (g k : Nat) (b : Bun) : Answers (s.issueMove g k b) := by
  unfold State.issueMove
  split
  · exact .next _
  · exact exec_answers ..
  · exact .next _

theorem trapTogether_answers (lead k : Nat) (b : Bun) : Answered (s.trapTogether lead k b) := by
  refine .ite ?_ .none
  split
  · exact .none
  · exact .some (.next _)

theorem beforeMove_answers (lead : Nat) : Answered (s.beforeMove lead) := by
  unfold State.beforeMove
  split
  · exact .none
  · refine .ite ?_ (trapTogether_answers s _ _ _)
    split
    · exact .some (.next _)
    · exact .none

theorem sampleNow_answers (l : List Nat) : Answered (s.sampleNow l) := by
  unfold State.sampleNow
  split
  · exact .none
  · exact .some (.ite (exec_answers (.bundleSample _) s) (exec_answers (.engineSample _) s))

theorem actionC_answers (lead : Nat) : Answered (s.actionC lead) := by
  refine .ite .none (.ite ?_ (.ite (.some (exec_answers (.breakpoint _) s)) (.ite (.some (exec_answers (.resultLand lead) s))
    (beforeMove_answers s _))))
  split
  · exact sampleNow_answers s _ _ ‹_› |> .some
  · refine .ite (.some (exec_answers (.loopPassEnd lead) s)) (.ite (.some (exec_answers (.stop _) s))
      (.ite (.some (exec_answers (.handOver _) s)) ?_))
    split
    · exact .some (exec_answers (.cadenceBreakpoint _) s)
    · exact .ite (.some (exec_answers (.userInterruptTake _) s)) (.some (exec_answers (.bundleDispatch lead) s))

theorem actionP_answers (g : Nat) : Answered (s.actionP g) := by
  unfold State.actionP
  dsimp only
  split
  · exact .some (sampleNow_answers s _ _ ‹_›)
  · refine .ite (.some (exec_answers (.stop _) s)) (.ite .none (.ite (.some (exec_answers (.breakpoint _) s))
      (.ite (.some (exec_answers (.cadenceBreakpoint g) s)) (.ite (.some (exec_answers (.handOver _) s)) ?_))))
    split
    · exact .ite (.some (.next _)) .none
    · exact .none

theorem runC_answers (g : Nat) : Answers (s.runC g) := by
  unfold State.runC
  dsimp only
  split
  · exact actionC_answers s _ _ ‹_›
  · split
    · exact .next _
    · exact issueMove_answers ..

theorem runP_answers (g : Nat) : Answers (s.runP g) := by
  unfold State.runP
  split
  · exact actionP_answers s _ _ ‹_›
  · refine .ite (.next _) ?_
    split
    · exact .next _
    · exact .next _
    · exact exec_answers ..

theorem runCore_answers (g : Nat) : Answers (s.runCore g) := .ite (.next _) (.ite (runC_answers ..) (runP_answers ..))

theorem turn_answers (t : Turn) : Answers (s.turn t) := by
  cases t with
  | event => exact .ite (exec_answers ..) (.next _)
  | core => exact runCore_answers ..
  | evictL1 | evictL2 | evictRlc | evictTlb | evictWalk | hostRead | resizeBar | firmware | hold => exact .next _

theorem take_answers (t : Turn) : Answers (s.take t) := by
  refine .ite ?_ (turn_answers ..)
  obtain ⟨u, hu⟩ := turn_answers (s.recordTurn t) t
  rw [hu]
  exact .next _

theorem forced_answers (r : Recorded) : Answers (s.forced r) := by
  unfold State.forced
  dsimp only
  split
  case h_3 => exact turn_answers ..
  all_goals
    refine .ite (turn_answers ..) ?_
    split
    · exact .next _
    · split <;> exact .next _

theorem diverge_answers (g : Nat) : Answers (s.diverge g) := exec_answers (.replayDivergence g) _

theorem replayStep_answers : Answers s.replayStep := by
  unfold State.replayStep
  split
  · exact .next _
  · exact .ite (.next _) (.ite (.ite (runCore_answers ..) (diverge_answers ..)) (.ite (diverge_answers ..)
      (.ite (.ite (.next _) (forced_answers ..)) (.ite (.next _) (diverge_answers ..)))))

/-- A module that has power and whose bring-up has not failed takes its turn, a step of bring-up or an action of the core in focus. -/
theorem oneStep_answers (h : s.alive) : Answers s.oneStep := by
  obtain ⟨hp, hf⟩ := h
  unfold State.oneStep
  split
  · simp only [hp, hf, Bool.true_eq_false, Option.isSome_none, false_and, and_false, Bool.false_eq_true, if_false]
    exact .ite (.next _) (.ite (turn_answers ..) (take_answers ..))
  · simp only [hp, hf, Bool.true_eq_false, Option.isSome_none, Bool.false_eq_true, if_false]
    exact .ite (replayStep_answers ..) (.ite (take_answers ..) (take_answers ..))
end

/-- Settles O9: every instruction answers, and with it every turn, step of bring-up and action of a core. -/
theorem nothingStops : Obligations.NothingStops := ⟨exec_answers, fun s h => (oneStep_answers s h).settled⟩

end Sys2Proof.Machine
end

section
/-! PROOFS. Power, heat, bring-up, measurement and reports, in the cases that their guards tell apart (O56). -/

namespace Sys2Proof.Machine

/-! ### Power and heat (R30 to R34) -/

/-- A bound above every number of a list, and above the start, is above their maximum. -/
theorem foldl_max_lt {l : List Nat} {m b : Nat} (hm : m < b) (h : ∀ x ∈ l, x < b) : l.foldl max m < b := by
  induction l generalizing m with
  | nil => exact hm
  | cons x l ih => exact ih (max_lt hm (h x List.mem_cons_self)) fun y hy => h y (List.mem_cons_of_mem _ hy)

section
variable {s : State} {i : Nat}

/-- Below 97 °C the island takes the commanded clock within its cap, unless it is throttled and would rise. -/
theorem execFrequencyChange_cool {mhz : Nat} (hi : i < 16) (hc : clockOk mhz = true) (h : (s.island i).hot < 97) :
    execFrequencyChange i mhz s = .next ((s.setIsland i { s.island i with want := mhz }).setClock i
      (if (s.island i).slow then min (min mhz (s.island i).cap) (s.island i).mhz else min mhz (s.island i).cap)) := by
  unfold execFrequencyChange
  rw [if_pos ⟨hi, hc⟩]
  exact if_pos h

/-- Between 97 and 100 °C the command is noted and the frequency kept. -/
theorem execFrequencyChange_warm {mhz : Nat} (hi : i < 16) (hc : clockOk mhz = true) (h : 97 ≤ (s.island i).hot)
    (h' : (s.island i).hot < 100) : execFrequencyChange i mhz s = .next (s.setIsland i { s.island i with
      want := mhz, slow := (s.island i).slow || decide (min mhz (s.island i).cap ≠ (s.island i).mhz) }) := by
  unfold execFrequencyChange
  rw [if_pos ⟨hi, hc⟩]
  exact (if_neg (by omega)).trans (if_pos h')

/-- At 100 °C and above the island is throttled and does not rise. -/
theorem execFrequencyChange_hot {mhz : Nat} (hi : i < 16) (hc : clockOk mhz = true) (h : 100 ≤ (s.island i).hot) :
    execFrequencyChange i mhz s = .next ((s.setIsland i { s.island i with want := mhz, slow := true }).setClock i
      (min (min mhz (s.island i).cap) (s.island i).mhz)) := by
  unfold execFrequencyChange
  rw [if_pos ⟨hi, hc⟩]
  exact (if_neg (by omega)).trans (if_neg (by omega))

/-- A sample below 105 °C changes the island's heat alone: it throttles the island at 100 °C and above, and no fatal fault runs. -/
theorem execThermalSample_below {temps : List Nat} (hi : i < 16) (hl : 4 ≤ temps.length) (h : temps.foldl max 0 < 105) :
    execThermalSample i temps s = .next (s.setIsland i { s.island i with
      hot := temps.foldl max 0, slow := if 100 ≤ temps.foldl max 0 then true else (s.island i).slow, fatal := none }) := by
  have cool : decide (105 ≤ temps.foldl max 0 ∧ (s.island i).mhz = 1200) = false := decide_eq_false (by omega)
  unfold execThermalSample
  dsimp only
  rw [if_neg (by omega), if_neg (by omega), cool]
  rfl

/-- At 100 °C and above the clock goes down by 100 MHz, to no less than 1,200 MHz. -/
theorem execThrottleStep_down (hi : i < 16) (hh : 100 ≤ (s.island i).hot) (hm : 1200 < (s.island i).mhz) : execThrottleStep i s =
    .next ((((s.setIsland i { s.island i with slow := true }).setClock i (max 1200 ((s.island i).mhz - 100))).journalEvent 4 i).note
      4 i) := by
  unfold execThrottleStep
  dsimp only
  rw [if_neg (by omega), if_pos ⟨hh, hm⟩]

/-- A fatal fault that has stood for more than 10 ms stops the continuations that still run. -/
theorem execFatalThermalFault_running {pa t : Nat} (hf : (s.island i).fatal = some t) (ht : t + 10000000 < s.now)
    (hr : (∃ p ∈ s.cores, p.2.run = .running) ∨ (∃ p ∈ s.pcores, p.2.run = .running)) :
    execFatalThermalFault i pa s = .next s.stopModule := by
  unfold execFatalThermalFault
  rw [hf]
  dsimp only
  rw [if_neg (by omega), if_pos (by simpa using hr)]
end

/-! ### Bring-up and reports (R37 to R44) -/

/-- With power and a step whose plan is to run a method, bring-up runs it. -/
theorem execBringUp_run {s : State} {st i ms m : Nat} {req : Bool} (hp : s.power = true) (hf : s.boot.failed = none)
    (hb : bootInsts[s.boot.pos]? = some (st, i, ms, req)) (hm : bootPlan (s.boot.prior st i) ms req = .run m) :
    execBringUp s = .next (s.bootRun st i m ms req) := by
  unfold execBringUp
  rw [if_neg (by simp [hp]), hf, hb]
  dsimp only
  rw [hm]

theorem execAttestationReport_sealed {s : State} {nonce : BitVec 256} {ks : List Byte × List Byte} (hs : s.boot.sealed = true)
    (hk : s.boot.keys = some ks) : execAttestationReport nonce s = .next { s with host := s.host ++ [.report (s.reportBody nonce)
      (Config.signRsa ks.1 (s.reportBody nonce)) (Config.signSlh ks.2 (s.reportBody nonce))] } := by
  unfold execAttestationReport
  rw [hs, hk]
  rfl

theorem execAttestationReport_unsealed {s : State} {nonce : BitVec 256} (hs : s.boot.sealed = false) :
    execAttestationReport nonce s = .next s := by
  unfold execAttestationReport
  rw [hs]

/-- Settles O56: from what each event of power, heat, bring-up and measurement does in the cases that its guards tell apart. -/
theorem powerAndBringUp : Obligations.PowerAndBringUp := by
  intro s
  refine ⟨fun w => ?_, fun i mhz hi hc => ⟨fun h hs => ?_, fun h hs => ?_, fun h h' => ?_, execFrequencyChange_hot hi hc⟩,
    fun i temps hi hl ht => ?_, fun i hi => execThrottleStep_down hi, fun i pa t => execFatalThermalFault_running, fun hp => if_pos hp,
    fun st i ms req m => execBringUp_run, ⟨_, rfl, rfl, rfl, rfl, rfl, rfl⟩, fun d reg image => ?_,
    fun nonce ks => execAttestationReport_sealed, fun nonce => execAttestationReport_unsealed, rfl⟩
  · exact (apply_ite Host.Outcome.next ..).symm
  · rw [exec_frequencyChange, execFrequencyChange_cool hi hc h, if_neg (by simp [hs])]
  · rw [exec_frequencyChange, execFrequencyChange_cool hi hc h, if_pos hs]
  · exact ⟨_, execFrequencyChange_warm hi hc h h', by simp, by simp⟩
  · refine ⟨_, execThermalSample_below hi hl (foldl_max_lt (by decide) ht), by simp, by simp, ?_, by simp⟩
    by_cases hh : 100 ≤ temps.foldl max 0 <;> simp [hh]
  · exact (apply_ite Host.Outcome.next ..).symm

end Sys2Proof.Machine
end

section
/-! PROOFS. Which turn a step takes (O5), and the accesses of the host (O55). -/

namespace Sys2Proof.Machine

/-! ### The turn that a step takes -/

/-- Where nothing is recorded, a turn is taken as it is. -/
theorem State.take_of_not_recording {s : State} (h : s.recording = false) (t : Turn) : s.take t = s.turn t := by
  unfold State.take
  rw [h]
  rfl

/-- Outside the instructions that have words, a well-formed event of the agenda runs at its time. -/
theorem State.turn_event (s : State) {i : Instr} (at_ : Nat) (he : encode i = none) (hw : WellFormed i = true) :
    s.turn (.event at_ i) = exec i { s with now := max s.now at_ } :=
  if_pos (by simp [isEvent, he, hw])

/-- A module that serves, and whose turns no record decides, takes the agenda's next turn. -/
theorem State.oneStep_of_agenda {s : State} {t : Turn} {rest : List Turn} (ha : s.alive) (hq : s.quiet) (h : s.agenda = t :: rest) :
    s.oneStep = ({ s with agenda := rest } : State).turn t := by
  obtain ⟨hp, hf⟩ := ha
  obtain ⟨hr, hn⟩ := hq
  have taken := State.take_of_not_recording (s := { s with agenda := rest }) hr t
  unfold State.oneStep
  rw [h]
  dsimp only
  rw [taken]
  simp only [hp, hf, hn, Option.isSome_none, Bool.false_eq_true, Bool.true_eq_false, false_and, and_false, if_false, Bool.false_and]

/-- With an empty agenda, a module that has not run its last step of bring-up runs the next one. -/
theorem State.oneStep_of_not_served {s : State} (ha : s.alive) (hq : s.quiet) (h : s.agenda = []) (hs : s.served = false) :
    s.oneStep = exec .bringUp s := by
  obtain ⟨hp, hf⟩ := ha
  obtain ⟨hr, hn⟩ := hq
  unfold State.oneStep
  rw [h]
  simp only [hp, hf, hn, hs, Bool.true_eq_false, Option.isSome_none, Bool.false_eq_true, if_false, if_true]
  rw [State.take_of_not_recording hr, State.turn_event s s.now rfl rfl, Nat.max_self]

/-- A module without power, whose agenda is empty, stops. -/
theorem State.step_of_no_power {s : State} (hp : s.power = false) (h : s.agenda = []) : step s = .fault .moduleOff := by
  simp [step, State.oneStep, settled, h, hp]

/-- A module whose bring-up has failed, whose agenda is empty, stops. -/
theorem State.step_of_failed {s : State} {f : Nat × Nat} (hp : s.power = true) (hf : s.boot.failed = some f) (h : s.agenda = []) :
    step s = .fault .bringUpFailed := by
  simp [step, State.oneStep, settled, h, hp, hf]

/-- Settles O5: by what `oneStep` takes for an agenda that has a turn and for one that has none. -/
theorem stepRunsEvent : Obligations.StepRunsEvent := by
  refine ⟨fun s t i rest ha hq h he hw => ?_, fun s ha hq h hs => ?_, fun s => State.step_of_no_power, fun s f => State.step_of_failed⟩
  · rw [step, State.oneStep_of_agenda ha hq h, State.turn_event _ t he hw]
  · rw [step, State.oneStep_of_not_served ha hq h hs]

/-! ### Accesses of the host (R44 to R46) -/

section
variable {s s' : State} {fn addr : Nat} {l : List (Nat × Nat)}

theorem execHostBar2Write_ok {data : List (BitVec 8)} (h : s.bar2Locs fn addr data.length .write = (.ok l, s')) :
    execHostBar2Write fn addr data s = .next ((s'.writeLocs (data.foldr (fun b x => b.toNat + 256 * x) 0) l).tell .done) := by
  unfold execHostBar2Write
  rw [h]

theorem execHostBar2Read_ok {n : Nat} (h : s.bar2Locs fn addr n .read = (.ok l, s')) :
    execHostBar2Read fn addr n s = .next (s'.tell (.data (s'.readLocs l) n)) := by
  unfold execHostBar2Read
  rw [h]

theorem execHostBar2Read_error {n : Nat} {m : HostMsg} (h : s.bar2Locs fn addr n .read = (.error m, s')) :
    execHostBar2Read fn addr n s = .next (s'.tell m) := by
  unfold execHostBar2Read
  rw [h]

/-- The value that an atomic of the host writes where it reads `old` (R45). -/
def hostAtomNew (op : HostAtom) (w : Nat) (val cmp : BitVec 64) (old : Nat) : Nat :=
  match op with
  | .fetchAdd => (old + val.toNat) % 2 ^ (8 * w)
  | .swap => val.toNat % 2 ^ (8 * w)
  | .cas => if old = cmp.toNat then val.toNat else old

/-- An atomic on an aligned place of its width: aborted where a piece lies in host memory (log 101), else performed. -/
theorem execHostAtomic_ok {w : Nat} {op : HostAtom} {val cmp : BitVec 64} (ho : hostAtomOk op addr w = true)
    (h : s.bar2Locs fn addr w .write = (.ok l, s')) : execHostAtomic fn addr w op val cmp s =
      if l.any (fun x => decide (locHost 0 ≤ x.1 ∧ x.1 < locPeer 0 0)) then .next (s'.tell .abort)
      else .next ((s'.writeLocs (hostAtomNew op w val cmp (s'.readLocs l)) l).tell (.data (s'.readLocs l) w)) := by
  unfold execHostAtomic
  rw [ho, h]
  rfl

theorem execHostAtomic_off_width {w : Nat} {op : HostAtom} {val cmp : BitVec 64} (ho : hostAtomOk op addr w = false) :
    execHostAtomic fn addr w op val cmp s = .next (s.tell .unsupported) := by
  unfold execHostAtomic
  rw [if_pos ho]

theorem execRegisterWrite_pf {off : Nat} {val : BitVec 64} : execRegisterWrite 0 off val s =
    match s.pfWrite off val with
    | some t => .next t
    | none => .next (s.tell .unsupported) := rfl

theorem execRegisterWrite_vf {off : Nat} {val : BitVec 64} (h1 : 1 ≤ fn) (h2 : fn ≤ 64) (ho : off < 1024) (h8 : off % 8 = 0) :
    execRegisterWrite fn off val s = .next (s.descWrite fn (off / 64) (off % 64 / 8) val) := by
  unfold execRegisterWrite
  rw [if_neg (by omega), if_pos ⟨h2, ho, h8⟩]
end

/-- Settles O55: from what each access does where BAR2 gives its locations, where it does not, and where a register is named. -/
theorem hostEvents : Obligations.HostEvents := by
  intro s fn addr
  refine ⟨fun data l s' h => execHostBar2Write_ok h, fun n l s' h => execHostBar2Read_ok h, fun n m s' h => execHostBar2Read_error h,
    fun w op val cmp l s' ho h => ⟨fun hl => ?_, fun hl => ?_⟩, fun w op val cmp ho => execHostAtomic_off_width ho,
    fun off val t h => ?_, fun off val h => ?_, fun off val h1 h2 ho h8 => execRegisterWrite_vf h1 h2 ho h8⟩
  · rw [exec_hostAtomic, execHostAtomic_ok ho h, if_pos (by simpa using hl)]
  · have none : ¬ l.any (fun x => decide (locHost 0 ≤ x.1 ∧ x.1 < locPeer 0 0)) = true := by
      rw [List.any_eq_true]
      rintro ⟨x, hx, hm⟩
      have := of_decide_eq_true hm
      have := hl x hx
      omega
    rw [exec_hostAtomic, execHostAtomic_ok ho h, if_neg none]
    exact ⟨_, rfl, rfl⟩
  · rw [exec_registerWrite, execRegisterWrite_pf, h]
  · rw [exec_registerWrite, execRegisterWrite_pf, h]

end Sys2Proof.Machine
end

section
/-! PROOFS. Fields of words, what translation changes, and packets of a channel: the rules that the statements on queues, packets and
translations share. -/

namespace Sys2Proof.Machine

/-! ### Fields of words -/

theorem testBit_bitsOf (w : Word) (lo len j : Nat) : (bitsOf w lo len).testBit j = (decide (j < len) && w.getLsbD (lo + j)) := by
  simp only [bitsOf, Nat.testBit_mod_two_pow, Nat.testBit_shiftRight, BitVec.testBit_toNat]

/-- A field is what its bits are. -/
theorem bitsOf_congr {v w : Word} {lo len : Nat} (h : ∀ j < len, v.getLsbD (lo + j) = w.getLsbD (lo + j)) :
    bitsOf v lo len = bitsOf w lo len := by
  apply Nat.eq_of_testBit_eq
  intro j
  rw [testBit_bitsOf, testBit_bitsOf]
  by_cases hj : j < len
  · rw [h j hj]
  · simp [hj]

theorem bitsOf_eq_zero {w : Word} {lo len : Nat} : bitsOf w lo len = 0 ↔ ∀ j < len, w.getLsbD (lo + j) = false := by
  constructor
  · intro h j hj
    have := testBit_bitsOf w lo len j
    simpa [h, hj] using this.symm
  · intro h
    apply Nat.eq_of_testBit_eq
    intro j
    rw [testBit_bitsOf, Nat.zero_testBit]
    by_cases hj : j < len
    · rw [h j hj, Bool.and_false]
    · simp [hj]

/-- A word is what lies above a field, in it and below it. -/
theorem toNat_setBits {w : Word} {lo len : Nat} (x : Nat) (h : lo + len ≤ 64) : (setBits w lo len x).toNat =
    2 ^ lo * (2 ^ len * (w.toNat / 2 ^ (lo + len)) + x % 2 ^ len) + w.toNat % 2 ^ lo := by
  have hx : x % 2 ^ len < 2 ^ len := Nat.mod_lt _ (Nat.two_pow_pos len)
  have low : w.toNat % 2 ^ lo < 2 ^ lo := Nat.mod_lt _ (Nat.two_pow_pos lo)
  have split : w.toNat = 2 ^ lo * (2 ^ len * (w.toNat / 2 ^ (lo + len)) + w.toNat / 2 ^ lo % 2 ^ len) + w.toNat % 2 ^ lo := by
    rw [Nat.pow_add, ← Nat.div_div_eq_div_mul, Nat.div_add_mod, Nat.div_add_mod]
  have top : 2 ^ lo * (2 ^ len * (w.toNat / 2 ^ (lo + len)) + x % 2 ^ len) + w.toNat % 2 ^ lo < 2 ^ 64 := by
    have e : (2 : Nat) ^ 64 = 2 ^ lo * (2 ^ len * 2 ^ (64 - (lo + len))) := by
      rw [← Nat.pow_add, ← Nat.pow_add]; congr 1; omega
    have hq : w.toNat / 2 ^ (lo + len) < 2 ^ (64 - (lo + len)) := by
      rw [Nat.div_lt_iff_lt_mul (Nat.two_pow_pos _), ← Nat.pow_add]
      exact Nat.lt_of_lt_of_le w.isLt (Nat.pow_le_pow_right Nat.two_pos (by omega))
    have m1 : 2 ^ len * (w.toNat / 2 ^ (lo + len)) + x % 2 ^ len + 1 ≤ 2 ^ len * 2 ^ (64 - (lo + len)) :=
      calc _ ≤ 2 ^ len * (w.toNat / 2 ^ (lo + len) + 1) := by rw [Nat.mul_add, Nat.mul_one]; omega
        _ ≤ _ := Nat.mul_le_mul_left _ hq
    have m2 := Nat.mul_le_mul_left (2 ^ lo) m1
    rw [Nat.mul_add, Nat.mul_one] at m2
    rw [e]
    omega
  rw [setBits, BitVec.toNat_ofNat]
  have body : w.toNat - bitsOf w lo len <<< lo + (x % 2 ^ len) <<< lo =
      2 ^ lo * (2 ^ len * (w.toNat / 2 ^ (lo + len)) + x % 2 ^ len) + w.toNat % 2 ^ lo := by
    rw [bitsOf, Nat.shiftRight_eq_div_pow, Nat.shiftLeft_eq, Nat.shiftLeft_eq]
    rw [Nat.mul_add] at split ⊢
    have c1 := Nat.mul_comm (w.toNat / 2 ^ lo % 2 ^ len) (2 ^ lo)
    have c2 := Nat.mul_comm (x % 2 ^ len) (2 ^ lo)
    omega
  rw [body, Nat.mod_eq_of_lt top]

/-- A bit of a word with a field replaced. -/
theorem getLsbD_setBits {w : Word} {lo len : Nat} (x i : Nat) (h : lo + len ≤ 64) : (setBits w lo len x).getLsbD i =
    if lo ≤ i ∧ i < lo + len then x.testBit (i - lo) else w.getLsbD i := by
  have low : w.toNat % 2 ^ lo < 2 ^ lo := Nat.mod_lt _ (Nat.two_pow_pos lo)
  rw [← BitVec.testBit_toNat, toNat_setBits x h, Nat.testBit_two_pow_mul_add _ low,
    Nat.testBit_two_pow_mul_add _ (Nat.mod_lt _ (Nat.two_pow_pos len)), ← BitVec.testBit_toNat]
  by_cases h1 : i < lo
  · rw [if_pos h1, if_neg (by omega), Nat.testBit_mod_two_pow]
    simp [h1]
  · by_cases h2 : i < lo + len
    · rw [if_neg h1, if_pos (by omega), if_pos (by omega), Nat.testBit_mod_two_pow]
      simp [show i - lo < len by omega]
    · rw [if_neg h1, if_neg (by omega), if_neg (by omega), Nat.testBit_div_two_pow]
      congr 1; omega

theorem bitsOf_setBits_same (w : Word) {lo len : Nat} (x : Nat) (h : lo + len ≤ 64) : bitsOf (setBits w lo len x) lo len = x % 2 ^ len := by
  apply Nat.eq_of_testBit_eq
  intro j
  rw [testBit_bitsOf, getLsbD_setBits x _ h, Nat.testBit_mod_two_pow]
  by_cases hj : j < len
  · rw [if_pos (by omega), Nat.add_sub_cancel_left]
  · simp [hj]

/-- Replacing a field leaves the fields beside it. -/
theorem bitsOf_setBits_beside (w : Word) {lo len lo' len' : Nat} (x : Nat) (h : lo + len ≤ 64) (hd : lo' + len' ≤ lo ∨ lo + len ≤ lo') :
    bitsOf (setBits w lo len x) lo' len' = bitsOf w lo' len' :=
  bitsOf_congr fun j hj => by rw [getLsbD_setBits x _ h, if_neg (by omega)]

/-! ### What translation and an engine's writes change (R73, R80 to R83, R89) -/

/-- From `s` to `t` nothing changes but TLBs, dies, memory and the free values used. -/
def State.Looked (s t : State) : Prop := ∃ c d m f, t = { s with ces := c, dies := d, mem := m, fresh := f }

theorem State.Looked.refl (s : State) : s.Looked s := ⟨_, _, _, _, rfl⟩

theorem State.Looked.trans {s t u : State} (h : s.Looked t) (k : t.Looked u) : s.Looked u := by
  obtain ⟨_, _, _, _, rfl⟩ := h
  obtain ⟨_, _, _, _, rfl⟩ := k
  exact ⟨_, _, _, _, rfl⟩

theorem State.Looked.eq {s t : State} (h : s.Looked t) : t = { s with ces := t.ces, dies := t.dies, mem := t.mem, fresh := t.fresh } := by
  obtain ⟨_, _, _, _, rfl⟩ := h
  rfl

/-- The state of an answer is looked up wherever the answer's own state is. -/
theorem State.Looked.snd {s t : State} {α : Type} {r : α × State} {x : α} (h : s.Looked r.2) (e : r = (x, t)) : s.Looked t := by
  rw [e] at h
  exact h

section
variable {s t : State} (h : s.Looked t)
include h

theorem State.Looked.chan (ch : Nat) : t.chan ch = s.chan ch := by
  obtain ⟨_, _, _, _, rfl⟩ := h
  rfl
theorem State.Looked.qdesc : t.qdesc = s.qdesc := by
  obtain ⟨_, _, _, _, rfl⟩ := h
  rfl
end

section
variable (s : State)

theorem State.looked_setDie (d : Nat) (x : Die) : s.Looked (s.setDie d x) := ⟨_, _, _, _, rfl⟩
theorem State.looked_setCe (e : Nat) (x : CopyEng) : s.Looked (s.setCe e x) := ⟨_, _, _, _, rfl⟩
theorem State.looked_used (b : Bool) : s.Looked (s.used b) := ⟨_, _, _, _, rfl⟩
theorem State.looked_write (a x n : Nat) : s.Looked (s.write a x n) := ⟨_, _, _, _, s.write_mem a x n⟩
theorem State.looked_devWrite (d pa x n : Nat) : s.Looked (s.devWrite d pa x n) :=
  (s.looked_write pa x n).trans ⟨_, _, _, _, rfl⟩

theorem State.looked_walkRead (d vm asid pa : Nat) (keep : Word → Bool) : s.Looked (s.walkRead d vm asid pa keep).2 := by
  unfold State.walkRead
  split
  · exact .refl s
  · dsimp only
    split
    · exact (s.looked_setDie ..).trans (State.looked_used ..)
    · exact .refl s

theorem State.looked_stage2 (d asid : Nat) (desc : List Word) (gpa : Nat) : s.Looked (s.stage2 d asid desc gpa).2 := by
  unfold State.stage2
  split
  · exact .refl s
  · split
    · exact .refl s
    · dsimp only
      split <;> exact s.looked_walkRead ..

theorem State.looked_walkLevels (d asid : Nat) (desc : List Word) (va table : Nat) (l : List (Nat × Nat × Nat)) :
    s.Looked (s.walkLevels d asid desc va table l).2 := by
  induction l generalizing s table with
  | nil => exact .refl s
  | cons x rest ih =>
    obtain ⟨level, shift, bits⟩ := x
    unfold State.walkLevels
    split
    next h => exact (s.looked_stage2 ..).snd h
    next pa _ _ u h =>
      have read := ((s.looked_stage2 ..).snd h).trans
        (u.looked_walkRead d (descVm desc) asid pa (fun e => pteV e && ptePtr e && formatOk level e))
      dsimp only
      split
      · exact read
      · split
        · exact read
        · split
          · exact read.trans (ih ..)
          · exact read

theorem State.looked_frameOf (d : Nat) (desc : List Word) (t : TlbEnt) (va : Nat) : s.Looked (s.frameOf d desc t va).2.2 := by
  unfold State.frameOf
  dsimp only
  split
  · exact .refl s
  · split
    · exact .refl s
    · split <;> exact (s.looked_stage2 ..).snd ‹_›

theorem State.looked_access (d : Nat) (desc : List Word) (t : TlbEnt) (va : Nat) (acc : Acc) : s.Looked (s.access d desc t va acc).2.2 := by
  have frame := s.looked_frameOf d desc t va
  unfold State.access
  split
  next h =>
    rw [h] at frame
    exact frame
  next h =>
    rw [h] at frame
    split <;> exact frame

theorem State.looked_walk (d asid : Nat) (desc : List Word) (va : Nat) (acc : Acc) : s.Looked (s.walk d asid desc va acc).2 := by
  unfold State.walk
  split
  · exact .refl s
  · split
    next h => exact (s.looked_walkLevels ..).snd h
    next e pte u h =>
      have levels := (s.looked_walkLevels ..).snd h
      have leaf := u.looked_access d desc (leafEnt desc asid va e pte) va acc
      split
      all_goals
        next h =>
          rw [h] at leaf
          exact levels.trans leaf

theorem State.looked_setPte {d : Nat} {t u : TlbEnt} {bits : Word} {v : State} (h : s.setPte d t bits = some (u, v)) : s.Looked v := by
  unfold State.setPte at h
  split at h
  · injection h with h
    injection h with _ h
    rw [← h]
    split
    · exact .refl s
    · exact s.looked_devWrite ..
  · exact nomatch h

theorem State.looked_engDesc (e asid : Nat) : s.Looked (s.engDesc e asid).2 := by
  unfold State.engDesc
  split
  · exact .refl s
  · exact s.looked_setCe ..

theorem State.looked_keepEnt (e : Nat) (old t : TlbEnt) : s.Looked (s.keepEnt e old t) := s.looked_setCe ..

theorem State.looked_unhold (e : Nat) (old : TlbEnt) (who : Option (Nat × Nat)) : s.Looked (s.unhold e old who) := by
  cases who with
  | none => exact .refl s
  | some p => exact (s.looked_keepEnt ..).trans (State.looked_setCe ..)

theorem State.looked_putTlb (e : Nat) (t : TlbEnt) : s.Looked (s.putTlb e t) := by
  unfold State.putTlb
  extract_lets k old c t
  split
  · exact s.looked_setCe ..
  · split
    · exact (s.looked_setCe ..).trans (State.looked_used ..)
    · exact s.looked_setCe ..

theorem State.looked_miss (e asid : Nat) (desc : List Word) (va : Nat) (acc : Acc) (who : Option (Nat × Nat)) :
    s.Looked (s.miss e asid desc va acc who).2 := by
  unfold State.miss
  split
  next h => exact (s.looked_walk ..).snd h
  next h =>
    have walk := (s.looked_walk ..).snd h
    split
    next h => exact (walk.trans (State.looked_setPte _ h)).trans (State.looked_putTlb ..)
    · exact walk

theorem State.looked_serve (e asid : Nat) (desc : List Word) (t : TlbEnt) (va : Nat) (acc : Acc) (who : Option (Nat × Nat)) :
    s.Looked (s.serve e asid desc t va acc who).2 := by
  unfold State.serve
  extract_lets own
  have met := s.looked_access (e / 8) own t va acc
  split
  · exact .refl s
  · split
    next h =>
      rw [h] at met
      exact met.trans (State.looked_keepEnt ..)
    next h =>
      rw [h] at met
      split
      · split
        next h => exact (met.trans (State.looked_setPte _ h)).trans (State.looked_keepEnt ..)
        · exact (met.trans (State.looked_unhold ..)).trans (State.looked_miss ..)
      · exact met.trans (State.looked_keepEnt ..)

theorem State.looked_translate (e asid va : Nat) (acc : Acc) (who : Option (Nat × Nat)) : s.Looked (s.translate e asid va acc who).2 := by
  have desc := s.looked_engDesc e asid
  unfold State.translate
  dsimp only
  split
  · exact desc.trans (State.looked_miss ..)
  · split
    · exact desc
    · exact desc.trans (State.looked_serve ..)

theorem State.looked_engLocs (e asid va n : Nat) (acc : Acc) (k : Nat) : s.Looked (s.engLocs e asid va n acc k).2 := by
  induction k generalizing s va n with
  | zero => exact .refl s
  | succ k ih =>
    unfold State.engLocs
    split
    · exact .refl s
    · split
      · exact .refl s
      · split
        next h => exact (s.looked_translate ..).snd h
        next h =>
          have first := (s.looked_translate ..).snd h
          dsimp only
          split <;> exact first.trans ((ih ..).snd ‹_›)

theorem State.looked_engPieces (e asid va n : Nat) (acc : Acc) : s.Looked (s.engPieces e asid va n acc).2 := by
  have locs := s.looked_engLocs e asid va n acc (n / 4096 + 2)
  unfold State.engPieces
  split <;> exact locs.snd ‹_›

theorem State.looked_pieceWrite (d x : Nat) (l : List (Nat × Nat)) : s.Looked (s.pieceWrite d x l) := by
  induction l generalizing s x with
  | nil => exact .refl s
  | cons q t ih =>
    obtain ⟨a, n⟩ := q
    unfold State.pieceWrite
    dsimp only
    split
    · exact (s.looked_devWrite ..).trans (ih ..)
    · exact (s.looked_write ..).trans (ih ..)

theorem State.looked_feRead (ch va n : Nat) : s.Looked (s.feRead ch va n).2 := by
  have pieces := s.looked_engPieces (engOf ch) (s.chan ch).asid va n .read
  unfold State.feRead
  split <;> exact pieces.snd ‹_›

theorem State.looked_feWrite (ch va x n : Nat) : s.Looked (s.feWrite ch va x n).2 := by
  have pieces := s.looked_engPieces (engOf ch) (s.chan ch).asid va n .write
  unfold State.feWrite
  split
  next h => exact pieces.snd h
  next h => exact (pieces.snd h).trans (State.looked_pieceWrite ..)
end

/-! ### Packets of a channel -/

/-- A packet that is changed, its number kept, is found changed. -/
theorem State.pkt_modPkt (s : State) (ch n : Nat) {f : Pkt → Pkt} (hf : ∀ p, (f p).n = p.n) :
    (s.modPkt ch n f).pkt ch n = (s.pkt ch n).map f := by
  have same : (fun p : Pkt => decide (p.n = n)) ∘ (fun p => if p.n = n then f p else p) = fun p => decide (p.n = n) := by
    funext p
    by_cases h : p.n = n <;> simp [h, hf]
  unfold State.pkt State.modPkt
  rw [State.chan_modChan, if_pos rfl, List.find?_map, same]
  cases h : (s.chan ch).pkts.find? (fun p => decide (p.n = n)) with
  | none => rfl
  | some p =>
    have hn : p.n = n := by simpa using List.find?_some h
    rw [Option.map_some, Option.map_some, if_pos hn]

theorem State.looked_failMove (s : State) (d : Nat) (p : Pkt) (code : Nat) : s.Looked (s.failMove d p code) := by
  unfold State.failMove
  split
  · split
    · exact s.looked_devWrite ..
    · exact .refl s
  · exact .refl s

end Sys2Proof.Machine
end

section
/-! PROOFS. Walks, faults that are resolved or declared, invalidation of translations, the home map (O54). -/

namespace Sys2Proof.Machine

/-! ### Faults (R47, R226) -/

section
variable {s : State} {ch n f at_ : Nat} {p : Pkt}

/-- A declared fault ends the packet with 0x04 and sets the channel's pending-fault bit. -/
theorem State.declare_eq (hp : s.pkt ch n = some p) (hf : p.fault = some (f, at_)) : s.declare ch n =
    ((s.failMove (engOf ch / 8) p 0x04).modPkt ch n (fun p => { p with done := true, code := 0x04, fault := none })).modChan ch
      (fun c => { c with pending := true, faulted := c.faulted ++ [(n, f)] }) := by
  unfold State.declare
  rw [hp]
  dsimp only
  rw [hf]

theorem State.chan_declare (hp : s.pkt ch n = some p) (hf : p.fault = some (f, at_)) :
    ((s.declare ch n).chan ch).pending = true ∧ ((s.declare ch n).chan ch).faulted = (s.chan ch).faulted ++ [(n, f)] := by
  rw [State.declare_eq hp hf, State.chan_modChan, if_pos rfl, State.modPkt, State.chan_modChan, if_pos rfl,
    (s.looked_failMove ..).chan]
  exact ⟨rfl, rfl⟩

theorem State.pkt_declare (hp : s.pkt ch n = some p) (hf : p.fault = some (f, at_)) :
    (s.declare ch n).pkt ch n = some { p with done := true, code := 0x04, fault := none } := by
  have kept (u : State) : (u.modChan ch (fun c => { c with pending := true, faulted := c.faulted ++ [(n, f)] })).pkt ch n =
      u.pkt ch n := by
    unfold State.pkt
    rw [State.chan_modChan, if_pos rfl]
  have found : (s.failMove (engOf ch / 8) p 0x04).pkt ch n = some p := by
    rw [← hp]
    unfold State.pkt
    rw [(s.looked_failMove ..).chan]
  rw [State.declare_eq hp hf, kept, State.pkt_modPkt, found]
  · rfl
  · exact fun _ => rfl

theorem execFaultResolved_packet (hn : n ≠ 0) :
    execFaultResolved ch n s = .next (s.modPkt ch n (fun p => { p with fault := none })) := if_neg hn

theorem execFaultUnrecoverable_packet (hn : n ≠ 0) : execFaultUnrecoverable ch n s = .next (s.declare ch n) := if_neg hn

/-- A fault that has stood for 100 ms is declared. -/
theorem execFaultTimeout_due (hn : n ≠ 0) (hp : s.pkt ch n = some p) (hf : p.fault = some (f, at_)) (ht : at_ + 100000000 ≤ s.now) :
    execFaultTimeout ch n s = .next (s.declare ch n) := by
  unfold execFaultTimeout
  dsimp only
  rw [if_neg hn, hp, Option.bind_some, hf]
  exact if_pos (decide_eq_true ht)

theorem execFaultResolved_frontEnd (hh : (s.chan ch).halted = false) : execFaultResolved ch 0 s =
    .next (((s.claimers ch).foldl (fun s g => s.holdSt g 0) (s.modChan ch (fun c => { c with parked := none }))).fillSlots ch
      (s.chan ch).claims.length) := by
  unfold execFaultResolved
  rw [if_pos rfl, hh]
  rfl
end

/-! ### INVCMD (R84 to R86) -/

/-- GO while a command runs or a reserved field is not zero sets ERR, and nothing else. -/
theorem State.invGo_refused {s : State} {w : Word}
    (h : s.invstat.getLsbD 0 = true ∨ bitsOf w 19 44 ≠ 0 ∨ bitsOf s.invva 54 10 ≠ 0 ∨ bitsOf s.invva 0 12 ≠ 0) :
    s.invGo w = { s with invstat := s.invstat ||| 4 } := if_pos h

/-- GO otherwise starts the command: BUSY is set, ERR is clear, and the command is noted as it was written. -/
theorem State.invGo_started {s : State} {w : Word} (hb : s.invstat.getLsbD 0 = false) (hw : bitsOf w 19 44 = 0)
    (hh : bitsOf s.invva 54 10 = 0) (hl : bitsOf s.invva 0 12 = 0) :
    (s.invGo w).invstat.getLsbD 0 = true ∧ (s.invGo w).invstat.getLsbD 2 = false ∧
      (s.invGo w).invnow = some (bitsOf w 17 2, bitsOf w 10 7, bitsOf w 0 10, s.invva.toNat) := by
  have go : ¬(invBusy s.invstat = true ∨ bitsOf w 19 44 ≠ 0 ∨ bitsOf s.invva 54 10 ≠ 0 ∨ bitsOf s.invva 0 12 ≠ 0) := by
    rw [invBusy, hb]
    simp [hw, hh, hl]
  unfold State.invGo
  rw [if_neg go]
  refine ⟨?_, ?_, rfl⟩
  all_goals
    dsimp only
    split <;> simp

/-- Writing KIND changes no other field of a command. -/
theorem bitsOf_setKind (w : Word) (k : Nat) {lo len : Nat} (h : lo + len ≤ 17 ∨ 19 ≤ lo) :
    bitsOf (setBits w 17 2 k) lo len = bitsOf w lo len := bitsOf_setBits_beside w k (by decide) h

/-! ### Completion of an invalidation (R85, R86) -/

theorem State.invWalk_keeps (s : State) (kind vm asid : Nat) :
    (s.invWalk kind vm asid).ces = s.ces ∧ (s.invWalk kind vm asid).invstat = s.invstat := ⟨rfl, rfl⟩

theorem State.invAnew_invstat (s : State) (kind vm asid : Nat) : (s.invAnew kind vm asid).invstat = s.invstat := by
  unfold State.invAnew
  dsimp only
  split <;> exact (s.invWalk_keeps kind vm asid).2

/-- What is walked anew leaves every TLB. -/
theorem State.invAnew_tlb {s : State} {kind vm asid : Nat} {e : Nat × CopyEng} (h : e ∈ (s.invAnew kind vm asid).ces) :
    ∃ x ∈ s.ces, x.2.tlb = e.2.tlb := by
  unfold State.invAnew at h
  dsimp only at h
  rw [(s.invWalk_keeps kind vm asid).1] at h
  split at h
  · obtain ⟨x, hx, rfl⟩ := List.mem_map.1 h
    exact ⟨x, hx, rfl⟩
  · rw [(s.invWalk_keeps kind vm asid).1] at h
    exact ⟨e, h, rfl⟩

/-- Every translation that stands in a TLB after a map over them comes from one that stood there. -/
theorem State.mapTlbs_tlb {s : State} {f : TlbEnt → Option TlbEnt} {e : Nat × CopyEng} (h : e ∈ (s.mapTlbs f).ces) {x : Nat × TlbEnt}
    (hx : x ∈ e.2.tlb) : ∃ t, f t = some x.2 := by
  obtain ⟨c, -, rfl⟩ := List.mem_map.1 h
  obtain ⟨y, -, hy⟩ := List.mem_filterMap.1 hx
  obtain ⟨t, ht, rfl⟩ := Option.map_eq_some_iff.1 hy
  exact ⟨y.2, ht⟩

/-- What the end of a command leaves of a translation: nothing of one that it names, but where it is pinned and was walked after GO. -/
def invLeft (kind vm asid va : Nat) (t : TlbEnt) : Option TlbEnt :=
  if invMatch kind vm asid va t && (t.retired || !leafPin t.leaf) then none else some t

theorem invLeft_eq_some {kind vm asid va : Nat} {t x : TlbEnt} (h : invLeft kind vm asid va t = some x)
    (hm : invMatch kind vm asid va x = true) : x.retired = false ∧ leafPin x.leaf = true := by
  unfold invLeft at h
  split at h
  · exact nomatch h
  next keep =>
    obtain rfl := Option.some.inj h
    simpa [hm] using keep

/-- The state in which a command has completed: its entries are removed, DONE has advanced, BUSY is clear. -/
def State.invEnded (s : State) (kind vm asid va : Nat) : State :=
  let u := (s.mapTlbs (invLeft kind vm asid va)).invAnew kind vm asid
  { u with invnow := none, invstat := setBits (u.invstat &&& ~~~(3 : Word)) 32 32 (bitsOf u.invstat 32 32 + 1) }

section
variable {s : State} {kind vm asid va : Nat}

theorem execInvalidateComplete_done (hn : s.invnow = some (kind, vm, asid, va))
    (hh : s.retiredHeld (invMatch kind vm asid va) = false) : execInvalidateComplete s = .next (s.invEnded kind vm asid va) := by
  unfold execInvalidateComplete
  rw [hn]
  dsimp only
  rw [if_neg (by simp [hh])]
  rfl

theorem State.invEnded_invstat : (s.invEnded kind vm asid va).invstat =
    setBits (s.invstat &&& ~~~(3 : Word)) 32 32 (bitsOf s.invstat 32 32 + 1) := by
  unfold State.invEnded
  dsimp only
  rw [State.invAnew_invstat]
  rfl

theorem State.invEnded_ces : (s.invEnded kind vm asid va).ces = ((s.mapTlbs (invLeft kind vm asid va)).invAnew kind vm asid).ces := by
  unfold State.invEnded
  rfl

/-- Of the entries that the command names only pinned ones walked after GO are left. -/
theorem State.invEnded_tlb {e : Nat × CopyEng} (he : e ∈ (s.invEnded kind vm asid va).ces) {x : Nat × TlbEnt} (hx : x ∈ e.2.tlb)
    (hm : invMatch kind vm asid va x.2 = true) : x.2.retired = false ∧ leafPin x.2.leaf = true := by
  rw [State.invEnded_ces] at he
  obtain ⟨c, hc, same⟩ := State.invAnew_tlb he
  obtain ⟨t, ht⟩ := State.mapTlbs_tlb hc (same ▸ hx)
  exact invLeft_eq_some ht hm
end

/-! ### The home map (R69, R70, R72) -/

/-- Dies updated one by one: each of the list once, the others not. -/
theorem State.die_foldl_setDie (f : Die → Die) (l : List Nat) (hl : l.Nodup) (s : State) (d : Nat) :
    (l.foldl (fun (s : State) d => s.setDie d (f (s.die d))) s).die d = if d ∈ l then f (s.die d) else s.die d := by
  induction l generalizing s with
  | nil => rfl
  | cons a l ih =>
    obtain ⟨ha, hl⟩ := List.nodup_cons.1 hl
    rw [List.foldl_cons, ih hl, State.die_setDie]
    by_cases h : d = a
    · subst h
      simp [ha]
    · simp [h]

theorem State.home_foldl_setDie (f : Die → Die) (l : List Nat) (s : State) :
    (l.foldl (fun (s : State) d => s.setDie d (f (s.die d))) s).home = s.home := by
  induction l generalizing s with
  | nil => rfl
  | cons a l ih => rw [List.foldl_cons, ih, State.setDie_home]

/-- A die without the copies of a chunk. -/
def Die.dropChunk (chunk : Nat) (x : Die) : Die := { x with rlc := x.rlc.filter (fun l => decide (l.1 >>> 21 ≠ chunk)) }

/-- A change that maps no chunk in use and finds backing is taken by every die. -/
theorem execHomeMapChange_taken {s : State} {chunk : Nat} {e : BitVec 4} (hc : chunk < 2 ^ 18) (hm : s.chunkMapped chunk = false)
    (hb : ∀ d, d < 4 → ({ s with home := Tab.put s.home chunk e } : State).backing d ≤ backingMax) : execHomeMapChange chunk e s =
      .next ((List.range 4).foldl (fun (s : State) d => s.setDie d ((s.die d).dropChunk chunk))
        { s with home := Tab.put s.home chunk e }) := by
  have room : (List.range 4).any
      (fun d => decide (backingMax < ({ s with home := Tab.put s.home chunk e } : State).backing d)) = false := by
    rw [List.any_eq_false]
    intro d hd
    simpa using hb d (List.mem_range.1 hd)
  unfold execHomeMapChange
  dsimp only
  rw [if_neg (by rw [hm, room]; simpa using hc)]
  rfl

/-- Settles O54: from what a declared fault leaves, what GO and the end of a command do, and what the home map's change takes. -/
theorem translationEvents : Obligations.TranslationEvents := by
  refine ⟨fun s e asid va acc => ⟨_, rfl, rfl, (s.looked_translate e asid va acc none).eq⟩, fun s ch n p f t hn hp hf => ?_,
    fun s ch n hn => ⟨execFaultResolved_packet hn, execFaultUnrecoverable_packet hn, fun p f t => execFaultTimeout_due hn⟩,
    fun s ch => execFaultResolved_frontEnd, fun s w h i hi => ?_, fun s w hb hw hh hl k i hi => ?_,
    fun s kind vm asid va hn hh => ?_, fun s chunk e hc hm hb => ?_⟩
  · obtain ⟨pending, faulted⟩ := State.chan_declare hp hf
    exact ⟨_, execFaultUnrecoverable_packet hn, pending, faulted, State.pkt_declare hp hf⟩
  · have refused (k : Nat) := State.invGo_refused (s := s) (w := setBits w 17 2 k) (by rwa [bitsOf_setKind w k (.inr (by decide))])
    obtain rfl | rfl | rfl | rfl := hi
    all_goals exact ⟨_, congrArg Host.Outcome.next (refused _), by simp, rfl, rfl, rfl, rfl⟩
  · have started (k : Nat) (hk : k < 4) : (s.invGo (setBits w 17 2 k)).invstat.getLsbD 0 = true ∧
        (s.invGo (setBits w 17 2 k)).invstat.getLsbD 2 = false ∧
        (s.invGo (setBits w 17 2 k)).invnow = some (k, bitsOf w 10 7, bitsOf w 0 10, s.invva.toNat) := by
      have go := State.invGo_started (s := s) (w := setBits w 17 2 k) hb (by rwa [bitsOf_setKind w k (.inr (by decide))]) hh hl
      rwa [bitsOf_setBits_same w k (by decide), Nat.mod_eq_of_lt (show k < 2 ^ 2 from hk), bitsOf_setKind w k (.inl (by decide)),
        bitsOf_setKind w k (.inl (by decide))] at go
    obtain ⟨rfl, rfl⟩ | ⟨rfl, rfl⟩ | ⟨rfl, rfl⟩ | ⟨rfl, rfl⟩ := hi
    all_goals exact ⟨_, rfl, started _ (by decide)⟩
  · refine ⟨_, execInvalidateComplete_done hn hh, fun e he x hx => State.invEnded_tlb he hx, rfl, ?_, ?_⟩
    · rw [State.invEnded_invstat, bitsOf_setBits_beside _ _ (by decide) (.inl (by decide)), bitsOf_eq_zero]
      intro j hj
      obtain rfl | rfl : j = 0 ∨ j = 1 := by omega
      all_goals simp
    · rw [State.invEnded_invstat, bitsOf_setBits_same _ _ (by decide)]
  · refine ⟨_, execHomeMapChange_taken hc hm hb, State.home_foldl_setDie .., fun d hd => ?_⟩
    rw [State.die_foldl_setDie _ _ List.nodup_range, if_pos (List.mem_range.2 hd)]
    rfl

end Sys2Proof.Machine
end

section
/-! PROOFS. Reading and writing k-registers, `trap` and `brk` (O22). -/

namespace Sys2Proof.Machine

/-! ### What a `kw` is allowed to write (R317) -/

section
variable {sys : Bool} {n : Nat}

/-- The registers that a core's own privilege writes. -/
theorem kwCheck_own (h : 0x07 ≤ n ∧ n ≤ 0x0C) : kwCheck sys n = none := if_pos h

/-- The registers that system privilege alone writes. -/
theorem kwCheck_system (h : n = 0x0E ∨ (0x13 ≤ n ∧ n ≤ 0x15) ∨ (0x20 ≤ n ∧ n ≤ 0x24)) :
    kwCheck sys n = if sys then none else some (0x08, n) := by
  unfold kwCheck
  rw [if_neg (by omega), if_pos h]

theorem kwCheck_readOnly (h : n ≤ 0x06 ∨ n = 0x0D ∨ (0x0F ≤ n ∧ n ≤ 0x12) ∨ (0x18 ≤ n ∧ n ≤ 0x1F)) :
    kwCheck sys n = if sys then some (0x01, 0) else some (0x08, n) := by
  unfold kwCheck
  rw [if_neg (by omega), if_neg (by omega), if_pos h]

theorem kwCheck_unassigned (h : n = 0x16 ∨ n = 0x17 ∨ 0x25 ≤ n) : kwCheck sys n = some (0x01, 0) := by
  unfold kwCheck
  rw [if_neg (by omega), if_neg (by omega), if_neg (by omega)]
end

/-! ### The moves -/

section
variable {s : State} {gd : BitVec 3} {src : BitVec 10} {k : BitVec 1} {x : MoveCtx} (h : s.issues 6 gd src x)
include h

/-- `kr` of a register that the privilege views starts its value. -/
theorem execCtKr_view {w : Word} (hn : x.val.word.toNat < 256)
    (hv : s.kview x.g (s.coreC (s.leader x.g)).loop x.val.word.toNat = some w) :
    execCtKr gd src k s = .next (x.lands s 1 k (TVal.ofWord w) 0) := by
  have view : s.kview x.g (s.loopOf x.g) x.val.word.toNat = some w := hv
  have assigned : ¬(256 ≤ x.val.word.toNat ∨ (s.kreg x.g (s.loopOf x.g) x.val.word.toNat).isNone = true) := by
    rintro (big | none)
    · omega
    · rw [State.kview, Option.isNone_iff_eq_none.1 none] at view
      exact nomatch view
  rw [execCtKr, ctMove_issues h, if_neg assigned]
  dsimp only
  rw [view, finish_ok h]
  rfl

theorem execCtKr_illegal
    (hn : 256 ≤ x.val.word.toNat ∨ s.kreg x.g (s.coreC (s.leader x.g)).loop x.val.word.toNat = none) :
    execCtKr gd src k s = .next (s.trapMove x.g x.slot x.bun 0x01 0) := by
  have illegal : 256 ≤ x.val.word.toNat ∨ (s.kreg x.g (s.loopOf x.g) x.val.word.toNat).isNone = true :=
    hn.imp_right Option.isNone_iff_eq_none.2
  rw [execCtKr, ctMove_issues h, if_pos illegal]
  rfl

/-- A `kw` that may not write traps as its check says. -/
theorem execCtKw_trap {c d : Nat} (hc : kwCheck x.c.priv x.val.word.toNat = some (c, d)) (hn : x.val.word.toNat < 256) :
    execCtKw gd src k s = .next (s.trapMove x.g x.slot x.bun c d) := by
  rw [execCtKw, ctMove_issues h, if_neg (by omega), hc]

/-- A `kw` that may write waits for the end of the cycle, or where it names the engine's registers for an empty engine. -/
theorem execCtKw_writes (hc : kwCheck x.c.priv x.val.word.toNat = none) (hn : x.val.word.toNat < 256) : execCtKw gd src k s =
    .next (if (0x09 ≤ x.val.word.toNat ∧ x.val.word.toNat ≤ 0x0B) ∧ ¬(x.c.eng.fifo = [] ∧ x.c.eng.cur = none) then
      x.holds s .kw k 0 0 [] else x.writes s (.kreg x.val.word.toNat) x.pA) := by
  have idle : x.c.eng.idleNow = false ↔ ¬(x.c.eng.fifo = [] ∧ x.c.eng.cur = none) := by
    rw [← Bool.not_eq_true, Engine.idleNow, Bool.and_eq_true, List.isEmpty_iff, Option.isNone_iff_eq_none]
  have write : s.modC x.g (fun c => c.later (.kreg x.val.word.toNat) (c.port x.slot 0) x.bun.idx) =
      x.writes s (.kreg x.val.word.toNat) x.pA := by
    rw [← later_eq h, State.modC, State.modC, issues_core h]
    rfl
  rw [execCtKw, ctMove_issues h, if_neg (by omega), hc]
  dsimp only
  rw [hold_eq h, write]
  simp only [idle, and_assoc]

theorem execCtTrap_code (hn : x.val.word.toNat < 2 ^ 16) : execCtTrap gd src k s = .next (s.requestStop (s.leader x.g)
    ⟨x.bun.idx, x.bun.addr, causeWord false 6 0x0D x.val.word.toNat, some x.g, none⟩) := by
  rw [execCtTrap, ctMove_issues h, if_neg (by omega)]
  rfl

theorem execCtTrap_illegal (hn : 2 ^ 16 ≤ x.val.word.toNat) :
    execCtTrap gd src k s = .next (s.trapMove x.g x.slot x.bun 0x01 0) := by
  rw [execCtTrap, ctMove_issues h, if_pos hn]
  rfl

theorem execCtBrk_eq : execCtBrk gd src k s = .next (if x.val.word = 0 then s.requestStop (s.leader x.g)
    ⟨x.bun.idx, x.bun.addr, causeWord false 6 0x0C 0, some x.g, none⟩ else s.trapMove x.g x.slot x.bun 0x01 0) := by
  rw [execCtBrk, ctMove_issues h]
  by_cases hz : x.val.word = 0
  · rw [if_neg (not_not.2 hz), if_pos hz]
    rfl
  · rw [if_pos hz, if_neg hz]
    rfl

end

/-- Settles O22: by the check that each number of a k-register meets. -/
theorem controlRegistersAndTraps : Obligations.ControlRegistersAndTraps := by
  intro s gd src k x h
  refine ⟨fun w => execCtKr_view h, execCtKr_illegal h, fun hn => ?_, fun hn => ?_, fun hp hn => ?_, fun hn => ?_, fun hn => ?_,
    execCtTrap_code (k := k) h, execCtTrap_illegal (k := k) h, execCtBrk_eq (k := k) h⟩
  · have may : kwCheck x.c.priv x.val.word.toNat = none := by
      obtain hn | hn | hn | ⟨hp, hn⟩ := hn
      · exact kwCheck_own (by omega)
      · exact kwCheck_own (by omega)
      · exact kwCheck_own (by omega)
      · rw [kwCheck_system hn, if_pos hp]
    rw [exec_ctKw, execCtKw_writes h may (by omega), if_neg (by omega)]
  · rw [exec_ctKw, execCtKw_writes h (kwCheck_own (by omega)) (by omega)]
    by_cases idle : x.c.eng.fifo = [] ∧ x.c.eng.cur = none
    · rw [if_pos idle, if_neg fun held => held.2 idle]
    · rw [if_neg idle, if_pos ⟨hn, idle⟩]
  · exact execCtKw_trap h (by rw [kwCheck_system hn, hp]; rfl) (by omega)
  · by_cases hp : x.c.priv = true
    · rw [if_pos hp]
      exact execCtKw_trap h (by rw [kwCheck_readOnly hn, if_pos hp]) (by omega)
    · rw [if_neg hp]
      exact execCtKw_trap h (by rw [kwCheck_readOnly hn, if_neg hp]) (by omega)
  · by_cases big : 256 ≤ x.val.word.toNat
    · rw [exec_ctKw, execCtKw, ctMove_issues h, if_pos big]
      rfl
    · exact execCtKw_trap h (kwCheck_unassigned hn) (by omega)

end Sys2Proof.Machine
end

section
/-! PROOFS. The channel-binding words of virtual functions (O51). -/

namespace Sys2Proof.Machine

/-! ### The reserved bits of a binding word (R437) -/

/-- Bits [62:37] and [15:0]. -/
def bindReserved : Word := 0x7FFFFFE00000FFFF

theorem getLsbD_bindReserved {i : Nat} (h : i < 64) : bindReserved.getLsbD i = decide (i < 16 ∨ 37 ≤ i ∧ i < 63) := by
  have all : ∀ j : Fin 64, bindReserved.getLsbD j = decide (j.val < 16 ∨ 37 ≤ j.val ∧ j.val < 63) := by decide
  exact all ⟨i, h⟩

theorem and_bindReserved_eq_zero (w : Word) : w &&& bindReserved = 0 ↔ bitsOf w 37 26 = 0 ∧ bitsOf w 0 16 = 0 := by
  constructor
  · intro h
    have clear (i : Nat) (hi : i < 16 ∨ 37 ≤ i ∧ i < 63) : w.getLsbD i = false := by
      have bit : (w &&& bindReserved).getLsbD i = false := by
        rw [h, BitVec.ofNat_eq_ofNat, BitVec.getLsbD_zero]
      rwa [BitVec.getLsbD_and, getLsbD_bindReserved (by omega), decide_eq_true hi, Bool.and_true] at bit
    exact ⟨bitsOf_eq_zero.2 fun j hj => clear _ (by omega), bitsOf_eq_zero.2 fun j hj => clear _ (by omega)⟩
  · rintro ⟨high, low⟩
    apply BitVec.eq_of_getLsbD_eq
    intro i hi
    rw [BitVec.getLsbD_and, getLsbD_bindReserved hi, BitVec.ofNat_eq_ofNat, BitVec.getLsbD_zero, Bool.and_eq_false_iff,
      decide_eq_false_iff_not]
    by_cases hr : i < 16 ∨ 37 ≤ i ∧ i < 63
    · left
      obtain h | ⟨h, h'⟩ := hr
      · simpa using bitsOf_eq_zero.1 low i h
      · simpa [Nat.add_sub_cancel' h] using bitsOf_eq_zero.1 high (i - 37) (by omega)
    · exact .inr hr

/-- What is written of a binding word: everything but the reserved bits. -/
theorem getLsbD_bind {w : Word} {i : Nat} (h : i < 64) (hr : ¬(i < 16 ∨ 37 ≤ i ∧ i < 63)) :
    (w &&& ~~~bindReserved).getLsbD i = w.getLsbD i := by
  rw [BitVec.getLsbD_and, BitVec.getLsbD_not, getLsbD_bindReserved h, decide_eq_false hr, decide_eq_true h]
  exact Bool.and_true _

/-! ### A write of a binding word -/

/-- A queue of PF0 has the channel. -/
def pf0Owns (o : Option (Nat × Nat)) : Bool := match o with | some (0, _) => true | _ => false

theorem pf0Owns_iff (o : Option (Nat × Nat)) : pf0Owns o = true ↔ ∃ j, o = some (0, j) := by
  rcases o with - | ⟨_ | _, _⟩ <;> simp [pf0Owns]

/-- A binding word that may not set BND: channel 63 of an engine, a channel bound elsewhere or of a PF0 queue, an ASID of another VM, or
a reserved field that is not zero. -/
def State.bindBad (s : State) (vf i : Nat) (w : Word) : Bool :=
  decide (bitsOf w 26 11 % 64 = 63) ||
    s.binds.any (fun b => b.2.getLsbD 63 && decide (bitsOf b.2 26 11 = bitsOf w 26 11 ∧ b.1 ≠ 16 * vf + i)) ||
    pf0Owns (s.chan (bitsOf w 26 11)).owner || decide (descVm (s.readDesc (bitsOf w 26 11 / 512) (bitsOf w 16 10)) ≠ vf) ||
    decide (w &&& bindReserved ≠ 0)

section
variable {s : State} {vf i : Nat} {w : Word}

theorem State.bindBad_iff : s.bindBad vf i w = true ↔ bitsOf w 26 11 % 64 = 63 ∨
    (∃ b ∈ s.binds, b.1 ≠ 16 * vf + i ∧ b.2.getLsbD 63 = true ∧ bitsOf b.2 26 11 = bitsOf w 26 11) ∨
    (∃ j, (s.chan (bitsOf w 26 11)).owner = some (0, j)) ∨ descVm (s.readDesc (bitsOf w 26 11 / 512) (bitsOf w 16 10)) ≠ vf ∨
    bitsOf w 37 26 ≠ 0 ∨ bitsOf w 0 16 ≠ 0 := by
  have others : (s.binds.any (fun b => b.2.getLsbD 63 && decide (bitsOf b.2 26 11 = bitsOf w 26 11 ∧ b.1 ≠ 16 * vf + i)) = true) ↔
      ∃ b ∈ s.binds, b.1 ≠ 16 * vf + i ∧ b.2.getLsbD 63 = true ∧ bitsOf b.2 26 11 = bitsOf w 26 11 := by
    simp only [List.any_eq_true, Bool.and_eq_true, decide_eq_true_eq]
    exact exists_congr fun b => and_congr_right fun _ => by tauto
  have reserved : w &&& bindReserved ≠ 0 ↔ bitsOf w 37 26 ≠ 0 ∨ bitsOf w 0 16 ≠ 0 := by
    rw [Ne, and_bindReserved_eq_zero, not_and_or]
  unfold State.bindBad
  simp only [Bool.or_eq_true, others, decide_eq_true_eq, pf0Owns_iff, reserved, or_assoc]

theorem execChannelBind_eq : execChannelBind vf i w s =
    if vf = 0 ∨ 64 < vf ∨ 16 ≤ i ∨ s.descValid vf i = true then .next s
    else if w.getLsbD 63 && s.bindBad vf i w then .next s
    else .next { s with binds := Tab.put s.binds (16 * vf + i) (w &&& ~~~bindReserved) } := rfl

theorem execChannelBind_valid (h : s.descValid vf i = true) : execChannelBind vf i w s = .next s := by
  rw [execChannelBind_eq, if_pos (.inr (.inr (.inr h)))]

section
variable (h1 : 1 ≤ vf) (h64 : vf ≤ 64) (hi : i < 16) (hv : s.descValid vf i = false)
include h1 h64 hi hv

/-- With the descriptor not valid, the write is refused where it sets BND of a word that may not be bound, and else performed. -/
theorem execChannelBind_invalid : execChannelBind vf i w s = if w.getLsbD 63 && s.bindBad vf i w then .next s
    else .next { s with binds := Tab.put s.binds (16 * vf + i) (w &&& ~~~bindReserved) } := by
  have here : ¬(vf = 0 ∨ 64 < vf ∨ 16 ≤ i ∨ s.descValid vf i = true) := by
    rw [hv, Bool.false_eq_true, or_false]
    omega
  rw [execChannelBind_eq, if_neg here]

theorem execChannelBind_refused (hw : w.getLsbD 63 = true) (hb : s.bindBad vf i w = true) : execChannelBind vf i w s = .next s := by
  rw [execChannelBind_invalid h1 h64 hi hv, hw, hb]
  rfl

theorem execChannelBind_written (hb : w.getLsbD 63 = true → ¬s.bindBad vf i w = true) : execChannelBind vf i w s =
    .next { s with binds := Tab.put s.binds (16 * vf + i) (w &&& ~~~bindReserved) } := by
  rw [execChannelBind_invalid h1 h64 hi hv, if_neg]
  rw [Bool.and_eq_true]
  exact fun ⟨hw, bad⟩ => hb hw bad
end
end

/-- PF0's BAR0 holds the binding words of VF `vf` from 0x200000 + 1024 (vf - 1). -/
theorem execRegisterWrite_bind {s : State} {vf i : Nat} {w : Word} (h1 : 1 ≤ vf) (h64 : vf ≤ 64) (hi : i < 16) :
    execRegisterWrite 0 (0x200000 + 1024 * (vf - 1) + 8 * i) w s = execChannelBind vf i w s := by
  obtain ⟨t, ht⟩ := exec_answers (.channelBind vf i w) s
  rw [exec_channelBind] at ht
  have place : (0x200000 + 1024 * (vf - 1) + 8 * i - 0x200000) / 1024 + 1 = vf := by omega
  have word : (0x200000 + 1024 * (vf - 1) + 8 * i) % 1024 / 8 = i := by omega
  have bind : s.pfWrite (0x200000 + 1024 * (vf - 1) + 8 * i) w = some t := by
    unfold State.pfWrite
    dsimp only
    iterate 14 rw [if_neg (by omega)]
    rw [if_pos (by omega), place, word, ht]
    rfl
  rw [execRegisterWrite_pf, bind, ht]

/-- Settles O51: by the guards of a binding word's write, and what its reserved bits leave of the word. -/
theorem channelBinding : Obligations.ChannelBinding := by
  refine ⟨fun _ _ => rfl, fun s vf i w h1 h64 hi => execRegisterWrite_bind h1 h64 hi, fun s vf i w h1 h64 hi =>
    ⟨execChannelBind_valid, fun hv hw hb => execChannelBind_refused h1 h64 hi hv hw (State.bindBad_iff.2 hb), fun hv hb =>
      ⟨_, execChannelBind_written h1 h64 hi hv fun hw bad => hb hw (State.bindBad_iff.1 bad), getLsbD_bind (by decide) (by decide),
        bitsOf_congr fun j hj => getLsbD_bind (by omega) (by omega)⟩⟩⟩

end Sys2Proof.Machine
end

section
/-! PROOFS. What a started packet does, by opcode (O52). -/

namespace Sys2Proof.Machine

/-! ### A packet that acts (R61, R63) -/

section
variable {s : State} {ch n op : Nat} {p : Pkt}

/-- No packet that is unfinished, well-formed, not parked and not waiting for an invalidation is passed over. -/
theorem State.pkt_heeded (ho : p.op = op) (hd : p.done = false) (hb : p.bad = false) (hf : p.fault = none)
    (hw : s.pinWaits ch p = false) :
    ¬(p.op ≠ op ∨ p.done = true ∨ p.bad = true ∨ p.fault.isSome = true ∨ s.pinWaits ch p = true) := by
  simp [ho, hd, hb, hf, hw]

/-- A packet that has started acts. -/
theorem State.onPkt_runs (h : s.runsPkt ch n op p) (act : State → Pkt → State) : s.onPkt ch n op act = .next (act s p) := by
  obtain ⟨hp, ho, hd, hb, hf, hw, hs⟩ := h
  unfold State.onPkt
  rw [hp]
  exact (if_neg (State.pkt_heeded ho hd hb hf hw)).trans (if_pos hs)

/-- A packet that may start, and waits for no hasp, starts and acts. -/
theorem State.onPkt_starts (hp : s.pkt ch n = some p) (ho : p.op = op) (hd : p.done = false) (hb : p.bad = false)
    (hf : p.fault = none) (hw : s.pinWaits ch p = false) (h0 : p.phase = 0) (ha : p.acq = false)
    (hm : (s.chan ch).mayStart p = true) (act : State → Pkt → State) :
    s.onPkt ch n op act = .next (act (s.modPkt ch n (fun q => { q with phase := 1 })) { p with phase := 1 }) := by
  unfold State.onPkt
  rw [hp]
  exact (if_neg (State.pkt_heeded ho hd hb hf hw)).trans
    ((if_neg (not_not.2 h0)).trans ((if_neg (by simp [hm])).trans (if_neg (by simp [ha]))))

/-! ### Row packets (R57, R58) -/

variable {row : State → Nat → RowOut × State} {s' : State}

theorem State.rowsFrom_none (h : p.rows = 0 ∨ p.rb = 0) : s.rowsFrom ch p row = s.pktDone ch p.n 0 := if_pos h

theorem State.rowsFrom_gone (hr : p.rows ≠ 0) (hb : p.rb ≠ 0) (hw : s.windowGone p 2 = true) :
    s.rowsFrom ch p row = s.pktDone ch p.n 0x05 := (if_neg (not_or.2 ⟨hr, hb⟩)).trans (if_pos hw)

/-- A row that goes through is the packet's next row; the last one finishes it. -/
theorem State.rowsFrom_go (hr : p.rows ≠ 0) (hb : p.rb ≠ 0) (hw : s.windowGone p 2 = false) (h : row s p.row = (.go, s')) :
    s.rowsFrom ch p row = if p.rows ≤ p.row + 1 then s'.pktDone ch p.n 0 else s' := by
  unfold State.rowsFrom State.nextRow
  rw [if_neg (not_or.2 ⟨hr, hb⟩), hw, h]
  rfl

/-- The four row packets act by their frame, each with a row of its own. -/
theorem exec_rows {o : Instr}
    (h : (s.runsPkt ch n 0x01 p ∧ o = .copy ch n) ∨ (s.runsPkt ch n 0x02 p ∧ o = .fill ch n) ∨
      (s.runsPkt ch n 0x03 p ∧ o = .gather ch n) ∨ (s.runsPkt ch n 0x04 p ∧ o = .scatter ch n)) :
    ∃ row, exec o s = .next (s.rowsFrom ch p row) := by
  obtain ⟨h, rfl⟩ | ⟨h, rfl⟩ | ⟨h, rfl⟩ | ⟨h, rfl⟩ := h
  · exact ⟨_, by rw [exec_copy, execCopy, State.onPkt_runs h]⟩
  · exact ⟨_, by rw [exec_fill, execFill, State.onPkt_runs h]⟩
  · exact ⟨_, by rw [exec_gather, execGather, State.onPkt_runs h]⟩
  · exact ⟨_, by rw [exec_scatter, execScatter, State.onPkt_runs h]⟩

section
variable (hr : p.rows ≠ 0) (hb : p.rb ≠ 0) (hw : s.windowGone p 2 = false)
include hr hb hw

theorem execCopy_plain (h : s.runsPkt ch n 0x01 p) (hc : p.converts = false)
    (hg : s.oneRow ch p (some ((p.row * p.sp : Nat) : Int)) ((p.row * p.dp : Nat) : Int) (fun x => x) = (.go, s')) :
    execCopy ch n s = .next (if p.rows ≤ p.row + 1 then s'.pktDone ch p.n 0 else s') := by
  rw [execCopy, State.onPkt_runs h, State.rowsFrom_go hr hb hw]
  rw [hc]
  exact hg

/-- A converting row first meets its scales, then goes as any row does (R210). -/
theorem execCopy_converts (h : s.runsPkt ch n 0x01 p) (hc : p.converts = true) (hl : s.piecesLose srcCopy (p.sclPieces p.row) = false)
    (hg : ((s.meetRow p (p.sclPieces p.row)).wonRow (p.sclPieces p.row)).oneRow ch p (some ((p.row * p.sp : Nat) : Int))
      ((p.row * p.dp : Nat) : Int) (fun x => p.convRow x (s.scaleOf p p.row)) = (.go, s')) :
    execCopy ch n s = .next (if p.rows ≤ p.row + 1 then s'.pktDone ch p.n 0 else s') := by
  rw [execCopy, State.onPkt_runs h, State.rowsFrom_go hr hb hw]
  rw [hc, hl]
  exact hg

theorem execFill_row (h : s.runsPkt ch n 0x02 p)
    (hg : s.oneRow ch p none ((p.row * p.dp : Nat) : Int)
      (fun _ => sumBits (fun j => p.opnd.toNat <<< (64 * j)) (p.rb / 8 + 1) % 2 ^ (8 * p.rb)) = (.go, s')) :
    execFill ch n s = .next (if p.rows ≤ p.row + 1 then s'.pktDone ch p.n 0 else s') := by
  rw [execFill, State.onPkt_runs h, State.rowsFrom_go hr hb hw hg]

theorem execGather_row (h : s.runsPkt ch n 0x03 p)
    (hg : s.oneRow ch p (some (p.list.getD p.row 0 * (p.sp : Int))) ((p.row * p.dp : Nat) : Int) (fun x => x) = (.go, s')) :
    execGather ch n s = .next (if p.rows ≤ p.row + 1 then s'.pktDone ch p.n 0 else s') := by
  rw [execGather, State.onPkt_runs h, State.rowsFrom_go hr hb hw hg]

theorem execScatter_row (h : s.runsPkt ch n 0x04 p)
    (hg : s.oneRow ch p (some ((p.row * p.sp : Nat) : Int)) (p.list.getD p.row 0 * (p.dp : Int)) (fun x => x) = (.go, s')) :
    execScatter ch n s = .next (if p.rows ≤ p.row + 1 then s'.pktDone ch p.n 0 else s') := by
  rw [execScatter, State.onPkt_runs h, State.rowsFrom_go hr hb hw hg]
end

theorem execSignal_go (h : s.runsPkt ch n 0x0A p) (hw : s.windowGone p 2 = false)
    (hg : s.oneRow ch { p with words := p.words.set 3 ((1 : Word) <<< 32 ||| 8) } none 0 (fun _ => p.opnd.toNat) = (.go, s')) :
    execSignal ch n s = .next (s'.pktDone ch p.n 0) := by
  rw [execSignal, State.onPkt_runs h, if_neg (by simp [hw])]
  dsimp only
  rw [hg]

/-! ### ATOM (R60) -/

/-- A piece of an ATOM's target lies in host memory. -/
def inHost (tp : List (Nat × Nat)) : Bool := tp.any (fun x => decide (locHost 0 ≤ x.1 ∧ x.1 < locPeer 0 0))

theorem inHost_of_exists {tp : List (Nat × Nat)} (h : ∃ x ∈ tp, locHost 0 ≤ x.1 ∧ x.1 < locPeer 0 0) : inHost tp = true := by
  simpa [inHost] using h

theorem inHost_of_forall {tp : List (Nat × Nat)} (h : ∀ x ∈ tp, x.1 < locHost 0 ∨ locPeer 0 0 ≤ x.1) : inHost tp = false := by
  rw [inHost, List.any_eq_false]
  intro x hx hm
  have := of_decide_eq_true hm
  have := h x hx
  omega

/-- An ATOM without a result place, its target translated, is performed but in host memory, and waits where banks are lost. -/
theorem execAtom_target {tp : List (Nat × Nat)} (h : s.runsPkt ch n 0x05 p) (hr : p.rows ≠ 0) (ha : p.addr 2 % p.rb = 0)
    (hm : p.space 2 ≠ 0 ∨ s.pktPhys ch p = true ∨ s.movHeld p.asid (p.addr 2) p.rb = false) (h1 : p.w 1 = 0)
    (hl : s.rowLocs ch p 2 0 p.rb .write = (.ok tp, s')) : execAtom ch n s = .next (if inHost tp then s'.pktDone ch p.n 0x05
      else if s'.piecesLose srcCopy (tp ++ []) then s'
      else
        let v := ((s'.meetRow p (tp ++ [])).wonRow (tp ++ [])).countRow ch [] (tp ++ []) p.rb
        let v := v.writeLocs (atomNew (p.sp % 256) (v.readLocs tp) p.opnd.toNat (p.w 5).toNat) tp
        let v := v.setDie (engOf ch / 8)
          { v.die (engOf ch / 8) with rlc := (v.die (engOf ch / 8)).rlc.filter (fun e => !touches tp e.1) }
        (v.modPkt ch p.n (fun q => { q with lines := q.lines ++ acqLines (tp ++ []) })).pktDone ch p.n 0) := by
  have free : ¬(p.space 2 = 0 ∧ s.pktPhys ch p = false ∧ s.movHeld p.asid (p.addr 2) p.rb = true) := by
    rintro ⟨h2, hp, hv⟩
    simp [h2, hp, hv] at hm
  rw [execAtom, State.onPkt_runs h]
  dsimp only
  rw [if_neg hr, if_neg (not_not.2 ha), if_neg free, if_neg fun hx => hx.1 h1, if_neg fun hx => hx.1 h1, hl]
  dsimp only
  rw [if_pos h1]
  dsimp only
  rw [if_pos h1]
  rfl

/-! ### WAITTL and ICINV (R63, R264) -/

theorem execWaittl_waits (h : s.runsPkt ch n 0x0B p) (ht : reached (s.chan (p.sp % 2 ^ 16)).tl (bitsOf p.opnd 0 48) = false) :
    execWaittl ch n s = .next s := by
  rw [execWaittl, State.onPkt_runs h]
  exact congrArg _ (if_pos ht)

/-- A WAITTL whose target is reached, where no packet of that channel has written, discards no line. -/
theorem execWaittl_reached (h : s.runsPkt ch n 0x0B p) (ht : reached (s.chan (p.sp % 2 ^ 16)).tl (bitsOf p.opnd 0 48) = true)
    (hw : (s.chan (p.sp % 2 ^ 16)).wrote = []) :
    execWaittl ch n s = .next ((s.setDie (engOf ch / 8) (s.die (engOf ch / 8))).pktDone ch p.n 0) := by
  rw [execWaittl, State.onPkt_runs h]
  dsimp only
  rw [if_neg (by rw [ht]; decide), hw]
  simp [touches]

theorem execIcinv_ok {ps : List (Nat × Nat)} (h : s.runsPkt ch n 0x0C p) (hr : p.rows ≠ 0) (hb : p.rb ≠ 0)
    (hl : s.rowLocs ch p 1 0 p.rb .code = (.ok ps, s')) : execIcinv ch n s =
      .next (((List.range 4).foldl (fun s d => if p.opnd.getLsbD d then s.discardCode d p.asid (p.addr 1) p.rb else s) s').pktDone
        ch p.n 0) := by
  rw [execIcinv, State.onPkt_runs h, if_neg (not_or.2 ⟨hr, hb⟩), hl]

/-! ### LAUNCH (R100, R102) -/

theorem execLaunch_empty {code : Nat} (h : s.runsPkt ch n 0x09 p) (h0 : p.rows = 0 ∨ p.rb = 0)
    (hg : s.groupWord ch p = (some code, s')) : execLaunch ch n s = .next (s'.pktDone ch p.n code) := by
  rw [execLaunch, State.onPkt_runs h, if_pos h0, hg]

section
variable (h : s.runsPkt ch n 0x09 p) (hr : p.rows ≠ 0) (hb : p.rb ≠ 0)
include h hr hb

theorem execLaunch_more (hg : p.group.isSome = true) : execLaunch ch n s = .next (s.launchMore ch p) := by
  rw [execLaunch, State.onPkt_runs h, if_neg (not_or.2 ⟨hr, hb⟩), if_pos hg]

theorem execLaunch_start (hg : p.group = none) (hl : s.grps.length < 4096) : execLaunch ch n s = .next (s.launchStart ch p) := by
  rw [execLaunch, State.onPkt_runs h, if_neg (not_or.2 ⟨hr, hb⟩), if_neg (by simp [hg]), if_neg (by omega)]

theorem execLaunch_full (hg : p.group = none) (hl : 4096 ≤ s.grps.length) : execLaunch ch n s = .next s := by
  rw [execLaunch, State.onPkt_runs h, if_neg (not_or.2 ⟨hr, hb⟩), if_neg (by simp [hg]), if_pos hl]
end

section
variable {ps : List (Nat × Nat)} {s1 : State} (hl : s.rowLocs ch p 1 0 (64 * p.rows) .read = (.ok ps, s1))
include hl

theorem State.launchStart_flash (hf : s1.flashFails ps = true) : s.launchStart ch p = (s1.countLines ch ps).pktDone ch p.n 0x01 := by
  unfold State.launchStart
  rw [hl]
  exact if_pos hf

/-- With its records read as number `x`, a LAUNCH of a privileged queue or another ends with 0x05, or forms its group and posts. -/
def State.launchWith (s : State) (ch : Nat) (p : Pkt) (priv : Bool) (x : Nat) : State :=
  let nums := (List.range p.rows).map (fun r => ((x >>> (512 * r)) % 2 ^ 512 : Nat))
  let recs := nums.map (fun v => Rec.ofWords (toWords v 8))
  if recs.all (fun r => s.recOk r (if priv then none else some p.asid) priv) = false then s.pktDone ch p.n 0x05
  else match s.keysOk (ch / 512) recs with
    | (.error f, s) => s.pktFault ch p.n f
    | (.ok _, s) =>
      (({ s with ngrp := s.ngrp + 1, grps := Tab.put s.grps (s.ngrp + 1) ⟨p.asid, ch, p.n⟩ } : State).modPkt ch p.n
        (fun q => { q with group := some (s.ngrp + 1), list := nums.map Int.ofNat })).postRows ch p.n (s.ngrp + 1) 0 recs

theorem State.launchStart_read (hf : s1.flashFails ps = false) : s.launchStart ch p =
    let x := (s1.countRow ch ps [] 0).pieceRead (engOf ch / 8) ps
    x.2.launchWith ch p ((s.chan ch).priv ch) x.1 := by
  unfold State.launchStart
  rw [hl]
  exact if_neg (by simp [hf])
end
end

section
variable {s s3 : State} {ch : Nat} {p : Pkt} {priv : Bool} {x : Nat} {nums : List Nat} {recs : List Rec}
  (hn : nums = (List.range p.rows).map (fun r => ((x >>> (512 * r)) % 2 ^ 512 : Nat)))
  (hr : recs = nums.map (fun v => Rec.ofWords (toWords v 8)))
include hn hr

theorem State.launchWith_invalid (hx : ∃ r ∈ recs, s.recOk r (if priv then none else some p.asid) priv = false) :
    s.launchWith ch p priv x = s.pktDone ch p.n 0x05 := by
  subst hn hr
  obtain ⟨r, hr, bad⟩ := hx
  exact if_pos (List.all_eq_false.2 ⟨r, hr, Bool.eq_false_iff.1 bad⟩)

theorem State.launchWith_valid (hx : ∀ r ∈ recs, s.recOk r (if priv then none else some p.asid) priv = true)
    (hk : s.keysOk (ch / 512) recs = (.ok (), s3)) : s.launchWith ch p priv x =
      (({ s3 with ngrp := s3.ngrp + 1, grps := Tab.put s3.grps (s3.ngrp + 1) ⟨p.asid, ch, p.n⟩ } : State).modPkt ch p.n
        (fun q => { q with group := some (s3.ngrp + 1), list := nums.map Int.ofNat })).postRows ch p.n (s3.ngrp + 1) 0 recs := by
  subst hn hr
  unfold State.launchWith
  dsimp only
  rw [if_neg (by rw [List.all_eq_true.2 hx]; decide), hk]
end

/-- Settles O52: each opcode by what its frame and its own row, word or record do. -/
theorem packetActions : Obligations.PacketActions := by
  refine ⟨fun s ch n p h => ?_, fun s ch n p hp ho hd hb hf hw h0 ha hm => ?_, fun s ch n p o h => ?_,
    fun s s' ch n p hr hb hw => ⟨execCopy_plain hr hb hw, execCopy_converts hr hb hw, execFill_row hr hb hw, execGather_row hr hb hw,
      execScatter_row hr hb hw⟩, fun s s' ch n p h hw => execSignal_go h hw, fun s s' ch n p tp h hr ha hm h1 hl => ?_,
    fun s ch n p h => ⟨execWaittl_waits h, fun ht hw => ?_⟩, fun s s' ch n p ps => execIcinv_ok, fun s ch n p h hr hb =>
      ⟨execLaunch_more h hr hb, execLaunch_start h hr hb, execLaunch_full h hr hb⟩, fun s s1 ch n p ps h hr hb hg hs hl => ?_,
    fun s s1 ch n p code => execLaunch_empty⟩
  · rw [exec_nullPacket, execNullPacket, State.onPkt_runs h]
  · rw [exec_nullPacket, execNullPacket, State.onPkt_starts hp ho hd hb hf hw h0 ha hm]
  · obtain ⟨row, e⟩ := exec_rows h
    rw [e]
    exact ⟨fun h0 => congrArg _ (State.rowsFrom_none h0), fun hr hb hw => congrArg _ (State.rowsFrom_gone hr hb hw)⟩
  · rw [exec_atom, execAtom_target h hr ha hm h1 hl]
    refine ⟨fun host => ?_, fun host lose => ?_, fun host lose => ?_⟩
    · rw [inHost_of_exists host]
      rfl
    · rw [inHost_of_forall host, lose]
      rfl
    · rw [inHost_of_forall host, lose]
      exact ⟨_, rfl, rfl⟩
  · exact ⟨_, execWaittl_reached h ht hw, rfl, by rw [State.die_setDie, if_pos rfl]⟩
  · rw [exec_launch, execLaunch_start h hr hb hg hs]
    refine ⟨fun hf => congrArg _ (State.launchStart_flash hl hf), fun hf => ?_⟩
    rw [State.launchStart_read hl hf]
    exact ⟨fun hx => congrArg _ (State.launchWith_invalid rfl rfl hx), fun hx s3 hk =>
      congrArg _ (State.launchWith_valid rfl rfl hx hk)⟩

end Sys2Proof.Machine
end

section
/-! PROOFS. Queues: creation, closing, abort, taking and completing packets (O50). -/

namespace Sys2Proof.Machine

/-! ### Words of descriptors (R47, R48) -/

section
variable {s : State} {fn i ch : Nat}

/-- A descriptor's word after a write of one word. -/
theorem State.descWord_setDescWord (s : State) (fn i k : Nat) (w : Word) (fn' i' : Nat) {j : Nat} (hj : j < 8) :
    (s.setDescWord fn i k w).descWord fn' i' j = if descKey fn' i' = descKey fn i ∧ j = k then w else s.descWord fn' i' j := by
  unfold State.setDescWord State.descWord
  rw [Tab.get_put]
  by_cases h : descKey fn' i' = descKey fn i
  · rw [if_pos h, List.getD_eq_getElem?_getD, List.getElem?_map, List.getElem?_range hj, Option.map_some, Option.getD_some, h]
    simp only [true_and]
  · rw [if_neg h, if_neg fun both => h both.1]

theorem State.descWord_setDescWord_same (s : State) (fn i : Nat) (w : Word) : (s.setDescWord fn i 6 w).descWord fn i 6 = w := by
  rw [State.descWord_setDescWord _ _ _ _ _ _ _ (by decide), if_pos ⟨rfl, rfl⟩]

/-! ### Creation (R47, R49) -/

/-- A number repeated in fields of `m` bits, bit by bit. -/
theorem testBit_sumBits_shift {x m : Nat} (hx : x < 2 ^ m) (n k : Nat) :
    (sumBits (fun i => x <<< (m * i)) n).testBit k = (decide (k < m * n) && x.testBit (k % m)) ∧
      sumBits (fun i => x <<< (m * i)) n < 2 ^ (m * n) := by
  induction n generalizing k with
  | zero => simp [sumBits]
  | succ n ih =>
    have low := (ih 0).2
    have top : sumBits (fun i => x <<< (m * i)) (n + 1) = 2 ^ (m * n) * x + sumBits (fun i => x <<< (m * i)) n := by
      rw [sumBits, Nat.shiftLeft_eq, Nat.mul_comm x, Nat.add_comm]
    rw [top, Nat.mul_add, Nat.mul_one]
    refine ⟨?_, ?_⟩
    · rw [Nat.testBit_two_pow_mul_add _ low]
      by_cases hk : k < m * n
      · rw [if_pos hk, (ih k).1, decide_eq_true hk, decide_eq_true (by omega)]
      · rw [if_neg hk]
        by_cases hm : k < m * n + m
        · have field : k % m = k - m * n := by
            rw [← Nat.mod_eq_of_lt (show k - m * n < m by omega), Nat.sub_mul_mod (by omega)]
          rw [field, decide_eq_true hm, Bool.true_and]
        · rw [decide_eq_false hm, Bool.false_and]
          exact Nat.testBit_lt_two_pow (Nat.lt_of_lt_of_le hx (Nat.pow_le_pow_right Nat.two_pos (by omega)))
    · rw [Nat.pow_add]
      calc _ < 2 ^ (m * n) * x + 2 ^ (m * n) := Nat.add_lt_add_left low _
        _ = 2 ^ (m * n) * (x + 1) := by rw [Nat.mul_add, Nat.mul_one]
        _ ≤ _ := Nat.mul_le_mul_left _ hx

/-- Every slot of a new ring holds w0 = 0x4000 and zeros. -/
theorem ringInit_slot {log j : Nat} (h : j < 2 ^ log) : ringInit log / 2 ^ (512 * j) % 2 ^ 512 = 0x4000 := by
  apply Nat.eq_of_testBit_eq
  intro k
  rw [Nat.testBit_mod_two_pow, Nat.testBit_div_two_pow, ringInit,
    (testBit_sumBits_shift (Nat.lt_of_lt_of_le (show 0x4000 < 2 ^ 15 by decide) (Nat.pow_le_pow_right Nat.two_pos (by decide))) _ _).1]
  by_cases hk : k < 512
  · rw [decide_eq_true hk, decide_eq_true (by omega), Nat.add_mod, Nat.mul_mod_right]
    simp [Nat.mod_eq_of_lt hk]
  · rw [decide_eq_false hk, Bool.false_and]
    exact (Nat.testBit_lt_two_pow (Nat.lt_of_lt_of_le (show 0x4000 < 2 ^ 15 by decide)
      (Nat.pow_le_pow_right Nat.two_pos (by omega)))).symm

/-- The channel of a queue that has been created: as reset, with what its descriptor captures. -/
def State.newChan (s : State) (fn i : Nat) : Chan :=
  { Chan.reset with
    owner := some (fn, i), ring := bitsOf (s.descWord fn i 0) 0 54, widx := bitsOf (s.descWord fn i 1) 0 54
    stat := bitsOf (s.descWord fn i 3) 0 54, log := bitsOf (s.descWord fn i 5) 0 5, asid := s.descAsid fn i
    vec := bitsOf (s.descWord fn i 5) 37 11 }

/-- The ring as RING_INIT leaves it, and a write index of zero (R49, R89). -/
def State.ringWritten (s : State) (ch log : Nat) (rp wp : List (Nat × Nat)) : State :=
  (s.pieceWrite (engOf ch / 8) (ringInit log) rp).pieceWrite (engOf ch / 8) 0 ((wp.take 1).map (fun q => (q.1, 8)))

theorem State.looked_ringWritten (s : State) (ch log : Nat) (rp wp : List (Nat × Nat)) : s.Looked (s.ringWritten ch log rp wp) :=
  (s.looked_pieceWrite ..).trans (State.looked_pieceWrite ..)

/-- A creation whose fields are legal and whose memory translates. -/
theorem State.createQueue_ok {rp wp sp : List (Nat × Nat)} {s1 s2 s3 : State} (hc : s.descChan fn i = some ch)
    (ho : (s.chan ch).owner = none) (hb : fn = 0 → s.boundChan ch = false) (h6 : 6 ≤ bitsOf (s.descWord fn i 5) 0 5)
    (h16 : bitsOf (s.descWord fn i 5) 0 5 ≤ 16)
    (hr : s.engPieces (engOf ch) (s.descAsid fn i) (bitsOf (s.descWord fn i 0) 0 54) (64 * 2 ^ bitsOf (s.descWord fn i 5) 0 5) .write =
      (.ok rp, s1))
    (hw : s1.engPieces (engOf ch) (s.descAsid fn i) (bitsOf (s.descWord fn i 1) 0 54) 64 .write = (.ok wp, s2))
    (hs : s2.engPieces (engOf ch) (s.descAsid fn i) (bitsOf (s.descWord fn i 3) 0 54) (8 * 2 ^ bitsOf (s.descWord fn i 5) 0 5) .write =
      (.ok sp, s3)) :
    s.createQueue fn i =
      ((s3.ringWritten ch (bitsOf (s.descWord fn i 5) 0 5) rp wp).setChan ch (s.newChan fn i)).setDescWord fn i 6 1 := by
  have look := (((s.looked_engPieces ..).snd hr).trans ((s1.looked_engPieces ..).snd hw)).trans ((s2.looked_engPieces ..).snd hs)
  have word : (s3.ringWritten ch (bitsOf (s.descWord fn i 5) 0 5) rp wp).descWord fn i 5 = s.descWord fn i 5 := by
    unfold State.descWord
    rw [(look.trans (s3.looked_ringWritten ..)).qdesc]
  have chan : s.newChan fn i = { s.newChan fn i with
      vec := bitsOf ((s3.ringWritten ch (bitsOf (s.descWord fn i 5) 0 5) rp wp).descWord fn i 5) 37 11 } := by
    rw [word]
    rfl
  have legal : ¬((s.chan ch).owner.isSome = true ∨ (fn = 0 ∧ s.boundChan ch = true) ∨ bitsOf (s.descWord fn i 5) 0 5 < 6 ∨
      16 < bitsOf (s.descWord fn i 5) 0 5) := by
    rintro (h | ⟨h0, h⟩ | h | h)
    · simp [ho] at h
    · simp [hb h0] at h
    · omega
    · omega
  unfold State.createQueue
  dsimp only
  rw [hc]
  dsimp only
  rw [if_neg legal, hr]
  dsimp only
  rw [hw]
  dsimp only
  rw [hs, chan]
  rfl

/-- A creation whose fields are not legal. -/
theorem State.createQueue_illegal (hc : s.descChan fn i = some ch)
    (h : (s.chan ch).owner ≠ none ∨ (fn = 0 ∧ s.boundChan ch = true) ∨ bitsOf (s.descWord fn i 5) 0 5 < 6 ∨
      16 < bitsOf (s.descWord fn i 5) 0 5) : s.createQueue fn i = s.descErr fn i := by
  unfold State.createQueue
  dsimp only
  rw [hc]
  exact if_pos (h.imp_left Option.isSome_iff_ne_none.2)

theorem State.chan_setDescWord (s : State) (fn i k : Nat) (w : Word) (ch : Nat) : (s.setDescWord fn i k w).chan ch = s.chan ch := rfl

theorem State.chan_setChan_same (s : State) (ch : Nat) (c : Chan) : (s.setChan ch c).chan ch = c := by
  unfold State.setChan State.chan
  rw [Tab.get_put, if_pos rfl]

theorem execQueueCreate_invalid (h : s.descValid fn i = false) : execQueueCreate fn i s = .next (s.createQueue fn i) :=
  if_neg (by simp [h])

/-! ### The end of a close (R50, R54) -/

/-- A close whose end has come leaves the channel as reset, but for what later reads of it still need; else the channel stays. -/
theorem State.chan_settleClose (s : State) (ch : Nat) : (s.settleClose ch).chan ch = s.chan ch ∨
    (s.settleClose ch).chan ch = { Chan.reset with
      tl := (s.chan ch).tl, ridx := (s.chan ch).ridx, widx := (s.chan ch).widx, asid := (s.chan ch).asid
      pending := (s.chan ch).pending, faulted := (s.chan ch).faulted, wrote := (s.chan ch).wrote } := by
  unfold State.settleClose
  dsimp only
  split
  · split
    · right
      split
      · rw [State.chan_setDescWord, State.chan_setChan_same]
      · rw [State.chan_setChan_same]
    · exact .inl rfl
  · exact .inl rfl

/-- It makes no descriptor valid. -/
theorem State.descValid_settleClose (h : s.descValid fn i = false) : (s.settleClose ch).descValid fn i = false := by
  unfold State.settleClose
  dsimp only
  split
  · split
    · split
      next fn' i' _ =>
        have before : ((s.setChan ch { Chan.reset with
          tl := (s.chan ch).tl, ridx := (s.chan ch).ridx, widx := (s.chan ch).widx, asid := (s.chan ch).asid
          pending := (s.chan ch).pending, faulted := (s.chan ch).faulted, wrote := (s.chan ch).wrote }).descWord fn i 6).getLsbD 0 =
            false := h
        rw [State.descValid, State.descWord_setDescWord _ _ _ _ _ _ _ (by decide)]
        split
        · simp
        · exact before
      · exact h
    · exact h
  · exact h

theorem State.settleClose_open (h : (s.chan ch).closing = none) : s.settleClose ch = s := by
  unfold State.settleClose
  dsimp only
  rw [h]

/-- The read of the write index that a close makes changes nothing of the channel but how far the close and its parked access are, and
no descriptor. -/
theorem State.closeRead_spec (s : State) (ch : Nat) : (s.closeRead ch).qdesc = s.qdesc ∧ ∃ k u q,
    (s.closeRead ch).chan ch = { s.chan ch with closing := k, unread := u, parked := q } ∧
      ((s.chan ch).closing.isSome = true → k.isSome = true) := by
  have read := s.looked_feRead ch (s.chan ch).widx 8
  unfold State.closeRead State.readWidx
  split
  · exact ⟨rfl, _, _, _, rfl, id⟩
  · split
    next x t h =>
      split at h
      next hr =>
        obtain ⟨hx, rfl⟩ := Prod.mk.inj h
        obtain rfl := Option.some.inj hx
        have look := read.snd hr
        refine ⟨look.qdesc, _, _, _, by rw [State.chan_modChan, if_pos rfl, look.chan], fun _ => rfl⟩
      · exact nomatch (Prod.mk.inj h).1
    next t h =>
      split at h
      · exact nomatch (Prod.mk.inj h).1
      next hr =>
        have look := read.snd hr
        obtain ⟨-, rfl⟩ := Prod.mk.inj h
        unfold State.parkFe
        split
        · exact ⟨look.qdesc, _, _, _, look.chan ch, id⟩
        · split
          · exact ⟨look.qdesc, _, _, _, look.chan ch, id⟩
          · exact ⟨look.qdesc, _, _, _, by rw [State.chan_modChan, if_pos rfl, look.chan], id⟩

/-- A close of an open queue. -/
theorem State.closeQueue_eq (hf : s.chans.find? (fun c => decide (c.2.owner = some (fn, i))) = some (ch, s.chan ch))
    (hc : (s.chan ch).closing = none) : s.closeQueue fn i = (((s.setDescWord fn i 6 0).modChan ch (fun c => { c with
      closing := some c.ridx, unread := true, claims := [] })).closeRead ch).settleClose ch := by
  unfold State.closeQueue
  rw [hf]
  exact if_neg (by simp [hc])

/-- A close leaves the channel closing, or free, its claims gone and its timeline and read index as they were. -/
theorem State.closeQueue_spec (hf : s.chans.find? (fun c => decide (c.2.owner = some (fn, i))) = some (ch, s.chan ch))
    (hc : (s.chan ch).closing = none) : (s.closeQueue fn i).descValid fn i = false ∧
      ((s.closeQueue fn i).chan ch).valid = false ∧ ((s.closeQueue fn i).chan ch).claims = [] ∧
      ((s.closeQueue fn i).chan ch).tl = (s.chan ch).tl ∧ ((s.closeQueue fn i).chan ch).ridx = (s.chan ch).ridx := by
  rw [State.closeQueue_eq hf hc]
  obtain ⟨desc, k, u, q, chan, closing⟩ := State.closeRead_spec ((s.setDescWord fn i 6 0).modChan ch (fun c => { c with
    closing := some c.ridx, unread := true, claims := [] })) ch
  rw [State.chan_modChan, if_pos rfl] at chan closing
  refine ⟨State.descValid_settleClose ?_, ?_⟩
  · have word := s.descWord_setDescWord_same fn i 0
    unfold State.descValid State.descWord
    rw [desc]
    exact congrArg (BitVec.getLsbD · 0) word
  · obtain ⟨k, rfl⟩ := Option.isSome_iff_exists.1 (closing rfl)
    obtain e | e := State.chan_settleClose (((s.setDescWord fn i 6 0).modChan ch (fun c => { c with
      closing := some c.ridx, unread := true, claims := [] })).closeRead ch) ch
    all_goals
      rw [e, chan]
      exact ⟨by simp [Chan.valid, Chan.reset], rfl, rfl, rfl⟩

/-! ### Abort (R54) -/

/-- The channel once an abort has begun: closing, its claims gone, its packets ended. -/
def Chan.abort (c : Chan) : Chan :=
  { c with
    closing := some (c.closing.getD c.ridx), unread := c.unread || c.closing.isNone, claims := [], aborted := true
    parked := if c.halted then none else c.parked, pkts := c.pkts.map abortPkt }

/-- The state once an abort has begun, and has read the write index if it can. -/
def State.abortRead (s : State) (ch : Nat) : State := ((s.abortMoves ch).modChan ch Chan.abort).closeRead ch

theorem execQueueAbort_owned (ho : (s.chan ch).owner = some (fn, i)) : execQueueAbort ch s =
    .next (((s.abortRead ch).completeAll ch (((s.abortRead ch).chan ch).closing.getD 0 - ((s.abortRead ch).chan ch).tl + 1)).settleClose
      ch) := by
  unfold execQueueAbort
  rw [ho]
  rfl

theorem Chan.abort_empty {c : Chan} (hp : c.pkts = []) (hc : c.closing = none) (hk : c.parked = none) :
    c.abort = { c with closing := some c.ridx, unread := true, claims := [], aborted := true, pkts := [] } := by
  unfold Chan.abort
  rw [hp, hc, hk, Option.isNone_none, Bool.or_true, ite_self]
  rfl

theorem State.closeRead_ok {w : Nat} {t : State} (hu : (s.chan ch).unread = true)
    (hr : s.feRead ch (s.chan ch).widx 8 = (.ok w, t)) :
    s.closeRead ch = t.modChan ch (fun c => { c with closing := some (max w c.ridx), unread := false }) := by
  unfold State.closeRead State.readWidx
  rw [hu, hr]
  rfl

/-- With nothing parked, no packet left and every index completed, what a channel completes next is its close. -/
theorem State.completeNext_closed {w : Nat} (hk : (s.chan ch).parked = none) (hu : (s.chan ch).unread = false)
    (hp : (s.chan ch).pkts = []) (hc : (s.chan ch).closing = some w) (hw : w ≤ (s.chan ch).tl) : s.completeNext ch = s.settleClose ch := by
  have read : s.closeRead ch = s := if_pos hu
  unfold State.completeNext
  simp only [read, ite_self]
  rw [if_neg (by simp [hk]), hp]
  dsimp only
  rw [hc]
  exact if_neg fun h => by omega

/-- A close that has nothing left to complete, and for which no `post` holds, frees the channel and leaves its descriptor not valid. -/
theorem State.settleClose_ended {w : Nat} (hc : (s.chan ch).closing = some w) (hp : (s.chan ch).pkts = []) (hw : w ≤ (s.chan ch).tl)
    (he : (s.chan ch).mayEnd = true) (hh : s.claimHeld ch = []) (ho : (s.chan ch).owner = some (fn, i)) :
    (s.settleClose ch).chan ch = { Chan.reset with
      tl := (s.chan ch).tl, ridx := (s.chan ch).ridx, widx := (s.chan ch).widx, asid := (s.chan ch).asid
      pending := (s.chan ch).pending, faulted := (s.chan ch).faulted, wrote := (s.chan ch).wrote } ∧
    (s.settleClose ch).descValid fn i = false := by
  have ends : ((s.chan ch).pkts.isEmpty && decide (w ≤ (s.chan ch).tl) && (s.chan ch).mayEnd && (s.claimHeld ch).isEmpty) = true := by
    simp [hp, hw, he, hh]
  unfold State.settleClose
  dsimp only
  rw [hc]
  dsimp only
  rw [if_pos ends, ho]
  dsimp only
  refine ⟨State.chan_setChan_same .., ?_⟩
  rw [State.descValid, State.descWord_setDescWord_same]
  simp

/-- Where nothing is left to complete and no `post` holds for its claim, the channel is free at once. -/
theorem execQueueAbort_free {w : Nat} {s1 : State} (ho : (s.chan ch).owner = some (fn, i)) (hp : (s.chan ch).pkts = [])
    (hc : (s.chan ch).closing = none) (hk : (s.chan ch).parked = none) (hh : s.claimHeld ch = [])
    (hr : (s.modChan ch (fun c => { c with closing := some c.ridx, unread := true, claims := [], aborted := true, pkts := [] })).feRead
      ch (s.chan ch).widx 8 = (.ok w, s1)) (hw : w ≤ (s.chan ch).tl) (hx : (s.chan ch).ridx ≤ (s.chan ch).tl) :
    ∃ t, execQueueAbort ch s = .next t ∧ (t.chan ch).owner = none ∧ t.descValid fn i = false ∧ (t.chan ch).tl = (s.chan ch).tl := by
  have moves : s.abortMoves ch = s := by
    unfold State.abortMoves
    rw [hp]
    rfl
  have begun : s.modChan ch Chan.abort = s.modChan ch (fun c => { c with
      closing := some c.ridx, unread := true, claims := [], aborted := true, pkts := [] }) :=
    congrArg (s.setChan ch) (Chan.abort_empty hp hc hk)
  have look := (State.looked_feRead ..).snd hr
  have chan : s1.chan ch =
      { s.chan ch with closing := some (s.chan ch).ridx, unread := true, claims := [], aborted := true, pkts := [] } := by
    rw [look.chan, State.chan_modChan, if_pos rfl]
  have read : s.abortRead ch = s1.modChan ch (fun c => { c with closing := some (max w c.ridx), unread := false }) := by
    rw [State.abortRead, moves, begun]
    refine State.closeRead_ok ?_ ?_
    · rw [State.chan_modChan, if_pos rfl]
    · rw [State.chan_modChan, if_pos rfl]
      exact hr
  have after : (s.abortRead ch).chan ch = { s.chan ch with
      closing := some (max w (s.chan ch).ridx), unread := false, claims := [], aborted := true, pkts := [] } := by
    rw [read, State.chan_modChan, if_pos rfl, chan]
  have held : (s.abortRead ch).claimHeld ch = [] := by
    rw [read]
    obtain ⟨_, _, _, _, rfl⟩ := look
    exact hh
  have reached : max w (s.chan ch).ridx ≤ ((s.abortRead ch).chan ch).tl := by
    rw [after]
    exact max_le hw hx
  obtain ⟨freed, invalid⟩ := State.settleClose_ended (fn := fn) (i := i) (by rw [after]) (by rw [after]) reached
    (by rw [after]; simp [Chan.mayEnd]) held (by rw [after]; exact ho)
  have once : (s.abortRead ch).completeAll ch (((s.abortRead ch).chan ch).closing.getD 0 - ((s.abortRead ch).chan ch).tl + 1) =
      (s.abortRead ch).settleClose ch := by
    have one : ((s.abortRead ch).chan ch).closing.getD 0 - ((s.abortRead ch).chan ch).tl = 0 := by
      rw [Nat.sub_eq_zero_iff_le]
      refine Nat.le_trans ?_ reached
      rw [after]
      exact Nat.le_refl _
    rw [one]
    exact State.completeNext_closed (by rw [after]; exact hk) (by rw [after]) (by rw [after]) (by rw [after]) reached
  refine ⟨_, execQueueAbort_owned ho, ?_⟩
  rw [once, State.settleClose_open (by rw [freed]; rfl), freed, after]
  exact ⟨rfl, invalid, rfl⟩

/-- An abort ends every packet with 0x07, but for a malformed one, one that has ended with 0x05, and a move in its retag. -/
theorem abortPkt_ends {p : Pkt} (hb : p.bad = false) (h5 : ¬(p.done = true ∧ p.code = 0x05))
    (hm : ¬((p.op = 0x07 ∨ p.op = 0x08) ∧ p.phase = 2 ∧ p.done = false)) :
    (abortPkt p).done = true ∧ (abortPkt p).code = 0x07 ∧ (abortPkt p).complete = true := by
  have bad : ¬(p.bad = true ∨ (p.done = true ∧ p.code = 0x05)) := by
    rw [hb]
    simpa using h5
  have ended : abortPkt p = { p with done := true, code := 0x07, acked := true, fault := none, retry := false } :=
    (if_neg bad).trans (if_neg hm)
  rw [ended]
  exact ⟨rfl, rfl, by simp [Pkt.complete]⟩

/-! ### Taking packets (R53, R54) -/

section
variable {s1 s2 : State} {w x : Nat} (hv : (s.chan ch).valid = true) (hk : (s.chan ch).parked = none) (hh : (s.chan ch).halted = false)
  (hw : s.feRead ch (s.chan ch).widx 8 = (.ok w, s1)) (hi : (s.chan ch).ridx < w)
  (hx : s1.feRead ch ((s.chan ch).slotVa (s.chan ch).ridx) 64 = (.ok x, s2))
  (hp : bitsOf ((toWords x 8).getD 0 0) 14 1 = (s.chan ch).parity (s.chan ch).ridx)
include hv hk hh hw hi hx hp

/-- The front-end of an open channel finds the slot's words, and whether their CRC matches. -/
theorem State.frontEnd_found : s.frontEnd ch =
    (some (toWords x 8, decide (bitsOf ((toWords x 8).getD 7 0) 32 32 = (pktCrc (toWords x 8)).toNat)), s2) := by
  unfold State.frontEnd
  dsimp only
  rw [if_neg (by simp [hv, hk, hh]), hw]
  dsimp only
  rw [if_neg (by omega), hx]
  exact if_neg (not_not.2 hp)

theorem execTakePacket_crc (hc : bitsOf ((toWords x 8).getD 7 0) 32 32 = (pktCrc (toWords x 8)).toNat) :
    execTakePacket ch s = .next (s2.takeIndex ch (toWords x 8) false) := by
  unfold execTakePacket
  rw [State.frontEnd_found hv hk hh hw hi hx hp, decide_eq_true hc]

theorem execTakePacket_noCrc (hc : bitsOf ((toWords x 8).getD 7 0) 32 32 ≠ (pktCrc (toWords x 8)).toNat) :
    ∃ t, execTakePacket ch s = .next t ∧ (t.chan ch).matched = some ((s2.chan ch).matched.getD s2.now) ∧
      (t.chan ch).ridx = (s2.chan ch).ridx := by
  unfold execTakePacket
  rw [State.frontEnd_found hv hk hh hw hi hx hp, decide_eq_false hc]
  refine ⟨_, rfl, ?_⟩
  rw [State.chan_modChan, if_pos rfl]
  cases (s2.chan ch).matched <;> exact ⟨rfl, rfl⟩

theorem execPacketCrcTimeout_due {t : Nat} (hc : bitsOf ((toWords x 8).getD 7 0) 32 32 ≠ (pktCrc (toWords x 8)).toNat)
    (hm : (s2.chan ch).matched = some t) (ht : t + 100000 ≤ s2.now) :
    execPacketCrcTimeout ch s = .next (s2.takeIndex ch (toWords x 8) true) := by
  unfold execPacketCrcTimeout
  rw [State.frontEnd_found hv hk hh hw hi hx hp, decide_eq_false hc]
  dsimp only
  rw [hm]
  exact if_pos ht
end

/-! ### Completing the head packet (R62) -/

section
variable {p : Pkt} {rest : List Pkt} (hu : (s.chan ch).unread = false) (hk : (s.chan ch).parked = none)
  (hp : (s.chan ch).pkts = p :: rest)
include hu hk hp

/-- A head packet that has met every condition completes. -/
theorem State.completeNext_head (hc : p.complete = true) : s.completeNext ch = s.completeHead ch p := by
  have read : s.closeRead ch = s := if_pos hu
  unfold State.completeNext
  simp only [read, ite_self]
  rw [if_neg (by simp [hk]), hp]
  exact if_pos hc
end

theorem State.looked_countTotal (s : State) (asid ev k : Nat) : s.Looked (s.countTotal asid ev k) := by
  unfold State.countTotal
  dsimp only
  generalize s.profSlots asid ev = l
  generalize bitsOf (s.profWord asid 0) 6 42 * 64 = tot
  induction l generalizing s with
  | nil => exact .refl s
  | cons n l ih => exact (s.looked_write ..).trans (ih _)

/-- A malformed packet, or one that ends with 0x05, of no group only enters the timeline of an open channel. -/
theorem State.chan_completeHead_dead {p : Pkt} {s1 : State} (hd : p.bad = true ∨ p.code = 0x05) (hc : (s.chan ch).closing = none)
    (hg : p.group = none) (hw : s.feWrite ch ((s.chan ch).statVa p.n) (statusWord p.n p.op p.code) 8 = (.ok (), s1)) :
    ((s.completeHead ch p).chan ch).tl = p.n ∧
      ((s.completeHead ch p).chan ch).pkts = (s1.chan ch).pkts.filter (fun q => q.n ≠ p.n) := by
  have dead : (p.bad || decide (p.code = 0x05)) = true := by simpa using hd
  have status : s.writeStatus ch p.n p.op p.code = (true, s1) := by
    unfold State.writeStatus
    rw [hw]
  have look := (s.looked_feWrite ..).snd hw
  unfold State.completeHead
  dsimp only
  rw [dead, status, hg]
  dsimp only
  rw [if_neg (by simp), if_pos rfl, if_pos rfl]
  have left (u : State) : u.Looked ((u.dropPins ch p.n).countChan ch 0x0301 1) :=
    (u.looked_setCe ..).trans (State.looked_countTotal ..)
  rw [State.settleClose_open, (left _).chan, State.chan_modChan, if_pos rfl]
  · exact ⟨rfl, rfl⟩
  · rw [(left _).chan, State.chan_modChan, if_pos rfl, look.chan]
    exact hc
end

/-- Settles O50: by what each operation of a queue does where its hypotheses let it. -/
theorem queueEvents : Obligations.QueueEvents := by
  refine ⟨fun s fn i ch hv hd => ⟨fun ho hb h6 h16 rp wp sp s1 s2 s3 hr hw hs => ?_, fun h => ?_⟩, fun log j => ringInit_slot,
    fun s fn i ch hv hf hc => ?_, fun s ch fn i ho => ⟨execQueueAbort_owned ho, fun hp hc hk hh w s1 => execQueueAbort_free ho hp hc hk hh⟩,
    fun p => abortPkt_ends, fun s s1 s2 ch w x hv hk hh hw hi hx hp => ⟨fun hc => (execTakePacket_crc hv hk hh hw hi hx hp hc :), fun hc =>
      ⟨execTakePacket_noCrc hv hk hh hw hi hx hp hc, fun t hm ht => (execPacketCrcTimeout_due hv hk hh hw hi hx hp hc hm ht :)⟩⟩,
    fun s s1 ch p rest hu hk hp hc hw => ?_⟩
  · refine ⟨_, execQueueCreate_invalid hv, ?_⟩
    rw [State.createQueue_ok hd ho hb h6 h16 hr hw hs, State.descValid, State.descWord_setDescWord_same, State.chan_setDescWord,
      State.chan_setChan_same]
    exact ⟨rfl, rfl, rfl, rfl, rfl, rfl, rfl, rfl, rfl, rfl, rfl⟩
  · refine ⟨_, execQueueCreate_invalid hv, ?_⟩
    rw [State.createQueue_illegal hd h]
    refine ⟨rfl, ?_, ?_⟩
    · have valid : (s.descWord fn i 6).getLsbD 0 = false := hv
      rw [State.descValid, State.descErr, State.descWord_setDescWord_same, BitVec.getLsbD_or, valid]
      rfl
    · rw [State.descErr, State.descWord_setDescWord_same]
      simp
  · exact ⟨_, if_pos hv, State.closeQueue_spec hf hc⟩
  · have head : exec (.packetComplete ch) s = .next (s.completeHead ch p) := congrArg _ (State.completeNext_head hu hk hp hc)
    exact ⟨head, fun hd ho hg => ⟨_, head, State.chan_completeHead_dead hd ho hg hw⟩⟩

end Sys2Proof.Machine
end

section
/-! PROOFS. The scheduler: evaluation, wake, dispatch, gathering, pre-emption, launch groups (O49). -/

namespace Sys2Proof.Machine

/-! ### Evaluation and wake (R92, R99) -/

section
variable {s s' : State} {t : Nat} {x : Task}

/-- A record that does not run, and has no saved context, goes where its placement says: to another gear's partition by a move. -/
theorem State.reevaluate_placed {pl : Place} (ht : s.task t = some x) (hr : x.st ≠ .running) (hc : x.ctx = none)
    (hp : s.place x.r x.pdie x.hint = (.ok pl, s')) : s.reevaluate t =
      if x.late then s'.moveTask t { x with late := false } pl
      else if partGear pl.part = partGear x.part then s'.setTask t { x with adm := pl.adm, tier := pl.tier, pdie := pl.die }
      else s'.moveTask t x pl := by
  unfold State.reevaluate
  rw [ht]
  dsimp only
  rw [if_neg hr, hp]
  exact if_neg (by simp [hc])

/-- One whose KEY faults stays where it is. -/
theorem State.reevaluate_fault {f : Nat} (ht : s.task t = some x) (hr : x.st ≠ .running)
    (hp : s.place x.r x.pdie x.hint = (.error f, s')) : s.reevaluate t = s' := by
  unfold State.reevaluate
  rw [ht]
  dsimp only
  rw [if_neg hr, hp]

theorem execRecordWake_reached (ht : s.task t = some x) (hw : x.st = .waiting) (hr : reached (s.chan x.r.wch).tl x.r.wtgt = true) :
    execRecordWake t s = .next ((s.setTask t { x with
      st := .runnable, since := s.now, pause := s.now, order := s.nextOrder, acq := some (s.chan x.r.wch).tl }).reevaluate t) := by
  unfold execRecordWake
  rw [ht]
  exact if_pos ⟨hw, hr⟩

/-! ### Dispatch (R93, R106) -/

theorem execDispatch_pick {p g tid : Nat} {grp : List Nat} (hp : s.pick p g = (some (tid, x), s')) (hc : x.ctx = none)
    (hg : s.coresFor p g x = some grp) : execDispatch p g s = .next (s'.launchOn tid x grp) := by
  unfold execDispatch
  dsimp only
  rw [hp]
  dsimp only
  rw [if_neg (by simp [hc]), hg]

/-! ### Gathering and pre-emption (R109, R111) -/

theorem execGatherStart_oldest {p : Nat} {x : Nat × Task} (hg : (s.part p).gather = none) (hp : p < 32)
    (ho : oldest ((s.gatherers p).filter
      (fun t => t.2.eff s.now = (s.gatherers p).foldl (fun m t => max m (t.2.eff s.now)) 0)) = some x) :
    execGatherStart p s = .next (s.setPart p { s.part p with gather := some (x.1, s.now, false) }) := by
  unfold execGatherStart
  dsimp only
  rw [if_neg (by rw [hg]; simp; omega), ho]

theorem execGatherPreempt_marks {p tid a : Nat} (hg : (s.part p).gather = some (tid, a, false)) (ht : s.task tid = some x)
    (ha : a + 1000000 ≤ s.now) : ∃ u, execGatherPreempt p s = .next u ∧ (u.part p).gather = some (tid, a, true) := by
  unfold execGatherPreempt
  rw [hg]
  dsimp only
  rw [ht]
  dsimp only
  rw [if_neg (by simp; omega)]
  exact ⟨_, rfl, by rw [State.part_setPart, if_pos rfl]⟩

/-- A level-7 record that has had no idle core for 20 µs. -/
def State.level7Due (s : State) (p : Nat) : Prop :=
  ∃ t ∈ s.tasks, s.eligibleIn p t.1 t.2 = true ∧ t.2.eff s.now = 7 ∧
    ∃ at_, Tab.find (s.part p).full t.1 = some at_ ∧ at_ + 20000 ≤ s.now

theorem execLevel7Preempt_due {p g : Nat} (hd : s.level7Due p) (hi : ∀ c ∈ partCores p, s.idleCore c = false)
    (hr : s.runningIn p = [(g, x)]) : execLevel7Preempt p s = .next ((s.askSoft g).countPart x.r.asid 0x0503) := by
  obtain ⟨t, ht, eligible, level, at_, full, late⟩ := hd
  have busy : (partCores p).any s.idleCore = false := List.any_eq_false.2 fun c hc => by simp [hi c hc]
  unfold execLevel7Preempt
  dsimp only
  rw [if_pos, hr]
  · rfl
  · rw [busy, Bool.not_false, Bool.and_true, List.any_eq_true]
    refine ⟨t, ht, ?_⟩
    rw [eligible, full, level]
    simpa using late
end

/-! ### Launch groups (R100, R102) -/

theorem execTaskSlotGranted_waits {s : State} {ch : Nat} {p : Pkt}
    (h : (s.chan ch).pkts.find? (fun p => decide (p.op = 0x09) && p.group.isSome && !p.done && p.fault.isNone) = some p) :
    execTaskSlotGranted ch s = .next (s.launchMore ch p) := by
  unfold execTaskSlotGranted
  rw [h]

/-- A group with no work left completes once its word is written. -/
theorem execLaunchGroupComplete_done {s s' : State} {grp code : Nat} {g : Group} {p : Pkt} (hg : Tab.find s.grps grp = some g)
    (hb : s.groupBusy grp g = false) (hp : s.pkt g.ch g.n = some p) (ho : p.group = some grp) (hd : p.done = false)
    (hf : p.fault = none) (hw : s.groupWord g.ch p = (some code, s')) : execLaunchGroupComplete grp s =
      .next { s'.pktDone g.ch g.n code with grps := Tab.del (s'.pktDone g.ch g.n code).grps grp } := by
  unfold execLaunchGroupComplete
  rw [hg]
  dsimp only
  rw [if_neg (by simp [hb]), hp]
  dsimp only
  rw [if_neg (by simp [ho, hd]), if_neg (by simp [hf]), hw]

/-- A completion word in a window whose core runs no tandem ends the packet with 0x05 (R56). -/
theorem State.groupWord_gone {s : State} {ch : Nat} {p : Pkt} (h2 : p.w 2 ≠ 0) (hw : s.windowGone p 2 = true) :
    s.groupWord ch p = (some 0x05, s) := (if_neg h2).trans (if_pos hw)

/-- Settles O49: by what each event of the scheduler does where its hypotheses let it. -/
theorem schedulerEvents : Obligations.SchedulerEvents := by
  refine ⟨fun s s' t x ht hr hc => ⟨fun pl hp => congrArg _ (State.reevaluate_placed ht hr hc hp), fun f hp =>
      congrArg _ (State.reevaluate_fault ht hr hp)⟩, fun s t x => execRecordWake_reached, fun s s' p g tid t grp => execDispatch_pick,
    fun s p hg hp x => execGatherStart_oldest hg hp, fun s p tid a t => execGatherPreempt_marks, fun s p g x =>
      execLevel7Preempt_due, fun s ch p => execTaskSlotGranted_waits, fun s s' grp g p hg hb hp ho hd hf => ⟨fun code =>
        execLaunchGroupComplete_done hg hb hp ho hd hf, fun h2 hw =>
          execLaunchGroupComplete_done hg hb hp ho hd hf (State.groupWord_gone h2 hw)⟩⟩

end Sys2Proof.Machine
end

section
/-! PROOFS. Teardown, dump slots, held records, the debugger's detachment, address spaces, shutters (O57). -/

namespace Sys2Proof.Machine

/-! ### Teardown (R233, R236, R237) -/

section
variable {s : State} {asid pa : Nat}

/-- Once every continuation has stopped, and where the dump has its area, the teardown dumps, then releases cores and queues. -/
theorem execTeardown_begins (ht : s.inTeardown asid = true) (hn : s.torn.contains asid = false) (hs : s.allStopped asid = true)
    (hd : s.dumpArea pa (s.dumpBytes asid pa) = true) {v : State}
    (hv : ((s.writeDump asid pa []).1.releaseCores asid).releaseQueues asid = v) :
    execTeardown asid pa s = .next (({ v with torn := asid :: v.torn } : State).tearRest asid) := by
  subst hv
  unfold execTeardown
  rw [if_neg (by simp [ht]), if_neg (by simpa using hn), if_neg (by simp [hs, hd])]

/-- One that has released cores and queues goes on with the rest. -/
theorem execTeardown_continues (ht : s.inTeardown asid = true) (hn : s.torn.contains asid = true) :
    execTeardown asid pa s = .next (s.tearRest asid) := by
  unfold execTeardown
  rw [if_neg (by simp [ht]), if_pos hn]

/-- With no teardown under way it is a request for one. -/
theorem execTeardown_requests (ht : s.inTeardown asid = false) :
    execTeardown asid pa s = .next (if s.mayRequest asid then s.requestTeardown asid else s) := if_pos ht
end

/-! ### Release of held records (R105, R113, R239) -/

theorem Rec.held_unhold (r : Rec) : r.unhold.held = false := by
  rw [Rec.held, Rec.unhold, getLsbD_setBits 0 49 (by decide), if_pos (by decide), Nat.zero_testBit]

/-- No record of the ASID stays held, and the time for which one was held moves its `since`. -/
theorem execReleaseHeld_spec (asid : Nat) (s : State) : ∃ t, execReleaseHeld asid s = .next t ∧
    t = { s with tasks := t.tasks, cores := t.cores, pcores := t.pcores } ∧
    (∀ x ∈ t.tasks, x.2.r.asid = asid → x.2.r.held = false) ∧ t.tasks.length = s.tasks.length ∧
    (∀ x ∈ s.tasks, x.2.r.asid = asid → x.2.r.held = true → ∃ y ∈ t.tasks, y.1 = x.1 ∧
      y.2.since = x.2.since + (s.now - x.2.pause)) := by
  refine ⟨_, rfl, rfl, fun y hy ha => ?_, List.length_map _, fun x hx ha hh => ⟨_, List.mem_map_of_mem hx, ?_⟩⟩
  · obtain ⟨x, -, rfl⟩ := List.mem_map.1 hy
    by_cases held : x.2.r.asid = asid ∧ x.2.r.held = true
    · rw [if_pos held]
      exact Rec.held_unhold _
    · rw [if_neg held] at ha ⊢
      exact Bool.eq_false_iff.2 fun h => held ⟨ha, h⟩
  · rw [if_pos ⟨ha, hh⟩]
    exact ⟨rfl, rfl⟩

/-! ### Address spaces (R77) -/

theorem State.Looked.foldl {α : Type} {f : State → α → State} (hf : ∀ (s : State) (a : α), s.Looked (f s a)) (l : List α) (s : State) :
    s.Looked (l.foldl f s) := by
  induction l generalizing s with
  | nil => exact .refl s
  | cons a l ih => exact (hf s a).trans (ih _)

theorem State.Looked.live {s t : State} (h : s.Looked t) : t.live = s.live := by
  obtain ⟨_, _, _, _, rfl⟩ := h
  rfl

/-- A descriptor that firmware writes is memory alone. -/
theorem State.looked_writeDesc (s : State) (asid : Nat) (f : Nat → Nat) : s.Looked (s.writeDesc asid f) :=
  .foldl (fun s _ => s.looked_write ..) _ s

section
variable {s : State} {asid : Nat} {words : List Word}

theorem execAddressSpaceCreate_refused (hw : s.stage2Ok words = false) : execAddressSpaceCreate asid words s = .next s :=
  if_pos (.inr (.inr hw))

theorem execAddressSpaceCreate_live (ha : asid < 1024) (hl : asid ∉ s.live) (hw : s.stage2Ok words = true) :
    ∃ t, execAddressSpaceCreate asid words s = .next t ∧ t.live = asid :: s.live :=
  ⟨_, if_neg (by simp [hl, hw]; omega), congrArg _ (s.looked_writeDesc ..).live⟩

theorem execAddressSpaceDelete_live (hl : asid ∈ s.live) :
    ∃ t, execAddressSpaceDelete asid s = .next t ∧ t.live = s.live.filter (fun a => a ≠ asid) :=
  ⟨_, if_pos (by simpa using hl), congrArg _ (s.looked_writeDesc ..).live⟩
end

/-! ### The shutter's acknowledgement (R246) -/

theorem execShutterAck_finished {s : State} {g : Nat} (hs : (s.block g).shut = true) (ha : (s.block g).shack = false)
    (hp : ∀ c ∈ s.chans, c.2.priv c.1 = false → ∀ p ∈ c.2.pkts, p.done = false → g ∉ p.into) :
    execShutterAck g s = .next (s.modBlock g (fun b => { b with shack := true })) := by
  have finished : (s.chans.any (fun c => !c.2.priv c.1 && c.2.pkts.any (fun p => !p.done && p.into.contains g))) = false := by
    simpa using hp
  unfold execShutterAck
  dsimp only
  rw [if_neg (by simp only [hs, ha, finished]; decide)]

/-- Settles O57: by what a teardown does in each of its phases, and what each of the other events does where it acts. -/
theorem teardownAndSpaces : Obligations.TeardownAndSpaces := by
  intro s
  refine ⟨fun asid pa ht hn hs hd => execTeardown_begins ht hn hs hd rfl, fun asid pa ht hn hq => ?_, fun asid pa ht hn hq => ?_,
    fun asid pa => execTeardown_requests, fun asid => rfl, fun asid => execReleaseHeld_spec asid s, fun asid => rfl,
    fun asid words => execAddressSpaceCreate_refused, fun asid words => execAddressSpaceCreate_live,
    fun asid => execAddressSpaceDelete_live, fun g => execShutterAck_finished⟩
  · have waits : s.tearRest asid = s := if_neg (by simp [hq])
    exact (execTeardown_continues ht hn).trans (congrArg _ waits)
  · exact (execTeardown_continues ht hn).trans (congrArg _ (if_pos hq))

end Sys2Proof.Machine
end

section
/-! PROOFS. The loader: loading, publication and unloading of code objects (O60). -/

namespace Sys2Proof.Machine

/-! ### Loading (R261) -/

/-- Bytes that an image and its native bundles take of the address space, from the code address on. -/
def imgCode (x len : Nat) : Nat := (len + 4095) / 4096 * 4096 + ((sectsOf (imgSects x) 4).map Sect.len).sum

/-- What the loader chose fits: a legal place for each buffer, frames within the VM's quota, and code at a page (R118, R261). -/
abbrev State.loadFits (s : State) (asid x : Nat) (ps : List Placement) (cv : Nat) : Prop :=
  ps.length = imgBuffers x ∧ (∀ b ∈ imgBufs x (imgSects x) ps, s.placementOk asid x b.1 b.2 = true) ∧
    Tab.get 0 s.qused (s.vmOf asid) + imgFrames x (imgSects x) ≤ Tab.get 0xFFFFFFFF s.qlimit (s.vmOf asid) ∧ cv % 4096 = 0

/-- The record of a loaded object, none of whose bundles is published. -/
def loadedObj (x cv : Nat) (ps : List Placement) (bs : List Buf) : CodeObj :=
  ⟨imgEnts x (imgSects x) cv, bs, imgField x 0x0A 1, padNames x (imgSects x) 0, imgFrames x (imgSects x),
    (imgBufs x (imgSects x) ps).flatMap (bufCopies x), [], padNames x (imgSects x) 1, []⟩

/-- A state with an object registered: its handle, its frames, and its share of the VM's quota (R118, R261). -/
def State.register (t : State) (vm asid handle : Nat) (o : CodeObj) (fs : List (Nat × Nat)) : State :=
  { t with
    objs := Tab.put t.objs (objKey asid handle) o
    frames := t.frames ++ fs.map (fun q => (objKey asid handle, q))
    qused := Tab.put t.qused vm (Tab.get 0 t.qused vm + o.frames) }

/-- Loading of an image once every check of it and of the loader's choice has passed. -/
def State.loadFitting (s : State) (asid len handle x : Nat) (ps : List Placement) (st : Mapping) (tv cv : Nat) :
    Host.Outcome State Fault Refusal :=
  let l := imgSects x
  let bufs := imgBufs x l ps
  let va0 := cv + (len + 4095) / 4096 * 4096
  let s1 := s.storeAll st.stores
  let refuse := Host.Outcome.next (s.tell (.refused 0x06))
  match s1.objMapped asid x tv bufs with
  | none => .next s
  | some fs => match s1.loadAt asid cv x len with
    | none => refuse
    | some s2 => match s2.loadBufs asid x l tv 0 bufs with
      | none => refuse
      | some (s3, bs) => match s3.loadHasps asid x ps (hwOffs l) with
        | none => refuse
        | some s4 => .next (((s4.register (s.vmOf asid) asid handle (loadedObj x cv ps bs) fs).loadNative asid handle x va0 st.caches va0
            (sectsOf l 4)).tell (.handle asid handle))

section
variable {s : State} {asid image len handle x : Nat} {ps : List Placement} {st : Mapping} {tv cv : Nat}
  (hr : (s.vaRead 0 asid image len).1 = .ok x)
include hr

/-- An image that fails a check is refused with that check's code. -/
theorem execLoadCodeObject_illegal {c : Nat} (hc : imgRefused x len = some c) :
    execLoadCodeObject asid image len handle ps st tv cv s = .next (s.tell (.refused c)) := by
  unfold execLoadCodeObject
  dsimp only
  rw [hr]
  dsimp only
  rw [hc]

/-- For an image that passes its own checks, those of the loader's choice come in this order. -/
theorem execLoadCodeObject_legal (hi : imgRefused x len = none) : execLoadCodeObject asid image len handle ps st tv cv s =
    if s.noHandle asid then .next (s.tell (.refused 0x07))
    else if ps.any (fun p => decide (p.plc = some 3)) then .next (s.tell (.refused 0x01))
    else if handle = 0 ∨ 2 ^ 20 ≤ handle ∨ (s.obj asid handle).isSome ∨ s.codeFree asid cv (imgCode x len) = false then .next s
    else if ps.length ≠ imgBuffers x ∨ (imgBufs x (imgSects x) ps).all (fun b => s.placementOk asid x b.1 b.2) = false ∨
        Tab.get 0xFFFFFFFF s.qlimit (s.vmOf asid) < Tab.get 0 s.qused (s.vmOf asid) + imgFrames x (imgSects x) ∨ cv % 4096 ≠ 0 then
      .next (s.tell (.refused 0x06))
    else s.loadFitting asid len handle x ps st tv cv := by
  unfold execLoadCodeObject
  dsimp only
  rw [hr]
  dsimp only
  rw [hi]
  rfl

variable (hi : imgRefused x len = none)
include hi

theorem execLoadCodeObject_noHandle (hn : s.noHandle asid = true) :
    execLoadCodeObject asid image len handle ps st tv cv s = .next (s.tell (.refused 0x07)) :=
  (execLoadCodeObject_legal hr hi).trans (if_pos hn)

variable (hn : s.noHandle asid = false)
include hn

theorem execLoadCodeObject_reserved (hp : ∃ p ∈ ps, p.plc = some 3) :
    execLoadCodeObject asid image len handle ps st tv cv s = .next (s.tell (.refused 0x01)) := by
  rw [execLoadCodeObject_legal hr hi, if_neg (by simp [hn]), if_pos (by simpa using hp)]

variable (hp : ∀ p ∈ ps, p.plc ≠ some 3)
include hp

theorem execLoadCodeObject_noCode (hc : s.codeFree asid cv (imgCode x len) = false) :
    execLoadCodeObject asid image len handle ps st tv cv s = .next s := by
  rw [execLoadCodeObject_legal hr hi, if_neg (by simp [hn]), if_neg (by simpa using hp), if_pos (.inr (.inr (.inr hc)))]

variable (h0 : handle ≠ 0) (h20 : handle < 2 ^ 20) (ho : s.obj asid handle = none) (hc : s.codeFree asid cv (imgCode x len) = true)
include h0 h20 ho hc

/-- With a handle that is free, and room for the code, what is left to check is whether the choice fits. -/
theorem execLoadCodeObject_placed : execLoadCodeObject asid image len handle ps st tv cv s =
    if s.loadFits asid x ps cv then s.loadFitting asid len handle x ps st tv cv else .next (s.tell (.refused 0x06)) := by
  have assignable : ¬(handle = 0 ∨ 2 ^ 20 ≤ handle ∨ (s.obj asid handle).isSome ∨ s.codeFree asid cv (imgCode x len) = false) := by
    simp only [h0, Nat.not_le.2 h20, ho, hc, Option.isSome_none, Bool.false_eq_true, Bool.true_eq_false, or_self, not_false_eq_true]
  have fits : s.loadFits asid x ps cv ↔ ¬(ps.length ≠ imgBuffers x ∨
      (imgBufs x (imgSects x) ps).all (fun b => s.placementOk asid x b.1 b.2) = false ∨
      Tab.get 0xFFFFFFFF s.qlimit (s.vmOf asid) < Tab.get 0 s.qused (s.vmOf asid) + imgFrames x (imgSects x) ∨ cv % 4096 ≠ 0) := by
    simp only [State.loadFits, not_or, not_not, Bool.not_eq_false, not_lt, List.all_eq_true]
  rw [execLoadCodeObject_legal hr hi, if_neg (by simp [hn]), if_neg (by simpa using hp), if_neg assignable]
  by_cases h : s.loadFits asid x ps cv
  · rw [if_pos h, if_neg (fits.1 h)]
  · rw [if_neg h, if_pos (not_not.1 fun k => h (fits.2 k))]
end

section
variable {s : State} {asid len handle x : Nat} {ps : List Placement} {st : Mapping} {tv cv : Nat}

theorem State.loadFitting_unmapped (hm : (s.storeAll st.stores).objMapped asid x tv (imgBufs x (imgSects x) ps) = none) :
    s.loadFitting asid len handle x ps st tv cv = .next s := by
  unfold State.loadFitting
  dsimp only
  rw [hm]

/-- A mapped object whose image, buffers and hasps are written is registered, and its native sections are published. -/
theorem State.loadFitting_mapped {fs : List (Nat × Nat)} {bs : List Buf} {s2 s3 s4 : State}
    (hm : (s.storeAll st.stores).objMapped asid x tv (imgBufs x (imgSects x) ps) = some fs)
    (hl : (s.storeAll st.stores).loadAt asid cv x len = some s2)
    (hb : s2.loadBufs asid x (imgSects x) tv 0 (imgBufs x (imgSects x) ps) = some (s3, bs))
    (hh : s3.loadHasps asid x ps (hwOffs (imgSects x)) = some s4) : s.loadFitting asid len handle x ps st tv cv =
      .next (((s4.register (s.vmOf asid) asid handle (loadedObj x cv ps bs) fs).loadNative asid handle x (cv + (len + 4095) / 4096 * 4096)
        st.caches (cv + (len + 4095) / 4096 * 4096) (sectsOf (imgSects x) 4)).tell (.handle asid handle)) := by
  unfold State.loadFitting
  dsimp only
  rw [hm]
  dsimp only
  rw [hl]
  dsimp only
  rw [hb]
  dsimp only
  rw [hh]
end

/-! ### Publication (R262, R263) -/

/-- A translation at a legal address is publishable for an entry that is neither published on the die nor given up there, where bundles
may lie, and where it is one. -/
theorem State.canPublish_iff {s : State} {d asid va : Nat} {o : CodeObj} {e : Entry} {b : Translation} (hd : d < 4)
    (hp : Tab.find e.pub d = none) (ha : va % 32 = 0) (hv : va + 32 * b.words.length < 2 ^ 48) (hw : b.words ≠ [])
    (ht : e.tried.contains d = false) : s.canPublish d asid o e va b = true ↔
      o.clear d va (32 * b.words.length) = true ∧ s.vaClear d asid va (32 * b.words.length) o = true ∧ recsOk b e.list = true ∧
      marksOk b e.list = true ∧ Config.translates e.list (s.die d).step.toNat b = true := by
  simp only [State.canPublish, hd, hp, ha, hv, ht, ne_eq, hw, not_false_eq_true, and_self, decide_true, Option.isNone_none, Bool.not_false,
    Bool.true_and, Bool.and_eq_true, and_assoc]

theorem execBundlePublish_entry {s : State} {d asid handle ent va : Nat} {b : Translation} {o : CodeObj} {e : Entry}
    (ho : s.obj asid handle = some o) (he : o.ents[ent]? = some e) : execBundlePublish d asid handle ent va b s =
      .next (if s.canPublish d asid o e va b = true ∧ s.publishFirst d asid handle ent = false then
        (if s.cacheRoom d asid va b.pa (32 * b.words.length) o = true then
          (s.publishAt d asid handle ent va b.pa b.words b.marks (some b.recs)).published' d asid handle ent
        else if s.cacheFull d asid va (32 * b.words.length) o = true then s.giveUp d asid handle ent else s)
      else s) := by
  unfold execBundlePublish
  rw [ho]
  dsimp only
  rw [he]
  dsimp only
  by_cases h : s.canPublish d asid o e va b = true ∧ s.publishFirst d asid handle ent = false
  · rw [if_pos h, if_neg (by simp [h])]
    split
    · rfl
    · split <;> rfl
  · rw [if_neg h, if_pos (by simpa [imp_iff_not_or] using h)]

/-! ### Unloading (R118, R261) -/

section
variable {s : State} {asid handle : Nat} {o : CodeObj} (ho : s.obj asid handle = some o)
include ho

theorem execUnloadCodeObject_named (ht : ∃ t ∈ s.tasks, t.2.r.asid = asid ∧ t.2.r.code = handle) :
    execUnloadCodeObject asid handle s = .next s := by
  unfold execUnloadCodeObject
  rw [ho]
  exact if_pos (by simpa using ht)

/-- One that no record names goes, and the frames that it holds return to the VM's quota; its bundles leave the dies. -/
theorem execUnloadCodeObject_unnamed (ht : ∀ t ∈ s.tasks, ¬(t.2.r.asid = asid ∧ t.2.r.code = handle)) :
    ∃ t, execUnloadCodeObject asid handle s = .next t ∧ t.objs = Tab.del s.objs (objKey asid handle) ∧
      t.frames = s.frames.filter (fun f => decide (f.1 ≠ objKey asid handle)) ∧
      Tab.get 0 t.qused (s.vmOf asid) = Tab.get 0 s.qused (s.vmOf asid) -
        ((s.frames.filter (fun f => decide (f.1 = objKey asid handle))).map (fun f => f.2.2 / 4096)).sum := by
  have drop : s.Looked ((List.range 4).foldl (fun s d => s.setDie d { s.die d with
      bcache := (s.die d).bcache.filter (fun c => !o.pages.contains c.1)
      marks := (s.die d).marks.filter (fun m => !o.pages.contains (m.1 / 8 / 4096 * 4096)) }) s) :=
    .foldl (fun s d => s.looked_setDie ..) _ s
  obtain ⟨_, _, _, _, dropped⟩ := drop
  unfold execUnloadCodeObject
  rw [ho]
  dsimp only
  rw [if_neg (by simpa using ht), dropped]
  exact ⟨_, rfl, rfl, rfl, by rw [Tab.get_put, if_pos rfl]⟩
end

/-- Settles O60: by the loader's checks in their order, the registration of what passes them, and the conditions of publication and
unloading. -/
theorem loaderEvents : Obligations.LoaderEvents := by
  refine ⟨fun s asid image len handle x ps st tv cv hr => ⟨fun c => execLoadCodeObject_illegal hr, execLoadCodeObject_noHandle hr,
    execLoadCodeObject_reserved hr, fun hi hn hp h0 h20 ho => ⟨execLoadCodeObject_noCode hr hi hn hp, fun hc => ?_⟩⟩,
    fun s d asid handle ent va o e b ho he hd hp ha hv hw ht => ?_,
    fun s asid handle o ho => ⟨execUnloadCodeObject_named ho, execUnloadCodeObject_unnamed ho⟩⟩
  · have placed := execLoadCodeObject_placed (st := st) (tv := tv) hr hi hn hp h0 h20 ho hc
    refine ⟨fun hf => placed.trans (if_neg hf), fun hf hm => (placed.trans (if_pos hf)).trans (State.loadFitting_unmapped hm),
      fun hf fs s2 s3 s4 bs hm hl hb hh => ⟨_, loadedObj x cv ps bs, (placed.trans (if_pos hf)).trans
        (State.loadFitting_mapped hm hl hb hh), rfl, rfl, rfl, rfl, rfl, rfl, rfl⟩⟩
  · rw [exec_bundlePublish, execBundlePublish_entry ho he]
    simp only [State.canPublish_iff hd hp ha hv hw ht, and_assoc]

end Sys2Proof.Machine
end

section
/-! PROOFS. Asynchronous causes, breakpoints, the stop of a gear S or M core, hand-over, resumption (O48). -/

namespace Sys2Proof.Machine

/-- Updates that keep a part of every core keep it on the cores of a list. -/
theorem State.coreC_modAll_keeps {α : Type} {f : CoreC → CoreC} {part : CoreC → α} (hf : ∀ c, part (f c) = part c) (l : List Nat)
    (s : State) (g : Nat) : part ((s.modAll f l).coreC g) = part (s.coreC g) := by
  induction l generalizing s with
  | nil => rfl
  | cons m l ih =>
    rw [State.modAll, ih, State.coreC_modC]
    split
    next h => rw [hf, h]
    · rfl

section
variable {s : State} {g : Nat}

/-! ### Watchdog, deadline, requests (R126, R229, R230) -/

theorem execWatchdog_eq (s : State) (g : Nat) : execWatchdog g s = .next
    (if s.runOf g = .running ∧ bitsOf (s.limitOf (s.asidOf g)) 32 16 ≠ 0 ∧
      (if isGearC g then (s.coreC (s.leader g)).issAt else (s.coreP g).issAt) + 1000000 * bitsOf (s.limitOf (s.asidOf g)) 32 16 ≤ s.now
    then s.asyncStop g 0x22 0 else s) := (apply_ite _ _ _ _).symm

/-- A request older than its deadline stops the core, unless a honouring point has been reached. -/
theorem execPreemptionDeadline_due {t : Nat} (ht : (if isGearC g then (s.coreC g).soft else (s.coreP g).soft) = some t)
    (hr : s.runOf g = .running)
    (hd : t + 1000 * (if bitsOf (s.limitOf (s.asidOf g)) 0 20 = 0 then 200 else bitsOf (s.limitOf (s.asidOf g)) 0 20) ≤ s.now) :
    execPreemptionDeadline g s = .next (if s.honouring g then s else s.asyncStop g 0x30 0) := by
  unfold execPreemptionDeadline
  dsimp only
  rw [ht]
  dsimp only
  cases hh : s.honouring g with
  | true => exact if_neg (by simp)
  | false => exact if_pos ⟨hr, hd, rfl⟩

theorem execShiftRequest_due {tid : Nat} {x : Task} (ht : s.taskOf g = some tid) (hx : s.task tid = some x)
    (hr : s.runOf g = .running) (ha : x.asked = true) (hw : s.wouldShift g = true) : execShiftRequest g s =
      .next (((s.setTask tid { x with asked := false }).askShift g).countPart (s.asidOf g) 0x0502) := by
  unfold execShiftRequest
  dsimp only
  rw [ht, Option.getD_some, hx]
  dsimp only
  rw [if_pos ⟨hr, ha⟩, if_pos hw]

/-! ### Soft errors (R228) -/

/-- A cause of a running core alone stops it. -/
theorem State.causeOn_running (hr : s.runOf g = .running) (code detail : Nat) : s.causeOn g code detail = s.ownStop g code detail := by
  unfold State.causeOn
  rw [hr]

/-- Register files, latches and snapshots, and the queue of an SAE: the core takes the cause at once. -/
theorem execSramError_own {k idx : Nat} (hk : k = 3 ∨ (k = 7 ∧ g < 2 ^ 16)) (hr : s.runOf g = .running) :
    execSramError k idx g false s = .next (s.ownStop g 0x21 ((k <<< 40) + idx % 2 ^ 40)) := by
  obtain rfl | ⟨rfl, hg⟩ := hk
  · exact congrArg _ (State.causeOn_running hr ..)
  · exact (if_pos hg).trans (congrArg _ (State.causeOn_running hr ..))

/-- Scratchpads, accumulators and count planes: the word waits for what meets it. -/
theorem execSramError_waits {k idx : Nat} (hk : k = 1 ∨ k = 2 ∨ k = 4) :
    execSramError k idx g false s = .next (s.putBad k g idx) := by
  obtain rfl | rfl | rfl := hk <;> rfl

/-- The access that meets the one bad word stops the core whose structure it lies in. -/
theorem State.meetBad_own {b : BadWord} {who : Option Nat} {hit : BadWord → Bool} (hb : s.bad = [b]) (hm : b.met = none)
    (hh : hit b = true) (hc : b.code ≠ 2) (hr : s.runOf b.unit = .running) : s.meetBad who hit =
      ({ s with bad := [{ b with met := some s.now }] } : State).ownStop b.unit 0x21 ((b.code <<< 40) + b.idx % 2 ^ 40) := by
  have met : s.badMet hit = [b] := by simp [State.badMet, hb, hm, hh]
  have running : ({ s with bad := [{ b with met := some s.now }] } : State).runOf b.unit = .running := hr
  have kept : (s.bad.filter (fun b => b.met.isNone || decide (b.met = some s.now))).map
      (fun b => if hit b then { b with met := some s.now } else b) = [{ b with met := some s.now }] := by simp [hb, hm, hh]
  unfold State.meetBad
  rw [met]
  dsimp only
  rw [kept, List.foldl_cons, List.foldl_nil, if_neg hc]
  exact State.causeOn_running running ..

/-! ### Breakpoints (R244) -/

/-- The stop of a breakpoint of a gear C core is the bundle's that was about to issue. -/
theorem execBreakpoint_stops {idx : Nat} (hg : isGearC g = true) (hb : s.breakpointDue g = some (idx, false)) :
    ∃ t, execBreakpoint g s = .next t ∧ ((s.coreC (s.leader g)).stop = none → ∃ r, (t.coreC (s.leader g)).stop = some r ∧
      r.idx = idx ∧ r.cause = causeWord false 0 0x0C 0) := by
  unfold execBreakpoint
  rw [hb]
  dsimp only
  rw [if_pos hg, if_neg Bool.false_ne_true]
  refine ⟨_, rfl, fun free => ⟨⟨idx, (s.coreC (s.leader g)).addrOf idx, causeWord false 0 0x0C 0, none, none⟩, ?_, rfl, rfl⟩⟩
  unfold State.requestStop
  dsimp only
  rw [State.coreC_modC, if_pos rfl, State.coreC_modAll_keeps (part := CoreC.stop) fun c => by split <;> rfl, State.coreC_modC,
    if_pos rfl, free]

theorem execBreakpoint_portable (hg : isGearC g = false) (hb : s.breakpointDue g = some (0, false)) :
    execBreakpoint g s = .next (s.trapP g 0x0C 0) := by
  unfold execBreakpoint
  rw [hb]
  dsimp only
  rw [if_neg (by simp [hg]), if_neg Bool.false_ne_true]

/-! ### Stop, hand-over, resumption (R129, R173, R174, R234) -/

theorem execStop_portable {x : Word × Option Word} {w : Word} {also : Option Word} (hg : isGearC g = false) (hx : (s.coreP g).stop = some x)
    (hw : s.breakBesideP g x = (w, also)) (hr : (s.coreP g).run = .running) (hm : (s.coreP g).mayStop = true) : execStop g s =
      .next (((s.modP g (fun c => { c with
        run := .stopped, stop := none, hold := none, again := c.hold.isSome, cause := w, arrived := false, step1 := false
        stall := s.now - c.issAt })).dispose g w also).idleBlocks [g]) := by
  unfold execStop
  dsimp only
  rw [if_neg (by simp [hg]), hx]
  dsimp only
  rw [if_neg (by simp [hr, hm]), hw]

theorem execHandOver_portable {l i : Nat} (hg : isGearC g = false) (hb : s.boundary g = some (l, i)) :
    execHandOver g s = .next (s.finishCont g (.hand l i)) := by
  unfold execHandOver
  dsimp only
  rw [if_pos hg, hb]

theorem execHandOver_native {m : EndMode} (hg : isGearC g = true) (hm : s.endsNow (s.leader g) = some m) : execHandOver g s =
    .next ((s.finishCont (s.leader g) m).endWithCause (s.asidOf (s.leader g)) (s.leader g) (s.coreC (s.leader g))) := by
  unfold execHandOver
  dsimp only
  rw [if_neg (by simp [hg]), hm]

theorem execResume_pick {p tid : Nat} {t : Task} {x : Ctx} {grp : List Nat} {s' : State} (hp : s.pick p g = (some (tid, t), s'))
    (hx : t.ctx = some x) (hg : s.coresFor p g t = some grp) : execResume p g s = .next (s'.resumeOn tid t x grp) := by
  unfold execResume
  dsimp only
  rw [hp]
  dsimp only
  rw [hx]
  dsimp only
  rw [hg]
end

/-- Settles O48: by what each of the events does where its hypotheses let it. -/
theorem stopEvents : Obligations.StopEvents := by
  intro s g
  refine ⟨execWatchdog_eq s g, fun t => execPreemptionDeadline_due, fun hr => if_pos hr, fun tid x => execShiftRequest_due,
    fun k idx => execSramError_own, fun k idx => execSramError_waits, fun b who hit => State.meetBad_own,
    fun idx => execBreakpoint_stops, execBreakpoint_portable, fun hd => if_pos hd,
    fun hg x w also hx hw => execStop_portable hg hx hw, fun hg l i => execHandOver_portable hg,
    fun hg m => execHandOver_native hg, fun p tid t x grp s' => execResume_pick⟩

end Sys2Proof.Machine
end

section
/-! PROOFS. PROMOTE and DEMOTE, SEND, the peer ports (O53). -/

namespace Sys2Proof.Machine

/-! ### What an evaluation of records changes (R97, R99, R126) -/

/-- From `s` to `t` nothing changes but what translation changes, the records and their partitions. -/
def State.Placed (s t : State) : Prop :=
  ∃ c d m f r q, t = { s with ces := c, dies := d, mem := m, fresh := f, tasks := r, parts := q }

theorem State.Looked.placed {s t : State} (h : s.Looked t) : s.Placed t := by
  obtain ⟨_, _, _, _, rfl⟩ := h
  exact ⟨_, _, _, _, _, _, rfl⟩

theorem State.Placed.refl (s : State) : s.Placed s := ⟨_, _, _, _, _, _, rfl⟩

theorem State.Placed.trans {s t u : State} (h : s.Placed t) (k : t.Placed u) : s.Placed u := by
  obtain ⟨_, _, _, _, _, _, rfl⟩ := h
  obtain ⟨_, _, _, _, _, _, rfl⟩ := k
  exact ⟨_, _, _, _, _, _, rfl⟩

theorem State.Placed.foldl {α : Type} {f : State → α → State} (hf : ∀ (s : State) (a : α), s.Placed (f s a)) (l : List α) (s : State) :
    s.Placed (l.foldl f s) := by
  induction l generalizing s with
  | nil => exact .refl s
  | cons a l ih => exact (hf s a).trans (ih _)

section
variable {s t : State} (h : s.Placed t)
include h

theorem State.Placed.pkt (ch n : Nat) : t.pkt ch n = s.pkt ch n := by
  obtain ⟨_, _, _, _, _, _, rfl⟩ := h
  rfl
theorem State.Placed.qused : t.qused = s.qused := by
  obtain ⟨_, _, _, _, _, _, rfl⟩ := h
  rfl
end

section
variable (s : State)

theorem State.looked_xlate (d asid va : Nat) (acc : Acc) : s.Looked (s.xlate d asid va acc).2 := by
  have walk := (s.looked_setDie d { s.die d with descs := Tab.put (s.die d).descs asid (s.readDesc d asid) }).trans
    (State.looked_walk _ d asid (s.readDesc d asid) va acc)
  unfold State.xlate
  split
  next h => exact walk.snd h
  next h =>
    split
    next h' => exact (walk.snd h).trans (State.looked_setPte _ h')
    · exact walk.snd h

theorem State.looked_place (r : Rec) (d0 hint : Nat) : s.Looked (s.place r d0 hint).2 := by
  unfold State.place
  dsimp only
  split
  · exact .refl s
  · split <;> exact (s.looked_xlate ..).snd ‹_›

theorem State.placed_setTask (t : Nat) (x : Task) : s.Placed (s.setTask t x) := ⟨_, _, _, _, _, _, rfl⟩

theorem State.placed_cleanDeficit (p asid : Nat) : s.Placed (s.cleanDeficit p asid) := by
  unfold State.cleanDeficit
  split
  · exact .refl s
  · exact ⟨_, _, _, _, _, _, rfl⟩

theorem State.placed_moveTask (t : Nat) (x : Task) (pl : Place) : s.Placed (s.moveTask t x pl) := by
  unfold State.moveTask
  split
  · exact s.placed_setTask ..
  · split
    · exact s.placed_setTask ..
    · exact (s.placed_setTask ..).trans (State.placed_cleanDeficit ..)

theorem State.placed_reevaluate (t : Nat) : s.Placed (s.reevaluate t) := by
  unfold State.reevaluate
  split
  · exact .refl s
  · split
    · exact .refl s
    · split
      next h => exact ((s.looked_place ..).snd h).placed
      next h =>
        have place := ((s.looked_place ..).snd h).placed
        split
        · exact place.trans (State.placed_setTask ..)
        · split
          · exact place.trans (State.placed_moveTask ..)
          · split
            · exact place.trans (State.placed_setTask ..)
            · exact place.trans (State.placed_moveTask ..)

theorem State.placed_tierChanged (t : Nat) (x : Task) : s.Placed (s.tierChanged t x) := by
  unfold State.tierChanged
  split
  · split <;> exact ((s.looked_place ..).snd ‹_›).placed.trans (State.placed_setTask ..)
  · exact s.placed_reevaluate t

theorem State.placed_segChanged (asid : Nat) (g : SegRef) : s.Placed (s.segChanged asid g) :=
  .foldl (fun s t => by
    split
    · exact s.placed_tierChanged ..
    · exact .refl s) _ s
end

/-! ### The frame of a move (R117, R119, R120, R123) -/

section
variable {s : State} {ch n : Nat} {p : Pkt} (h : s.pkt ch n = some p)
include h

theorem State.pkt_n : p.n = n := by simpa using List.find?_some h

theorem State.pkt_pktDone (code : Nat) : (s.pktDone ch n code).pkt ch n = some { p with done := true, code := code } :=
  (s.pkt_modPkt ch n (f := fun p => { p with done := true, code := code }) fun _ => rfl).trans (congrArg _ h)
end

section
variable {s : State} {ch tier : Nat} {p : Pkt} {g : SegRef} (hg : s.moveSeg p = some g)
include hg

/-- A move that has started marks its segment, where no other has. -/
theorem State.moveFrame_marks (h1 : p.phase = 1) (hm : (s.segWord g).getLsbD 61 = false) (go : State → SegRef → State) :
    s.moveFrame ch p tier go = (s.setSeg (engOf ch / 8) g (setBits (s.segWord g) 61 1 1)).modPkt ch p.n (fun q => { q with phase := 3 }) := by
  unfold State.moveFrame
  rw [hg]
  dsimp only
  rw [h1, if_neg (by decide), if_neg (by decide), hm, if_neg Bool.false_ne_true]

/-- One whose segment is in the tier asked for has nothing more to do. -/
theorem State.moveFrame_there (h3 : p.phase = 3) (ht : bitsOf (s.segWord g) 62 2 = tier) (go : State → SegRef → State) :
    s.moveFrame ch p tier go = (s.setSeg (engOf ch / 8) g (setBits (s.segWord g) 61 1 0)).pktDone ch p.n 0 := by
  unfold State.moveFrame
  rw [hg]
  dsimp only
  rw [h3, if_neg (by decide), if_pos rfl, if_pos ht]

theorem State.moveFrame_moves (h3 : p.phase = 3) (ht : bitsOf (s.segWord g) 62 2 ≠ tier) (go : State → SegRef → State) :
    s.moveFrame ch p tier go = go (s.loadDesc (engOf ch / 8) p.asid) g := by
  unfold State.moveFrame
  rw [hg]
  dsimp only
  rw [h3, if_neg (by decide), if_pos rfl, if_neg ht]

theorem State.moveFrame_ends (h2 : p.phase = 2) (go : State → SegRef → State) :
    s.moveFrame ch p tier go = s.moveEnd ch p g tier := by
  unfold State.moveFrame
  rw [hg]
  exact if_pos h2
end

/-! ### The end of a move (R86, R118, R119, R120) -/

section
variable (s : State) (ch tier : Nat) (p : Pkt) (g : SegRef)

/-- The map word has its new tier once no packet holds an old translation. -/
def State.moved : State :=
  (s.shotDone p.asid g.va g.n).setSeg (engOf ch / 8) g (segMoved ((s.shotDone p.asid g.va g.n).segWord g) tier)

theorem State.looked_moved : s.Looked (s.moved ch tier p g) :=
  .trans (t := s.shotDone p.asid g.va g.n) ⟨_, _, _, _, rfl⟩ (State.looked_devWrite ..)

variable {s ch p g}

theorem State.moveEnd_pending (hp : s.shotPending p.asid g.va g.n = true) : s.moveEnd ch p g tier = s := if_pos hp

theorem State.moveEnd_promoted (hp : s.shotPending p.asid g.va g.n = false) :
    s.moveEnd ch p g 0 = ((s.moved ch 0 p g).segChanged p.asid g).pktDone ch p.n p.code := if_neg (by simp [hp])

/-- The pages of a demoted segment are off its VM's quota, and its frames free. -/
def State.framesReturned (s : State) (ch : Nat) (p : Pkt) (g : SegRef) : State :=
  let vm := descVm (s.readDesc (engOf ch / 8) p.asid)
  { s with
    qused := Tab.put s.qused vm (Tab.get 0 s.qused vm - g.n / 4096)
    frames := s.frames.filter (fun f => !(decide (f.1 = g.key) && p.list.contains (f.2.1 : Int))) }

theorem State.moveEnd_demoted (hp : s.shotPending p.asid g.va g.n = false) : s.moveEnd ch p g 1 =
    (((s.moved ch 1 p g).framesReturned ch p g).segChanged p.asid g).pktDone ch p.n p.code := if_neg (by simp [hp])

theorem State.pkt_moveEnd_demoted {n : Nat} (hp : s.shotPending p.asid g.va g.n = false) (hn : s.pkt ch n = some p) :
    (s.moveEnd ch p g 1).pkt ch n = some { p with done := true } := by
  have kept : (((s.moved ch 1 p g).framesReturned ch p g).segChanged p.asid g).pkt ch n = some p :=
    ((State.placed_segChanged ..).pkt ch n).trans (((s.looked_moved ch 1 p g).placed.pkt ch n).trans hn)
  obtain rfl := State.pkt_n hn
  rw [State.moveEnd_demoted hp]
  exact State.pkt_pktDone kept p.code

theorem State.qused_moveEnd_demoted (hp : s.shotPending p.asid g.va g.n = false) :
    Tab.get 0 (s.moveEnd ch p g 1).qused (descVm ((s.moved ch 1 p g).readDesc (engOf ch / 8) p.asid)) =
      Tab.get 0 s.qused (descVm ((s.moved ch 1 p g).readDesc (engOf ch / 8) p.asid)) - g.n / 4096 := by
  have used : (s.moveEnd ch p g 1).qused = ((s.moved ch 1 p g).framesReturned ch p g).qused := by
    rw [State.moveEnd_demoted hp]
    exact (State.placed_segChanged ..).qused
  rw [used, ← (s.looked_moved ch 1 p g).placed.qused]
  exact (Tab.get_put ..).trans (if_pos rfl)
end

/-! ### PROMOTE (R118, R119) -/

/-- The segment's pages would exceed the quota of its VM. -/
def State.quotaFull (s : State) (ch : Nat) (p : Pkt) (g : SegRef) : Prop :=
  let vm := descVm (s.readDesc (engOf ch / 8) p.asid)
  Tab.get 0xFFFFFFFF s.qlimit vm < Tab.get 0 s.qused vm + g.n / 4096

/-- The segment's pages count towards the quota of its VM, and the frames belong to its object. -/
def State.framesTaken (s : State) (ch : Nat) (p : Pkt) (g : SegRef) (ps : List (Nat × Nat)) : State :=
  let vm := descVm (s.readDesc (engOf ch / 8) p.asid)
  { s with qused := Tab.put s.qused vm (Tab.get 0 s.qused vm + g.n / 4096), frames := s.frames ++ ps.map (fun q => (g.key, q)) }

section
variable {s : State} {ch n : Nat} {p : Pkt} {g : SegRef} {fr : List Nat} (hr : s.runsPkt ch n 0x07 p) (hg : s.moveSeg p = some g)

section
include hr

/-- A PROMOTE that has started acts by the frame of a move. -/
theorem execPromote_frame {t : State} (h : ∀ go, s.moveFrame ch p 0 go = t) : execPromote ch n fr s = .next t :=
  (State.onPkt_runs hr _).trans (congrArg _ (h _))
end

section
variable {u : State} (hu : s.loadDesc (engOf ch / 8) p.asid = u) (h3 : p.phase = 3) (ht : bitsOf (s.segWord g) 62 2 ≠ 0)
include hr hg hu h3 ht

/-- A full quota, or a reservation that is refused, ends it with 0x02. -/
theorem execPromote_refused (hf : u.quotaFull ch p g ∨ (fr = [] ∧ u.reservable (engOf ch / 8) p.asid g = false)) :
    execPromote ch n fr s = .next ((u.setSeg (engOf ch / 8) g (segFailed (u.segWord g) 0x02)).pktDone ch p.n 0x02) := by
  unfold execPromote
  rw [State.onPkt_runs hr, State.moveFrame_moves hg h3 ht, hu]
  refine congrArg _ ?_
  obtain full | ⟨none, refused⟩ := hf
  · exact if_pos full
  · exact ite_eq_left_iff.2 fun _ => (if_pos none).trans (if_neg (Bool.eq_false_iff.1 refused))

/-- With room, frames, readable flash and leaves that walk, the segment is copied and its leaves retagged. -/
theorem execPromote_copies {ps : List (Nat × Nat)} {ls : List (Nat × Nat × Word)} {v : State} (hf : ¬u.quotaFull ch p g)
    (hfr : fr ≠ []) (hp : u.framePieces (engOf ch / 8) p.asid g fr = some ps)
    (hl : u.flashFails [(locFlash (u.segFlash g), g.n)] = false) (hs : u.segLeaves (engOf ch / 8) p.asid g = .ok ls)
    (hv : u.framesTaken ch p g ps = v) : execPromote ch n fr s =
      .next (((v.countRow ch [] ps g.n).pieceWrite (engOf ch / 8) (v.read (locFlash (u.segFlash g)) g.n) ps).retag ch p g ls 0 g.plc
        (pageFrame g fr) []) := by
  unfold execPromote
  rw [State.onPkt_runs hr, State.moveFrame_moves hg h3 ht, hu, ← hv]
  refine congrArg _ ((if_neg hf).trans ((if_neg hfr).trans ?_))
  rw [hp]
  refine (if_neg (by rw [hl]; exact Bool.false_ne_true)).trans ?_
  rw [hs]
  rfl
end
end

/-! ### DEMOTE (R120) -/

section
variable {s : State} {ch n : Nat} {p : Pkt} {g : SegRef} (hr : s.runsPkt ch n 0x08 p) (hg : s.moveSeg p = some g)

section
include hr

/-- A DEMOTE that has started acts by the frame of a move. -/
theorem execDemote_frame {t : State} (h : ∀ go, s.moveFrame ch p 1 go = t) : execDemote ch n s = .next t :=
  (State.onPkt_runs hr _).trans (congrArg _ (h _))
end

section
variable {u : State} {ls : List (Nat × Nat × Word)} (hu : s.loadDesc (engOf ch / 8) p.asid = u) (h3 : p.phase = 3)
  (ht : bitsOf (s.segWord g) 62 2 ≠ 1) (hs : u.segLeaves (engOf ch / 8) p.asid g = .ok ls)
include hr hg hu h3 ht hs

/-- A fault of what is read to be written back parks it. -/
theorem execDemote_faults {f : Nat} (hl : u.leavesLocs (engOf ch / 8) p.asid (leafStep g.page) (u.readDesc (engOf ch / 8) p.asid)
    (dirtyLeaves g ls) = .error f) : execDemote ch n s = .next (u.pktFault ch p.n f) := by
  unfold execDemote
  rw [State.onPkt_runs hr, State.moveFrame_moves hg h3 ht, hu]
  dsimp only
  rw [hs]
  dsimp only
  rw [hl]

/-- Else the dirty pages are written back and the leaves retagged. -/
theorem execDemote_writes {ps : List (Nat × Nat × Nat)} (hl : u.leavesLocs (engOf ch / 8) p.asid (leafStep g.page)
    (u.readDesc (engOf ch / 8) p.asid) (dirtyLeaves g ls) = .ok ps) : execDemote ch n s = .next
      ((((u.evictPieces (engOf ch / 8) ps).countRow ch (ps.map Prod.snd) [] (ps.map (fun q => q.2.2)).sum).writeBackFlash
        (engOf ch / 8) g.va (u.segFlash g) ps).retag ch p g ls 1 0 (fun va => u.segFlash g + (va - g.va))
          (u.hostFrames (engOf ch / 8) p.asid g.page ls)) := by
  unfold execDemote
  rw [State.onPkt_runs hr, State.moveFrame_moves hg h3 ht, hu]
  dsimp only
  rw [hs]
  dsimp only
  rw [hl]
end
end

/-! ### SEND (R57, R62, R64) -/

section
variable {s : State} {ch n : Nat} {p : Pkt}

theorem execSend_runs (hr : s.runsPkt ch n 0x06 p) :
    execSend ch n s = .next (s.rowsFrom ch p (fun s r => s.sendRow ch p r)) := State.onPkt_runs hr _

section
variable (hw : s.waitsAck ch n = some p)
include hw

theorem execSendAcknowledged_done (ha : ∀ x ∈ (s.port (bitsOf (p.w 2) 48 4)).sends, x.2 ≠ (ch, n)) :
    execSendAcknowledged ch n s = .next ((s.modPkt ch n (fun q => { q with acked := true })).landPort (bitsOf (p.w 2) 48 4)) := by
  have none : ¬(s.port (bitsOf (p.w 2) 48 4)).sends.any (fun x => decide (x.2 = (ch, n))) = true := by
    rw [List.any_eq_true]
    rintro ⟨x, hx, e⟩
    exact ha x hx (of_decide_eq_true e)
  unfold execSendAcknowledged
  rw [hw]
  exact if_neg none

/-- After 10 ms the SEND is given up with 0x03: it waits for no flit, and no row of it lands. -/
theorem execSendAckTimeout_due {i : Nat} (hi : bitsOf (p.w 2) 48 4 = i) (ha : ∃ x ∈ (s.port i).sends, x.2 = (ch, n))
    (ht : p.sent.getD 0 + 10000000 ≤ s.now) : execSendAckTimeout ch n s = .next ((((s.setPort i { s.port i with
        sends := (s.port i).sends.filter (fun x => x.2 ≠ (ch, n))
        wire := (s.port i).wire.filter (fun x => x.owner ≠ some (ch, n)) }).modPkt ch n
          (fun q => { q with code := if q.code = 0 then 0x03 else q.code, acked := true })).note 3 i).landPort i) := by
  have waits : (s.port i).sends.any (fun x => decide (x.2 = (ch, n))) = true := by simpa using ha
  unfold execSendAckTimeout
  rw [hw]
  dsimp only
  rw [hi, if_neg (by rw [waits]; simp; omega)]
end
end

/-! ### Flits (R26 to R28, R246) -/

section
variable {s : State} {i : Nat} {hdr : Word} {pl : List Byte} {good : Bool} {q : Port} {v : State} (hi : i < 16)
  (hl : (s.port i).lanes ≠ 0) (hq : (s.port i).take hdr pl (good && decide (pl.length = 232)) s.now = q)
  (hv : (s.setPort i { q with inbox := (s.port i).inbox }).landPort i = v)
include hi hl hq hv

/-- What a flit completes is performed behind the requests that wait, and what is not performed stays with the port. -/
theorem execFlitReceive_eq : execFlitReceive i hdr pl good s =
    let new := q.inbox.drop (s.port i).inbox.length
    let r := if (s.port i).waits then (v, new) else v.performAll i new
    .next (r.1.setPort i ({ r.1.port i with inbox := (r.1.port i).inbox ++ r.2 } : Port).ack) := by
  subst hq hv
  exact if_neg (by omega)

theorem execFlitReceive_none (hn : q.inbox = (s.port i).inbox) : execFlitReceive i hdr pl good s = .next (v.setPort i (v.port i).ack) := by
  rw [execFlitReceive_eq hi hl hq hv, hn, List.drop_length]
  dsimp only
  rw [State.performAll, ite_self, List.append_nil]

section
variable {key : Nat} {l : List Byte} (hk : key < 65536) (hn : q.inbox = (s.port i).inbox ++ [(key, l)])
include hk hn

theorem execFlitReceive_performs (hw : (s.port i).waits = false) (hs : v.shutMsg l = false) :
    execFlitReceive i hdr pl good s = .next ((v.perform i key l).setPort i ((v.perform i key l).port i).ack) := by
  rw [execFlitReceive_eq hi hl hq hv, hn, List.drop_left, hw]
  dsimp only
  rw [if_neg Bool.false_ne_true, State.performAll, if_neg (by omega), hs, if_neg Bool.false_ne_true, State.performAll, List.append_nil]

theorem execFlitReceive_keeps (hw : (s.port i).waits = true ∨ v.shutMsg l = true) : execFlitReceive i hdr pl good s =
    .next (v.setPort i ({ v.port i with inbox := (v.port i).inbox ++ [(key, l)] } : Port).ack) := by
  have clamped : (if (s.port i).waits then (v, [(key, l)]) else v.performAll i [(key, l)]) = (v, [(key, l)]) := by
    split
    · rfl
    next h =>
      rw [State.performAll, if_neg (by omega), if_pos (hw.resolve_left h)]
  rw [execFlitReceive_eq hi hl hq hv, hn, List.drop_left]
  dsimp only
  rw [clamped]
end
end

/-! ### Replay and retraining (R27, R29) -/

theorem State.Looked.port {s t : State} (h : s.Looked t) (i : Nat) : t.port i = s.port i := by
  obtain ⟨_, _, _, _, rfl⟩ := h
  rfl

theorem State.looked_extend (s : State) (d r : Nat) (image : List Byte) : s.Looked (s.extend d r image) := by
  unfold State.extend
  split
  · exact .refl s
  · exact s.looked_setDie ..

/-- A step of the journal leaves the ports. -/
theorem State.port_journalStep (s : State) (st i out meth j : Nat) : (s.journalStep st i out meth).port j = s.port j :=
  (State.Looked.foldl (fun s d => s.looked_extend d 5 _) (List.range 4) _).port j

theorem State.port_note (s : State) (what detail i : Nat) : (s.note what detail).port i = s.port i := rfl

section
variable {s : State} {i : Nat} (hl : (s.port i).lanes ≠ 0)
include hl

theorem execFlitReplay_due (hu : (s.port i).unack ≠ []) (hr : (s.port i).replay < 16) (ht : (s.port i).moved + 8000 ≤ s.now) :
    execFlitReplay i s = .next (s.setPort i { s.port i with replay := (s.port i).replay + 1, moved := s.now }) :=
  if_pos ⟨hl, hu, hr, ht⟩

theorem execPortRetrain_due (hr : 16 ≤ (s.port i).replay) (out : Nat) : ∃ t, execPortRetrain i out s = .next t ∧
    (t.port i).replay = 0 ∧ (t.port i).lanes = if out = 0 then 8 else if out < 3 then 4 else 0 := by
  refine ⟨_, if_pos ⟨hl, hr⟩, ?_⟩
  rw [State.port_note, State.port_journalStep, State.port_setPort, if_pos rfl]
  exact ⟨rfl, rfl⟩
end

/-- Settles O53: by what the frame of a move does in each of its phases, what a SEND and its acknowledgement do, and what a port does with
a flit. -/
theorem segmentsAndPeers : Obligations.SegmentsAndPeers := by
  refine ⟨fun s ch n p g fr hg => ⟨
      fun h1 hm => ⟨fun hr => execPromote_frame hr (State.moveFrame_marks hg h1 hm), fun hr =>
        execDemote_frame hr (State.moveFrame_marks hg h1 hm)⟩,
      fun h3 => ⟨fun hr ht => execPromote_frame hr (State.moveFrame_there hg h3 ht), fun hr ht =>
        execDemote_frame hr (State.moveFrame_there hg h3 ht), fun hr ht => execPromote_refused hr hg rfl h3 ht,
        fun hr ht hf hfr ps ls hp hl hs => execPromote_copies hr hg rfl h3 ht hf hfr hp hl hs rfl,
        fun hr ht ls hs => ⟨fun f => execDemote_faults hr hg rfl h3 ht hs, fun ps => execDemote_writes hr hg rfl h3 ht hs⟩⟩,
      fun h2 => ⟨fun hp => ?_, fun hp hr => ?_, fun hp hr => ?_⟩⟩,
    fun s ch n p hr h0 => (execSend_runs hr).trans (congrArg _ (State.rowsFrom_none h0)),
    fun s s' ch n p hr h0 hb hw hs => (execSend_runs hr).trans (congrArg _ (State.rowsFrom_go h0 hb hw hs)),
    fun s ch n p hw => ⟨execSendAcknowledged_done hw, execSendAckTimeout_due hw rfl⟩,
    fun s i hdr pl good hi hl => ⟨execFlitReceive_none hi hl rfl rfl, fun key l hk hn =>
      ⟨execFlitReceive_performs hi hl rfl rfl hk hn, execFlitReceive_keeps hi hl rfl rfl hk hn⟩⟩,
    fun s i hl => ⟨execFlitReplay_due hl, execPortRetrain_due hl⟩⟩
  · have waits (tier : Nat) (go : State → SegRef → State) : s.moveFrame ch p tier go = s :=
      (State.moveFrame_ends hg h2 go).trans (State.moveEnd_pending tier hp)
    exact ⟨fun hr => execPromote_frame hr (waits 0), fun hr => execDemote_frame hr (waits 1)⟩
  · exact execPromote_frame hr fun go => (State.moveFrame_ends hg h2 go).trans (State.moveEnd_promoted hp)
  · exact ⟨_, execDemote_frame hr (State.moveFrame_ends hg h2), State.pkt_moveEnd_demoted hp hr.1, State.qused_moveEnd_demoted hp⟩

end Sys2Proof.Machine
end

section
/-! PROOFS. Every step keeps memory in its canonical form (O8).

Memory changes in two ways only: bytes are put, one after another (`memPut`, `memWrite`), or some are filtered away
(`Memory.wfFrom_filter`). Both keep the canonical form, and everything else is composition: one lemma for each function of the model that
hands on a state, in the order of the model's files, `State.MemOk.<f>` where the state itself comes out and `<f>_nextOk` where an outcome
does.
-/

namespace Sys2Proof.Machine

/-! ### Outcomes -/

/-- The state that an outcome hands on, if it hands one on, keeps memory in its canonical form. -/
def NextOk (o : Host.Outcome State Fault Refusal) : Prop := ∀ t, o = .next t → t.MemOk

theorem NextOk.next {t : State} (h : t.MemOk) : NextOk (.next t) := by
  rintro _ ⟨⟩
  exact h

theorem NextOk.fault {f : Fault} : NextOk (.fault f) := fun _ e => nomatch e

theorem NextOk.ite {c : Prop} [Decidable c] {a b : Host.Outcome State Fault Refusal} (ha : NextOk a) (hb : NextOk b) :
    NextOk (if c then a else b) := by
  split
  · exact ha
  · exact hb

/-- Every answer that there is has a property. -/
def Each {α : Type} (P : α → Prop) (x : Option α) : Prop := ∀ a, x = some a → P a

section
variable {α β : Type} {P : α → Prop} {Q : β → Prop}

theorem Each.none : Each P none := fun _ e => nomatch e

theorem Each.some {a : α} (h : P a) : Each P (some a) := by
  rintro _ ⟨⟩
  exact h

theorem Each.ite {c : Prop} [Decidable c] {x y : Option α} (hx : Each P x) (hy : Each P y) : Each P (if c then x else y) := by
  split
  · exact hx
  · exact hy

theorem Each.map {x : Option α} {f : α → β} (hx : Each P x) (hf : ∀ a, P a → Q (f a)) : Each Q (x.map f) := by
  cases x with
  | none => exact .none
  | some a => exact .some (hf a (hx a rfl))
end

theorem State.MemOk.ite {c : Prop} [Decidable c] {a b : State} (ha : a.MemOk) (hb : b.MemOk) : (if c then a else b).MemOk := by
  split
  · exact ha
  · exact hb

theorem State.MemOk.snd {α : Type} {p : α × State} {x : α} {t : State} (h : p.2.MemOk) (e : p = (x, t)) : t.MemOk := by
  rw [e] at h
  exact h

theorem State.MemOk.fst {α : Type} {p : State × α} {x : α} {t : State} (h : p.1.MemOk) (e : p = (t, x)) : t.MemOk := by
  rw [e] at h
  exact h

theorem State.MemOk.sndsnd {α β : Type} {p : α × β × State} {x : α} {y : β} {t : State} (h : p.2.2.MemOk) (e : p = (x, y, t)) :
    t.MemOk := by
  rw [e] at h
  exact h

section
variable {c : Prop} [Decidable c] {α β : Type}
theorem State.MemOk.iteSnd {p q : α × State} (hp : p.2.MemOk) (hq : q.2.MemOk) : (if c then p else q).2.MemOk := by
  split
  · exact hp
  · exact hq
theorem State.MemOk.iteFst {p q : State × α} (hp : p.1.MemOk) (hq : q.1.MemOk) : (if c then p else q).1.MemOk := by
  split
  · exact hp
  · exact hq
theorem State.MemOk.iteSndSnd {p q : α × β × State} (hp : p.2.2.MemOk) (hq : q.2.2.MemOk) : (if c then p else q).2.2.MemOk := by
  split
  · exact hp
  · exact hq
end

theorem State.MemOk.foldl {α : Type} {f : State → α → State} {l : List α} {s : State} (h : s.MemOk)
    (hf : ∀ s x, s.MemOk → (f s x).MemOk) : (l.foldl f s).MemOk := by
  induction l generalizing s with
  | nil => exact h
  | cons x l ih => exact ih (hf _ _ h)

theorem State.MemOk.foldlFst {α β : Type} {f : State × β → α → State × β} {l : List α} {p : State × β} (h : p.1.MemOk)
    (hf : ∀ q x, q.1.MemOk → (f q x).1.MemOk) : (l.foldl f p).1.MemOk := by
  induction l generalizing p with
  | nil => exact h
  | cons x l ih => exact ih (hf _ _ h)

theorem State.MemOk.write {s : State} {a x n : Nat} (h : s.MemOk) : (s.write a x n).MemOk := State.write_memOk a x n h

/-! ### The functions of the model -/

section
variable {s : State} {g d ch n asid lead : Nat}

/-! ### The reset state -/

theorem State.MemOk.reset : State.reset.MemOk := rfl

/-! ### The operations of the state -/

theorem State.MemOk.devWrite {pa x : Nat} (ok : s.MemOk) : (s.devWrite d pa x n).MemOk := ok.write.of_mem rfl

theorem State.MemOk.setC {c : CoreC} (ok : s.MemOk) : (s.setC g c).MemOk := ok.of_mem rfl

theorem State.MemOk.modC {f : CoreC → CoreC} (ok : s.MemOk) : (s.modC g f).MemOk := ok.setC

theorem State.MemOk.setP {c : CoreP} (ok : s.MemOk) : (s.setP g c).MemOk := ok.of_mem rfl

theorem State.MemOk.modP {f : CoreP → CoreP} (ok : s.MemOk) : (s.modP g f).MemOk := ok.setP

theorem State.MemOk.setDie {x : Die} (ok : s.MemOk) : (s.setDie d x).MemOk := ok.of_mem rfl

theorem State.MemOk.setCluster {c : Nat} {x : Cluster} (ok : s.MemOk) : (s.setCluster c x).MemOk := ok.of_mem rfl

theorem State.MemOk.setCe {e : Nat} {x : CopyEng} (ok : s.MemOk) : (s.setCe e x).MemOk := ok.of_mem rfl

theorem State.MemOk.modAll {f : CoreC → CoreC} {a : List Nat} (ok : s.MemOk) : (s.modAll f a).MemOk := by
  induction a generalizing s with
  | nil => exact ok
  | cons head tail ih => exact ih ok.modC

/-- Bytes put one after another keep the canonical form. -/
theorem foldl_memPut_wf {α : Type} (a : α → Nat) (b : α → Byte) (l : List α) {m : Memory} (h : m.wf = true) :
    (l.foldl (fun m x => memPut m (a x) (b x)) m).wf = true := by
  induction l generalizing m with
  | nil => exact h
  | cons x l ih => exact ih (memPut_wf _ _ h)

theorem State.MemOk.loseBytes {a : Nat} (ok : s.MemOk) : (s.loseBytes a n).MemOk := foldl_memPut_wf _ _ _ ok

theorem State.MemOk.losePad (ok : s.MemOk) : (s.losePad g).MemOk := ok.loseBytes

theorem State.MemOk.irq {fn vec : Nat} (ok : s.MemOk) : (s.irq fn vec).MemOk := .ite ok (ok.of_mem rfl)

theorem State.MemOk.countCore {ev k : Nat} (ok : s.MemOk) : (s.countCore g ev k).MemOk := .ite ok (.ite ok.modC ok.modP)

theorem State.MemOk.countTotal {ev k : Nat} (ok : s.MemOk) : (s.countTotal asid ev k).MemOk := ok.foldl fun _ _ ok => ok.write

theorem State.MemOk.requestStop {r : StopReq} (ok : s.MemOk) : (s.requestStop lead r).MemOk := by
  unfold State.requestStop
  refine .modC ?_
  split
  · exact ok.modC
  · exact ok

theorem State.MemOk.trapMove {slot : Nat} {bun : Bun} {code detail : Nat} (ok : s.MemOk) : (s.trapMove g slot bun code detail).MemOk :=
  ok.modC.requestStop

theorem State.MemOk.asyncStopC {code detail : Nat} (ok : s.MemOk) : (s.asyncStopC g code detail).MemOk := ok.requestStop

theorem State.MemOk.stopP {w : Word} (ok : s.MemOk) : (s.stopP g w).MemOk := ok.modP

theorem State.MemOk.trapP {code detail : Nat} (ok : s.MemOk) : (s.trapP g code detail).MemOk := ok.stopP

theorem State.MemOk.asyncStop {code detail : Nat} (ok : s.MemOk) : (s.asyncStop g code detail).MemOk := .ite ok.asyncStopC ok.stopP

theorem State.MemOk.ownStop {code detail : Nat} (ok : s.MemOk) : (s.ownStop g code detail).MemOk := .ite ok.requestStop ok.stopP

theorem State.MemOk.enter {e : List Word} (ok : s.MemOk) : (s.enter asid e).MemOk := ok.of_mem rfl

theorem State.MemOk.stopOthers {but : List Nat} (ok : s.MemOk) : (s.stopOthers asid but).MemOk :=
  ok.foldl fun _ _ ok => .ite ok ok.asyncStop

theorem State.MemOk.beginTeardown {e : List Word} (ok : s.MemOk) : (s.beginTeardown asid e).MemOk := .ite ok.enter.stopOthers ok.enter

theorem State.MemOk.causeOn {code detail : Nat} (ok : s.MemOk) : (s.causeOn g code detail).MemOk := by
  unfold State.causeOn
  split
  · exact ok.ownStop
  · exact .beginTeardown (.ite ok.modC ok.modP)
  · exact ok

theorem State.MemOk.meetBad {who : Option Nat} {hit : BadWord → Bool} (ok : s.MemOk) : (s.meetBad who hit).MemOk := by
  unfold State.meetBad
  split
  · exact ok
  · extract_lets _ s1
    have ok1 : s1.MemOk := ok.of_mem rfl
    refine ok1.foldl ?_
    intro s2 x1 ok2
    split
    · exact ok2.causeOn
    · exact ok2

theorem State.MemOk.meetMem {who : Option Nat} {ps : List (Nat × Nat)} (ok : s.MemOk) : (s.meetMem who ps).MemOk := ok.meetBad

theorem State.MemOk.meetAcc {rd : Nat → Bool} (ok : s.MemOk) : (s.meetAcc g rd).MemOk := ok.meetBad

theorem State.MemOk.traceRec {name : List Word} {kind cls : Nat} {data : Word} (ok : s.MemOk) :
    (s.traceRec d name kind cls asid data).MemOk :=
  .ite ok (.ite ok.setDie ok.devWrite.setDie)

theorem State.MemOk.used {b : Bool} (ok : s.MemOk) : (s.used b).MemOk := ok.of_mem rfl

theorem State.MemOk.evictTurn {a : Turn} (ok : s.MemOk) : (s.evictTurn a).MemOk := by
  unfold State.evictTurn
  split
  · exact .ite ok.modC ok.modP
  · exact ok.setDie
  · exact ok.setDie
  · split
    · exact .ite ok.setCe ok
    · exact ok
  · exact ok.setDie
  · exact ok

/-! ### Operands and results -/

theorem runMove_nextOk {unit : Nat} {gd : BitVec 3} {src : BitVec 10} {body : MoveCtx → State} (ok : s.MemOk)
    (hbody : ∀ x, (body x).MemOk) : NextOk (runMove unit gd src s body) := by
  unfold runMove
  refine .ite (.next ok) ?_
  split
  · exact .next ok.trapMove
  · exact .next (hbody _)

theorem State.MemOk.finish {x : MoveCtx} {lat : Nat} {k : BitVec 1} {a : VRes} (ok : s.MemOk) : (x.finish s lat k a).MemOk := by
  unfold MoveCtx.finish
  split
  · exact ok.modC
  · exact ok.trapMove

/-! ### Scratchpads (LS) -/

theorem State.MemOk.won {cl o src : Nat} (ok : s.MemOk) : (s.won cl o src).MemOk := ok.setCluster.foldl fun _ _ ok => ok.countCore

theorem State.MemOk.clusLine {src line : Nat} (ok : s.MemOk) : (s.clusLine g src line).2.MemOk := by
  unfold State.clusLine
  split
  · exact ok
  · exact ok.meetMem.won.modC

theorem State.MemOk.clusHalf {o : Nat} (ok : s.MemOk) : (s.clusHalf g o).2.MemOk := ok.clusLine

theorem State.MemOk.clusHalves {a : List Nat} (ok : s.MemOk) : (s.clusHalves g a).2.MemOk := by
  induction a generalizing s with
  | nil => exact ok
  | cons head tail ih => exact ih ok.clusHalf

theorem State.MemOk.arrive {i : Nat} (ok : s.MemOk) : (s.arrive asid i).MemOk := by
  unfold State.arrive
  split
  · exact ok
  · exact .ite ok.setDie ok

theorem State.MemOk.arriveAll {a : List Word} (ok : s.MemOk) : (s.arriveAll asid a).MemOk := by
  induction a generalizing s with
  | nil => exact ok
  | cons head tail ih => exact ih ok.arrive

theorem State.MemOk.settle (ok : s.MemOk) : (s.settle g).MemOk := ok.modC.arriveAll

theorem State.MemOk.drainLine (ok : s.MemOk) : (s.drainLine g).MemOk := by
  unfold State.drainLine
  split
  · exact ok
  · exact ok.meetMem.write.won.modC.settle

theorem State.MemOk.drainLines {a : Nat} (ok : s.MemOk) : (s.drainLines g a).MemOk := by
  induction a generalizing s with
  | zero => exact ok
  | succ n ih => exact ih ok.drainLine

theorem State.MemOk.drainAll (ok : s.MemOk) : (s.drainAll g).MemOk := ok.drainLines

theorem State.MemOk.lsStore {space o x : Nat} (ok : s.MemOk) : (s.lsStore g space o x n).MemOk := .ite ok.write ok.modAll

theorem State.MemOk.landBefore {clk : Nat} (ok : s.MemOk) : (s.landBefore g clk).MemOk :=
  (ok.foldl (fun _ _ ok => ok.write)).modC.foldl fun _ _ ok => ok.settle

theorem State.MemOk.finishWindow (ok : s.MemOk) : (s.finishWindow g).MemOk := ok.foldl fun _ _ ok => ok.landBefore

theorem State.MemOk.trap {x : MoveCtx} {t : Trap} (ok : s.MemOk) : (x.trap s t).MemOk := ok.trapMove

theorem lsMove_nextOk {gd : BitVec 3} {src : BitVec 10} {body : MoveCtx → State} (ok : s.MemOk) (hbody : ∀ x, (body x).MemOk) :
    NextOk (lsMove gd src s body) :=
  runMove_nextOk ok fun _ => hbody _

theorem lsLoad_nextOk {gd : BitVec 3} {src : BitVec 10} {k : BitVec 1} {tagOf : MoveCtx → Except Trap (BitVec 5)} (ok : s.MemOk) :
    NextOk (lsLoad gd src k s n tagOf) := by
  unfold lsLoad
  refine lsMove_nextOk ok ?_
  intro a
  split
  · exact ok.trap
  · split
    · exact ok.trap
    · exact ok.finish

theorem lsStoreMove_nextOk {gd : BitVec 3} {src : BitVec 10} (ok : s.MemOk) : NextOk (lsStoreMove gd src s n) := by
  unfold lsStoreMove
  refine lsMove_nextOk ok ?_
  intro a
  dsimp only
  split
  · exact ok.trap
  · exact ok.lsStore

theorem State.MemOk.scatter {space size : Nat} {v : TVal} {l : List (Nat × Nat)} (ok : s.MemOk) : (s.scatter g space size v l).MemOk :=
  ok.foldl fun _ _ ok => ok.lsStore

theorem State.MemOk.maskStore {space size o : Nat} {m v : TVal} (ok : s.MemOk) : (s.maskStore g space size o m v).MemOk :=
  ok.foldl fun _ _ ok => .ite ok.lsStore ok

theorem execLsVlds_nextOk {gd : BitVec 3} {src : BitVec 10} {k : BitVec 1} (ok : s.MemOk) : NextOk (execLsVlds gd src k s) := by
  unfold execLsVlds
  refine lsMove_nextOk ok ?_
  intro a
  split
  · exact ok.trap
  · exact ok.finish

theorem execLsVgat_nextOk {gd : BitVec 3} {src : BitVec 10} {k : BitVec 1} (ok : s.MemOk) : NextOk (execLsVgat gd src k s) := by
  unfold execLsVgat
  refine lsMove_nextOk ok ?_
  intro a
  dsimp only
  split
  · exact ok.trap
  · exact ok.finish

theorem execLsVsca_nextOk {gd : BitVec 3} {src : BitVec 10} {_k : BitVec 1} (ok : s.MemOk) : NextOk (execLsVsca gd src _k s) := by
  unfold execLsVsca
  refine lsMove_nextOk ok ?_
  intro a
  dsimp only
  split
  · exact ok.trap
  · exact ok.scatter

theorem execLsMst_nextOk {gd : BitVec 3} {src : BitVec 10} {_k : BitVec 1} (ok : s.MemOk) : NextOk (execLsMst gd src _k s) := by
  unfold execLsMst
  refine lsMove_nextOk ok ?_
  intro a
  dsimp only
  split
  · exact ok.trap
  · exact ok.maskStore

theorem execLsPld_nextOk {gd : BitVec 3} {src : BitVec 10} {k : BitVec 1} (ok : s.MemOk) : NextOk (execLsPld gd src k s) := by
  unfold execLsPld
  refine lsMove_nextOk ok fun a => .ite ok.trap ?_
  split
  · exact ok.trap
  · exact .ite ok.trap ok.finish

theorem State.MemOk.holdWith {x : MoveCtx} {op : HoldOp} {k : BitVec 1} {st : Nat} {val : Word} {img : List Word} (ok : s.MemOk) :
    (x.holdWith s op k st val img).MemOk :=
  ok.modC

theorem State.MemOk.hold {x : MoveCtx} {op : HoldOp} {k : BitVec 1} (ok : s.MemOk) : (x.hold s op k).MemOk := ok.holdWith

theorem State.MemOk.cldDone {slot idx : Nat} {ws : List Word} {k : Bool} (ok : s.MemOk) : (s.cldDone g slot idx ws k).MemOk := ok.modC

theorem State.MemOk.cldTake {i : Nat} {h : Hold} (ok : s.MemOk) : (s.cldTake g i h).2.MemOk := ok.clusLine

theorem State.MemOk.cldTakes {h : Hold} {a : List Nat} (ok : s.MemOk) : (s.cldTakes g h a).2.MemOk := by
  induction a generalizing s g h with
  | nil => exact ok
  | cons head tail ih => exact ih ok.cldTake

theorem execLsCld_nextOk {gd : BitVec 3} {src : BitVec 10} {k : BitVec 1} (ok : s.MemOk) : NextOk (execLsCld gd src k s) := by
  unfold execLsCld
  refine lsMove_nextOk ok ?_
  intro a
  split
  · exact ok.trap
  · split
    · exact ok.cldDone
    · exact ok.holdWith
    · exact ok.holdWith
    · exact ok.hold

theorem State.MemOk.cstPut {o : Nat} {v : TVal} (ok : s.MemOk) : (s.cstPut g o v).MemOk := ok.modC

theorem execLsCst_nextOk {gd : BitVec 3} {src : BitVec 10} {k : BitVec 1} (ok : s.MemOk) : NextOk (execLsCst gd src k s) := by
  unfold execLsCst
  refine lsMove_nextOk ok ?_
  intro a
  split
  · exact ok.trap
  · exact .ite ok.cstPut ok.hold

theorem State.MemOk.aldDone {slot idx : Nat} {d : Word} {k : Bool} (ok : s.MemOk) : (s.aldDone g slot idx d k).MemOk := ok.modC

theorem State.MemOk.astDone {d : Word} {v : TVal} (ok : s.MemOk) : (s.astDone g d v).MemOk := ok.modC

/-! ### Control moves (CT) -/

theorem State.MemOk.kwrite {w : Word} (ok : s.MemOk) : (s.kwrite g n w).MemOk := by
  unfold State.kwrite
  split
  · exact ok.modC
  · exact ok.modC
  · exact ok.modC
  · exact ok.modC
  · exact ok.modC
  · exact ok.modC
  · exact ok.modC
  · exact ok.modC
  · exact ok.modC
  · exact ok.modC
  · exact ok.setCe
  · exact ok.setCe
  · exact ok.setCe
  · exact ok.setCe
  · exact ok.setCe
  · exact ok

theorem ctMove_nextOk {gd : BitVec 3} {src : BitVec 10} {check : MoveCtx → Option Trap} {act : MoveCtx → State} (ok : s.MemOk)
    (hact : ∀ x, (act x).MemOk) : NextOk (ctMove gd src s check act) := by
  unfold ctMove
  refine runMove_nextOk ok ?_
  intro a
  split
  · exact ok.trap
  · exact hact _

theorem State.MemOk.ask {x : MoveCtx} {q : Ctl} (ok : s.MemOk) : (x.ask s q).MemOk := ok.modC

theorem State.MemOk.trapDone {x : MoveCtx} {code detail : Nat} (ok : s.MemOk) : (s.trapDone x code detail).MemOk := ok.requestStop

theorem ctBit_nextOk {gd : BitVec 3} {src : BitVec 10} {k : BitVec 1} {f : Bool → Bool → Bool} (ok : s.MemOk) :
    NextOk (ctBit gd src k s f) :=
  runMove_nextOk ok fun _ => ok.finish

/-! ### Translation and memory -/

theorem State.MemOk.devLine {line : Nat} (ok : s.MemOk) : (s.devLine d line).2.MemOk := by
  unfold State.devLine
  refine .iteSnd ok ?_
  split
  · exact ok
  · exact ok.setDie.used

theorem State.MemOk.devReadFuel {pa a : Nat} (ok : s.MemOk) : (s.devReadFuel d pa n a).2.MemOk := by
  induction a generalizing s d pa n with
  | zero => exact ok
  | succ n1 ih => exact .iteSnd ok (ih ok.devLine)

theorem State.MemOk.devRead {pa : Nat} (ok : s.MemOk) : (s.devRead d pa n).2.MemOk := ok.devReadFuel

theorem State.MemOk.loadDesc (ok : s.MemOk) : (s.loadDesc d asid).MemOk := ok.setDie

theorem State.MemOk.walkRead {vm pa : Nat} {keep : Word → Bool} (ok : s.MemOk) : (s.walkRead d vm asid pa keep).2.MemOk := by
  unfold State.walkRead
  split
  · exact ok
  · exact .ite ok.setDie.used ok

theorem State.MemOk.stage2 {desc : List Word} {gpa : Nat} (ok : s.MemOk) : (s.stage2 d asid desc gpa).2.MemOk :=
  .iteSnd ok (.iteSnd ok (.iteSnd ok.walkRead ok.walkRead))

theorem State.MemOk.walkLevels {desc : List Word} {va table : Nat} {a : List (Nat × Nat × Nat)} (ok : s.MemOk) :
    (s.walkLevels d asid desc va table a).2.MemOk := by
  induction a generalizing s d asid desc va table with
  | nil => exact ok
  | cons head tail ih =>
    unfold State.walkLevels
    split
    next e => exact ok.stage2.snd e
    next snd _ e =>
      have ok1 := ok.stage2.snd e
      exact .iteSnd ok1.walkRead (.iteSnd ok1.walkRead (.iteSnd (ih ok1.walkRead) ok1.walkRead))

theorem State.MemOk.frameOf {desc : List Word} {t : TlbEnt} {va : Nat} (ok : s.MemOk) : (s.frameOf d desc t va).2.2.MemOk := by
  unfold State.frameOf
  refine .iteSndSnd ok ?_
  split
  · exact ok
  · split
    next e1 => exact ok.stage2.snd e1
    next snd _ e1 => exact ok.stage2.snd e1

theorem State.MemOk.access {desc : List Word} {t : TlbEnt} {va : Nat} {acc : Acc} (ok : s.MemOk) :
    (s.access d desc t va acc).2.2.MemOk := by
  unfold State.access
  split
  next e => exact ok.frameOf.sndsnd e
  next e => split <;> exact ok.frameOf.sndsnd e

theorem State.MemOk.walk {desc : List Word} {va : Nat} {acc : Acc} (ok : s.MemOk) : (s.walk d asid desc va acc).2.MemOk := by
  unfold State.walk
  refine .iteSnd ok ?_
  split
  next e => exact ok.walkLevels.snd e
  next e1 =>
    have ok1 := ok.walkLevels.snd e1
    split
    next e2 => exact ok1.access.sndsnd e2
    next e2 => exact ok1.access.sndsnd e2

theorem State.MemOk.setPte {s u : State} {t y : TlbEnt} {bits : Word} (ok : s.MemOk) (e : s.setPte d t bits = some (y, u)) : u.MemOk := by
  have each : Each (fun r => r.2.MemOk) (s.setPte d t bits) := .ite (.some (.ite ok ok.devWrite)) .none
  exact each _ e

theorem State.MemOk.engDesc {e : Nat} (ok : s.MemOk) : (s.engDesc e asid).2.MemOk := by
  unfold State.engDesc
  split
  · exact ok
  · exact ok.setCe

theorem State.MemOk.keepEnt {e : Nat} {old t : TlbEnt} (ok : s.MemOk) : (s.keepEnt e old t).MemOk := ok.setCe

theorem State.MemOk.unhold {e : Nat} {old : TlbEnt} {who : Option (Nat × Nat)} (ok : s.MemOk) : (s.unhold e old who).MemOk := by
  unfold State.unhold
  split
  · exact ok
  · exact ok.keepEnt.setCe

theorem State.MemOk.putTlb {e : Nat} {t : TlbEnt} (ok : s.MemOk) : (s.putTlb e t).MemOk := by
  unfold State.putTlb
  extract_lets k old c t l
  refine .ite ok.setCe ?_
  split
  · exact ok.setCe.used
  · exact ok.setCe

theorem State.MemOk.miss {e : Nat} {desc : List Word} {va : Nat} {acc : Acc} {who : Option (Nat × Nat)} (ok : s.MemOk) :
    (s.miss e asid desc va acc who).2.MemOk := by
  unfold State.miss
  split
  next e1 => exact ok.walk.snd e1
  next e1 =>
    split
    next e2 => exact ((ok.walk.snd e1).setPte e2).putTlb
    · exact ok.walk.snd e1

theorem State.MemOk.serve {e : Nat} {desc : List Word} {t : TlbEnt} {va : Nat} {acc : Acc} {who : Option (Nat × Nat)} (ok : s.MemOk) :
    (s.serve e asid desc t va acc who).2.MemOk := by
  unfold State.serve
  refine .iteSnd ok ?_
  split
  next e1 => exact (ok.access.sndsnd e1).keepEnt
  next e1 =>
    have ok1 := ok.access.sndsnd e1
    refine .iteSnd ?_ ok1.keepEnt
    split
    next e2 => exact (ok1.setPte e2).keepEnt
    · exact ok1.unhold.miss

theorem State.MemOk.translate {e va : Nat} {acc : Acc} {who : Option (Nat × Nat)} (ok : s.MemOk) :
    (s.translate e asid va acc who).2.MemOk := by
  unfold State.translate
  extract_lets _
  split
  · exact .miss ok.engDesc
  · exact .iteSnd ok.engDesc (.serve ok.engDesc)

theorem State.MemOk.codeLoc {va : Nat} (ok : s.MemOk) : (s.codeLoc d asid va).2.MemOk := by
  unfold State.codeLoc
  split
  · exact ok
  · split
    next e1 => exact ok.loadDesc.walk.snd e1
    next e1 => exact ok.loadDesc.walk.snd e1

theorem State.MemOk.l2Line {line : Nat} (ok : s.MemOk) : (s.l2Line d asid line).2.MemOk := by
  unfold State.l2Line
  split
  · exact ok
  · split
    next e1 => exact ok.codeLoc.snd e1
    next e1 => exact (ok.codeLoc.snd e1).setDie

theorem State.MemOk.fetchCode {va : Nat} (ok : s.MemOk) : (s.fetchCode g va).2.MemOk := by
  unfold State.fetchCode
  split
  · dsimp only
    split
    · exact ok
    · split
      next e2 => exact ok.l2Line.snd e2
      next e2 => exact (ok.l2Line.snd e2).modC
  · dsimp only
    split
    · exact ok
    · split
      next e2 => exact ok.l2Line.snd e2
      next e2 => exact (ok.l2Line.snd e2).modC

theorem State.MemOk.fetchWord {va : Nat} (ok : s.MemOk) : (s.fetchWord g va).2.MemOk := by
  unfold State.fetchWord
  dsimp only
  split
  · exact ok
  · split
    next e1 => exact ok.l2Line.snd e1
    next e1 => exact (ok.l2Line.snd e1).modP

theorem State.MemOk.discardCode {va : Nat} (ok : s.MemOk) : (s.discardCode d asid va n).MemOk := ok.of_mem rfl

/-! ### The scheduler -/

theorem State.MemOk.setChan {c : Chan} (ok : s.MemOk) : (s.setChan ch c).MemOk := ok.of_mem rfl

theorem State.MemOk.modChan {f : Chan → Chan} (ok : s.MemOk) : (s.modChan ch f).MemOk := ok.setChan

theorem State.MemOk.xlate {va : Nat} {acc : Acc} (ok : s.MemOk) : (s.xlate d asid va acc).2.MemOk := by
  unfold State.xlate
  split
  next e => exact ok.loadDesc.walk.snd e
  next e =>
    have ok1 := ok.loadDesc.walk.snd e
    split
    next e1 => exact ok1.setPte e1
    · exact ok1

theorem State.MemOk.vaLocs {va : Nat} {acc : Acc} {a : Nat} (ok : s.MemOk) : (s.vaLocs d asid va n acc a).2.MemOk := by
  induction a generalizing s d asid va n acc with
  | zero => exact ok
  | succ n1 ih =>
    unfold State.vaLocs
    refine .iteSnd ok (.iteSnd ok ?_)
    split
    next e => exact ok.xlate.snd e
    next e =>
      dsimp only
      split
      next e1 => exact (ih (ok.xlate.snd e)).snd e1
      next e1 => exact (ih (ok.xlate.snd e)).snd e1

theorem State.MemOk.writeLocs {x : Nat} {a : List (Nat × Nat)} (ok : s.MemOk) : (s.writeLocs x a).MemOk := by
  induction a generalizing s x with
  | nil => exact ok
  | cons head tail ih => exact ih ok.write

theorem State.MemOk.pieceWrite {x : Nat} {a : List (Nat × Nat)} (ok : s.MemOk) : (s.pieceWrite d x a).MemOk := by
  induction a generalizing s d x with
  | nil => exact ok
  | cons head tail ih => exact ih (.ite ok.devWrite ok.write)

theorem State.MemOk.vaRead {va : Nat} (ok : s.MemOk) : (s.vaRead d asid va n).2.MemOk := by
  unfold State.vaRead
  split
  next e => exact ok.vaLocs.snd e
  next e => exact ok.vaLocs.snd e

theorem State.MemOk.vaWrite {va x : Nat} (ok : s.MemOk) : (s.vaWrite d asid va x n).2.MemOk := by
  unfold State.vaWrite
  split
  next e => exact ok.vaLocs.snd e
  next e => exact (ok.vaLocs.snd e).pieceWrite

theorem State.MemOk.place {r : Rec} {d0 hint : Nat} (ok : s.MemOk) : (s.place r d0 hint).2.MemOk := by
  unfold State.place
  refine .iteSnd ok ?_
  split
  next e => exact ok.xlate.snd e
  next e => exact ok.xlate.snd e

theorem State.MemOk.setTask {t : Nat} {x : Task} (ok : s.MemOk) : (s.setTask t x).MemOk := ok.of_mem rfl

theorem State.MemOk.delTask {t : Nat} (ok : s.MemOk) : (s.delTask t).MemOk := ok.of_mem rfl

theorem State.MemOk.setPart {p : Nat} {x : Part} (ok : s.MemOk) : (s.setPart p x).MemOk := ok.of_mem rfl

theorem State.MemOk.insertTask {r : Rec} {pl : Place} {grp hint : Nat} {res : Bool} (ok : s.MemOk) :
    (s.insertTask r pl grp hint res).MemOk :=
  ok.of_mem rfl

theorem State.MemOk.cleanDeficit {p : Nat} (ok : s.MemOk) : (s.cleanDeficit p asid).MemOk := .ite ok ok.setPart

theorem State.MemOk.removeTask {t : Nat} (ok : s.MemOk) : (s.removeTask t).MemOk := by
  unfold State.removeTask
  split
  · exact ok
  · exact ok.delTask.cleanDeficit

theorem State.MemOk.moveTask {t : Nat} {x : Task} {pl : Place} (ok : s.MemOk) : (s.moveTask t x pl).MemOk := by
  unfold State.moveTask
  refine .ite ok.setTask ?_
  split
  · exact ok.setTask
  · exact ok.setTask.cleanDeficit

theorem State.MemOk.reevaluate {t : Nat} (ok : s.MemOk) : (s.reevaluate t).MemOk := by
  unfold State.reevaluate
  split
  · exact ok
  · refine .ite ok ?_
    split
    next e1 => exact ok.place.snd e1
    next e1 =>
      have ok1 := ok.place.snd e1
      exact .ite ok1.setTask (.ite ok1.moveTask (.ite ok1.setTask ok1.moveTask))

theorem execRecordWake_nextOk {t : Nat} (ok : s.MemOk) : NextOk (execRecordWake t s) := by
  unfold execRecordWake
  split
  · exact .next ok
  · exact .ite (.next ok.setTask.reevaluate) (.next ok)

theorem State.MemOk.pick {p : Nat} (ok : s.MemOk) : (s.pick p g).2.MemOk := by
  unfold State.pick
  extract_lets _ _ _ _ _ _ _ s1
  have ok1 : s1.MemOk := ok.setPart
  split
  · exact ok
  · exact ok1

theorem State.MemOk.endGather {p : Nat} (ok : s.MemOk) : (s.endGather p).MemOk := by
  unfold State.endGather
  split
  · exact ok
  · split
    · exact .ite ok ok.setPart
    · exact ok.setPart

theorem State.MemOk.settlePart {p : Nat} (ok : s.MemOk) : (s.settlePart p).MemOk := ok.endGather.setPart

theorem State.MemOk.settleParts (ok : s.MemOk) : s.settleParts.MemOk := ok.foldl fun _ _ ok => ok.settlePart

theorem State.MemOk.charge {t members : Nat} (ok : s.MemOk) : (s.charge t members).MemOk := by
  unfold State.charge
  split
  · exact ok
  · exact ok.setPart

theorem State.MemOk.askSoft (ok : s.MemOk) : (s.askSoft g).MemOk := ok.foldl fun _ _ ok => .ite ok.modC ok.modP

theorem State.MemOk.askShift (ok : s.MemOk) : (s.askShift g).MemOk := ok.foldl fun _ _ ok => .ite ok.modC ok.modP

theorem State.MemOk.countPart {ev : Nat} (ok : s.MemOk) : (s.countPart asid ev).MemOk := ok.countTotal

theorem State.MemOk.tierChanged {t : Nat} {x : Task} (ok : s.MemOk) : (s.tierChanged t x).MemOk := by
  unfold State.tierChanged
  refine .ite ?_ ok.reevaluate
  split
  next e => exact (ok.place.snd e).setTask
  next e => exact (ok.place.snd e).setTask

theorem execShiftRequest_nextOk (ok : s.MemOk) : NextOk (execShiftRequest g s) := by
  unfold execShiftRequest
  split
  · dsimp only
    split
    · exact .next ok
    · exact .ite (.next ok.setTask.askShift.countPart) (.next ok)
  · dsimp only
    split
    · exact .next ok
    · exact .ite (.next ok.setTask) (.next ok)

theorem execLevel7Preempt_nextOk {p : Nat} (ok : s.MemOk) : NextOk (execLevel7Preempt p s) := by
  unfold execLevel7Preempt
  refine .ite ?_ (.next ok)
  split
  · exact .next ok.askSoft.countPart
  · exact .next ok

theorem execGatherStart_nextOk {p : Nat} (ok : s.MemOk) : NextOk (execGatherStart p s) := by
  unfold execGatherStart
  refine .ite (.next ok) ?_
  split
  · exact .next ok
  · exact .next ok.setPart

theorem execGatherPreempt_nextOk {p : Nat} (ok : s.MemOk) : NextOk (execGatherPreempt p s) := by
  unfold execGatherPreempt
  split
  · exact .next ok
  · split
    · exact .next ok.setPart
    · refine .ite (.next ok) (.next (ok.foldl ?_).setPart)
      intro s1 x3 ok1
      split
      · exact .ite ok1.askSoft.countPart ok1
      · exact ok1

theorem State.MemOk.firmwarePost {r : Rec} (ok : s.MemOk) : (s.firmwarePost d r).MemOk := by
  unfold State.firmwarePost
  refine .ite ok ?_
  split
  next e => exact ok.place.snd e
  next e =>
    have ok1 := ok.place.snd e
    split
    · exact ok1
    · dsimp only
      split
      · exact ok1.insertTask.setTask
      · exact ok1.insertTask

theorem State.MemOk.holdTask {t : Nat} (ok : s.MemOk) : (s.holdTask t).MemOk := by
  unfold State.holdTask
  split
  · exact .ite ok.setTask ok
  · exact ok

theorem State.MemOk.postRec {r : Rec} (ok : s.MemOk) : (s.postRec g r).2.MemOk := by
  unfold State.postRec
  refine .iteSnd ok ?_
  split
  next e => exact ok.place.snd e
  next e =>
    split
    · exact ok.place.snd e
    · exact (ok.place.snd e).insertTask

/-! ### Timelines and hasps -/

theorem State.MemOk.dropRlc {ds : List Nat} {hit : Nat → Bool} (ok : s.MemOk) : (s.dropRlc ds hit).MemOk :=
  ok.foldl fun _ _ ok => ok.setDie

theorem State.MemOk.dropCopies {scope : Nat} {ps : List (Nat × Nat)} (ok : s.MemOk) : (s.dropCopies g scope ps).MemOk :=
  .dropRlc (.ite ok.modC ok)

theorem State.MemOk.observe {scope : Nat} (ok : s.MemOk) : (s.observe g scope).MemOk := .dropRlc (.ite ok.modC ok)

theorem State.MemOk.publish (ok : s.MemOk) : (s.publish g).MemOk := .ite ok.drainAll ok

theorem State.MemOk.acquireTo (ok : s.MemOk) : (s.acquireTo g ch n).MemOk := ok.dropCopies

theorem State.MemOk.dirtyHasp {h : HaspEnt} (ok : s.MemOk) : (s.dirtyHasp d h).MemOk := by
  unfold State.dirtyHasp
  refine .ite ok ?_
  split
  next t _ s' e =>
    have walked := ok.walk.snd e
    refine .ite walked ?_
    cases he : s'.setPte d t 0x18 with
    | none => exact walked
    | some r => exact walked.setPte he
  next e => exact ok.walk.snd e

theorem State.MemOk.writeHasp {h : HaspEnt} {v : Word} (ok : s.MemOk) : (s.writeHasp d h v).MemOk :=
  .ite ok.dirtyHasp.devWrite ok.dirtyHasp.write

theorem State.MemOk.holdSt (ok : s.MemOk) : (s.holdSt g n).MemOk := .ite ok.modC ok.modP

theorem State.MemOk.goTo {new : Nat} (ok : s.MemOk) : (s.goTo g new).MemOk := ok.modP

theorem State.MemOk.advance (ok : s.MemOk) : (s.advance g).MemOk := ok.goTo

theorem State.MemOk.answer {w : Option Word} (ok : s.MemOk) : (s.answer g w).MemOk := by
  unfold State.answer
  split
  · exact ok
  · refine .ite (.modC (.modC ?_)) ok.modP.advance
    split
    · exact ok.modC
    · exact ok

theorem State.MemOk.stopHeld {code detail : Nat} (ok : s.MemOk) : (s.stopHeld g code detail).MemOk := by
  unfold State.stopHeld
  split
  · exact ok
  · exact .ite ok.modC.modC.requestStop ok.modP.stopP

/-! ### Packets -/

theorem State.MemOk.engLocs {e va : Nat} {acc : Acc} {a : Nat} (ok : s.MemOk) : (s.engLocs e asid va n acc a).2.MemOk := by
  induction a generalizing s e asid va n acc with
  | zero => exact ok
  | succ n1 ih =>
    unfold State.engLocs
    refine .iteSnd ok (.iteSnd ok ?_)
    split
    next e1 => exact ok.translate.snd e1
    next e1 =>
      have ok1 := ok.translate.snd e1
      dsimp only
      split
      next e2 => exact (ih ok1).snd e2
      next e2 => exact (ih ok1).snd e2

theorem State.MemOk.engPieces {e va : Nat} {acc : Acc} (ok : s.MemOk) : (s.engPieces e asid va n acc).2.MemOk := by
  unfold State.engPieces
  split
  next e1 => exact ok.engLocs.snd e1
  next e1 => exact ok.engLocs.snd e1

theorem State.MemOk.feRead {va : Nat} (ok : s.MemOk) : (s.feRead ch va n).2.MemOk := by
  unfold State.feRead
  split
  next e => exact ok.engPieces.snd e
  next e => exact ok.engPieces.snd e

theorem State.MemOk.feWrite {va x : Nat} (ok : s.MemOk) : (s.feWrite ch va x n).2.MemOk := by
  unfold State.feWrite
  split
  next e => exact ok.engPieces.snd e
  next e => exact (ok.engPieces.snd e).pieceWrite

theorem State.MemOk.parkFe {f : Nat} (ok : s.MemOk) : (s.parkFe ch f).MemOk := .ite ok ok.modChan

theorem State.MemOk.fillSlots {a : Nat} (ok : s.MemOk) : (s.fillSlots ch a).MemOk := by
  induction a generalizing s with
  | zero => exact ok
  | succ n ih =>
    unfold State.fillSlots
    dsimp only
    split
    · exact ok
    · refine .ite ok ?_
      split
      next e1 => exact (ok.feWrite.snd e1).parkFe
      next e1 => exact ih (ok.feWrite.snd e1).modChan

theorem State.MemOk.userInterrupt {w : Word} (ok : s.MemOk) : (s.userInterrupt g w).2.MemOk := .iteSnd ok.modC ok.modC

theorem State.MemOk.raiseVec (ok : s.MemOk) : (s.raiseVec ch).2.MemOk := by
  unfold State.raiseVec
  split
  · exact .iteSnd ok ok.irq
  · exact ok

theorem State.MemOk.setNd {b : Bool} (ok : s.MemOk) : (s.setNd ch n b).MemOk := by
  unfold State.setNd
  split
  next e => exact ok.feRead.snd e
  next e => exact (ok.feRead.snd e).feWrite

theorem State.MemOk.dropInterrupts (ok : s.MemOk) : (s.dropInterrupts g).MemOk := .ite ok (ok.foldl (fun _ _ ok => .ite ok ok.setNd)).modC

/-! ### Rows of a packet -/

theorem State.MemOk.pktXlate {va : Nat} {acc : Acc} (ok : s.MemOk) : (s.pktXlate ch n asid va acc).2.MemOk := by
  unfold State.pktXlate
  extract_lets _ _
  split
  · exact .serve ok.engDesc
  · exact .translate (.ite (.countTotal ok.engDesc) ok.engDesc)

theorem State.MemOk.countChan {ev k : Nat} (ok : s.MemOk) : (s.countChan ch ev k).MemOk := ok.countTotal

theorem State.MemOk.countLines {ps : List (Nat × Nat)} (ok : s.MemOk) : (s.countLines ch ps).MemOk := ok.setCe.countChan.countChan

theorem State.MemOk.pktPieces {num va : Nat} {acc : Acc} {a : Nat} (ok : s.MemOk) : (s.pktPieces ch num asid va n acc a).2.MemOk := by
  induction a generalizing s ch num asid va n acc with
  | zero => exact ok
  | succ n1 ih =>
    unfold State.pktPieces
    refine .iteSnd ok (.iteSnd ok ?_)
    split
    next e =>
      have ok1 := ok.pktXlate.snd e
      exact .ite ok1 ok1.countLines
    next e =>
      have ok1 := ok.pktXlate.snd e
      split
      · dsimp only
        split
        next e2 => exact (ih ok1).snd e2
        next e2 => exact (ih ok1).snd e2
      · dsimp only
        split
        next e2 => exact ((ih ok1).snd e2).countLines
        next e2 => exact (ih ok1).snd e2

theorem State.MemOk.rowLocs {p : Pkt} {i : Nat} {off : Int} {acc : Acc} (ok : s.MemOk) : (s.rowLocs ch p i off n acc).2.MemOk := by
  unfold State.rowLocs
  split
  · exact .iteSnd ok (.iteSnd (.iteSnd ok (.iteSnd ok ok)) ok.pktPieces)
  · exact ok
  · exact ok
  · exact ok
  · exact ok
  · exact ok

theorem State.MemOk.countRow {src dst : List (Nat × Nat)} (ok : s.MemOk) : (s.countRow ch src dst n).MemOk :=
  ok.countLines.countChan.countChan

theorem State.MemOk.pieceRead {a : List (Nat × Nat)} (ok : s.MemOk) : (s.pieceRead d a).2.MemOk := by
  induction a generalizing s with
  | nil => exact ok
  | cons head tail ih => exact ih (.iteSnd ok.devRead ok)

theorem State.MemOk.rowWrite {p : Pkt} {i x : Nat} {ps : List (Nat × Nat)} (ok : s.MemOk) : (s.rowWrite ch p i x ps).MemOk :=
  .ite (ok.foldl (fun _ _ ok => ok.pieceWrite)) ok.pieceWrite

theorem State.MemOk.meetRow {p : Pkt} {ps : List (Nat × Nat)} (ok : s.MemOk) : (s.meetRow p ps).MemOk := ok.meetMem

theorem State.MemOk.wonRow {ps : List (Nat × Nat)} (ok : s.MemOk) : (s.wonRow ps).MemOk := ok.foldl fun _ _ ok => ok.won

theorem State.MemOk.modPkt {f : Pkt → Pkt} (ok : s.MemOk) : (s.modPkt ch n f).MemOk := ok.modChan

theorem State.MemOk.pktDone {code : Nat} (ok : s.MemOk) : (s.pktDone ch n code).MemOk := ok.modPkt

theorem State.MemOk.pktFault {f : Nat} (ok : s.MemOk) : (s.pktFault ch n f).MemOk := .modPkt (.ite ok ok.countChan)

theorem State.MemOk.oneRow {p : Pkt} {src : Option Int} {dst : Int} {f : Nat → Nat} (ok : s.MemOk) :
    (s.oneRow ch p src dst f).2.MemOk := by
  unfold State.oneRow
  extract_lets va a
  have located : a.2.MemOk := by cases src with
    | none => exact ok
    | some o => exact ok.rowLocs
  clear_value a
  refine .iteSnd ok ?_
  split
  · exact located.countLines.pktFault
  next sp _ =>
    split
    next e => exact (located.rowLocs.snd e).countLines.pktFault
    next e =>
      have ok1 := located.rowLocs.snd e
      exact .iteSnd ok1 (.iteSnd ok1.countLines.pktDone ok1.meetRow.wonRow.countRow.pieceRead.rowWrite.modPkt)

theorem State.MemOk.nextRow {p : Pkt} {row : State → Nat → RowOut × State}
    (ok : s.MemOk) (hrow : ∀ t x, t.MemOk → (row t x).2.MemOk) :
    (s.nextRow ch p row).MemOk := by
  unfold State.nextRow
  split
  next e => exact (hrow _ _ ok).snd e
  next e =>
    have ok1 := (hrow _ _ ok).snd e
    exact .ite ok1.pktDone ok1

theorem State.MemOk.pktAcquire {p : Pkt} {h : HaspEnt} (ok : s.MemOk) : (s.pktAcquire ch p h).MemOk := ok.meetRow.dropRlc

theorem State.MemOk.onPkt {op : Nat} {act : State → Pkt → State} (ok : s.MemOk) (hact : ∀ t x, t.MemOk → (act t x).MemOk) :
    NextOk (s.onPkt ch n op act) := by
  unfold State.onPkt
  split
  · exact .next ok
  · refine .ite (.next ok) (.ite (.next (hact _ _ ok)) (.ite (.next ok) (.ite ?_ (.next (hact _ _ ok.modPkt)))))
    split
    · exact .next ok
    · exact .ite (.next ok) (.next (hact _ _ ok.pktAcquire.modPkt))

theorem State.MemOk.rowsFrom {p : Pkt} {row : State → Nat → RowOut × State}
    (ok : s.MemOk) (hrow : ∀ t x, t.MemOk → (row t x).2.MemOk) :
    (s.rowsFrom ch p row).MemOk :=
  .ite ok.pktDone (.ite ok.pktDone (ok.nextRow (fun _ _ ok => hrow _ _ ok)))

theorem execSignal_nextOk (ok : s.MemOk) : NextOk (execSignal ch n s) := by
  unfold execSignal
  refine ok.onPkt fun _ _ ok => .ite ok.pktDone ?_
  dsimp only
  split
  next e => exact ok.oneRow.snd e
  next e => exact (ok.oneRow.snd e).pktDone

theorem execAtom_nextOk (ok : s.MemOk) : NextOk (execAtom ch n s) := by
  unfold execAtom
  refine ok.onPkt (fun _ _ ok => .ite ok.pktDone (.ite ok.pktDone (.ite ok (.ite ok.pktDone (.ite ok ?_)))))
  split
  next e => exact (ok.rowLocs.snd e).countLines.pktFault
  next e =>
    have ok2 := ok.rowLocs.snd e
    refine .ite ok2.pktDone ?_
    split
    · exact .ite ok2 ok2.meetRow.wonRow.countRow.writeLocs.setDie.modPkt.pktDone
    · dsimp only
      split
      next e2 => exact (ok2.rowLocs.snd e2).countLines.pktFault
      next e2 =>
        have ok3 := ok2.rowLocs.snd e2
        exact .ite ok3 ok3.meetRow.wonRow.countRow.writeLocs.setDie.rowWrite.modPkt.pktDone

theorem execIcinv_nextOk (ok : s.MemOk) : NextOk (execIcinv ch n s) := by
  unfold execIcinv
  refine ok.onPkt fun _ _ ok => .ite ok.pktDone ?_
  split
  next e => exact (ok.rowLocs.snd e).pktFault
  next e => exact ((ok.rowLocs.snd e).foldl (fun _ _ ok => .ite ok.discardCode ok)).pktDone

/-! ### Asynchronous moves (AS) -/

theorem asMove_nextOk {gd : BitVec 3} {src : BitVec 10} {check : MoveCtx → Option Trap} {act : MoveCtx → State} (ok : s.MemOk)
    (hact : ∀ x, (act x).MemOk) : NextOk (asMove gd src s check act) := by
  unfold asMove
  refine runMove_nextOk ok ?_
  intro a
  split
  · exact ok.trap
  · exact hact _

theorem execAsPost_nextOk {gd : BitVec 3} {src : BitVec 10} {k : BitVec 1} (ok : s.MemOk) : NextOk (execAsPost gd src k s) := by
  unfold execAsPost
  refine runMove_nextOk ok ?_
  intro a
  split
  · exact ok.trap
  · exact .ite ok.holdWith ok.trap

theorem State.MemOk.freeWaiters {i : Nat} (ok : s.MemOk) : (s.freeWaiters i).MemOk := by
  unfold State.freeWaiters
  refine ok.foldl ?_
  intro s1 x ok1
  split
  · exact .ite ok1.answer ok1
  · exact ok1

theorem State.MemOk.freeBarrier {i : Nat} (ok : s.MemOk) : (s.freeBarrier i).MemOk := ok.setDie

theorem State.MemOk.saeDiscard {ops : List (Nat × Nat × Nat)} (ok : s.MemOk) : (s.saeDiscard g ops).MemOk := ok.modC

theorem State.MemOk.saePut {t : Word} {ops : List (Nat × Nat × Nat)} (ok : s.MemOk) : (s.saePut g t ops).MemOk := ok.setCluster.saeDiscard

theorem execAsSae_nextOk {gd : BitVec 3} {src : BitVec 10} {k : BitVec 1} (ok : s.MemOk) : NextOk (execAsSae gd src k s) := by
  unfold execAsSae
  refine runMove_nextOk ok ?_
  intro a
  split
  · exact ok.trap
  · exact .ite ok.saePut ok.saeDiscard.hold

theorem State.MemOk.saeRelease (ok : s.MemOk) : (s.saeRelease g).MemOk := by
  unfold State.saeRelease
  split
  · exact ok
  · split
    · dsimp only
      split
      · exact ok.setCluster.answer
      · exact ok
    · split
      · exact .ite ok.saePut.answer ok
      · exact ok
    · exact ok

theorem State.MemOk.saeWake {cl : Nat} (ok : s.MemOk) : (s.saeWake cl).MemOk := ok.foldl fun _ _ ok => ok.saeRelease

theorem execAsSaer_nextOk {gd : BitVec 3} {src : BitVec 10} {k : BitVec 1} (ok : s.MemOk) : NextOk (execAsSaer gd src k s) := by
  unfold execAsSaer
  refine asMove_nextOk ok ?_
  intro a
  dsimp only
  split
  · exact ok.setCluster.finish.saeWake
  · exact ok.hold

theorem execAsTpost_nextOk {gd : BitVec 3} {src : BitVec 10} {k : BitVec 1} (ok : s.MemOk) : NextOk (execAsTpost gd src k s) := by
  unfold execAsTpost
  refine runMove_nextOk ok ?_
  intro a
  split
  · exact ok.trap
  · exact ok.holdWith

theorem State.MemOk.notify {t : Word} (ok : s.MemOk) : (s.notify asid t).MemOk := .ite ok.raiseVec (.ite ok.userInterrupt ok)

theorem State.MemOk.draw {s u : State} {w : Word} (ok : s.MemOk) (e : s.draw d = some (w, u)) : u.MemOk := by
  unfold State.draw at e
  split at e
  · cases e
  · obtain ⟨-, rfl⟩ := Prod.mk.inj (Option.some.inj e)
    exact ok.setDie

theorem execAsRnd_nextOk {gd : BitVec 3} {src : BitVec 10} {k : BitVec 1} (ok : s.MemOk) : NextOk (execAsRnd gd src k s) := by
  unfold execAsRnd
  refine asMove_nextOk ok ?_
  intro a
  split
  · exact ok.hold
  next e => exact (ok.draw e).modC.finish

/-! ### Matrix commands and the engine -/

theorem State.MemOk.meIssue {cmd : Cmd} (ok : s.MemOk) : (s.meIssue g cmd).MemOk := ok.modC

theorem mePush_nextOk {gd : BitVec 3} {src : BitVec 10} {k : BitVec 1} {op : MeOp} {rows p : Nat} (ok : s.MemOk) :
    NextOk (mePush gd src k s op rows n p) := by
  unfold mePush
  refine .ite (.ite (.next ok) ?_) (runMove_nextOk ok (fun a => .ite ok.trap ?_))
  · dsimp only
    split
    · exact .next ok.trap
    · split
      · exact .next ok.trap
      · exact .next ok.meIssue
  · split
    · exact ok.trap
    · split
      · exact ok.trap
      · exact ok.meIssue

theorem meFrame_nextOk {gd : BitVec 3} {src : BitVec 10} {check : MoveCtx → Option Trap} {body : MoveCtx → State} (ok : s.MemOk)
    (hbody : ∀ x, (body x).MemOk) : NextOk (meFrame gd src s check body) := by
  unfold meFrame
  dsimp only
  split
  · split <;> exact .next ok.trap
  · exact runMove_nextOk ok fun _ => hbody _

theorem meMove_nextOk {gd : BitVec 3} {src : BitVec 10} {k : BitVec 1} {op : MeOp} {check : MoveCtx → EngView → Except Trap Bool}
    (ok : s.MemOk) : NextOk (meMove gd src k s op check) := by
  unfold meMove
  refine meFrame_nextOk ok ?_
  intro a
  split
  · exact ok.trap
  · exact ok.meIssue

theorem State.MemOk.readScales {tag : BitVec 5} {w1 : Word} {off rows : Nat} (ok : s.MemOk) :
    (s.readScales g tag w1 off rows).2.MemOk :=
  ok.clusHalves

theorem State.MemOk.readSlice {tag : BitVec 5} {w1 w2 : Word} {rows j : Nat} (ok : s.MemOk) :
    (s.readSlice g tag w1 w2 rows j).2.MemOk :=
  ok.clusHalves.readScales

theorem State.MemOk.pushSlice {c : Cmd} {w1 w2 : Word} {rows j : Nat} (ok : s.MemOk) : (s.pushSlice g c w1 w2 rows j).2.MemOk := by
  unfold State.pushSlice
  split
  · exact ok.readScales
  · exact ok.readSlice

theorem State.MemOk.modEng {f : Engine → Engine} (ok : s.MemOk) : (s.modEng g f).MemOk := ok.modC

theorem State.MemOk.meEffect {c : Cmd} (ok : s.MemOk) : (s.meEffect g c).MemOk := by
  unfold State.meEffect
  split
  · exact ok.pushSlice.modEng
  · exact ok.pushSlice.modEng
  · exact ok.meetAcc.modEng
  · exact ok.modEng
  · exact ok.modEng
  · exact ok.modEng
  · exact ok.modEng
  · exact ok.meetAcc.modEng
  · exact ok.modEng

theorem State.MemOk.countBeat {op : MeOp} (ok : s.MemOk) : (s.countBeat g op).MemOk := .ite ok.countCore ok

theorem State.MemOk.leftIdle (ok : s.MemOk) : s.leftIdle.MemOk := ok.of_mem rfl

theorem State.MemOk.noteTick (ok : s.MemOk) : (s.noteTick g).MemOk := ok.modC

theorem State.MemOk.nameSamples {m : Cmd} (ok : s.MemOk) : (s.nameSamples g m).MemOk := .ite ok (ok.foldl (fun _ _ ok => ok.traceRec)).modC

theorem execEngineConsume_nextOk (ok : s.MemOk) : NextOk (execEngineConsume g s) := by
  unfold execEngineConsume
  refine .ite (.next ok) ?_
  split
  · exact .next ok
  · refine .ite (.next ok) ?_
    extract_lets s1 s2
    have woken : s2.MemOk := .ite ok.nameSamples.modEng.leftIdle ok.nameSamples.modEng
    exact .ite (.next woken.meEffect) (.next woken.modEng.meEffect)

theorem State.MemOk.seqPushA {c : Cmd} {q : SeqPos} (ok : s.MemOk) : (s.seqPushA g c q).MemOk := ok.readSlice.modEng

theorem State.MemOk.seqPushB {c : Cmd} {q : SeqPos} (ok : s.MemOk) : (s.seqPushB g c q).MemOk := ok.readSlice.modEng

theorem State.MemOk.seqBeat {c : Cmd} {q : SeqPos} (ok : s.MemOk) : (s.seqBeat g c q).MemOk :=
  .countBeat (.modEng (.meetAcc (.ite (.seqPushB (.ite ok.seqPushA ok)) (.ite ok.seqPushA ok))))

theorem State.MemOk.seqDrain {c : Cmd} {q : SeqPos} (ok : s.MemOk) : (s.seqDrain g c q).MemOk :=
  ok.meetAcc.drainAll.write.won.won.modC.modEng

theorem State.MemOk.seqWake (ok : s.MemOk) : (s.seqWake g).MemOk := .ite ok.modEng.leftIdle ok

theorem State.MemOk.seqStep {c : Cmd} {q : SeqPos} (ok : s.MemOk) : (s.seqStep g c q).MemOk :=
  .ite (.modEng (.ite ok.seqWake.seqDrain ok.seqWake.seqBeat)) (.modEng (.ite ok.seqWake.seqDrain ok.seqWake.seqBeat))

theorem execSequencerStep_nextOk (ok : s.MemOk) : NextOk (execSequencerStep g s) := by
  unfold execSequencerStep
  dsimp only
  split
  · exact .ite (.next ok) (.next ok.seqStep)
  · exact .next ok

theorem execTokenReturn_nextOk (ok : s.MemOk) : NextOk (execTokenReturn g s) := by
  unfold execTokenReturn
  dsimp only
  split
  · exact .next ok.setC
  · split
    · exact .ite (.next ok) (.next ok.setC.countBeat)
    · exact .next ok

theorem execCommandInFlightComplete_nextOk (ok : s.MemOk) : NextOk (execCommandInFlightComplete g s) := by
  unfold execCommandInFlightComplete
  dsimp only
  split
  · exact .ite (.next ok) (.next ok.modEng.countBeat)
  · split
    · exact .ite (.next ok) (.next (.modEng (.ite ok.seqWake.seqPushA ok.seqPushB)))
    · exact .next ok

/-! ### The pipeline of a core -/

theorem State.MemOk.abandon {k idx : Nat} (ok : s.MemOk) : (s.abandon lead k idx).MemOk := ok.modAll.modC

theorem State.MemOk.freezeSlot {k : Nat} (ok : s.MemOk) : (s.freezeSlot lead k).MemOk := by
  unfold State.freezeSlot
  split
  · dsimp only
    split
    · exact ok
    · exact .ite ok (.ite ok.modC (.ite ok.abandon.modC ok))
  · dsimp only
    split
    · exact ok
    · exact .ite ok (.ite ok.modC ok)

theorem State.MemOk.freezeAll (ok : s.MemOk) : (s.freezeAll lead).MemOk := ok.foldl fun _ _ ok => ok.freezeSlot

theorem State.MemOk.release {k : Nat} (ok : s.MemOk) : (s.release g k).MemOk := ok.modC.modC

theorem State.MemOk.pollSlot {k : Nat} (ok : s.MemOk) : (s.pollSlot g k).MemOk := by
  unfold State.pollSlot
  extract_lets c
  split
  · exact ok
  · split
    · exact .ite ok (.ite ok.modC.release ok)
    · exact .ite ok.modC.release ok
    · exact .ite ok.cstPut.release ok
    · exact .ite ok ok.meetAcc.aldDone.release
    · exact .ite ok ok.astDone.release
    · exact ok

theorem State.MemOk.pollCore (ok : s.MemOk) : (s.pollCore g).MemOk := ok.foldl fun _ _ ok => ok.pollSlot

theorem State.MemOk.pollAll {l : List Nat} (ok : s.MemOk) : (s.pollAll l).MemOk := by
  induction l generalizing s with
  | nil => exact ok
  | cons g t ih =>
    unfold State.pollAll
    exact ih ok.pollCore

theorem State.MemOk.fetchOne (ok : s.MemOk) : (s.fetchOne lead).MemOk := by
  unfold State.fetchOne
  refine .ite ok ?_
  dsimp only
  split
  · exact ok.fetchCode.requestStop
  · split
    · exact ok.fetchCode.requestStop
    · exact ok.fetchCode.modC

theorem State.MemOk.countStalls (ok : s.MemOk) : (s.countStalls lead).MemOk :=
  ok.foldl (fun _ _ ok => .ite (ok.foldl (fun _ _ ok => ok.countCore)) ok)

theorem State.MemOk.choose (ok : s.MemOk) : (s.choose lead).MemOk :=
  .ite ok.modC.modAll (.ite ok.modC.modAll.modC ok.modC.modAll.modC.modAll)

theorem State.MemOk.commit {w : PendW} (ok : s.MemOk) : (s.commit g w).MemOk := by
  unfold State.commit
  split
  · exact ok.modC
  · exact ok.modC
  · exact ok.modC
  · exact ok.modC
  · exact ok.modC
  · exact ok.modC
  · exact ok.kwrite

theorem State.MemOk.commitAll (ok : s.MemOk) : (s.commitAll g).MemOk := (ok.foldl (fun _ _ ok => ok.commit)).modC

theorem State.MemOk.landWindow (ok : s.MemOk) : (s.landWindow g).MemOk := ok.foldl fun _ _ ok => ok.landBefore

theorem State.MemOk.decouple (ok : s.MemOk) : (s.decouple lead).MemOk := ok.modAll.of_mem rfl

theorem State.MemOk.splitNow (ok : s.MemOk) : (s.splitNow lead).MemOk := by
  unfold State.splitNow
  dsimp only
  split
  · exact .ite ok.decouple ok
  · exact ok

theorem State.MemOk.dropCall (ok : s.MemOk) : (s.dropCall lead).MemOk := .ite ok ok.modAll

theorem State.MemOk.applyCtl (ok : s.MemOk) : (s.applyCtl lead).MemOk := by
  unfold State.applyCtl
  extract_lets _ _ _ s1 _ _ _
  have ok1 : s1.MemOk := ok.modAll
  refine .ite ok1 (.ite ?_ (.requestStop (.modC ok1.modAll)))
  split
  · exact ok1.modC
  · exact ok1.modC
  · exact ok1.modC
  · exact ok1.modAll.modC
  · exact ok1.modC
  · exact ok1
  · exact ok1

theorem State.MemOk.endMember (ok : s.MemOk) : (s.endMember lead g).MemOk := by
  unfold State.endMember
  exact ok.commitAll.landWindow.modC

theorem State.MemOk.endMembers {a : List Nat} (ok : s.MemOk) : (s.endMembers lead a).MemOk := by
  induction a generalizing s with
  | nil => exact ok
  | cons head tail ih => exact ih ok.endMember

theorem execResultLand_nextOk (ok : s.MemOk) : NextOk (execResultLand g s) := by
  unfold execResultLand
  extract_lets lead c ms s1 go next s2 s3 tick
  have landed : s3.MemOk := (ok.dropCall.endMembers.applyCtl.foldl fun _ _ ok => .ite ok.countCore ok).modAll
  exact .ite (.next ok) (.next (.splitNow (.ite (landed.foldl fun _ _ ok =>
    .noteTick (.ite ok.countCore.countCore.countCore ok.countCore.countCore)) landed)))

theorem execUserInterruptTake_nextOk (ok : s.MemOk) : NextOk (execUserInterruptTake g s) := by
  unfold execUserInterruptTake
  dsimp only
  split
  · exact .next ok
  · exact .next (ok.modAll.modC.foldl (fun _ _ ok => ok.countCore))

/-! ### Launches and moves of segments -/

theorem State.MemOk.keysOk {a : List Rec} (ok : s.MemOk) : (s.keysOk d a).2.MemOk := by
  induction a generalizing s with
  | nil => exact ok
  | cons head tail ih =>
    unfold State.keysOk
    split
    next e => exact ok.place.snd e
    next e => exact ih (ok.place.snd e)

theorem State.MemOk.postRows {grp row : Nat} {a : List Rec} (ok : s.MemOk) : (s.postRows ch n grp row a).MemOk := by
  induction a generalizing s ch n grp row with
  | nil => exact ok
  | cons head tail ih =>
    unfold State.postRows
    dsimp only
    split
    next e => exact (ok.place.snd e).pktFault
    next e =>
      split
      · exact ok.place.snd e
      · exact ih (ok.place.snd e).insertTask.modPkt

theorem State.MemOk.launchMore {p : Pkt} (ok : s.MemOk) : (s.launchMore ch p).MemOk := by
  unfold State.launchMore
  split
  · exact ok
  · exact ok.postRows

theorem State.MemOk.groupWord {p : Pkt} (ok : s.MemOk) : (s.groupWord ch p).2.MemOk := by
  unfold State.groupWord
  refine .iteSnd ok (.iteSnd ok ?_)
  dsimp only
  split
  next e => exact ok.oneRow.snd e
  next e => exact ok.oneRow.snd e

theorem State.MemOk.launchStart {p : Pkt} (ok : s.MemOk) : (s.launchStart ch p).MemOk := by
  unfold State.launchStart
  split
  next e => exact (ok.rowLocs.snd e).pktFault
  next e =>
    have ok1 := ok.rowLocs.snd e
    refine .ite ok1.countLines.pktDone (.ite ok1.countRow.pieceRead.pktDone ?_)
    split
    next e1 => exact (ok1.countRow.pieceRead.keysOk.snd e1).pktFault
    next e1 => exact .postRows (.modPkt ((ok1.countRow.pieceRead.keysOk.snd e1).of_mem rfl))

theorem execLaunch_nextOk (ok : s.MemOk) : NextOk (execLaunch ch n s) := by
  unfold execLaunch
  refine ok.onPkt (fun _ _ ok => .ite ?_ (.ite ok.launchMore (.ite ok ok.launchStart)))
  split
  next e => exact (ok.groupWord.snd e).pktDone
  next e => exact ok.groupWord.snd e

theorem execTaskSlotGranted_nextOk (ok : s.MemOk) : NextOk (execTaskSlotGranted ch s) := by
  unfold execTaskSlotGranted
  split
  · exact .next ok.launchMore
  · exact .next ok

theorem execLaunchGroupComplete_nextOk {grp : Nat} (ok : s.MemOk) : NextOk (execLaunchGroupComplete grp s) := by
  unfold execLaunchGroupComplete
  split
  · exact .next ok
  next g _ =>
    refine .ite (.next ok) ?_
    dsimp only
    split
    · exact .next (ok.of_mem rfl)
    · refine .ite (.next (ok.of_mem rfl)) (.ite (.next ok) ?_)
      split
      next code s' e =>
        have ended : (s'.pktDone g.ch g.n code).MemOk := (ok.groupWord.snd e).pktDone
        exact .next (ended.of_mem rfl)
      next e => exact .next (ok.groupWord.snd e)

theorem State.MemOk.setSeg {g : SegRef} {w : Word} (ok : s.MemOk) : (s.setSeg d g w).MemOk := ok.devWrite

theorem State.MemOk.shoot {va : Nat} (ok : s.MemOk) : (s.shoot asid va n).MemOk := ok.of_mem rfl

theorem State.MemOk.shotDone {va : Nat} (ok : s.MemOk) : (s.shotDone asid va n).MemOk := ok.of_mem rfl

theorem State.MemOk.segChanged {g : SegRef} (ok : s.MemOk) : (s.segChanged asid g).MemOk := by
  unfold State.segChanged
  refine ok.foldl ?_
  intro s1 x ok1
  split
  · exact ok1.tierChanged
  · exact ok1

theorem State.MemOk.moveEnd {tier : Nat} {p : Pkt} {g : SegRef} (ok : s.MemOk) : (s.moveEnd ch p g tier).MemOk := by
  unfold State.moveEnd
  refine .ite ok ?_
  extract_lets s1 s2 vm s3
  have moved : s2.MemOk := ok.shotDone.setSeg
  have counted : s3.MemOk := .ite (moved.of_mem rfl) moved
  exact counted.segChanged.pktDone

theorem State.MemOk.moveFrame {p : Pkt} {tier : Nat} {go : State → SegRef → State} (ok : s.MemOk)
    (hgo : ∀ t x, t.MemOk → (go t x).MemOk) : (s.moveFrame ch p tier go).MemOk := by
  unfold State.moveFrame
  split
  · exact ok.pktDone
  · exact .ite ok.moveEnd (.ite (.ite ok.setSeg.pktDone (hgo _ _ ok.loadDesc)) (.ite ok ok.setSeg.modPkt))

theorem State.MemOk.moveHasps {g : SegRef} {loc : Nat → Nat} (ok : s.MemOk) : (s.moveHasps asid g loc).MemOk := ok.of_mem rfl

theorem State.MemOk.retag {p : Pkt} {g : SegRef} {ls : List (Nat × Nat × Word)} {tier plc : Nat} {frame : Nat → Nat} {old : List Int}
    (ok : s.MemOk) : (s.retag ch p g ls tier plc frame old).MemOk :=
  (ok.foldl (fun _ _ ok => ok.devWrite)).moveHasps.shoot.modPkt.moveEnd

theorem execPromote_nextOk {frames : List Nat} (ok : s.MemOk) : NextOk (execPromote ch n frames s) := by
  unfold execPromote
  refine ok.onPkt (fun _ _ ok => ok.moveFrame (fun _ _ ok => .ite ok.setSeg.pktDone (.ite (.ite ok ok.setSeg.pktDone) ?_)))
  split
  · exact ok
  · refine .ite ok.setSeg.pktDone ?_
    split
    · exact ok.pktFault
    · exact .retag (.pieceWrite (.countRow (ok.of_mem rfl)))

theorem State.MemOk.evictPieces {ps : List (Nat × Nat × Nat)} (ok : s.MemOk) : (s.evictPieces d ps).MemOk := ok.dropRlc

theorem State.MemOk.writeBackFlash {va0 fl : Nat} {a : List (Nat × Nat × Nat)} (ok : s.MemOk) : (s.writeBackFlash d va0 fl a).MemOk := by
  induction a generalizing s with
  | nil => exact ok
  | cons head tail ih => exact ih ok.pieceRead.write

theorem execDemote_nextOk (ok : s.MemOk) : NextOk (execDemote ch n s) := by
  unfold execDemote
  refine ok.onPkt fun _ _ ok => ok.moveFrame fun _ _ ok2 => ?_
  dsimp only
  split
  · exact ok2.pktFault
  · split
    · exact ok2.pktFault
    · exact ok2.evictPieces.countRow.writeBackFlash.retag

/-! ### Queues and channels -/

theorem State.MemOk.setDescWord {fn i k : Nat} {w : Word} (ok : s.MemOk) : (s.setDescWord fn i k w).MemOk := ok.of_mem rfl

theorem State.MemOk.descOk {fn i : Nat} (ok : s.MemOk) : (s.descOk fn i).MemOk := ok.setDescWord

theorem State.MemOk.descErr {fn i : Nat} (ok : s.MemOk) : (s.descErr fn i).MemOk := ok.setDescWord

theorem State.MemOk.createQueue {fn i : Nat} (ok : s.MemOk) : (s.createQueue fn i).MemOk := by
  unfold State.createQueue
  split
  · exact ok.descErr
  · refine .ite ok.descErr ?_
    dsimp only
    split
    · exact ok.descErr
    next e2 =>
      split
      · exact ok.descErr
      next e3 =>
        split
        · exact ok.descErr
        next e4 => exact (((ok.engPieces.snd e2).engPieces.snd e3).engPieces.snd e4).pieceWrite.pieceWrite.setChan.setDescWord

theorem State.MemOk.writeStatus {op code : Nat} (ok : s.MemOk) : (s.writeStatus ch n op code).2.MemOk := by
  unfold State.writeStatus
  split
  next e => exact ok.feWrite.snd e
  next e => exact .iteSnd (ok.feWrite.snd e) (ok.feWrite.snd e).parkFe

theorem State.MemOk.settleClose (ok : s.MemOk) : (s.settleClose ch).MemOk := by
  unfold State.settleClose
  dsimp only
  split
  · refine .ite ?_ ok
    split
    · exact ok.setChan.setDescWord
    · exact ok.setChan
  · exact ok

theorem State.MemOk.pktRelease {p : Pkt} (ok : s.MemOk) : (s.pktRelease ch p).MemOk := by
  unfold State.pktRelease
  refine .ite ?_ ok
  split
  · exact ok.meetRow.writeHasp
  · exact ok

theorem State.MemOk.pktArrive {p : Pkt} (ok : s.MemOk) : (s.pktArrive p).MemOk := .ite ok ok.arrive

theorem State.MemOk.pktNotify {p : Pkt} (ok : s.MemOk) : (s.pktNotify ch p).MemOk := by
  unfold State.pktNotify
  refine .ite ok ?_
  split
  · exact .ite ok.raiseVec.setNd ok.raiseVec
  · exact .ite (.ite ok.userInterrupt.setNd ok.userInterrupt) ok

theorem State.MemOk.dropPins (ok : s.MemOk) : (s.dropPins ch n).MemOk := ok.setCe

theorem State.MemOk.completeHead {p : Pkt} (ok : s.MemOk) : (s.completeHead ch p).MemOk := by
  unfold State.completeHead
  refine .ite ok ?_
  split
  next e => exact ok.writeStatus.snd e
  next e =>
    have ok1 := ok.writeStatus.snd e
    refine .settleClose (.countChan (.dropPins ?_))
    split <;> exact .ite (.modChan (.ite ok1 ok1.pktRelease.pktArrive)) (.pktNotify (.modChan (.ite ok1 ok1.pktRelease.pktArrive)))

theorem State.MemOk.completeUntaken (ok : s.MemOk) : (s.completeUntaken ch).MemOk := by
  unfold State.completeUntaken
  dsimp only
  split
  next e => exact ok.writeStatus.snd e
  next e => exact (ok.writeStatus.snd e).modChan.settleClose

theorem State.MemOk.readWidx (ok : s.MemOk) : (s.readWidx ch).2.MemOk := by
  unfold State.readWidx
  split
  next e => exact ok.feRead.snd e
  next e => exact .ite (ok.feRead.snd e) (ok.feRead.snd e).parkFe

theorem State.MemOk.closeRead (ok : s.MemOk) : (s.closeRead ch).MemOk := by
  unfold State.closeRead
  refine .ite ok ?_
  split
  next e => exact (ok.readWidx.snd e).modChan
  next e => exact ok.readWidx.snd e

theorem State.MemOk.completeNext (ok : s.MemOk) : (s.completeNext ch).MemOk := by
  unfold State.completeNext
  extract_lets _ s1 _
  have ok1 : s1.MemOk := .ite ok ok.closeRead
  refine .ite ok1 ?_
  split
  · exact .ite ok1.completeHead ok1
  · split
    · exact .ite ok1.completeUntaken ok1.settleClose
    · exact ok1

theorem State.MemOk.closeQueue {fn i : Nat} (ok : s.MemOk) : (s.closeQueue fn i).MemOk := by
  unfold State.closeQueue
  split
  · exact ok
  · exact .ite ok ok.setDescWord.modChan.closeRead.settleClose

theorem State.MemOk.completeAll {a : Nat} (ok : s.MemOk) : (s.completeAll ch a).MemOk := by
  induction a generalizing s with
  | zero => exact ok
  | succ n ih => exact ih ok.completeNext

theorem State.MemOk.failMove {p : Pkt} {code : Nat} (ok : s.MemOk) : (s.failMove d p code).MemOk := by
  unfold State.failMove
  refine .ite ?_ ok
  split
  · exact ok.setSeg
  · exact ok

theorem State.MemOk.abortMoves (ok : s.MemOk) : (s.abortMoves ch).MemOk := ok.foldl fun _ _ ok => ok.failMove

theorem execQueueAbort_nextOk (ok : s.MemOk) : NextOk (execQueueAbort ch s) := by
  unfold execQueueAbort
  split
  · exact .next ok
  · exact .next ok.abortMoves.modChan.closeRead.completeAll.settleClose

theorem execChannelBind_nextOk {vf i : Nat} {w : BitVec 64} (ok : s.MemOk) : NextOk (execChannelBind vf i w s) :=
  .ite (.next ok) (.ite (.next ok) (.next (ok.of_mem rfl)))

theorem State.MemOk.meetList {p : Pkt} (ok : s.MemOk) : (s.meetList p).MemOk := by
  unfold State.meetList
  split
  · exact .ite ok ok.meetRow
  · exact ok

theorem State.MemOk.takeIndex {ws : List Word} {lost : Bool} (ok : s.MemOk) : (s.takeIndex ch ws lost).MemOk :=
  ok.meetList.modChan.fillSlots

theorem State.MemOk.frontEnd (ok : s.MemOk) : (s.frontEnd ch).2.MemOk := by
  unfold State.frontEnd
  refine .iteSnd ok ?_
  split
  next e => exact (ok.feRead.snd e).parkFe
  next e =>
    have ok1 := ok.feRead.snd e
    refine .iteSnd ok1 ?_
    split
    next e1 => exact (ok1.feRead.snd e1).parkFe
    next e1 => exact .iteSnd (ok1.feRead.snd e1) (ok1.feRead.snd e1)

theorem execTakePacket_nextOk (ok : s.MemOk) : NextOk (execTakePacket ch s) := by
  unfold execTakePacket
  split
  next e => exact .next (ok.frontEnd.snd e).fillSlots
  next e => exact .next (ok.frontEnd.snd e).takeIndex
  next e => exact .next (ok.frontEnd.snd e).modChan

theorem execPacketCrcTimeout_nextOk (ok : s.MemOk) : NextOk (execPacketCrcTimeout ch s) := by
  unfold execPacketCrcTimeout
  split
  next e =>
    have ok1 := ok.frontEnd.snd e
    split
    · exact .ite (.next ok1.takeIndex) (.next ok1)
    · exact .next ok1
  next e1 => exact .next (ok.frontEnd.snd e1)

theorem State.MemOk.declare (ok : s.MemOk) : (s.declare ch n).MemOk := by
  unfold State.declare
  split
  · exact ok
  · split
    · exact ok
    · exact ok.failMove.modPkt.modChan

theorem State.MemOk.stopClaim (ok : s.MemOk) : (s.stopClaim ch g).MemOk := by
  unfold State.stopClaim
  split
  · exact ok.stopHeld
  · exact ok

theorem State.MemOk.declareFe (ok : s.MemOk) : (s.declareFe ch).MemOk :=
  .settleClose (.foldl (.ite ok (.ite ok.modChan (.ite ok.modChan ok))) (fun _ _ ok => ok.stopClaim))

/-! ### Ends of held accesses -/

theorem onHold_nextOk {ok1 : HoldOp → Bool} {act : Hold → State} (ok : s.MemOk) (hact : ∀ x, (act x).MemOk) :
    NextOk (onHold g s ok1 act) := by
  unfold onHold
  split
  · exact .ite (.next (hact _)) (.next ok)
  · exact .next ok

theorem execClusterGrant_nextOk (ok : s.MemOk) : NextOk (execClusterGrant g s) := by
  unfold execClusterGrant
  split
  · exact .ite (.ite (.next ok.cldTakes.cldDone.release) (.next ok.cldTakes.modC)) (.next ok)
  · exact .next ok

theorem execTwaitRelease_nextOk (ok : s.MemOk) : NextOk (execTwaitRelease g s) := by
  unfold execTwaitRelease
  refine onHold_nextOk ok fun a => .ite ok ?_
  dsimp only
  split
  · exact ok.modChan.stopHeld
  · exact ok.acquireTo.answer

theorem execHacqRelease_nextOk (ok : s.MemOk) : NextOk (execHacqRelease g s) := by
  unfold execHacqRelease
  refine onHold_nextOk ok ?_
  intro a
  split
  · exact ok
  · exact .ite ok.meetMem.dropCopies.answer ok.meetMem

theorem execHrelDone_nextOk (ok : s.MemOk) : NextOk (execHrelDone g s) := by
  unfold execHrelDone
  refine onHold_nextOk ok ?_
  intro a
  split
  · exact ok
  · exact .ite ok ok.meetMem.writeHasp.dropCopies.answer

theorem execHpubDone_nextOk (ok : s.MemOk) : NextOk (execHpubDone g s) := by
  unfold execHpubDone
  refine onHold_nextOk ok ?_
  intro a
  split
  · exact .ite ok.answer ok
  · exact ok.observe.answer
  · exact .ite ok.observe.answer ok

theorem State.MemOk.haspLoc {name : Word} (ok : s.MemOk) : (s.haspLoc g name).2.MemOk := by
  unfold State.haspLoc
  split
  · split
    · dsimp only
      split
      next e2 => exact ok.translate.snd e2
      next e2 => exact ok.translate.snd e2
    · dsimp only
      split
      next e2 => exact ok.xlate.snd e2
      next e2 => exact ok.xlate.snd e2
  · exact ok
  · exact ok

theorem State.MemOk.heldFault {f : Nat} {h : Hold} {ans : Word} (ok : s.MemOk) : (s.heldFault g f h ans).MemOk :=
  .ite ok (.ite ok.holdSt ok.answer)

theorem execHbindDone_nextOk {sram : Bool} (ok : s.MemOk) : NextOk (execHbindDone g sram s) := by
  unfold execHbindDone
  refine onHold_nextOk ok ?_
  intro a
  split
  next e => exact (ok.haspLoc.snd e).heldFault
  next e =>
    have ok1 := ok.haspLoc.snd e
    split
    · exact ok1.setDie.answer
    · split
      · exact ok1.answer
      · exact ok1.setDie.answer

theorem execBallocDone_nextOk (ok : s.MemOk) : NextOk (execBallocDone g s) := by
  unfold execBallocDone
  refine onHold_nextOk ok ?_
  intro a
  dsimp only
  split
  · exact ok.answer
  · exact ok.setDie.answer

theorem execBwaitRelease_nextOk (ok : s.MemOk) : NextOk (execBwaitRelease g s) := by
  unfold execBwaitRelease
  refine onHold_nextOk ok ?_
  intro a
  split
  · exact ok.answer
  · exact .ite ok.observe.answer ok

theorem State.MemOk.claimFault {f : Nat} (ok : s.MemOk) : (s.claimFault g ch f).MemOk := .ite ok (.holdSt (.ite ok ok.parkFe))

theorem execPostClaim_nextOk (ok : s.MemOk) : NextOk (execPostClaim g s) := by
  unfold execPostClaim
  refine onHold_nextOk ok fun a => .ite ok ?_
  split
  next e => exact (ok.engPieces.snd e).claimFault
  next e =>
    have ok1 := ok.engPieces.snd e
    exact .settleClose (.answer (.ite ok1.pieceWrite.modChan.fillSlots (.ite ok1.pieceWrite.modChan ok1.pieceWrite)))

theorem execEntropyReady_nextOk {draw : BitVec 64} (ok : s.MemOk) : NextOk (execEntropyReady d draw s) := by
  unfold execEntropyReady
  split
  · exact .next ok.setDie
  · exact .next (.answer (.ite ok.modC ok.modP))

theorem State.MemOk.saeOne {cl : Nat} {x : SaeGrp} (ok : s.MemOk) : (s.saeOne cl x).MemOk := by
  unfold State.saeOne
  extract_lets _ _ _ s1 s2
  have ok1 : s1.MemOk := ok.meetMem
  have ok2 : s2.MemOk := ok1.write.won
  split
  · exact ok2
  · exact ok2.setCluster

theorem State.MemOk.settleSaved {mark : Nat} (ok : s.MemOk) : (s.settleSaved mark).MemOk := by
  unfold State.settleSaved
  refine .ite ok ?_
  split
  · exact ok
  · split
    · exact ok
    · exact ok.setTask.arriveAll

theorem State.MemOk.settleAny {m : Nat} (ok : s.MemOk) : (s.settleAny m).MemOk := .ite ok.settleSaved ok.settle

theorem State.MemOk.refetchRefresh {idx : Nat} {c : CoreC} {top : Nat} (ok : s.MemOk) :
    (State.refetch.refresh idx s lead c top).MemOk := by
  unfold State.refetch.refresh
  refine ok.foldl ?_
  intro s1 x ok1
  split
  next e =>
    have ok2 := ok1.fetchCode.snd e
    split
    · exact ok2.requestStop
    · exact ok2.modC
  next e => exact (ok1.fetchCode.snd e).requestStop

theorem State.MemOk.refetch {idx : Nat} (ok : s.MemOk) : (s.refetch g idx).MemOk := by
  unfold State.refetch
  dsimp only
  split
  · exact ok.modC.refetchRefresh
  · exact ok.refetchRefresh

theorem State.MemOk.flushProf (ok : s.MemOk) : (s.flushProf g).MemOk :=
  .ite (ok.foldl (fun _ _ ok => .ite ok ok.devWrite)).modC (ok.foldl (fun _ _ ok => .ite ok ok.devWrite)).modP

theorem State.MemOk.rejoinTrap {m : Nat} (ok : s.MemOk) : (s.rejoinTrap m).MemOk := ok.modC.requestStop

theorem execFuseRelease_nextOk (ok : s.MemOk) : NextOk (execFuseRelease g s) := by
  unfold execFuseRelease
  dsimp only
  split
  · exact .next ok
  · refine .ite (.next ok) (.next ?_)
    split
    · exact .setTask (.foldl (ok.flushProf.dropInterrupts.of_mem rfl) (fun _ _ ok => ok.modC))
    · exact .foldl (ok.flushProf.dropInterrupts.of_mem rfl) fun _ _ ok => ok.modC

/-! ### Ends of programs and core groups -/

theorem State.MemOk.carryOut {s u : State} {loop iter : Nat} {r : Rec} (ok : s.MemOk) (e : s.carryOut g r loop iter = some u) :
    u.MemOk := by
  unfold State.carryOut at e
  dsimp only at e
  split at e
  next hw =>
    obtain rfl := Option.some.inj e
    exact ok.write.vaWrite.snd hw
  · cases e

theorem State.MemOk.carryIn {s u : State} {r : Rec} {cores : List Nat} (ok : s.MemOk) (e : s.carryIn d r cores = some u) : u.MemOk := by
  unfold State.carryIn at e
  dsimp only at e
  split at e
  next hr =>
    obtain rfl := Option.some.inj e
    exact (ok.vaRead.snd hr).foldl fun _ _ ok => ok.write
  · cases e

theorem State.MemOk.freeCore (ok : s.MemOk) : (s.freeCore g).MemOk := .ite ok.modC ok.modP

theorem State.MemOk.dropSae (ok : s.MemOk) : (s.dropSae g).MemOk := .ite ok.setCluster.saeWake ok

theorem State.MemOk.writeBack {t : Nat} {r : Rec} (ok : s.MemOk) : (s.writeBack t g r).MemOk := by
  unfold State.writeBack
  split
  · exact ok
  · split
    next e1 => exact (ok.place.snd e1).setTask
    next e1 => exact (ok.place.snd e1).moveTask

theorem State.MemOk.loseClusters {l : List Nat} (ok : s.MemOk) : (s.loseClusters l).MemOk := ok.foldl fun _ _ ok => ok.loseBytes

theorem State.MemOk.loseStaging {r : Rec} {grp : List Nat} (ok : s.MemOk) : (s.loseStaging r grp).MemOk :=
  .ite (ok.foldl (fun _ _ ok => ok.loseBytes)) ok

theorem State.MemOk.endCommands {grp : List Nat} {stepped : Bool} (ok : s.MemOk) : (s.endCommands grp stepped).MemOk :=
  ok.foldl (fun _ _ ok => .ite (ok.of_mem rfl) (.ite (ok.of_mem rfl) ok))

theorem State.MemOk.finishCont {m : EndMode} (ok : s.MemOk) : (s.finishCont g m).MemOk := by
  unfold State.finishCont
  extract_lets grp stepped old r carries img s1 out cls
  have published : s1.MemOk := ok.foldl fun _ _ ok => .publish (.ite ok.finishWindow ok)
  have carried : Each State.MemOk out := by cases m with
    | retire => exact .some published
    | back => exact .ite (fun _ e => published.carryOut e) (.some published)
    | hand => exact fun _ e => published.carryOut e
  clear_value out
  refine .ite ok.meetMem ?_
  cases out with
  | none => exact ok
  | some u =>
    dsimp -zeta only
    extract_lets s2 t s3 name s4 gear s5 s6 s7
    have flushed : s3.MemOk := ((carried u rfl).foldl fun _ _ ok => ok.flushProf.dropInterrupts.dropSae).charge
    have placed : s4.MemOk := by cases m with
      | retire => exact flushed.removeTask
      | back => exact flushed.writeBack
      | hand => exact flushed.writeBack
    have traced : s5.MemOk := by cases m with
      | retire => exact placed
      | back => exact placed
      | hand => exact placed.traceRec
    have freed : s7.MemOk := (traced.endCommands.foldl fun _ _ ok => ok.freeCore).loseStaging
    have lost : ((grp.foldl State.losePad s7).loseClusters cls).MemOk := (freed.foldl fun _ _ ok => ok.losePad).loseClusters
    cases m with
    | retire => exact freed
    | back => exact lost
    | hand => exact lost

theorem State.MemOk.asLaneZero {off ends : Bool} (ok : s.MemOk) : (s.asLaneZero g off ends).MemOk := by
  unfold State.asLaneZero
  split <;> exact .ite ok.modC ok

theorem suspMove_nextOk {gd : BitVec 3} {src : BitVec 10} {ends : CoreC → Bun → Bool} {act : MoveCtx → State} (ok : s.MemOk)
    (hact : ∀ x, (act x).MemOk) : NextOk (suspMove gd src s ends act) :=
  .ite (runMove_nextOk ok (fun _ => hact _)) (.ite (.next ok.asLaneZero) (.next ok))

theorem execCtSusp_nextOk {gd : BitVec 3} {src : BitVec 10} {k : BitVec 1} (ok : s.MemOk) : NextOk (execCtSusp gd src k s) := by
  unfold execCtSusp
  refine suspMove_nextOk ok fun a => .ite ok.trap (.ite ok.hold.ask ?_)
  split
  · exact ok.trap
  · exact ok.modC.ask

theorem State.MemOk.endWithCause {c : CoreC} (ok : s.MemOk) : (s.endWithCause asid lead c).MemOk := by
  unfold State.endWithCause
  split
  · exact ok
  · exact .ite ok ok.beginTeardown

theorem execHandOver_nextOk (ok : s.MemOk) : NextOk (execHandOver g s) := by
  unfold execHandOver
  refine .ite ?_ ?_
  · split
    · exact .next ok.finishCont
    · exact .next ok
  · split
    · exact .next ok
    · exact .next ok.finishCont.endWithCause

/-! ### Integer moves -/

theorem iaMove_nextOk {gd : BitVec 3} {src : BitVec 10} {u k : BitVec 1} {lat : Nat}
    {f : CoreC → Word → Word → Word → Option (Word × Flags)} (ok : s.MemOk) : NextOk (iaMove gd src u k s lat f) :=
  runMove_nextOk ok fun _ => ok.finish

theorem iaPlain_nextOk {gd : BitVec 3} {src : BitVec 10} {u k : BitVec 1} {lat : Nat} {f : Word → Word → Word} (ok : s.MemOk) :
    NextOk (iaPlain gd src u k s lat f) :=
  iaMove_nextOk ok

theorem iaDivide_nextOk {gd : BitVec 3} {src : BitVec 10} {u k : BitVec 1} {signed quot : Bool} (ok : s.MemOk) :
    NextOk (iaDivide gd src u k s signed quot) :=
  runMove_nextOk ok fun _ => ok.finish.modC

/-! ### The portable gear -/

theorem baseOp_nextOk {body : Nat → CoreP → State} (hbody : ∀ g c, (body g c).MemOk) : NextOk (baseOp s body) := .next (hbody _ _)

theorem xpolOp_nextOk {h : BitVec 3} {body : Nat → CoreP → State} (ok : s.MemOk) (hbody : ∀ g c, (body g c).MemOk) :
    NextOk (xpolOp h s body) :=
  .next (.ite ok.trapP (hbody _ _))

theorem State.MemOk.failP {t : Trap} (ok : s.MemOk) : (s.failP g t).MemOk := ok.trapP

theorem State.MemOk.doneX {rd : Nat} {w : Word} (ok : s.MemOk) : (s.doneX g rd w).MemOk := ok.modP.advance

theorem State.MemOk.doneQ {rd : Nat} {a : VRes} (ok : s.MemOk) : (s.doneQ g rd a).MemOk := by
  unfold State.doneQ
  split
  · exact ok.modP.advance
  · exact ok.trapP

theorem execPortableLoad_nextOk {f3 : BitVec 3} {rd rs1 : BitVec 5} {imm : BitVec 12} (ok : s.MemOk) :
    NextOk (execPortableLoad f3 rd rs1 imm s) := by
  unfold execPortableLoad
  refine baseOp_nextOk fun _ _ => ?_
  dsimp only
  split
  · exact ok.failP
  · exact ok.doneX

theorem execPortableStore_nextOk {f3 : BitVec 3} {rs1 rs2 : BitVec 5} {imm : BitVec 12} (ok : s.MemOk) :
    NextOk (execPortableStore f3 rs1 rs2 imm s) := by
  unfold execPortableStore
  refine baseOp_nextOk fun _ _ => ?_
  dsimp only
  split
  · exact ok.failP
  · exact ok.write.advance

theorem execPortableBranchJump_nextOk {j : JumpOp} (ok : s.MemOk) : NextOk (execPortableBranchJump j s) := by
  unfold execPortableBranchJump
  refine baseOp_nextOk fun _ _ => ?_
  split
  · exact ok.advance
  · exact .ite ok.trapP ok.modP.goTo

/-! ### Starts -/

theorem State.MemOk.startAcquire {r : Rec} {acq : Option Nat} (ok : s.MemOk) : (s.startAcquire g r acq).MemOk := by
  unfold State.startAcquire
  refine .ite (.observe ?_) ?_
  · split
    · exact ok.acquireTo
    · exact ok
  · split
    · exact ok.acquireTo
    · exact ok

theorem State.MemOk.dispatchFault {r : Rec} {acq : Option Nat} (ok : s.MemOk) : (s.dispatchFault g r acq).MemOk :=
    by
  unfold State.dispatchFault
  split
  · exact ok
  · split
    · exact ok
    · exact .ite ok.modChan.requestStop ok.modChan.stopP

theorem State.MemOk.launchOn {tid : Nat} {t : Task} {grp : List Nat} (ok : s.MemOk) : (s.launchOn tid t grp).MemOk := by
  unfold State.launchOn
  extract_lets g s1 s0
  have lost : s1.MemOk := .ite (ok.foldl fun _ _ ok => ok.losePad) ok
  have carried : Each State.MemOk s0 := .ite (fun _ e => lost.carryIn e) (.some lost)
  clear_value s0
  split
  · exact ok
  · cases s0 with
    | none => exact ok
    | some u =>
      have loaded : u.MemOk := carried u rfl
      dsimp -zeta only
      extract_lets n s2 s3 s4
      have started : s2.MemOk := .ite (State.MemOk.foldl (loaded.of_mem rfl) fun _ _ ok => ok.modC) loaded.modP
      have acquired : s4.MemOk := started.setTask.foldl fun _ _ ok => ok.startAcquire
      exact acquired.dispatchFault.countPart.endGather

theorem execDispatch_nextOk {p : Nat} (ok : s.MemOk) : NextOk (execDispatch p g s) := by
  unfold execDispatch
  extract_lets _
  split
  · exact .next ok
  · refine .ite (.next ok) ?_
    split
    · exact .next ok
    · exact .next (.launchOn ok.pick)

theorem State.MemOk.padIn {live : List (Nat × Nat)} {m : Memory} (ok : s.MemOk) : (s.padIn g live m).MemOk :=
  (ok.foldl (fun _ _ ok => ok.write)).foldl fun _ _ ok => ok.write

theorem State.MemOk.orphanSae {hit : Nat → Bool} (ok : s.MemOk) : (s.orphanSae hit).MemOk := ok.of_mem rfl

theorem State.MemOk.retagSae {old new : Nat} (ok : s.MemOk) : (s.retagSae old new).MemOk := ok.of_mem rfl

theorem State.MemOk.shiftAgain {was : Bool} (ok : s.MemOk) : (s.shiftAgain g was).MemOk := .ite ok.askShift ok

theorem State.MemOk.resumeOn {tid : Nat} {t : Task} {x : Ctx} {grp : List Nat} (ok : s.MemOk) : (s.resumeOn tid t x grp).MemOk := by
  unfold State.resumeOn
  refine .endGather (.shiftAgain (.setTask ?_))
  split
  · exact ok.modP.padIn
  · exact ok.foldl fun _ _ ok => ok.modC.padIn.retagSae

theorem execResume_nextOk {p : Nat} (ok : s.MemOk) : NextOk (execResume p g s) := by
  unfold execResume
  extract_lets _
  split
  · exact .next ok
  · split
    · exact .next ok
    · split
      · exact .next ok
      · exact .next (.resumeOn ok.pick)

/-! ### Images of contexts -/

theorem State.MemOk.putItems {a : Nat} {l : Items} (ok : s.MemOk) : (s.putItems a l).MemOk := ok.foldl fun _ _ ok => ok.write

theorem State.MemOk.contextOut {full : Bool} {a : Nat} (ok : s.MemOk) : (s.contextOut full g a).1.MemOk :=
  ok.putItems.foldl fun _ _ ok => ok.write

theorem State.MemOk.contextsOut {full : Bool} {a : List Nat} {a1 : Nat} (ok : s.MemOk) : (s.contextsOut full a a1).1.MemOk := by
  induction a generalizing s full a1 with
  | nil => exact ok
  | cons head tail ih => exact ih ok.contextOut

/-- The home map is beside memory. -/
theorem State.MemOk.withHome {m : Sys2Proof.Tab (BitVec 4)} (ok : s.MemOk) : ({ s with home := m } : State).MemOk := ok

theorem State.MemOk.saveRoom (ok : s.MemOk) : (s.saveRoom d n).2.MemOk := by
  unfold State.saveRoom
  split
  · exact ok
  · dsimp only
    split
    · exact ok.withHome
    · exact ok

theorem State.MemOk.imageInC {a : Nat} (ok : s.MemOk) : (s.imageInC g a).MemOk := ok.setC

theorem State.MemOk.imageInP {a : Nat} (ok : s.MemOk) : (s.imageInP g a).MemOk := ok.setP

theorem State.MemOk.imageIn {a : Nat} (ok : s.MemOk) : (s.imageIn g a).MemOk := .write (.ite ok.imageInC ok.imageInP)

/-! ### Stops -/

theorem State.MemOk.setBlock {b : Block} (ok : s.MemOk) : (s.setBlock g b).MemOk := ok.of_mem rfl

theorem State.MemOk.modBlock {f : Block → Block} (ok : s.MemOk) : (s.modBlock g f).MemOk := ok.setBlock

theorem State.MemOk.after {o : Host.Outcome State Fault Refusal} (ok : s.MemOk) (ho : NextOk o) : (after s o).MemOk := by
  unfold Machine.after
  split
  · exact ho _ rfl
  · exact ok

theorem State.MemOk.settleSeq (ok : s.MemOk) : (s.settleSeq g).MemOk := by
  unfold State.settleSeq
  dsimp only
  split
  · exact .ite ok ok.seqStep
  · exact ok

theorem State.MemOk.settleEngine {a : Nat} (ok : s.MemOk) : (s.settleEngine g a).MemOk := by
  induction a generalizing s with
  | zero => exact ok
  | succ n ih =>
    unfold State.settleEngine
    dsimp only
    split
    · exact ih (ok.after (.ite (execTokenReturn_nextOk ok) (execCommandInFlightComplete_nextOk ok)))
    · split
      · exact ih (ok.after (execTokenReturn_nextOk ok))
      · exact ok

theorem State.MemOk.standStill {r : StopReq} (ok : s.MemOk) : (s.standStill lead r).MemOk :=
  ok.foldl fun _ _ ok => ok.modC.finishWindow.settleSeq.settleEngine.modC

theorem State.MemOk.markHeld {b : Bool} (ok : s.MemOk) : (s.markHeld g b).MemOk := by
  unfold State.markHeld
  extract_lets _ s1
  have ok1 : s1.MemOk := ok.foldl fun _ _ ok1 => .ite ok1.modC ok1.modP
  split
  · exact ok1.setTask
  · exact ok1

theorem State.MemOk.holdResident (ok : s.MemOk) : (s.holdResident g).MemOk := by
  unfold State.holdResident
  refine .foldl ?_ fun _ _ ok => ok.modBlock
  split
  · exact ok.markHeld.setTask
  · exact ok.markHeld

theorem State.MemOk.saveContext (ok : s.MemOk) : (s.saveContext g).MemOk := by
  unfold State.saveContext
  extract_lets grp tid s1 s2 n a ctx x s3 s4 s5
  have roomed : a.2.MemOk := (ok.foldl fun _ _ ok => ok.publish.flushProf).charge.saveRoom
  have saved : s3.MemOk := by
    dsimp only [s3]
    clear_value a
    split
    · exact roomed.contextsOut
    · exact roomed
  clear_value s3
  have marked : s4.MemOk := .ite (saved.foldl fun _ _ ok => ok.retagSae) saved
  have parked : s5.MemOk := by
    dsimp only [s5]
    split
    · exact marked.setTask
    · exact marked
  exact parked.foldl fun _ _ ok => ok.freeCore

theorem State.MemOk.fatal {w : Word} {also : Option Word} (ok : s.MemOk) : (s.fatal g w also).MemOk := by
  unfold State.fatal
  refine .ite (.stopOthers (.foldl ?_ (fun _ _ ok => .ite ok ok.enter))) (.foldl ?_ (fun _ _ ok => .ite ok ok.enter))
  · split
    · exact .enter (.enter (.ite ok.enter ok))
    · exact .enter (.ite ok.enter ok)
  · split
    · exact .enter (.enter (.ite ok.enter ok))
    · exact .enter (.ite ok.enter ok)

theorem State.MemOk.spoiled {x : Nat × BadWord} (ok : s.MemOk) : (s.spoiled x).MemOk := by
  unfold State.spoiled
  exact .fatal (.ite (.modC (ok.of_mem rfl)) (.modP (ok.of_mem rfl)))

theorem State.MemOk.saveOrSpoil (ok : s.MemOk) : (s.saveOrSpoil g).MemOk := by
  unfold State.saveOrSpoil
  split
  · exact ok.spoiled
  · exact ok.saveContext

theorem State.MemOk.dispose {w : Word} {also : Option Word} (ok : s.MemOk) : (s.dispose g w also).MemOk :=
  .ite ok.saveOrSpoil.countPart (.ite ok.holdResident.countPart (.ite ok.holdResident (.ite ok ok.fatal.countPart)))

theorem State.MemOk.idleBlocks {l : List Nat} (ok : s.MemOk) : (s.idleBlocks l).MemOk := ok.foldl fun _ _ ok => .ite ok.modBlock ok

theorem execStop_nextOk (ok : s.MemOk) : NextOk (execStop g s) := by
  unfold execStop
  refine .ite ?_ ?_
  · extract_lets lead c
    split
    · exact .next ok
    · extract_lets r s1 s2 rest bad held w
      have published : s2.MemOk := ok.standStill.modAll.foldl fun _ _ ok => ok.publish
      exact .ite (.next ok) (.ite (.next (published.foldl fun _ _ ok => .ite ok ok.asyncStopC)) (.next published.dispose.idleBlocks))
  · dsimp only
    split
    · exact .next ok
    · exact .ite (.next ok) (.next ok.modP.dispose.idleBlocks)

theorem execPreemptionDeadline_nextOk (ok : s.MemOk) : NextOk (execPreemptionDeadline g s) := by
  unfold execPreemptionDeadline
  split
  · dsimp only
    split
    · exact .next ok
    · exact .ite (.next ok.asyncStop) (.next ok)
  · dsimp only
    split
    · exact .next ok
    · exact .ite (.next ok.asyncStop) (.next ok)

theorem State.MemOk.discardCopy {kind unit idx : Nat} (ok : s.MemOk) : (s.discardCopy kind unit idx).MemOk := by
  unfold State.discardCopy
  split
  · exact ok.evictTurn
  · exact ok.evictTurn
  · exact ok.evictTurn
  · split
    · exact ok.setCe
    · exact ok
  · exact ok.evictTurn
  · exact .ite ok.refetch ok

theorem State.MemOk.putBad {code unit idx : Nat} (ok : s.MemOk) : (s.putBad code unit idx).MemOk :=
  .ite (.meetBad (ok.of_mem rfl)) (ok.of_mem rfl)

theorem State.MemOk.savedSaeError {mark idx : Nat} (ok : s.MemOk) : (s.savedSaeError mark idx).MemOk := by
  unfold State.savedSaeError
  split
  · exact ok
  · split
    · exact ok
    · exact ok.beginTeardown

theorem execSramError_nextOk {structure_ idx : Nat} {correctable : Bool} (ok : s.MemOk) :
    NextOk (execSramError structure_ idx g correctable s) := by
  unfold execSramError
  refine .ite (.next (ok.foldl (fun _ _ ok => .ite ok ok.countTotal))) ?_
  split
  · exact .next ok.discardCopy
  · exact .next ok.putBad
  · exact .next ok.putBad
  · exact .next ok.putBad
  · exact .next ok.causeOn
  · split
    · exact .next ok
    · exact .next ok.removeTask.beginTeardown
  · split
    · exact .next ok
    · exact .next ok.beginTeardown
  · exact .ite (.next ok.causeOn) (.ite (.next ok.savedSaeError) (.next ok.modChan))
  · exact .next ok

theorem execBreakpoint_nextOk (ok : s.MemOk) : NextOk (execBreakpoint g s) := by
  unfold execBreakpoint
  split
  · exact .next ok
  · exact .ite (.ite (.next ok.traceRec.modC) (.next ok.modC.modAll.requestStop)) (.ite (.next ok.traceRec.modP) (.next ok.trapP))

/-! ### Boot and reset -/

theorem State.MemOk.note {what detail : Nat} (ok : s.MemOk) : (s.note what detail).MemOk := ok.of_mem rfl

theorem State.MemOk.extend {r : Nat} {image : List Byte} (ok : s.MemOk) : (s.extend d r image).MemOk := .ite ok ok.setDie

theorem State.MemOk.extendAll {r : Nat} {image : List Byte} (ok : s.MemOk) : (s.extendAll r image).MemOk := ok.foldl fun _ _ ok => ok.extend

theorem State.MemOk.journalStep {st i out meth : Nat} (ok : s.MemOk) : (s.journalStep st i out meth).MemOk := .extendAll (ok.of_mem rfl)

theorem State.MemOk.journalEvent {what detail : Nat} (ok : s.MemOk) : (s.journalEvent what detail).MemOk := ok.of_mem rfl

theorem State.MemOk.measure {st i m : Nat} (ok : s.MemOk) : (s.measure st i m).MemOk := by
  unfold State.measure
  split
  · exact ok
  · exact .ite ok (.ite ok.extendAll ok.extend)

theorem State.MemOk.bootEffect {st i m : Nat} (ok : s.MemOk) : (s.bootEffect st i m).MemOk := by
  unfold State.bootEffect
  split
  · exact ok.of_mem rfl
  · exact .ite (.note (ok.of_mem rfl)) ok
  · exact .ite (.foldl (ok.of_mem rfl) (fun _ _ ok => ok.note)) ok
  · exact ok.of_mem rfl
  · exact ok.foldl fun _ _ ok => .setDie (ok.of_mem rfl)
  · exact ok

theorem State.MemOk.sealUp (ok : s.MemOk) : s.sealUp.MemOk :=
  .ite (.note (.ite (ok.of_mem rfl) (ok.of_mem rfl))) (.ite (ok.of_mem rfl) (ok.of_mem rfl))

theorem State.MemOk.bootRun {st i m methods : Nat} {req : Bool} (ok : s.MemOk) : (s.bootRun st i m methods req).MemOk := by
  unfold State.bootRun
  extract_lets _ s1
  have ok1 : s1.MemOk := ok.measure
  split
  · extract_lets s2 s3 b s4
    have ok2 : s2.MemOk := ok1.bootEffect.journalStep
    have ok4 : s4.MemOk := (State.MemOk.ite ok2.note ok2).of_mem rfl
    exact .ite ok4.sealUp ok4
  · exact .ite (.note (ok1.journalStep.of_mem rfl)) (.note (ok1.journalStep.of_mem rfl))

theorem State.MemOk.powerUp (ok : s.MemOk) : s.powerUp.MemOk := Memory.wfFrom_filter _ ok

theorem execBringUp_nextOk (ok : s.MemOk) : NextOk (execBringUp s) := by
  unfold execBringUp
  refine .ite (.next ok.powerUp) ?_
  split
  · split
    · exact .next (.note (ok.journalStep.of_mem rfl))
    · exact .next ok.bootRun
    · exact .next (.note (ok.journalStep.of_mem rfl))
  · exact .next ok

theorem execAttestationReport_nextOk {nonce : BitVec 256} (ok : s.MemOk) : NextOk (execAttestationReport nonce s) := by
  unfold execAttestationReport
  split
  · exact .next (ok.of_mem rfl)
  · exact .next ok

theorem State.MemOk.setIsland {i : Nat} {x : Island} (ok : s.MemOk) : (s.setIsland i x).MemOk := ok.of_mem rfl

theorem State.MemOk.setClock {i mhz : Nat} (ok : s.MemOk) : (s.setClock i mhz).MemOk :=
  .ite ok (ok.setIsland.foldl (fun _ _ ok => .ite ok.traceRec ok))

theorem State.MemOk.powerOff (ok : s.MemOk) : s.powerOff.MemOk := ok.of_mem rfl

/-! ### Teardown -/

theorem State.MemOk.copySaved {a : List (Nat × Ctx)} {a1 : Nat} (ok : s.MemOk) : (s.copySaved a a1).1.MemOk := by
  induction a generalizing s a1 with
  | nil => exact ok
  | cons head tail ih => exact ih (.ite ok.write ok)

theorem State.MemOk.writeDump {pa : Nat} {saved : List (Nat × Ctx)} (ok : s.MemOk) : (s.writeDump asid pa saved).1.MemOk :=
  .iteFst (ok.of_mem rfl) (ok.putItems.contextsOut.copySaved.putItems.of_mem rfl)

theorem State.MemOk.releaseCores (ok : s.MemOk) : (s.releaseCores asid).MemOk :=
  (ok.foldl (fun _ _ ok => ok.loseStaging)).foldl fun _ _ ok => ok.publish.dropInterrupts.orphanSae.dropSae.modBlock.freeCore

theorem State.MemOk.releaseQueues (ok : s.MemOk) : (s.releaseQueues asid).MemOk := by
  unfold State.releaseQueues
  refine ok.foldl ?_
  intro s1 x ok1
  split
  next e => exact execQueueAbort_nextOk ok1 _ e
  · exact ok1

theorem State.MemOk.releaseSync (ok : s.MemOk) : (s.releaseSync asid).MemOk := ok.foldl fun _ _ ok => ok.setDie

theorem State.MemOk.releaseRecords (ok : s.MemOk) : (s.releaseRecords asid).MemOk :=
  ((ok.orphanSae.foldl (fun _ _ ok => ok.saeWake)).foldl (fun _ _ ok => ok.removeTask)).of_mem rfl

theorem State.MemOk.requestTeardown (ok : s.MemOk) : (s.requestTeardown asid).MemOk := by
  unfold State.requestTeardown
  extract_lets s1 s2 s3
  have cores : s2.MemOk := State.MemOk.foldl (ok.of_mem rfl) fun _ _ ok => ok.enter
  have saved : s3.MemOk := cores.foldl fun s t ok => by
    split
    · exact ok.enter
    · exact ok
  exact saved.stopOthers

theorem State.MemOk.tearRest (ok : s.MemOk) : (s.tearRest asid).MemOk := .ite (.irq (ok.releaseSync.releaseRecords.of_mem rfl)) ok

theorem execDumpSlotRelease_nextOk (ok : s.MemOk) : NextOk (execDumpSlotRelease asid s) := .next (ok.of_mem rfl)

theorem execReleaseHeld_nextOk (ok : s.MemOk) : NextOk (execReleaseHeld asid s) := .next (ok.of_mem rfl)

theorem execDebuggerDetach_nextOk (ok : s.MemOk) : NextOk (execDebuggerDetach asid s) := .next (ok.of_mem rfl)

theorem State.MemOk.writeDesc {f : Nat → Nat} (ok : s.MemOk) : (s.writeDesc asid f).MemOk := ok.foldl fun _ _ ok => ok.write

theorem execAddressSpaceCreate_nextOk {words : List (BitVec 64)} (ok : s.MemOk) : NextOk (execAddressSpaceCreate asid words s) := by
  unfold execAddressSpaceCreate
  extract_lets s1
  have written : s1.MemOk := ok.writeDesc
  clear_value s1
  exact .ite (.next ok) (.next (written.of_mem rfl))

theorem execAddressSpaceDelete_nextOk (ok : s.MemOk) : NextOk (execAddressSpaceDelete asid s) := by
  unfold execAddressSpaceDelete
  extract_lets s1
  have written : s1.MemOk := ok.writeDesc
  clear_value s1
  exact .ite (.next (written.of_mem rfl)) (.next ok)

theorem State.MemOk.stopModule (ok : s.MemOk) : s.stopModule.MemOk := ok.foldl fun _ _ ok => .ite ok ok.asyncStop

theorem State.MemOk.dumpAll {pa : Nat} (ok : s.MemOk) : (s.dumpAll asid pa).1.MemOk := (ok.foldl (fun _ _ ok => ok.enter)).writeDump

theorem execFatalThermalFault_nextOk {i pa : Nat} (ok : s.MemOk) : NextOk (execFatalThermalFault i pa s) := by
  unfold execFatalThermalFault
  split
  · exact .next ok
  · extract_lets asids r
    have dumped : r.1.MemOk := State.MemOk.foldlFst (p := (s, pa)) ok fun _ _ ok => ok.dumpAll
    exact .ite (.next ok) (.ite (.next ok.stopModule) (.ite (.next ok) (.next dumped.journalEvent.note.powerOff)))

/-! ### Links between dies -/

theorem State.MemOk.setPort {i : Nat} {p : Port} (ok : s.MemOk) : (s.setPort i p).MemOk := ok.of_mem rfl

theorem State.MemOk.sendMsg {i vc tag : Nat} {l : List Byte} (ok : s.MemOk) : (s.sendMsg i vc tag l).MemOk := ok.setPort

theorem State.MemOk.sendRow {p : Pkt} {r : Nat} (ok : s.MemOk) : (s.sendRow ch p r).2.MemOk := by
  unfold State.sendRow
  split
  next e => exact (ok.rowLocs.snd e).pktFault
  next e =>
    have ok1 := ok.rowLocs.snd e
    exact .iteSnd ok1 (.iteSnd ok1.countLines.pktDone ok1.meetRow.wonRow.countRow.pieceRead.sendMsg.setPort.modPkt)

theorem State.MemOk.landWire {i : Nat} {a : List WireRow} (ok : s.MemOk) : (s.landWire i a).MemOk := by
  induction a generalizing s with
  | nil => exact ok
  | cons head tail ih => exact .ite (ih ok.write.setPort) ok

theorem State.MemOk.landPort {i : Nat} (ok : s.MemOk) : (s.landPort i).MemOk := ok.landWire

theorem execSendAcknowledged_nextOk (ok : s.MemOk) : NextOk (execSendAcknowledged ch n s) := by
  unfold execSendAcknowledged
  split
  · exact .next ok
  · exact .ite (.next ok) (.next ok.modPkt.landPort)

theorem execSendAckTimeout_nextOk (ok : s.MemOk) : NextOk (execSendAckTimeout ch n s) := by
  unfold execSendAckTimeout
  split
  · exact .next ok
  · exact .ite (.next ok) (.next ok.setPort.modPkt.note.landPort)

theorem State.MemOk.perform {i tag : Nat} {l : List Byte} (ok : s.MemOk) : (s.perform i tag l).MemOk := by
  unfold State.perform
  dsimp only
  split
  · exact ok
  · split
    · exact ok.foldl fun _ _ ok => ok.write
    · exact ok.sendMsg
    · exact .ite ok.write.sendMsg ok
    · exact ok

theorem State.MemOk.performAll {i : Nat} {a : List (Nat × List Byte)} (ok : s.MemOk) : (s.performAll i a).1.MemOk := by
  induction a generalizing s with
  | nil => exact ok
  | cons head tail ih => exact .iteFst (ih ok) (.iteFst ok (ih ok.perform))

theorem State.MemOk.performHeld {i : Nat} (ok : s.MemOk) : (s.performHeld i).MemOk := .ite ok.setPort.performAll.setPort ok

/-! ### Invalidation -/

theorem State.MemOk.mapTlbs {f : TlbEnt → Option TlbEnt} (ok : s.MemOk) : (s.mapTlbs f).MemOk := ok.of_mem rfl

theorem State.MemOk.invWalk {kind vm : Nat} (ok : s.MemOk) : (s.invWalk kind vm asid).MemOk := ok.foldl fun _ _ ok => ok.setDie

theorem State.MemOk.invAnew {kind vm : Nat} (ok : s.MemOk) : (s.invAnew kind vm asid).MemOk := by
  unfold State.invAnew
  extract_lets s1
  have walked : s1.MemOk := ok.invWalk
  clear_value s1
  exact .ite (walked.of_mem rfl) walked

theorem State.MemOk.invGo {w : Word} (ok : s.MemOk) : (s.invGo w).MemOk := .ite (ok.of_mem rfl) (ok.mapTlbs.invAnew.of_mem rfl)

theorem execInvalidateComplete_nextOk (ok : s.MemOk) : NextOk (execInvalidateComplete s) := by
  unfold execInvalidateComplete
  split
  · exact .next ok
  · extract_lets hit s1 s2 done
    have gone : s2.MemOk := ok.mapTlbs.invAnew
    clear_value s2
    exact .ite (.next (ok.of_mem rfl)) (.next (gone.of_mem rfl))

/-! ### Debug commands -/

theorem State.MemOk.command {ok1 : Bool} {act : State → List Nat → State} (ok : s.MemOk) (hact : ∀ t x, t.MemOk → (act t x).MemOk) :
    NextOk (s.command g ok1 act) :=
  .ite (.next (hact _ _ (ok.foldl (fun _ _ ok => ok.modBlock)))) (.next ok.modBlock)

theorem execHalt_nextOk (ok : s.MemOk) : NextOk (execHalt g s) :=
  ok.command (fun _ _ ok => (ok.foldl (fun _ _ ok => ok.modBlock)).asyncStop)

theorem State.MemOk.open_ {grp : List Nat} (ok : s.MemOk) : (s.open_ grp).MemOk :=
  (ok.foldl (fun _ _ ok => ok.modBlock)).foldl fun _ _ ok => ok.performHeld

theorem State.MemOk.runResident {grp : List Nat} (ok : s.MemOk) : (s.runResident g grp).MemOk := by
  unfold State.runResident
  refine .shiftAgain (.foldl (.foldl ?_ (fun _ _ ok => .ite ok.modC ok.modP)) (fun _ _ ok => ok.modBlock))
  split
  · exact ok.setTask
  · exact ok

theorem execRunHalted_nextOk (ok : s.MemOk) : NextOk (execRunHalted g s) := ok.command fun _ _ ok => ok.open_.markHeld.runResident

theorem execStepHalted_nextOk (ok : s.MemOk) : NextOk (execStepHalted g s) := by
  unfold execStepHalted
  refine ok.command fun _ _ ok => ?_
  extract_lets old s1 s2
  have resumed : s2.MemOk := ok.runResident.modAll.foldl fun _ _ ok => ok.modBlock
  refine .ite (resumed.foldl fun _ _ ok => ?_) resumed.modP
  split
  · exact ok.requestStop
  · exact ok

theorem execShut_nextOk (ok : s.MemOk) : NextOk (execShut g s) := ok.command fun _ _ ok => ok.foldl (fun _ _ ok => ok.modBlock)

theorem execOpenShutter_nextOk (ok : s.MemOk) : NextOk (execOpenShutter g s) := ok.command fun _ _ ok => ok.open_

theorem execImgout_nextOk (ok : s.MemOk) : NextOk (execImgout g s) := by
  unfold execImgout
  refine ok.command fun _ _ ok1 => ?_
  split
  · split
    · exact ok1.spoiled
    · exact ok1.foldl fun _ _ ok => ok.contextOut
  · split
    · exact ok1.spoiled
    · exact ok1.foldl fun _ _ ok => ok.contextOut

theorem execImgin_nextOk (ok : s.MemOk) : NextOk (execImgin g s) := by
  unfold execImgin
  exact ok.command fun _ _ ok => ok.foldl (fun _ _ ok => ok.imageIn)

theorem execEvict_nextOk (ok : s.MemOk) : NextOk (execEvict g s) :=
  ok.command (fun _ _ ok => (ok.foldl (fun _ _ ok => ok.modBlock)).saveOrSpoil)

/-! ### Tracing -/

theorem execProfileSessionWrite_nextOk {i : Nat} {w : BitVec 64} (ok : s.MemOk) : NextOk (execProfileSessionWrite asid i w s) :=
  .ite (.next ok) (.ite (.next (ok.of_mem rfl)) (.next (ok.of_mem rfl)))

theorem State.MemOk.markSample (ok : s.MemOk) : (s.markSample g).MemOk := .ite ok.modC ok.modP

theorem execBundleSample_nextOk (ok : s.MemOk) : NextOk (execBundleSample g s) := .ite (.next ok.traceRec.markSample) (.next ok)

theorem execEngineSample_nextOk (ok : s.MemOk) : NextOk (execEngineSample g s) := by
  unfold execEngineSample
  refine .ite ?_ (.next ok)
  extract_lets _ s1
  have ok1 : s1.MemOk := ok.markSample
  split
  · exact .next ok1.traceRec
  · exact .next ok1.modC

theorem State.MemOk.sampleNow {l : List Nat} (ok : s.MemOk) : Each NextOk (s.sampleNow l) := by
  unfold State.sampleNow
  split
  · exact .none
  · exact .some (.ite (execBundleSample_nextOk ok) (execEngineSample_nextOk ok))

theorem State.MemOk.stopAll31 (ok : s.MemOk) : s.stopAll31.MemOk := ok.foldl fun _ _ ok => ok.asyncStop

theorem execReplayDivergence_nextOk (ok : s.MemOk) : NextOk (execReplayDivergence g s) := .ite (.next ok.traceRec.stopAll31) (.next ok)

/-! ### Accesses of the host -/

theorem State.MemOk.tell {m : HostMsg} (ok : s.MemOk) : (s.tell m).MemOk := ok.of_mem rfl

theorem State.MemOk.bar2Locs {fn addr : Nat} {acc : Acc} (ok : s.MemOk) : (s.bar2Locs fn addr n acc).2.MemOk := by
  unfold State.bar2Locs
  refine .iteSnd (.iteSnd ok (.iteSnd ok ok)) (.iteSnd ok ?_)
  split
  · exact ok
  · split
    next e2 => exact ok.vaLocs.snd e2
    next e2 => exact ok.vaLocs.snd e2

theorem execHostBar2Write_nextOk {fn addr : Nat} {data : List (BitVec 8)} (ok : s.MemOk) : NextOk (execHostBar2Write fn addr data s) := by
  unfold execHostBar2Write
  split
  next e => exact .next (ok.bar2Locs.snd e).tell
  next e => exact .next (ok.bar2Locs.snd e).writeLocs.tell

theorem execHostBar2Read_nextOk {fn addr : Nat} (ok : s.MemOk) : NextOk (execHostBar2Read fn addr n s) := by
  unfold execHostBar2Read
  split
  next e => exact .next (ok.bar2Locs.snd e).tell
  next e => exact .next (ok.bar2Locs.snd e).tell

theorem execHostAtomic_nextOk {fn addr width : Nat} {op : HostAtom} {val cmp : BitVec 64} (ok : s.MemOk) :
    NextOk (execHostAtomic fn addr width op val cmp s) := by
  unfold execHostAtomic
  refine .ite (.next ok.tell) ?_
  split
  next e => exact .next (ok.bar2Locs.snd e).tell
  next e =>
    have ok1 := ok.bar2Locs.snd e
    exact .ite (.next ok1.tell) (.next ok1.writeLocs.tell)

theorem State.MemOk.resizeBar {size : Nat} (ok : s.MemOk) : (s.resizeBar size).MemOk := .ite (ok.of_mem rfl) ok

theorem State.MemOk.outState {o : Host.Outcome State Fault Refusal} (ok : s.MemOk) (ho : NextOk o) : (outState s o).MemOk := ok.after ho

theorem State.MemOk.descWrite {fn i k : Nat} {val : Word} (ok : s.MemOk) : (s.descWrite fn i k val).MemOk :=
  .ite (.ite ok.descOk (.ite ok.createQueue ok.closeQueue)) (.ite ok.descOk (.ite ok.descErr ok.setDescWord.descOk))

theorem State.MemOk.blockWrite {k : Nat} {val : Word} (ok : s.MemOk) : (s.blockWrite g k val).MemOk := by
  unfold State.blockWrite
  split
  · refine ok.outState ?_
    split
    · exact execHalt_nextOk ok
    · exact execRunHalted_nextOk ok
    · exact execStepHalted_nextOk ok
    · exact execShut_nextOk ok
    · exact execOpenShutter_nextOk ok
    · exact execImgout_nextOk ok
    · exact execImgin_nextOk ok
    · exact execEvict_nextOk ok
    · exact .next ok.modBlock
  · exact ok.modBlock
  · exact ok.modBlock
  · exact ok

theorem State.MemOk.debugWrite {val : Word} (ok : s.MemOk) : (s.debugWrite asid val).MemOk := by
  unfold State.debugWrite
  extract_lets s1
  have ok1 : s1.MemOk := .ite (ok.outState (execReleaseHeld_nextOk ok)) ok
  exact .ite (ok1.outState (execDebuggerDetach_nextOk ok1)) (ok1.of_mem rfl)

theorem State.MemOk.traceWrite {k : Nat} {val : Word} (ok : s.MemOk) : (s.traceWrite d k val).MemOk := by
  unfold State.traceWrite
  split
  · exact ok.setDie
  · exact ok.setDie
  · exact ok.setDie
  · exact ok

theorem State.MemOk.pfWrite {s u : State} {off : Nat} {val : Word} (ok : s.MemOk) (e : s.pfWrite off val = some u) : u.MemOk := by
  have each : Each State.MemOk (s.pfWrite off val) := by
    unfold State.pfWrite
    refine .ite (.some ok.descWrite) (.ite (.some (.ite ok.invGo (ok.of_mem rfl))) (.ite (.some (ok.of_mem rfl)) (.ite (.some ok)
      (.ite (.some (ok.of_mem rfl)) (.ite (.some (ok.of_mem rfl)) (.ite (.some (ok.of_mem rfl)) (.ite (.some (ok.of_mem rfl))
      (.ite (.some (.ite (ok.outState (execDumpSlotRelease_nextOk ok)) ok)) (.ite (.some ok.blockWrite) (.ite (.some ok.debugWrite)
      (.ite (.some (ok.of_mem rfl)) (.ite (.some (ok.outState (execProfileSessionWrite_nextOk ok))) (.ite (.some ok.traceWrite)
      (.ite (.some (ok.outState (execChannelBind_nextOk ok))) ?_))))))))))))))
    split
    · exact .some (ok.of_mem rfl)
    · exact .map (P := fun _ => True) (fun _ _ => trivial) fun _ _ => ok
  exact each u e

theorem execRegisterWrite_nextOk {fn off : Nat} {val : BitVec 64} (ok : s.MemOk) : NextOk (execRegisterWrite fn off val s) := by
  unfold execRegisterWrite
  refine .ite ?_ (.ite (.next ok.descWrite) ?_)
  · split
    next e => exact .next (ok.pfWrite e)
    · exact .next ok.tell
  · split
    · exact .next (ok.of_mem rfl)
    · exact .next ok.tell

theorem State.MemOk.hostRead {fn off : Nat} (ok : s.MemOk) : (s.hostRead fn off).MemOk := ok.tell

/-! ### Code objects -/

theorem State.MemOk.cacheBundles {va : Nat} {a : List (BitVec 256)} (ok : s.MemOk) : (s.cacheBundles d asid va a).MemOk := by
  induction a generalizing s d asid va with
  | nil => exact ok
  | cons head tail ih =>
    unfold State.cacheBundles
    split
    · exact ih ok.write
    · exact ok

theorem State.MemOk.placeBundles {va pa : Nat} {marks : List (Nat × Nat × Nat)} (ok : s.MemOk) :
    (s.placeBundles d asid va pa n marks).MemOk :=
  ok.setDie

theorem State.MemOk.publishAt {handle ent va pa : Nat} {bundles : List (BitVec 256)} {marks : List (Nat × Nat × Nat)}
    {recs : Option (List BunRec)} (ok : s.MemOk) : (s.publishAt d asid handle ent va pa bundles marks recs).MemOk := by
  unfold State.publishAt
  extract_lets n s1
  have placed : s1.MemOk := ok.placeBundles.cacheBundles.discardCode
  clear_value s1
  exact placed.of_mem rfl

theorem State.MemOk.published' {handle ent : Nat} (ok : s.MemOk) : (s.published' d asid handle ent).MemOk := by
  unfold State.published'
  refine ok.foldl ?_
  intro s1 x ok1
  split
  · exact ok1.tierChanged
  · exact ok1

theorem State.MemOk.giveUp {handle ent : Nat} (ok : s.MemOk) : (s.giveUp d asid handle ent).MemOk := ok.of_mem rfl

theorem execBundlePublish_nextOk {handle ent va : Nat} {b : Translation} (ok : s.MemOk) :
    NextOk (execBundlePublish d asid handle ent va b s) := by
  unfold execBundlePublish
  split
  · exact .next ok
  · split
    · exact .next ok
    · exact .ite (.next ok) (.ite (.next ok.publishAt.published') (.ite (.next ok.giveUp) (.next ok)))

theorem State.MemOk.zeroPieces {l : List (Nat × Nat)} (ok : s.MemOk) : (s.zeroPieces l).MemOk := zeroPieces_memOk l ok

theorem State.MemOk.storeAll {l : List (Nat × Word)} (ok : s.MemOk) : (s.storeAll l).MemOk := ok.foldl fun _ _ ok => ok.devWrite

theorem State.MemOk.loadAt {s u : State} {va x : Nat} (ok : s.MemOk) (e : s.loadAt asid va x n = some u) : u.MemOk := by
  unfold State.loadAt at e
  split at e
  next hl => exact Option.some.inj e ▸ (ok.vaLocs.snd hl).pieceWrite
  · cases e

theorem State.MemOk.mapPages {l : List Nat} (ok : s.MemOk) : Each (fun r => r.2.MemOk) (s.mapPages asid l) := by
  induction l generalizing s with
  | nil => exact .some ok
  | cons va t ih =>
    unfold State.mapPages
    split
    · exact .none
    next e => exact (ih (ok.xlate.snd e)).map fun _ ok => ok

theorem State.MemOk.loadSegs {b : Buf} {image : Option (Nat × Nat)} {a : Nat} {a1 : List (Nat × Nat)} (ok : s.MemOk) :
    (s.loadSegs b image a a1).MemOk := by
  induction a1 generalizing s b image a with
  | nil => exact ok
  | cons head tail ih =>
    unfold State.loadSegs
    refine ih ?_
    split
    · exact ok.devWrite.devWrite.zeroPieces
    · exact ok.devWrite.devWrite.zeroPieces.write

theorem State.MemOk.loadBuf {x b o tableVa : Nat} {l : List Sect} {p : Placement} (ok : s.MemOk) : Each (fun r => r.1.MemOk)
    (s.loadBuf asid x l b o tableVa p) := by
  unfold State.loadBuf
  dsimp only
  split
  · exact .none
  next e =>
    have entered := ok.loadAt e
    refine .ite ?_ (entered.mapPages.map fun _ ok => ok.loadSegs)
    split
    · exact .none
    next ps u e =>
      have zeroed : (u.zeroPieces ps).MemOk := (entered.vaLocs.snd e).zeroPieces
      split
      · exact .some zeroed
      · exact .map (P := State.MemOk) (fun _ e => zeroed.loadAt e) fun _ ok => ok

theorem State.MemOk.loadBufs {s u : State} {x tableVa b : Nat} {l : List Sect} {ps : List (Nat × Placement)} {fs : List Buf}
    (ok : s.MemOk) (e : s.loadBufs asid x l tableVa b ps = some (u, fs)) : u.MemOk := by
  have each : Each (fun r => r.1.MemOk) (s.loadBufs asid x l tableVa b ps) := by
    clear e
    induction ps generalizing s b with
    | nil => exact .some ok
    | cons q t ih =>
      obtain ⟨o, p⟩ := q
      unfold State.loadBufs
      split
      · exact .none
      next u f hb =>
        have read : u.MemOk := ok.loadBuf _ hb
        split
        · exact .none
        next v gs hr => exact .some (ih read (v, gs) hr)
  exact each _ e

theorem State.MemOk.loadHasps {s u : State} {x : Nat} {places : List Placement} {l : List Nat} (ok : s.MemOk)
    (e : s.loadHasps asid x places l = some u) : u.MemOk := by
  have each : Each State.MemOk (s.loadHasps asid x places l) := by
    clear e
    induction l generalizing s with
    | nil => exact .some ok
    | cons o t ih =>
      unfold State.loadHasps
      refine .ite (ih ok) ?_
      dsimp only
      split
      · exact .none
      next e =>
        have found := ok.xlate.snd e
        refine .ite (ih found) ?_
        split
        · exact .none
        · exact ih found.setDie
  exact each u e

theorem State.MemOk.loadNative {handle x va0 va : Nat} {caches : List Nat} {l : List Sect} (ok : s.MemOk) :
    (s.loadNative asid handle x va0 caches va l).MemOk := by
  induction l generalizing s va with
  | nil => exact ok
  | cons t rest ih =>
    unfold State.loadNative
    refine ih (.foldl ok fun s d ok => ?_)
    dsimp only
    split
    · refine .ite ?_ ok
      split
      · exact ok.publishAt.published'
      · exact ok
    · exact ok

theorem execLoadCodeObject_nextOk {image len handle : Nat} {places : List Placement} {stores : Mapping} {tableVa codeVa : Nat}
    (ok : s.MemOk) : NextOk (execLoadCodeObject asid image len handle places stores tableVa codeVa s) := by
  unfold execLoadCodeObject
  split
  · exact .next ok.tell
  · split
    · exact .next ok.tell
    · refine .ite (.next ok.tell) (.ite (.next ok.tell) (.ite (.next ok) (.ite (.next ok.tell) ?_)))
      extract_lets s1
      have ok1 : s1.MemOk := ok.storeAll
      split
      · exact .next ok
      · split
        · exact .next ok.tell
        next e3 =>
          split
          · exact .next ok.tell
          next e4 =>
            split
            · exact .next ok.tell
            next e5 => exact .next (.tell (.loadNative ((((ok1.loadAt e3).loadBufs e4).loadHasps e5).of_mem rfl)))

theorem execUnloadCodeObject_nextOk {handle : Nat} (ok : s.MemOk) : NextOk (execUnloadCodeObject asid handle s) := by
  unfold execUnloadCodeObject
  split
  · exact .next ok
  · exact .ite (.next ok) (.next ((ok.foldl (fun _ _ ok => ok.setDie)).of_mem rfl))

/-! ### Memory moves of the portable gear -/

theorem execQld_nextOk {h : BitVec 3} {t : BitVec 5} {o : BitVec 4} {a d : BitVec 5} (ok : s.MemOk) : NextOk (execQld h t o a d s) := by
  unfold execQld
  refine xpolOp_nextOk ok fun _ _ => .ite ok.trapP ?_
  split
  · exact ok.failP
  · exact ok.doneQ

theorem execQst_nextOk {h : BitVec 3} {o : BitVec 4} {a d : BitVec 5} (ok : s.MemOk) : NextOk (execQst h o a d s) := by
  unfold execQst
  refine xpolOp_nextOk ok fun _ _ => ?_
  dsimp only
  split
  · exact ok.failP
  · exact ok.write.advance

theorem execQlds_nextOk {h : BitVec 3} {b a d : BitVec 5} (ok : s.MemOk) : NextOk (execQlds h b a d s) := by
  unfold execQlds
  refine xpolOp_nextOk ok fun _ _ => ?_
  dsimp only
  split
  · exact ok.failP
  · split
    · exact ok.failP
    · exact ok.doneQ

theorem execQgat_nextOk {h : BitVec 3} {b a d : BitVec 5} (ok : s.MemOk) : NextOk (execQgat h b a d s) := by
  unfold execQgat
  refine xpolOp_nextOk ok fun _ _ => ?_
  dsimp only
  split
  · exact ok.failP
  · split
    · exact ok.failP
    · exact ok.doneQ

theorem execQsca_nextOk {h : BitVec 3} {b a d : BitVec 5} (ok : s.MemOk) : NextOk (execQsca h b a d s) := by
  unfold execQsca
  refine xpolOp_nextOk ok fun _ _ => ?_
  dsimp only
  split
  · exact ok.failP
  · split
    · exact ok.failP
    · exact ok.scatter.advance

theorem execQmst_nextOk {h : BitVec 3} {b a d : BitVec 5} (ok : s.MemOk) : NextOk (execQmst h b a d s) := by
  unfold execQmst
  refine xpolOp_nextOk ok fun _ _ => ?_
  dsimp only
  split
  · exact ok.failP
  · split
    · exact ok.failP
    · exact ok.maskStore.advance

theorem State.MemOk.doneT {t : Tiles} (ok : s.MemOk) : (s.doneT g t).MemOk := ok.modP.advance

theorem execMmac_nextOk {h : BitVec 3} {b a d : BitVec 5} (ok : s.MemOk) : NextOk (execMmac h b a d s) := by
  unfold execMmac
  refine xpolOp_nextOk ok fun _ _ => ?_
  split
  · dsimp only
    split
    · exact ok.failP
    · exact .ite ok.modP.advance ok.modP.stopP
  · dsimp only
    split
    · exact ok.failP
    · exact .ite ok.modP.advance ok.modP

/-! ### System moves of the portable gear -/

theorem State.MemOk.holdP {op : HoldOp} {rd : Nat} {t a b val : Word} {img : List Word} (ok : s.MemOk) :
    (s.holdP g op rd t a b val img).MemOk :=
  ok.modP

theorem sysOp_nextOk {h : BitVec 3} {check : Nat → CoreP → Option Trap} {act : Nat → CoreP → State} (ok : s.MemOk)
    (hact : ∀ g c, (act g c).MemOk) : NextOk (sysOp h s check act) := by
  unfold sysOp
  refine xpolOp_nextOk ok fun _ _ => ?_
  split
  · exact ok.failP
  · exact hact _ _

theorem execQpost_nextOk {h : BitVec 3} {a d : BitVec 5} (ok : s.MemOk) : NextOk (execQpost h a d s) := by
  unfold execQpost
  refine xpolOp_nextOk ok fun _ _ => ?_
  split
  · exact ok.failP
  · exact .ite ok.holdP ok.trapP

theorem execTpost_nextOk {h : BitVec 3} {a d : BitVec 5} (ok : s.MemOk) : NextOk (execTpost h a d s) := by
  unfold execTpost
  refine xpolOp_nextOk ok fun _ _ => ?_
  split
  · exact ok.failP
  · exact ok.holdP

theorem execCend_nextOk {h : BitVec 3} (ok : s.MemOk) : NextOk (execCend h s) := xpolOp_nextOk ok fun _ _ => ok.finishCont

theorem execCsusp_nextOk {h : BitVec 3} {a : BitVec 5} (ok : s.MemOk) : NextOk (execCsusp h a s) := by
  unfold execCsusp
  refine xpolOp_nextOk ok fun _ _ => ?_
  split
  · exact ok.failP
  · split
    · exact ok.failP
    · exact ok.finishCont

theorem execCyield_nextOk {h : BitVec 3} {a : BitVec 5} (ok : s.MemOk) : NextOk (execCyield h a s) :=
  sysOp_nextOk ok fun _ _ => .ite ok.finishCont ok.advance

theorem execQrnd_nextOk {h : BitVec 3} {d : BitVec 5} (ok : s.MemOk) : NextOk (execQrnd h d s) := by
  unfold execQrnd
  refine xpolOp_nextOk ok fun _ _ => ?_
  split
  · exact ok.holdP
  next e => exact (ok.draw e).modP.doneX

/-! ### Vector moves of the portable gear -/

theorem vecOp_nextOk {h : BitVec 3} {d : BitVec 5} {f : CoreP → VRes} (ok : s.MemOk) : NextOk (vecOp h d s f) :=
  xpolOp_nextOk ok fun _ _ => ok.doneQ

theorem execQext_nextOk {h : BitVec 3} {b a d : BitVec 5} (ok : s.MemOk) : NextOk (execQext h b a d s) := by
  unfold execQext
  refine xpolOp_nextOk ok fun _ _ => ?_
  split
  · exact ok.doneX
  · exact ok.trapP

/-! ### Vector moves -/

theorem vaMove_nextOk {gd : BitVec 3} {src : BitVec 10} {u k : BitVec 1} {lat : Nat} {f : TVal → TVal → TVal → VRes} (ok : s.MemOk) :
    NextOk (vaMove gd src u k s lat f) :=
  runMove_nextOk ok fun _ => ok.finish

/-! ### Dispatch -/

/-- Every instruction keeps memory in its canonical form. -/
theorem exec_nextOk (i : Instr) (ok : s.MemOk) : NextOk (exec i s) := by
  cases i with dsimp only [exec]
  | iaAdd | iaSub | iaAnd | iaOr | iaXor | iaAndn | iaShl | iaShr | iaSra | iaRol | iaMin | iaMax | iaMinn | iaMaxn | iaMul
  | iaMulh | iaMulhn | iaCmpeq | iaCmpne | iaCmplt | iaCmpltn | iaCmple | iaCmplen | iaClz | iaCtz | iaPopc | iaMov =>
    exact iaPlain_nextOk ok
  | iaDiv | iaDivn | iaRem | iaRemn => exact iaDivide_nextOk ok
  | iaSel | iaLea | iaBfx | iaBfi | iaSext | iaZext => exact iaMove_nextOk ok
  | vadd | vsub | vmul | vfma | vmax | vmin | vabs | vneg | vcmpeq | vcmplt | vcmple | vsel | vcvt | vsplat | vperm | vshuf
  | vredadd | vredmax | vexp2 | vlog2 | vrcp | vrsq | vdot2 | vscl | vpln | vupl | vand | vor | vxor | vshl | vshr | vidx | vext
  | vins | vclmp | vtag => exact vaMove_nextOk ok
  | mePa | mePb => exact mePush_nextOk ok
  | meAcc | meSh | meDr | meClr | meCls | meThr | meSeq => exact meMove_nextOk ok
  | meSqs => exact meFrame_nextOk ok fun _ => .ite ok.trap ok.modC
  | lsLd | lsVld | lsTld => exact lsLoad_nextOk ok
  | lsSt | lsVst => exact lsStoreMove_nextOk ok
  | lsAld => exact lsMove_nextOk ok fun _ => .ite ok.trap (.ite ok.hold ok.aldDone)
  | lsAst => exact lsMove_nextOk ok (fun _ => .ite ok.trap (.ite ok.trap (.ite ok.hold ok.astDone)))
  | ctBr | ctRet | ctJr | ctLoop | ctLbrk | ctEret => exact ctMove_nextOk ok fun _ => ok.ask
  | ctBrc => exact ctMove_nextOk ok fun _ => .ite ok.ask ok
  | ctCall => exact ctMove_nextOk ok fun _ => ok.ask.finish
  | ctLend => exact ctMove_nextOk ok fun _ => .ite ok ok.modC
  | ctFuse => exact ctMove_nextOk ok fun _ => ok.hold
  | ctDecouple => exact ctMove_nextOk ok fun _ => .ite ok ok.ask
  | ctRejoin => exact ctMove_nextOk ok fun _ => .ite ok ok.hold
  | ctYield => exact suspMove_nextOk ok fun _ => .ite ok.trap (.ite ok.modC.ask ok)
  | ctTrap | ctBrk => exact ctMove_nextOk ok fun _ => ok.trapDone
  | ctKr => exact ctMove_nextOk ok fun _ => ok.finish
  | ctKw => exact ctMove_nextOk ok fun _ => .ite ok.hold ok.modC
  | ctPand | ctPor | ctPxor | ctPnot => exact ctBit_nextOk ok
  | ctTokw => exact ctMove_nextOk ok fun _ => .ite ok.modC ok.hold
  | asTwait | asBalloc | asBwait | asHbind | asHacq | asHrel | asHpub | asHobs | asIcinv => exact asMove_nextOk ok fun _ => ok.hold
  | asTstat => exact asMove_nextOk ok fun _ => ok.finish
  | asBarr => exact asMove_nextOk ok fun _ => .ite ok.arrive ok.modC
  | asBfree => exact asMove_nextOk ok fun _ => ok.freeBarrier.freeWaiters
  | asNotify => exact asMove_nextOk ok fun _ => ok.notify
  | asSortx => exact runMove_nextOk ok fun _ => ok.finish
  | asPmark => exact runMove_nextOk ok fun _ => ok.traceRec
  | moveToRegister =>
    exact runMove_nextOk ok (fun _ => .ite (.ite ok.modC ok.modC) (.ite ok.modC (.ite (.ite ok.modC ok.trap) (.ite ok.modC ok))))
  | moveToPort => exact runMove_nextOk ok fun _ => ok.modC
  | moveToNullSink => exact .next ok
  | qadd | qsub | qmul | qfma | qmax | qmin | qabs | qneg | qclmp | qcmpeq | qcmplt | qcmple | qsel | qand | qor | qxor | qshl
  | qshr | qidx | qins | qperm | qshuf | qredadd | qredmax | qexp2 | qlog2 | qrcp | qrsq | qdot2 | qscl | qpln | qupl | qcvtx
  | qsortx | qsplat | qcvt | qtag => exact vecOp_nextOk ok
  | mclr | mcls => exact xpolOp_nextOk ok fun _ _ => ok.doneT
  | mthr => exact xpolOp_nextOk ok fun _ _ => .ite ok.trapP ok.doneT
  | mdr => exact xpolOp_nextOk ok fun _ _ => .ite ok.trapP ok.modP.advance
  | mrd => exact xpolOp_nextOk ok fun _ _ => .ite ok.trapP ok.doneQ
  | mwr => exact xpolOp_nextOk ok fun _ _ => .ite ok.trapP (.ite ok.trapP ok.doneT)
  | twait | hbind | hacq | hrel | hpub | hobs => exact sysOp_nextOk ok fun _ _ => ok.holdP
  | tstat => exact sysOp_nextOk ok fun _ _ => ok.doneX
  | notify => exact sysOp_nextOk ok fun _ _ => ok.notify.advance
  | pmark => exact xpolOp_nextOk ok fun _ _ => ok.traceRec.advance
  | fence | fenceI => exact baseOp_nextOk fun _ _ => ok.advance
  | ecall | ebreak => exact baseOp_nextOk fun _ _ => ok.trapP
  | portableDivide => exact baseOp_nextOk fun _ _ => ok.modP.advance
  | csrAccess => exact baseOp_nextOk fun _ _ => .ite ok.trapP ok.setP.advance
  | portableIntegerOp => exact baseOp_nextOk fun _ _ => ok.doneX
  | bundleDispatch => exact .ite (.next ok) (.next ok.pollAll.freezeAll.fetchOne.countStalls.choose)
  | loopPassEnd => exact .ite (.next ok) (.ite (.next ok.modC) (.next ok.modC))
  | engineWakeAdmit => exact .ite (.next ok.modEng) (.next ok)
  | writeStagingDrain => exact .next (.ite ok ok.drainLine)
  | readStagingExpire => exact .next ok.modC
  | tpostDone => exact onHold_nextOk ok fun _ => .ite ok.postRec.holdSt ok.postRec.answer
  | rejoinRelease =>
    exact .ite (.next ok) (.ite (.next (ok.foldl (fun _ _ ok => ok.rejoinTrap))) (.next (ok.modAll.foldl (fun _ _ ok =>
      ok.landBefore))))
  | saeApply =>
    exact .ite (.next ok) (.next (((ok.setCluster.foldl (fun _ _ ok => ok.saeOne)).foldl (fun _ _ ok => ok.settleAny)).saeWake))
  | watchdog => exact .ite (.next ok.asyncStop) (.next ok)
  | softPreemption => exact .ite (.next ok.askSoft.countPart) (.next ok)
  | teardown =>
    exact .ite (.next (.ite ok.requestTeardown ok)) (.ite (.next ok.tearRest) (.ite (.next ok) (.next (.tearRest
      (ok.writeDump.releaseCores.releaseQueues.of_mem rfl)))))
  | derailleurReevaluate => exact .next ok.reevaluate
  | queueCreate => exact .ite (.next ok) (.next ok.createQueue)
  | queueClose => exact .ite (.next ok.closeQueue) (.next ok)
  | channelBind => exact .ite (.next ok) (.ite (.next ok) (.next (ok.of_mem rfl)))
  | nullPacket => exact ok.onPkt fun _ _ ok => ok.pktDone
  | copy => exact ok.onPkt (fun _ _ ok => ok.rowsFrom (fun _ _ ok => .iteSnd (.iteSnd ok ok.meetRow.wonRow.oneRow) ok.oneRow))
  | fill | gather | scatter => exact ok.onPkt fun _ _ ok => ok.rowsFrom (fun _ _ ok => ok.oneRow)
  | send => exact ok.onPkt fun _ _ ok => ok.rowsFrom (fun _ _ ok => ok.sendRow)
  | waittl => exact ok.onPkt fun _ _ ok => .ite ok ok.setDie.pktDone
  | packetComplete => exact .next ok.completeNext
  | pageWalk => exact .next ok.translate
  | faultResolved => exact .ite (.ite (.next ok) (.next ((ok.modChan.foldl (fun _ _ ok => ok.holdSt)).fillSlots))) (.next ok.modPkt)
  | faultUnrecoverable => exact .ite (.next ok.declareFe) (.next ok.declare)
  | faultTimeout => exact .ite (.ite (.next ok.declareFe) (.next ok)) (.ite (.next ok.declare) (.next ok))
  | invalidateVa | invalidateAsid | invalidateVm | invalidateAll => exact .next ok.invGo
  | homeMapChange => exact .ite (.next ok) (.next (.foldl (ok.of_mem rfl) (fun _ _ ok => ok.setDie)))
  | flitReceive => exact .ite (.next ok) (.next (.setPort (.iteFst ok.setPort.landPort ok.setPort.landPort.performAll)))
  | flitReplay => exact .ite (.next ok.setPort) (.next ok)
  | portRetrain => exact .ite (.next ok.setPort.journalStep.note) (.next ok)
  | frequencyChange =>
    exact .ite (.ite (.next ok.setIsland.setClock) (.ite (.next ok.setIsland) (.next ok.setIsland.setClock))) (.next ok)
  | thermalSample => exact .ite (.next ok) (.ite (.next ok.setIsland.journalEvent.note.powerOff) (.next ok.setIsland))
  | throttleStep =>
    exact .ite (.next ok) (.ite (.next ok.setIsland.setClock.journalEvent.note) (.ite (.next ok.setIsland.setClock) (.next ok)))
  | powerLimit => exact .ite (.next (ok.of_mem rfl)) (.next ok)
  | journalClear | dumpSlotRelease | releaseHeld | debuggerDetach => exact .next (ok.of_mem rfl)
  | driverMeasurementExtend => exact .ite (.next ok.extend) (.next ok)
  | halt => exact ok.command (fun _ _ ok => (ok.foldl (fun _ _ ok => ok.modBlock)).asyncStop)
  | runHalted => exact ok.command fun _ _ ok => ok.open_.markHeld.runResident
  | shut => exact ok.command fun _ _ ok => ok.foldl (fun _ _ ok => ok.modBlock)
  | shutterAck => exact .ite (.next ok) (.next ok.modBlock)
  | openShutter => exact ok.command fun _ _ ok => ok.open_
  | evict => exact ok.command (fun _ _ ok => (ok.foldl (fun _ _ ok => ok.modBlock)).saveOrSpoil)
  | cadenceBreakpoint => exact .ite (.next ok.asyncStop.modBlock) (.next ok)
  | profileSessionWrite => exact .ite (.next ok) (.ite (.next (ok.of_mem rfl)) (.next (ok.of_mem rfl)))
  | bundleSample => exact .ite (.next ok.traceRec.markSample) (.next ok)
  | replayDivergence => exact .ite (.next ok.traceRec.stopAll31) (.next ok)
  | recordBufferFull | recordBufferDrained => exact .ite (.next ok.setDie) (.next ok)
  | recordRegionFull => exact .ite (.next ok.stopAll31) (.ite (.next (.note (.journalEvent (ok.of_mem rfl)))) (.next ok))
  | modulePowerDown => exact .next ok.powerOff
  | icacheDiscardDone => exact onHold_nextOk ok fun _ => ok.discardCode.refetch.answer
  | lsVlds => exact execLsVlds_nextOk ok
  | lsVgat => exact execLsVgat_nextOk ok
  | lsVsca => exact execLsVsca_nextOk ok
  | lsCld => exact execLsCld_nextOk ok
  | lsCst => exact execLsCst_nextOk ok
  | lsMst => exact execLsMst_nextOk ok
  | lsPld => exact execLsPld_nextOk ok
  | ctSusp => exact execCtSusp_nextOk ok
  | asPost => exact execAsPost_nextOk ok
  | asSae => exact execAsSae_nextOk ok
  | asSaer => exact execAsSaer_nextOk ok
  | asTpost => exact execAsTpost_nextOk ok
  | asRnd => exact execAsRnd_nextOk ok
  | qext => exact execQext_nextOk ok
  | qld => exact execQld_nextOk ok
  | qst => exact execQst_nextOk ok
  | qlds => exact execQlds_nextOk ok
  | qgat => exact execQgat_nextOk ok
  | qsca => exact execQsca_nextOk ok
  | qmst => exact execQmst_nextOk ok
  | mmac => exact execMmac_nextOk ok
  | qpost => exact execQpost_nextOk ok
  | tpost => exact execTpost_nextOk ok
  | cend => exact execCend_nextOk ok
  | csusp => exact execCsusp_nextOk ok
  | cyield => exact execCyield_nextOk ok
  | qrnd => exact execQrnd_nextOk ok
  | portableLoad => exact execPortableLoad_nextOk ok
  | portableStore => exact execPortableStore_nextOk ok
  | portableBranchJump => exact execPortableBranchJump_nextOk ok
  | resultLand => exact execResultLand_nextOk ok
  | engineConsume => exact execEngineConsume_nextOk ok
  | sequencerStep => exact execSequencerStep_nextOk ok
  | tokenReturn => exact execTokenReturn_nextOk ok
  | clusterGrant => exact execClusterGrant_nextOk ok
  | userInterruptTake => exact execUserInterruptTake_nextOk ok
  | twaitRelease => exact execTwaitRelease_nextOk ok
  | hacqRelease => exact execHacqRelease_nextOk ok
  | hrelDone => exact execHrelDone_nextOk ok
  | hpubDone => exact execHpubDone_nextOk ok
  | hbindDone => exact execHbindDone_nextOk ok
  | bwaitRelease => exact execBwaitRelease_nextOk ok
  | ballocDone => exact execBallocDone_nextOk ok
  | postClaim => exact execPostClaim_nextOk ok
  | fuseRelease => exact execFuseRelease_nextOk ok
  | entropyReady => exact execEntropyReady_nextOk ok
  | stop => exact execStop_nextOk ok
  | resume => exact execResume_nextOk ok
  | preemptionDeadline => exact execPreemptionDeadline_nextOk ok
  | sramError => exact execSramError_nextOk ok
  | handOver => exact execHandOver_nextOk ok
  | shiftRequest => exact execShiftRequest_nextOk ok
  | recordWake => exact execRecordWake_nextOk ok
  | dispatch => exact execDispatch_nextOk ok
  | level7Preempt => exact execLevel7Preempt_nextOk ok
  | gatherStart => exact execGatherStart_nextOk ok
  | gatherPreempt => exact execGatherPreempt_nextOk ok
  | taskSlotGranted => exact execTaskSlotGranted_nextOk ok
  | launchGroupComplete => exact execLaunchGroupComplete_nextOk ok
  | queueAbort => exact execQueueAbort_nextOk ok
  | takePacket => exact execTakePacket_nextOk ok
  | packetCrcTimeout => exact execPacketCrcTimeout_nextOk ok
  | atom => exact execAtom_nextOk ok
  | promote => exact execPromote_nextOk ok
  | demote => exact execDemote_nextOk ok
  | launch => exact execLaunch_nextOk ok
  | signal => exact execSignal_nextOk ok
  | icinv => exact execIcinv_nextOk ok
  | sendAcknowledged => exact execSendAcknowledged_nextOk ok
  | sendAckTimeout => exact execSendAckTimeout_nextOk ok
  | invalidateComplete => exact execInvalidateComplete_nextOk ok
  | hostBar2Write => exact execHostBar2Write_nextOk ok
  | hostBar2Read => exact execHostBar2Read_nextOk ok
  | hostAtomic => exact execHostAtomic_nextOk ok
  | registerWrite => exact execRegisterWrite_nextOk ok
  | fatalThermalFault => exact execFatalThermalFault_nextOk ok
  | bringUp => exact execBringUp_nextOk ok
  | stepHalted => exact execStepHalted_nextOk ok
  | imgout => exact execImgout_nextOk ok
  | imgin => exact execImgin_nextOk ok
  | breakpoint => exact execBreakpoint_nextOk ok
  | engineSample => exact execEngineSample_nextOk ok
  | loadCodeObject => exact execLoadCodeObject_nextOk ok
  | unloadCodeObject => exact execUnloadCodeObject_nextOk ok
  | bundlePublish => exact execBundlePublish_nextOk ok
  | attestationReport => exact execAttestationReport_nextOk ok
  | addressSpaceCreate => exact execAddressSpaceCreate_nextOk ok
  | addressSpaceDelete => exact execAddressSpaceDelete_nextOk ok
  | commandInFlightComplete => exact execCommandInFlightComplete_nextOk ok

/-! ### The agenda -/

theorem State.MemOk.inMove {k : Nat} {b : Bun} (ok : s.MemOk) : (s.inMove g k b).MemOk := .modC (ok.of_mem rfl)

theorem State.MemOk.takeMove {k : Nat} {b : Bun} (ok : s.MemOk) : (s.takeMove lead g k b).MemOk := ok.modC.inMove

theorem State.MemOk.issueMove {k : Nat} {b : Bun} (ok : s.MemOk) : NextOk (s.issueMove g k b) := by
  unfold State.issueMove
  split
  · exact .next ok.trapMove
  · exact exec_nextOk _ ok
  · exact .next ok.trapMove

theorem State.MemOk.trapTogether {k : Nat} {b : Bun} (ok : s.MemOk) : Each NextOk (s.trapTogether lead k b) := by
  refine .ite ?_ .none
  split
  · exact .none
  · exact .some (.next (ok.modC.foldl fun _ _ ok => ok.requestStop))

theorem State.MemOk.beforeMove (ok : s.MemOk) : Each NextOk (s.beforeMove lead) := by
  unfold State.beforeMove
  split
  · exact .none
  · refine .ite ?_ ok.trapTogether
    split
    · exact .some (.next ok.meetBad)
    · exact .none

theorem State.MemOk.actionC (ok : s.MemOk) : Each NextOk (s.actionC lead) := by
  refine .ite .none (.ite ?_ (.ite (.some (exec_nextOk (Instr.breakpoint lead) ok))
    (.ite (.some (exec_nextOk (Instr.resultLand lead) ok)) ok.beforeMove)))
  split
  next e => exact .some (ok.sampleNow _ e)
  · refine .ite (.some (exec_nextOk (Instr.loopPassEnd lead) ok)) (.ite (.some (exec_nextOk (Instr.stop lead) ok))
      (.ite (.some (exec_nextOk (Instr.handOver lead) ok)) ?_))
    split
    · exact .some (exec_nextOk (Instr.cadenceBreakpoint _) ok)
    · exact .ite (.some (exec_nextOk (Instr.userInterruptTake lead) ok)) (.some (exec_nextOk (Instr.bundleDispatch lead) ok))

theorem State.MemOk.fetchP (ok : s.MemOk) : (s.fetchP g).2.MemOk := ok.fetchWord

theorem State.MemOk.actionP (ok : s.MemOk) : Each NextOk (s.actionP g) := by
  unfold State.actionP
  dsimp only
  split
  next e => exact .some (ok.sampleNow _ e)
  · refine .ite (.some (exec_nextOk (Instr.stop g) ok)) (.ite .none (.ite (.some (exec_nextOk (Instr.breakpoint g) ok))
      (.ite (.some (exec_nextOk (Instr.cadenceBreakpoint g) ok)) (.ite (.some (exec_nextOk (Instr.handOver g) ok)) ?_))))
    split
    · exact .ite (.some (.next ok.meetBad)) .none
    · exact .none

theorem State.MemOk.runC (ok : s.MemOk) : NextOk (s.runC g) := by
  unfold State.runC
  dsimp only
  split
  next e => exact ok.actionC _ e
  · split
    · exact .next ok.modC
    · exact ok.takeMove.issueMove

theorem State.MemOk.runP (ok : s.MemOk) : NextOk (s.runP g) := by
  unfold State.runP
  split
  next e => exact ok.actionP _ e
  · refine .ite (.next ok) ?_
    split
    next e => exact .next (ok.fetchP.snd e).trapP
    next e => exact .next (ok.fetchP.snd e).trapP
    next e => exact exec_nextOk _ ((ok.fetchP.snd e).of_mem rfl)

theorem State.MemOk.runCore (ok : s.MemOk) : NextOk (s.runCore g) := .ite (.next ok) (.ite ok.runC ok.runP)

theorem State.MemOk.atTime {at_ : Nat} (ok : s.MemOk) : (s.atTime at_).MemOk := ok.of_mem rfl

theorem State.MemOk.withAnswers {m : Memory} (ok : s.MemOk) : (s.withAnswers m).MemOk := withAnswers_memOk m ok

theorem State.MemOk.recordTurn {t : Turn} (ok : s.MemOk) : (s.recordTurn t).MemOk := .ite (ok.of_mem rfl) ok

theorem State.MemOk.turn {t : Turn} (ok : s.MemOk) : NextOk (s.turn t) := by
  unfold State.turn
  split
  · exact .ite (exec_nextOk _ (ok.of_mem rfl)) (.next ok)
  · exact .runCore (ok.of_mem rfl)
  · exact .next ok.evictTurn
  · exact .next ok.evictTurn
  · exact .next ok.evictTurn
  · exact .next ok.evictTurn
  · exact .next ok.evictTurn
  · exact .next (.hostRead (ok.of_mem rfl))
  · exact .next (.resizeBar (ok.of_mem rfl))
  · exact .next (.firmwarePost (ok.of_mem rfl))
  · exact .next (.holdTask (ok.of_mem rfl))

theorem State.MemOk.putStream {x : Stream} (ok : s.MemOk) : (s.putStream x).MemOk := by
  unfold State.putStream
  exact .ite ok (.ite (ok.after (exec_nextOk Instr.recordRegionFull ok)) (foldl_memPut_wf _ _ _ ok))

theorem State.MemOk.take {t : Turn} (ok : s.MemOk) : NextOk (s.take t) := by
  unfold State.take
  refine .ite ?_ ok.turn
  have taken : NextOk ((s.recordTurn t).turn t) := ok.recordTurn.turn
  split
  next u e => exact .next ((taken u e).foldl fun _ _ ok => ok.putStream)
  · exact taken

theorem State.MemOk.forced {r : Recorded} (ok : s.MemOk) : NextOk (s.forced r) := by
  have answered : (s.withAnswers r.host).MemOk := ok.withAnswers
  unfold State.forced
  dsimp only
  split
  case h_3 => exact answered.turn
  all_goals
    refine .ite answered.turn ?_
    split
    · exact .next answered.atTime
    · split
      · exact .next answered.atTime
      · refine .next ?_
        split
        · exact answered.atTime.resumeOn
        · exact answered.atTime.launchOn

theorem State.MemOk.diverge (ok : s.MemOk) : NextOk (s.diverge g) := execReplayDivergence_nextOk (ok.of_mem rfl)

theorem State.MemOk.replayStep (ok : s.MemOk) : NextOk s.replayStep := by
  unfold State.replayStep
  split
  · exact .next ok
  · exact .ite (.next ok) (.ite (.ite (.runCore (ok.of_mem rfl)) ok.diverge) (.ite ok.diverge
      (.ite (.ite (.next (.stopAll31 (.after (ok.of_mem rfl) (.forced (ok.of_mem rfl))))) (.forced (ok.of_mem rfl)))
        (.ite (.next (ok.of_mem rfl)) ok.diverge))))

theorem State.MemOk.oneStep (ok : s.MemOk) : NextOk s.oneStep := by
  unfold State.oneStep
  split
  · exact .ite .fault (.ite (.next (ok.of_mem rfl)) (.ite .fault (.ite (.next (ok.of_mem rfl))
      (.ite (State.MemOk.turn (ok.of_mem rfl)) (State.MemOk.take (ok.of_mem rfl))))))
  · exact .ite .fault (.ite .fault (.ite ok.replayStep (.ite ok.take ok.take)))

theorem settled_nextOk {o : Host.Outcome State Fault Refusal} (h : NextOk o) : NextOk (settled o) := by
  cases o with
  | next s => exact .next (h s rfl).settleParts
  | fault => rintro _ ⟨⟩
  | refused => rintro _ ⟨⟩

/-! ### The step -/

theorem step_nextOk (ok : s.MemOk) : NextOk (step s) := settled_nextOk ok.oneStep
end

/-- Settles O8: the canonical form is kept by every write of memory and so, function by function, by the step. -/
theorem stepKeepsMemOk : Obligations.StepKeepsMemOk := fun _ _ ok e => step_nextOk ok _ e

end Sys2Proof.Machine
end

section
/-! PROOFS. Cluster accesses and accumulator rows (O19). -/

namespace Sys2Proof.Machine

section
variable {s : State} {gd : BitVec 3} {src : BitVec 10} {k : BitVec 1} {x : MoveCtx} (h : s.issues 5 gd src x)
include h

/-- A trigger of ls whose guard is on and whose source is readable acts. -/
theorem lsMove_issues (body : MoveCtx → State) : lsMove gd src s body = .next (body x) := runMove_issues h body

/-! ### `cld` (R356) -/

theorem execLsCld_traps {c d : Nat} (e : clusAddr x.val.word 128 = .error (c, d)) :
    execLsCld gd src k s = .next (s.trapMove x.g x.slot x.bun c d) := by
  rw [execLsCld, lsMove_issues h, e]
  rfl

section
variable {o : Nat} (e : clusAddr x.val.word 128 = .ok o)
include e

theorem execLsCld_both {p q : BitVec 512} (hp : x.c.staged o = some p) (hq : x.c.staged (o + 64) = some q) :
    execLsCld gd src k s = .next (x.lands s 12 k ⟨p.setWidth 1024 ||| (q.setWidth 1024 <<< 512), 0⟩ 0) := by
  rw [execLsCld, lsMove_issues h, e, ← cldDone_eq h]
  simp only [hp, hq]

theorem execLsCld_neither (hp : x.c.staged o = none) (hq : x.c.staged (o + 64) = none) :
    execLsCld gd src k s = .next (x.holds s .cld k 0 0 []) := by
  rw [execLsCld, lsMove_issues h, e, ← hold_eq h]
  simp only [hp, hq]

theorem execLsCld_first {p : BitVec 512} (hp : x.c.staged o = some p) (hq : x.c.staged (o + 64) = none) :
    execLsCld gd src k s = .next (x.holds s .cld k 1 0 (lineWords p)) := by
  rw [execLsCld, lsMove_issues h, e, ← holdWith_eq h]
  simp only [hp, hq]

theorem execLsCld_second {q : BitVec 512} (hp : x.c.staged o = none) (hq : x.c.staged (o + 64) = some q) :
    execLsCld gd src k s = .next (x.holds s .cld k 2 0 (lineWords q)) := by
  rw [execLsCld, lsMove_issues h, e, ← holdWith_eq h]
  simp only [hp, hq]
end

/-! ### `cst` (R356) -/

theorem execLsCst_traps {c d : Nat} (e : clusAddr x.pA.word 128 = .error (c, d)) :
    execLsCst gd src k s = .next (s.trapMove x.g x.slot x.bun c d) := by
  rw [MoveCtx.pA] at e
  rw [execLsCst, lsMove_issues h, e]
  rfl

theorem execLsCst_addressed {o : Nat} (e : clusAddr x.pA.word 128 = .ok o) :
    execLsCst gd src k s = .next (if x.c.wst.length + 2 ≤ 16 then s.cstPut x.g o x.val else x.holds s .cst k 0 0 []) := by
  rw [MoveCtx.pA] at e
  rw [execLsCst, lsMove_issues h, e, ← hold_eq h]

/-! ### Accumulator rows (R357) -/

theorem aldDone_eq (d : Word) : s.aldDone x.g x.slot x.bun.idx d (decide (k = 1)) =
    x.lands s 4 k (x.c.eng.tiles.loadRow (bitsOf d 10 2) d) 0 := by
  have bit : (if decide (k = 1) = true then 1 else 0 : BitVec 1) = k := by revert k; decide
  rw [State.aldDone, bit]
  simp only [MoveCtx.lands, State.modC, CoreC.start, issues_core h]

theorem execLsAld_row (hr : rowDescOk x.val.word = true) : execLsAld gd src k s =
    .next (if x.c.eng.busyBank (bitsOf x.val.word 10 2) then x.holds s .ald k 0 0 []
      else x.lands s 4 k (x.c.eng.tiles.loadRow (bitsOf x.val.word 10 2) x.val.word) 0) := by
  rw [execLsAld, lsMove_issues h, hr, ← hold_eq h, ← aldDone_eq h]
  rfl

theorem execLsAld_traps (hr : rowDescOk x.val.word = false) :
    execLsAld gd src k s = .next (s.trapMove x.g x.slot x.bun 0x01 0) := by
  rw [execLsAld, lsMove_issues h, if_pos hr]
  rfl

theorem execLsAst_row (hr : rowDescOk x.pA.word = true) (ht : x.val.tag = if x.pA.word.getLsbD 12 then 0x07 else 0x01) :
    execLsAst gd src k s = .next (if x.c.eng.busyBank (bitsOf x.pA.word 10 2) then x.holds s .ast k 0 0 []
      else s.modEng x.g (fun e => { e with tiles := e.tiles.storeRow (bitsOf x.pA.word 10 2) x.pA.word x.val })) := by
  rw [MoveCtx.pA] at *
  rw [execLsAst, lsMove_issues h, ← hold_eq h]
  simp only [hr, ht, reduceCtorEq, if_false, ne_eq, not_true_eq_false]
  rfl

theorem execLsAst_badTag (hr : rowDescOk x.pA.word = true) (ht : x.val.tag ≠ if x.pA.word.getLsbD 12 then 0x07 else 0x01) :
    execLsAst gd src k s = .next (s.trapMove x.g x.slot x.bun 0x06 x.val.tag.toNat) := by
  rw [MoveCtx.pA] at *
  rw [execLsAst, lsMove_issues h]
  simp only [hr, if_pos ht, reduceCtorEq, if_false]
  rfl

theorem execLsAst_traps (hr : rowDescOk x.pA.word = false) :
    execLsAst gd src k s = .next (s.trapMove x.g x.slot x.bun 0x01 0) := by
  rw [MoveCtx.pA] at hr
  rw [execLsAst, lsMove_issues h]
  simp only [hr, if_true]
  rfl
end

/-- Settles O19: by what each of the four triggers does with an address or a descriptor that passes its checks and with one that does
not. -/
theorem clusterAndRows : Obligations.ClusterAndRows := by
  intro s gd src k x h
  exact ⟨fun o p q e => execLsCld_both h e, fun o e => execLsCld_neither h e, fun o p e => execLsCld_first h e,
    fun o q e => execLsCld_second h e, fun o e room => (execLsCst_addressed h e).trans (by rw [if_pos (by omega)]),
    fun o e full => (execLsCst_addressed h e).trans (by rw [if_neg (by omega)]), fun c d => execLsCld_traps h,
    fun c d => execLsCst_traps h, execLsAld_row h, execLsAld_traps h, execLsAst_row h, execLsAst_badTag h, execLsAst_traps h⟩

end Sys2Proof.Machine
end

section
/-! PROOFS. The ends of held accesses: grants, staging, timelines, hasps (O45). -/

namespace Sys2Proof.Machine

/-- The event of a held operation acts on it if it is one of its kinds. -/
theorem onHold_acts {s : State} {g : Nat} {h : Hold} {kinds : HoldOp → Bool} (hh : s.heldAs g = some h) (hk : kinds h.op = true)
    (act : Hold → State) : onHold g s kinds act = .next (act h) := by
  unfold onHold
  rw [hh]
  exact if_pos hk

/-- An access to a place where no bad word lies changes nothing. -/
theorem State.meetMem_clean {s : State} {p : Nat × Nat} (hb : s.badMet (fun b => b.hit p) = []) (who : Option Nat) :
    s.meetMem who [p] = s := by
  unfold State.meetMem State.meetBad
  simp only [List.any_cons, List.any_nil, Bool.or_false, hb]

/-! ### Cluster scratchpad (R140, R169, R356) -/

theorem mem_clusCores {cl m : Nat} : m ∈ clusCores cl ↔ m / 4 = cl := by
  simp only [clusCores, List.mem_map, List.mem_range]
  constructor
  · rintro ⟨k, hk, rfl⟩
    omega
  · intro hm
    exact ⟨m % 4, by omega, by omega⟩

/-- A core waits for no bank while its slot 5 holds nothing. -/
theorem State.cldBanks_none {s : State} {m : Nat} (h : ((s.coreC m).slot 5).hold = none) : s.cldBanks m = [] := by
  unfold State.cldBanks
  rw [h]

/-- With no other core of the cluster holding slot 5, no `cld` comes before this core's source. -/
theorem State.cldFirst_alone {s : State} {g : Nat} (lines : List Nat)
    (alone : ∀ m, m / 4 = clusterOf g → m ≠ g → ((s.coreC m).slot 5).hold = none) :
    s.cldFirst (clusterOf g) (srcLs g) lines = false := by
  refine List.any_eq_false.mpr fun m hm => ?_
  have cluster := mem_clusCores.mp hm
  by_cases own : m = g
  · simp [own]
  · simp [s.cldBanks_none (alone m cluster own)]

/-- With no other core of the cluster holding slot 5, a `cld` that has no line yet is first at the banks of both. -/
theorem State.cldWins_alone {s : State} {g : Nat} {h : Hold} (ho : h.op = .cld) (hs : h.st = 0)
    (alone : ∀ m, m / 4 = clusterOf g → m ≠ g → ((s.coreC m).slot 5).hold = none) : s.cldWins g h = [0, 1] := by
  unfold State.cldWins Hold.cldWants
  rw [if_pos ho, hs]
  simp [State.cldFirst_alone _ alone]

/-- A `cld` that has both its lines wants no more. -/
theorem State.cldTakes_both_cldWants {s : State} {g : Nat} {h : Hold} (hs : h.st = 0) : (s.cldTakes g h [0, 1]).1.cldWants = [] := by
  have both : (s.cldTakes g h [0, 1]).1.st = h.st ||| 2 ^ 0 ||| 2 ^ 1 := rfl
  unfold Hold.cldWants
  split
  · rw [both, hs]
    decide
  · rfl

theorem execClusterGrant_takes {s : State} {g : Nat} {h : Hold} (hh : ((s.coreC g).slot 5).hold = some h) (ho : h.op = .cld) :
    let r := s.cldTakes g h (s.cldWins g h)
    execClusterGrant g s = .next (if r.1.cldWants = [] then (r.2.cldDone g 5 h.idx r.1.img h.k).release g 5
      else r.2.setC g { r.2.coreC g with slots := (r.2.coreC g).slots.modify 5 (fun q => { q with hold := some r.1 }) }) := by
  unfold execClusterGrant
  rw [hh]
  dsimp only
  rw [if_pos ho]
  split <;> rfl

theorem execClusterGrant_alone {s : State} {g : Nat} {h : Hold} (hh : ((s.coreC g).slot 5).hold = some h) (ho : h.op = .cld)
    (hs : h.st = 0) (alone : ∀ m, m / 4 = clusterOf g → m ≠ g → ((s.coreC m).slot 5).hold = none) :
    let r := s.cldTakes g h [0, 1]
    execClusterGrant g s = .next ((r.2.cldDone g 5 h.idx r.1.img h.k).release g 5) := by
  have grant := execClusterGrant_takes hh ho
  rw [State.cldWins_alone ho hs alone] at grant
  exact grant.trans (congrArg _ (if_pos (State.cldTakes_both_cldWants hs)))

section
variable {s : State} {g : Nat} {l : StLine} {w : List StLine} (hw : (s.coreC g).wst = l :: w)
include hw

theorem execWriteStagingDrain_waits (first : s.cldFirst (clusterOf g) (srcLs g) [l.addr] = true) :
    execWriteStagingDrain g s = .next s := by
  unfold execWriteStagingDrain
  rw [hw]
  exact congrArg _ (if_pos first)

theorem execWriteStagingDrain_drains (first : s.cldFirst (clusterOf g) (srcLs g) [l.addr] = false) : execWriteStagingDrain g s =
    .next (((((s.meetMem (some g) [(locClus (clusterOf g) l.addr, 64)]).write (locClus (clusterOf g) l.addr) l.data.toNat 64).won
      (clusterOf g) l.addr (srcLs g)).modC g (fun c => { c with wst := w })).settle g) := by
  unfold execWriteStagingDrain State.drainLine
  rw [hw]
  exact congrArg _ (if_neg (by simpa using first))
end

/-! ### Timelines (R149, R227) -/

section
variable {s : State} {g : Nat} {h : Hold} (hh : s.heldAs g = some h)
include hh

section
variable (ho : h.op = .twait)
include ho

theorem execTwaitRelease_waits (hr : reached (s.chan h.a.word.toNat).tl h.t.word.toNat = false) : execTwaitRelease g s = .next s :=
  (onHold_acts hh (decide_eq_true ho) _).trans (congrArg _ (if_pos hr))

variable {tl : Nat} (ht : (s.chan h.a.word.toNat).tl = tl) (hr : reached tl h.t.word.toNat = true)
include ht hr

theorem execTwaitRelease_reached : execTwaitRelease g s =
    .next (match s.coveredFault (s.asidOf g) h.a.word.toNat (tl - (tl % 2 ^ 48 + 2 ^ 48 - h.t.word.toNat % 2 ^ 48) % 2 ^ 48) with
      | some f => (s.modChan h.a.word.toNat (fun c => { c with pending := false })).stopHeld g 0x20 (faultDetail h.a.word.toNat f)
      | none => (s.acquireTo g h.a.word.toNat (tl - (tl % 2 ^ 48 + 2 ^ 48 - h.t.word.toNat % 2 ^ 48) % 2 ^ 48)).answer g none) := by
  subst ht
  refine (onHold_acts hh (decide_eq_true ho) _).trans (congrArg _ ?_)
  dsimp only
  rw [hr]
  rfl
end

/-! ### Hasps (R142, R143, R146, R370) -/

section
variable (ho : h.op = .hacq) {e : HaspEnt} (he : s.hasp (s.asidOf g) h.t.word.toNat = some e)
  (hc : haspCond (bitsOf h.a.word 4 2) (BitVec.ofNat 64 (s.read e.loc 8)) h.b.word = true)
  (hb : s.badMet (fun b => b.hit (e.loc, 8)) = [])
include ho he hc hb

theorem execHacqRelease_met : execHacqRelease g s = .next (if s.stages g 1 [(e.loc, 8)] then s
    else (s.dropCopies g (bitsOf h.a.word 0 3) ((e.loc, 8) :: s.boundLocs (dieOf g) e)).answer g none) := by
  refine (onHold_acts hh (decide_eq_true ho) _).trans (congrArg _ ?_)
  simp only [he, State.meetMem_clean hb, hc]
  cases s.stages g 1 [(e.loc, 8)] <;> rfl
end

section
variable (ho : h.op = .hrel) {e : HaspEnt} (he : s.hasp (s.asidOf g) h.a.word.toNat = some e)
include ho he

theorem execHrelDone_waits (hw : s.covers g h.b.word.toNat e = true ∨ s.stages g 1 [(e.loc, 8)] = true ∨ s.shutAt e.loc = true) :
    execHrelDone g s = .next s := by
  refine (onHold_acts hh (decide_eq_true ho) _).trans (congrArg _ ?_)
  simp only [he]
  exact if_pos (by simpa [or_assoc] using hw)

theorem execHrelDone_writes (hc : s.covers g h.b.word.toNat e = false) (hg : s.stages g 1 [(e.loc, 8)] = false)
    (hs : s.shutAt e.loc = false) (hb : s.badMet (fun b => b.hit (e.loc, 8)) = []) :
    execHrelDone g s = .next (((s.writeHasp (dieOf g) e h.t.word).dropCopies g 0 [(e.loc, 8)]).answer g none) := by
  refine (onHold_acts hh (decide_eq_true ho) _).trans (congrArg _ ?_)
  simp only [he, hc, hg, hs, State.meetMem_clean hb]
  rfl
end

theorem execHpubDone_publishes (ho : h.op = .hpub) :
    execHpubDone g s = .next (if s.published g h.t.word.toNat then s.answer g none else s) := by
  refine (onHold_acts hh (by simp [ho]) _).trans (congrArg _ ?_)
  simp only [ho]

theorem execHpubDone_observes (ho : h.op = .hobs) : execHpubDone g s = .next ((s.observe g h.t.word.toNat).answer g none) := by
  refine (onHold_acts hh (by simp [ho]) _).trans (congrArg _ ?_)
  simp only [ho]

section
variable (ho : h.op = .hbind) (sram : Bool) {s' : State}
include ho

theorem execHbindDone_faults {f : Nat} (hl : s.haspLoc g h.t.word = (.error f, s')) :
    execHbindDone g sram s = .next (s'.heldFault g f h (haspStatus 2 0 0)) := by
  refine (onHold_acts hh (decide_eq_true ho) _).trans (congrArg _ ?_)
  rw [hl]

section
variable {loc d : Nat} (hl : s.haspLoc g h.t.word = (.ok (loc, d), s'))
include hl

theorem execHbindDone_found {D i : Nat} {e : HaspEnt} (hf : s'.findHasp (s'.asidOf g) loc = some (D, i, e)) :
    execHbindDone g sram s = .next ((s'.setDie D { s'.die D with
      hasps := Tab.put (s'.die D).hasps i (e.bind h.a.word h.b.word.toNat g) }).answer g (some (haspStatus 0 D i))) := by
  refine (onHold_acts hh (decide_eq_true ho) _).trans (congrArg _ ?_)
  rw [hl]
  dsimp only
  rw [hf]

theorem execHbindDone_full (hf : s'.findHasp (s'.asidOf g) loc = none)
    (hfree : lowestFree (s'.die d).hasps (if sram then 16384 else 278528) = none) :
    execHbindDone g sram s = .next (s'.answer g (some (haspStatus 1 0 0))) := by
  refine (onHold_acts hh (decide_eq_true ho) _).trans (congrArg _ ?_)
  rw [hl]
  dsimp only
  rw [hf]
  dsimp only
  rw [hfree]

theorem execHbindDone_creates {i : Nat} (hf : s'.findHasp (s'.asidOf g) loc = none)
    (hfree : lowestFree (s'.die d).hasps (if sram then 16384 else 278528) = some i) :
    execHbindDone g sram s = .next ((s'.setDie d { s'.die d with
      hasps := Tab.put (s'.die d).hasps i (HaspEnt.bind ⟨s'.asidOf g, h.t.word, g, loc, []⟩ h.a.word h.b.word.toNat g) }).answer g
        (some (haspStatus 0 d i))) := by
  refine (onHold_acts hh (decide_eq_true ho) _).trans (congrArg _ ?_)
  rw [hl]
  dsimp only
  rw [hf]
  dsimp only
  rw [hfree]
end
end
end

/-- Settles O45: by what each event does where its condition holds and where it does not; a `cld` with no rival in its cluster is first at
both its banks. -/
theorem releaseEvents : Obligations.ReleaseEvents := by
  refine fun s g h => ⟨execClusterGrant_takes, fun hh ho hs alone =>
      ⟨State.cldTakes_both_cldWants hs, execClusterGrant_alone hh ho hs alone⟩,
    fun l w => execWriteStagingDrain_waits, fun l w => execWriteStagingDrain_drains, fun line => rfl, fun hh => ⟨
    fun ho tl ht hr => ⟨fun hf => ?_, fun f hf => ?_⟩, execTwaitRelease_waits hh,
    fun ho e he hc hb => ⟨fun hs => ?_, fun hs => ?_⟩,
    fun ho e he => ⟨execHrelDone_waits hh ho he, execHrelDone_writes hh ho he⟩,
    fun ho hp => ?_, fun ho hp => ?_, execHpubDone_observes hh,
    fun ho sram f s' hl => execHbindDone_faults hh ho sram hl,
    fun ho sram loc d s' hl => ⟨fun D i e => execHbindDone_found hh ho sram hl, execHbindDone_full hh ho sram hl,
      fun i => execHbindDone_creates hh ho sram hl⟩⟩⟩
  · exact (execTwaitRelease_reached hh ho ht hr).trans (by rw [hf])
  · exact (execTwaitRelease_reached hh ho ht hr).trans (by rw [hf])
  · exact (execHacqRelease_met hh ho he hc hb).trans (by rw [hs]; rfl)
  · exact (execHacqRelease_met hh ho he hc hb).trans (by rw [hs]; rfl)
  · exact (execHpubDone_publishes hh ho).trans (by rw [hp]; rfl)
  · exact (execHpubDone_publishes hh ho).trans (by rw [hp]; rfl)

end Sys2Proof.Machine
end

section
/-! PROOFS. The frame of the moves that start a result: the integer and vector units and the loads from the scratchpad (O30). -/

namespace Sys2Proof.Machine

/-! ### What a program reads as a register -/

/-- Core `d` has every register of core `c` at its value: the files, latches, ports, flags, banks, the engine's state and the special
registers of R316. -/
def CoreC.SameRegs (c d : CoreC) : Prop :=
  d.g = c.g ∧ d.o = c.o ∧ d.v = c.v ∧ d.p = c.p ∧ d.l = c.l ∧ d.l2 = c.l2 ∧ d.h = c.h ∧ d.ports = c.ports ∧ d.flg = c.flg ∧
    d.eng = c.eng ∧ d.cause = c.cause ∧ d.epc = c.epc ∧ d.bank = c.bank ∧ d.loop = c.loop ∧ d.cad = c.cad ∧ d.slip = c.slip ∧
    d.col = c.col ∧ d.uivec = c.uivec ∧ d.uiepc = c.uiepc ∧ d.uicause = c.uicause

theorem State.sameRegsC_iff {s t : State} :
    s.sameRegsC t ↔ t = { s with cores := t.cores } ∧ ∀ g, (s.coreC g).SameRegs (t.coreC g) := Iff.rfl

theorem CoreC.SameRegs.refl (c : CoreC) : c.SameRegs c := by simp [CoreC.SameRegs]

theorem CoreC.SameRegs.trans {c d e : CoreC} (h : c.SameRegs d) (h' : d.SameRegs e) : c.SameRegs e := by
  unfold CoreC.SameRegs at *
  simp only [h', h, and_self]

theorem State.sameRegsC.refl (s : State) : s.sameRegsC s := ⟨rfl, fun _ => CoreC.SameRegs.refl _⟩

theorem State.sameRegsC.trans {s t u : State} (h : s.sameRegsC t) (h' : t.sameRegsC u) : s.sameRegsC u := by
  obtain ⟨e, r⟩ := State.sameRegsC_iff.mp h
  obtain ⟨e', r'⟩ := State.sameRegsC_iff.mp h'
  refine State.sameRegsC_iff.mpr ⟨?_, fun g => (r g).trans (r' g)⟩
  rw [e', e]

/-- An update of one core that keeps its registers keeps every core's, and changes nothing else. -/
theorem State.sameRegsC_modC {s : State} {g : Nat} {f : CoreC → CoreC} (hf : ∀ c : CoreC, c.SameRegs (f c)) : s.sameRegsC (s.modC g f) := by
  refine State.sameRegsC_iff.mpr ⟨rfl, fun j => ?_⟩
  rw [State.coreC_modC]
  split
  next h => rw [h]; exact hf _
  · exact .refl _

/-! ### Results and traps -/

theorem CoreC.sameRegs_start (c : CoreC) (unit lat idx : Nat) (v : TVal) (fl : BitVec 7) (k : BitVec 1) :
    c.SameRegs (c.start unit lat idx v fl k) := .refl c

theorem CoreC.sameRegs_modSlot (c : CoreC) (k : Nat) (f : SlotSeq → SlotSeq) : c.SameRegs (c.modSlot k f) := .refl c

theorem State.sameRegsC_requestStop (s : State) (lead : Nat) (r : StopReq) : s.sameRegsC (s.requestStop lead r) := by
  unfold State.requestStop
  dsimp only
  split
  · refine (State.sameRegsC_modC ?_).trans (State.sameRegsC_modC ?_)
    all_goals exact fun c => .refl c
  · exact State.sameRegsC_modC fun c => .refl c

theorem State.sameRegsC_trapMove (s : State) (g slot : Nat) (bun : Bun) (code detail : Nat) :
    s.sameRegsC (s.trapMove g slot bun code detail) := by
  unfold State.trapMove
  refine .trans (State.sameRegsC_modC fun c => ?_) (State.sameRegsC_requestStop ..)
  exact c.sameRegs_modSlot ..

section
variable (s : State) (gd : BitVec 3) (src : BitVec 10) (u k : BitVec 1)

theorem MoveCtx.sameRegsC_trap (x : MoveCtx) (t : Trap) : s.sameRegsC (x.trap s t) := s.sameRegsC_trapMove ..

theorem MoveCtx.sameRegsC_finish (x : MoveCtx) (lat : Nat) (r : VRes) : s.sameRegsC (x.finish s lat k r) := by
  cases r with
  | ok v fl => exact State.sameRegsC_modC fun c => c.sameRegs_start ..
  | trap code detail => exact s.sameRegsC_trapMove ..

/-! ### The frames of the units -/

/-- An outcome, if it is a next state, keeps the registers of `s` and all that is no core of gear C. -/
structure KeepsRegs (s : State) (o : Host.Outcome State Fault Refusal) : Prop where
  same : ∀ t, o = .next t → s.sameRegsC t

theorem runMove_keepsRegs (unit : Nat) {body : MoveCtx → State} (h : ∀ x, s.sameRegsC (body x)) :
    KeepsRegs s (runMove unit gd src s body) := by
  refine ⟨fun t e => ?_⟩
  obtain off | ⟨k, b, v, trap⟩ | ⟨x, -, acts⟩ := runMove_cases unit gd src s body
  · cases off.symm.trans e; exact .refl s
  · cases trap.symm.trans e; exact s.sameRegsC_trapMove ..
  · cases acts.symm.trans e; exact h x

theorem iaMove_keepsRegs (lat : Nat) (f : CoreC → Word → Word → Word → Option (Word × Flags)) :
    KeepsRegs s (iaMove gd src u k s lat f) := runMove_keepsRegs s gd src _ fun x => x.sameRegsC_finish ..

theorem iaPlain_keepsRegs (lat : Nat) (f : Word → Word → Word) : KeepsRegs s (iaPlain gd src u k s lat f) := iaMove_keepsRegs ..

/-- A divide also holds its unit, which no register shows (R158). -/
theorem iaDivide_keepsRegs (signed quot : Bool) : KeepsRegs s (iaDivide gd src u k s signed quot) :=
  runMove_keepsRegs s gd src _ fun x => (x.sameRegsC_finish ..).trans (State.sameRegsC_modC fun c => c.sameRegs_modSlot ..)

theorem vaMove_keepsRegs (lat : Nat) (f : TVal → TVal → TVal → VRes) : KeepsRegs s (vaMove gd src u k s lat f) :=
  runMove_keepsRegs s gd src _ fun x => x.sameRegsC_finish ..

theorem lsLoad_keepsRegs (n : Nat) (tagOf : MoveCtx → Except Trap (BitVec 5)) : KeepsRegs s (lsLoad gd src k s n tagOf) := by
  unfold lsLoad lsMove
  refine runMove_keepsRegs s gd src _ fun x => ?_
  split
  · exact x.sameRegsC_trap ..
  · split
    · exact x.sameRegsC_trap ..
    · exact x.sameRegsC_finish ..

theorem execLsVlds_keepsRegs : KeepsRegs s (execLsVlds gd src k s) := by
  unfold execLsVlds lsMove
  refine runMove_keepsRegs s gd src _ fun x => ?_
  split
  · exact x.sameRegsC_trap ..
  · exact x.sameRegsC_finish ..

theorem execLsVgat_keepsRegs : KeepsRegs s (execLsVgat gd src k s) := by
  unfold execLsVgat lsMove
  refine runMove_keepsRegs s gd src _ fun x => ?_
  dsimp only
  split
  · exact x.sameRegsC_trap ..
  · exact x.sameRegsC_finish ..

theorem execLsPld_keepsRegs : KeepsRegs s (execLsPld gd src k s) := by
  unfold execLsPld lsMove
  refine runMove_keepsRegs s gd src _ fun x => ?_
  dsimp only
  split
  · exact x.sameRegsC_trap ..
  · split
    · exact x.sameRegsC_trap ..
    · split
      · exact x.sameRegsC_trap ..
      · exact x.sameRegsC_finish ..
end

/-! ### Every move of these units -/

/-- The triggers of ia and va, and the loads from the scratchpad. -/
def startsResult : Instr → Bool
  | .iaAdd .. | .iaSub .. | .iaAnd .. | .iaOr .. | .iaXor .. | .iaAndn .. | .iaShl .. | .iaShr .. | .iaSra .. | .iaRol ..
  | .iaMin .. | .iaMax .. | .iaMinn .. | .iaMaxn .. | .iaMul .. | .iaMulh .. | .iaMulhn .. | .iaDiv .. | .iaDivn .. | .iaRem ..
  | .iaRemn .. | .iaCmpeq .. | .iaCmpne .. | .iaCmplt .. | .iaCmpltn .. | .iaCmple .. | .iaCmplen .. | .iaSel .. | .iaLea ..
  | .iaBfx .. | .iaBfi .. | .iaClz .. | .iaCtz .. | .iaPopc .. | .iaMov .. | .iaSext .. | .iaZext ..
  | .vadd .. | .vsub .. | .vmul .. | .vfma .. | .vmax .. | .vmin .. | .vabs .. | .vneg .. | .vcmpeq .. | .vcmplt .. | .vcmple ..
  | .vsel .. | .vcvt .. | .vsplat .. | .vperm .. | .vshuf .. | .vredadd .. | .vredmax .. | .vexp2 .. | .vlog2 .. | .vrcp ..
  | .vrsq .. | .vdot2 .. | .vscl .. | .vpln .. | .vupl .. | .vand .. | .vor .. | .vxor .. | .vshl .. | .vshr .. | .vidx ..
  | .vext .. | .vins .. | .vclmp .. | .vtag ..
  | .lsLd .. | .lsVld .. | .lsTld .. | .lsVlds .. | .lsVgat .. | .lsPld .. => true
  | _ => false

theorem exec_keepsRegs {i : Instr} (h : startsResult i = true) (s : State) : KeepsRegs s (exec i s) := by
  cases i with dsimp only [exec]
  | iaAdd | iaSub | iaAnd | iaOr | iaXor | iaAndn | iaShl | iaShr | iaSra | iaRol | iaMin | iaMax | iaMinn | iaMaxn | iaMul
  | iaMulh | iaMulhn | iaCmpeq | iaCmpne | iaCmplt | iaCmpltn | iaCmple | iaCmplen | iaClz | iaCtz | iaPopc | iaMov =>
    exact iaPlain_keepsRegs ..
  | iaDiv | iaDivn | iaRem | iaRemn => exact iaDivide_keepsRegs ..
  | iaSel | iaLea | iaBfx | iaBfi | iaSext | iaZext => exact iaMove_keepsRegs ..
  | vadd | vsub | vmul | vfma | vmax | vmin | vabs | vneg | vcmpeq | vcmplt | vcmple | vsel | vcvt | vsplat | vperm | vshuf
  | vredadd | vredmax | vexp2 | vlog2 | vrcp | vrsq | vdot2 | vscl | vpln | vupl | vand | vor | vxor | vshl | vshr | vidx | vext
  | vins | vclmp | vtag => exact vaMove_keepsRegs ..
  | lsLd | lsVld | lsTld => exact lsLoad_keepsRegs ..
  | lsVlds => exact execLsVlds_keepsRegs ..
  | lsVgat => exact execLsVgat_keepsRegs ..
  | lsPld => exact execLsPld_keepsRegs ..
  | _ => cases h

theorem decodeIa_startsResult {c : BitVec 6} {g : BitVec 3} {src : BitVec 10} {u k : BitVec 1} {i : Instr}
    (h : decodeIa c g src u k = some i) : startsResult i = true := by
  unfold decodeIa at h
  split at h <;> cases h <;> rfl

theorem decodeVa_startsResult {c : BitVec 6} {g : BitVec 3} {src : BitVec 10} {u k : BitVec 1} {i : Instr}
    (h : decodeVa c g src u k = some i) : startsResult i = true := by
  unfold decodeVa at h
  split at h <;> cases h <;> rfl

/-- Destinations from 0x100 up are no registers and no null sink. -/
theorem decodeMove_unit {m : BitVec 24} {i : Instr} (h : decodeMove m = .ok i) (hu : 2 ≤ (m.extractLsb' 8 3).toNat)
    (hp : ∀ gd src u p, i ≠ .moveToPort gd src u p) :
    decodeTrigger (m.extractLsb' 8 3) (m.extractLsb' 7 1) (m.extractLsb' 1 6) (m.extractLsb' 21 3) (m.extractLsb' 11 10)
      (m.extractLsb' 0 1) = some i := by
  have high : 0x100 ≤ (m.extractLsb' 1 10).toNat := by
    simp only [BitVec.extractLsb'_toNat, Nat.shiftRight_eq_div_pow] at hu ⊢
    omega
  have noSink : m.extractLsb' 1 10 ≠ 0x0FF := fun e => by rw [e] at high; exact absurd high (by decide)
  have noReg : regDestLegal (m.extractLsb' 1 10) = false := decide_eq_false (by omega)
  unfold decodeMove at h
  simp only [noReg, if_neg noSink] at h
  split at h
  · cases h
  · split at h
    next e => cases h; exact e
    · split at h
      · cases h
      · split at h
        · cases ‹false = true›
        · split at h
          · cases h; exact absurd rfl (hp _ _ _ _)
          · cases h

/-- Settles O30: these moves are triggers of ia and va or loads, and each of them starts a result, holds its unit or traps, which no
register shows. -/
theorem resultFrame : Obligations.ResultFrame := by
  intro m i s t hd he hi hp
  have starts : startsResult i = true := by
    obtain hu | hu | ⟨gd, src, k, rfl | rfl | rfl | rfl | rfl | rfl⟩ := hi
    · have trig := decodeMove_unit hd (by simp [hu]) hp
      rw [hu] at trig
      exact decodeIa_startsResult trig
    · have trig := decodeMove_unit hd (by simp [hu]) hp
      rw [hu] at trig
      exact decodeVa_startsResult trig
    all_goals rfl
  exact (exec_keepsRegs starts s).same t he

end Sys2Proof.Machine
end

section
/-! PROOFS. The step of a gear C core that runs a move (O4), and what reset leaves (O6). -/

namespace Sys2Proof.Machine

/-! ### The turn of the core in focus -/

section
variable {s : State}

/-- With an empty agenda, a module that serves gives the core in focus its turn. -/
theorem State.oneStep_of_served (ha : s.alive) (hq : s.quiet) (h : s.agenda = []) (hs : s.served = true) :
    s.oneStep = s.runCore s.focus := by
  obtain ⟨hp, hf⟩ := ha
  obtain ⟨hr, hn⟩ := hq
  unfold State.oneStep
  rw [h]
  simp only [hp, hf, hn, hs, Bool.true_eq_false, Option.isSome_none, Bool.false_eq_true, if_false]
  exact State.take_of_not_recording hr _

/-- A member of a decoupled tandem whose clock stands ahead waits (R152, log 67). -/
theorem State.runCore_of_ahead {g : Nat} (h : s.ahead g = true) : s.runCore g = .next s := if_pos (.inr (.inr h))

theorem State.runCore_native {g : Nat} (hg : isGearC g = true) (hr : s.runOf g = .running) (hp : s.paused g = false)
    (ha : s.ahead g = false) : s.runCore g = s.runC g := by
  unfold State.runCore
  rw [if_neg (by simp [hr, hp, ha]), if_pos hg]

variable {lead m k : Nat} {b : Bun}

theorem State.runC_move {g : Nat} (ha : s.actionC (s.leader g) = none) (hm : s.nextMove (s.leader g) = some (m, k, b)) :
    s.runC g = (s.takeMove (s.leader g) m k b).issueMove m k b := by
  unfold State.runC
  dsimp only
  rw [ha, hm]

/-! ### The move in its context -/

theorem State.coreC_inMove (s : State) (m k : Nat) (b : Bun) : (s.inMove m k b).coreC m = { s.coreC m with cur := some (k, b) } := by
  unfold State.inMove
  rw [State.coreC_modC, if_pos rfl]
  rfl

/-- Taking a move changes of the member that makes it only the group's list and its own context. -/
theorem State.coreC_takeMove (s : State) (lead m k : Nat) (b : Bun) :
    ∃ l, (s.takeMove lead m k b).coreC m = { s.coreC m with todo := l, cur := some (k, b) } := by
  unfold State.takeMove
  rw [State.coreC_inMove, State.coreC_modC]
  split
  next h => rw [← h]; exact ⟨_, rfl⟩
  · exact ⟨_, rfl⟩

theorem State.hintAt_takeMove (s : State) (lead m k : Nat) (b : Bun) : (s.takeMove lead m k b).hintAt m k b = s.hintAt m k b := by
  obtain ⟨l, h⟩ := s.coreC_takeMove lead m k b
  unfold State.hintAt State.markAt
  rw [h]
  rfl

theorem bunMove_of_kept {w : BitVec 256} (h : (bunSur w).getLsbD k = false) : bunMove w k = slotBits w k := if_neg (by simp [h])

theorem State.issueMove_runs {i : Instr} (hh : s.hintAt m k b = none) (hd : decodeMove (bunMove b.bits k) = .ok i) :
    s.issueMove m k b = exec i s := by
  unfold State.issueMove
  rw [hh, hd]

/-- Bits that are no move (R282). -/
theorem State.issueMove_illegal {e : DecodeErr} (hh : s.hintAt m k b = none) (hd : decodeMove (bunMove b.bits k) = .error e) :
    s.issueMove m k b = .next (s.trapMove m k b 0x01 0) := by
  unfold State.issueMove
  rw [hh, hd]

/-- An undeclared must-understand hint decides before the bits (R420). -/
theorem State.issueMove_hinted {h : Nat} (hh : s.hintAt m k b = some h) : s.issueMove m k b = .next (s.trapMove m k b 0x07 h) := by
  unfold State.issueMove
  rw [hh]
end

/-- Settles O4: the step is the issue of the group's next move, which a hint, bits that are no move, or the instruction decides. -/
theorem stepRunsMove : Obligations.StepRunsMove := by
  refine ⟨fun s ha hq h hs hw => ?_, fun s m k b ha hq h hs hg hr hp hw hact hm => ?_⟩
  · rw [step, State.oneStep_of_served ha hq h hs, State.runCore_of_ahead hw]
  · have issue : step s = settled ((s.takeMove (s.leader s.focus) m k b).issueMove m k b) := by
      rw [step, State.oneStep_of_served ha hq h hs, State.runCore_native hg hr hp hw, State.runC_move hact hm]
    have hint := s.hintAt_takeMove (s.leader s.focus) m k b
    refine ⟨fun i hh hd hsur => ?_, fun e hh hd hsur => ?_, fun n hh => ?_⟩
    · rw [issue, State.issueMove_runs (hint.trans hh) (by rw [bunMove_of_kept hsur, hd])]
    · rw [issue, State.issueMove_illegal (hint.trans hh) (by rw [bunMove_of_kept hsur, hd])]
    · rw [issue, State.issueMove_hinted (hint.trans hh)]

/-! ### The registers of PF0 (R46) -/

/-- Word k of a core's debug block as it reads (R240). -/
def State.blockWord (s : State) (g k : Nat) : Word :=
  match k with
  | 1 => s.blockStatus g
  | 2 => BitVec.ofNat 64 (s.block g).dpa
  | 3 => setBits (BitVec.ofNat 64 (s.block g).cadv) 63 1 (s.block g).cen.toNat
  | _ => 0

section
variable (s : State) {n a d i : Nat}

theorem State.pfRead_inv (h : n < 3) : s.pfRead (0x100000 + 8 * n) = some ([s.invcmd, s.invva, s.invstat].getD n 0) := by
  obtain rfl | rfl | rfl : n = 0 ∨ n = 1 ∨ n = 2 := by omega
  all_goals rfl

theorem State.pfRead_weight (h : a < 1024) : s.pfRead (0x110000 + a) = some ((Tab.get 1 s.weights a).setWidth 64) := by
  unfold State.pfRead
  dsimp only
  repeat rw [if_neg (by omega)]
  rw [if_pos (by omega), Nat.add_sub_cancel_left]

theorem State.pfRead_stage (h : n < 256) : s.pfRead (0x120000 + 4 * n) = some ((Tab.get 0xFFFFFFFF s.stagemap n).setWidth 64) := by
  unfold State.pfRead
  dsimp only
  repeat rw [if_neg (by omega)]
  rw [if_pos (by omega), show (0x120000 + 4 * n - 0x120000) / 4 = n by omega]

theorem State.pfRead_quota (h : n ≤ 64) : s.pfRead (0x130000 + 8 * n) =
    some (setBits (BitVec.ofNat 64 (Tab.get 0xFFFFFFFF s.qlimit n)) 32 32 (Tab.get 0 s.qused n)) := by
  unfold State.pfRead
  dsimp only
  repeat rw [if_neg (by omega)]
  rw [if_pos (by omega), show (0x130000 + 8 * n - 0x130000) / 8 = n by omega]

theorem State.pfRead_limit (h : n ≤ 64) :
    s.pfRead (0x140000 + 8 * n) = some (Tab.get (BitVec.ofNat 64 ((100 <<< 32) + 200)) s.limits n) := by
  unfold State.pfRead
  dsimp only
  repeat rw [if_neg (by omega)]
  rw [if_pos (by omega), show (0x140000 + 8 * n - 0x140000) / 8 = n by omega]

theorem State.pfRead_block (h : a < 640) (hi : i < 8) : s.pfRead (0x160000 + 64 * a + 8 * i) = some (s.blockWord a i) := by
  unfold State.pfRead
  dsimp only
  repeat rw [if_neg (by omega)]
  rw [if_pos (by omega), show (0x160000 + 64 * a + 8 * i - 0x160000) / 64 = a by omega,
    show (0x160000 + 64 * a + 8 * i) % 64 / 8 = i by omega]
  rfl

theorem State.pfRead_debug (h : a < 1024) : s.pfRead (0x170000 + 8 * a) = some (Tab.get 0 s.dbg a) := by
  unfold State.pfRead
  dsimp only
  repeat rw [if_neg (by omega)]
  rw [if_pos (by omega), show (0x170000 + 8 * a - 0x170000) / 8 = a by omega]

theorem State.pfRead_breakpoint (h : a < 1024) (hn : n < 8) :
    s.pfRead (0x180000 + 64 * a + 8 * n) = some (Tab.get 0 s.bps (8 * a + n)) := by
  unfold State.pfRead
  dsimp only
  repeat rw [if_neg (by omega)]
  rw [if_pos (by omega), show (0x180000 + 64 * a + 8 * n - 0x180000) / 8 = 8 * a + n by omega]

theorem State.pfRead_profile (h : a < 1024) (hi : i < 16) : s.pfRead (0x1A0000 + 128 * a + 8 * i) = some (s.profWord a i) := by
  unfold State.pfRead
  dsimp only
  repeat rw [if_neg (by omega)]
  rw [if_pos (by omega), show (0x1A0000 + 128 * a + 8 * i - 0x1A0000) / 128 = a by omega,
    show (0x1A0000 + 128 * a + 8 * i) % 128 / 8 = i by omega]

theorem State.pfRead_trace (h : d < 4) (hi : i < 8) : s.pfRead (0x1C0000 + 64 * d + 8 * i) = some (Tab.get 0 (s.die d).trace i) := by
  unfold State.pfRead
  dsimp only
  repeat rw [if_neg (by omega)]
  rw [if_pos (by omega), show (0x1C0000 + 64 * d + 8 * i - 0x1C0000) / 64 = d by omega,
    show (0x1C0000 + 64 * d + 8 * i) % 64 / 8 = i by omega]
end

/-! ### Reset -/

theorem reset_weight (a : Nat) : (Tab.get 1 State.reset.weights a).setWidth 64 = 1 := by
  change BitVec.setWidth 64 (1 : BitVec 8) = 1
  decide

theorem reset_stage (n : Nat) : (Tab.get 0xFFFFFFFF State.reset.stagemap n).setWidth 64 = 0xFFFFFFFF := by
  change BitVec.setWidth 64 (0xFFFFFFFF : BitVec 32) = 0xFFFFFFFF
  decide

theorem reset_quota (v : Nat) :
    setBits (BitVec.ofNat 64 (Tab.get 0xFFFFFFFF State.reset.qlimit v)) 32 32 (Tab.get 0 State.reset.qused v) = 0xFFFFFFFF := by
  change setBits (BitVec.ofNat 64 0xFFFFFFFF) 32 32 0 = 0xFFFFFFFF
  decide

theorem reset_limit (v : Nat) : Tab.get (BitVec.ofNat 64 ((100 <<< 32) + 200)) State.reset.limits v = (100 <<< 32 ||| 200 : Nat) := by
  change BitVec.ofNat 64 ((100 <<< 32) + 200) = (100 <<< 32 ||| 200 : Nat)
  decide

theorem reset_profWord (a i : Nat) : State.reset.profWord a i = (if 1 ≤ i ∧ i ≤ 8 then 3 <<< 62 else 0 : Nat) := by
  change (if 1 ≤ i ∧ i ≤ 8 then (0xC000000000000000 : Word) else 0) = _
  split
  · decide
  · rfl

theorem reset_blockStatus (g : Nat) : State.reset.blockStatus g = 0 := by
  have idle : State.reset.runOf g = .idle := by unfold State.runOf; split <;> rfl
  unfold State.blockStatus
  rw [if_pos idle]
  change BitVec.ofNat 64 (0 <<< 63 + 0 <<< 62 + 0 <<< 61 + 0 <<< 60 + 0 <<< 59 + 0 <<< 58 + 0 <<< 48) = 0
  decide

/-- A debug block reads as zero in each of its words. -/
theorem reset_blockWord (g : Nat) {k : Nat} (hk : k < 4) : State.reset.blockWord g k = 0 := by
  obtain rfl | rfl | rfl | rfl : k = 0 ∨ k = 1 ∨ k = 2 ∨ k = 3 := by omega
  · rfl
  · exact reset_blockStatus g
  · rfl
  · change setBits (BitVec.ofNat 64 0) 63 1 0 = 0
    decide

/-- Settles O6: by what each register of PF0 reads, and that no table of the reset state has an entry. -/
theorem resetValues : Obligations.ResetValues := by
  refine ⟨fun _ => ⟨rfl, rfl, rfl, rfl⟩, fun _ => ⟨rfl, rfl, rfl⟩, fun _ => ⟨rfl, rfl, rfl⟩, fun _ => ⟨rfl, rfl, rfl⟩, fun _ => rfl, rfl, rfl,
    fun n h => ?_, fun a h => ⟨?_, State.pfRead_debug _ h⟩, fun n h => ?_, fun v h => ⟨?_, ?_⟩, fun g k h hk => ?_,
    fun a n h hn => State.pfRead_breakpoint _ h hn, fun a i h hi => ?_, fun d k h hk => State.pfRead_trace _ h (by omega)⟩
  · rw [State.pfRead_inv _ h]
    obtain rfl | rfl | rfl : n = 0 ∨ n = 1 ∨ n = 2 := by omega
    all_goals rfl
  · rw [State.pfRead_weight _ h, reset_weight]
  · rw [State.pfRead_stage _ h, reset_stage]
  · rw [State.pfRead_quota _ h, reset_quota]
  · exact (State.pfRead_limit _ h).trans (congrArg some (reset_limit v))
  · rw [State.pfRead_block _ h (by omega), reset_blockWord g hk]
  · exact (State.pfRead_profile _ h hi).trans (congrArg some (reset_profWord a i))

end Sys2Proof.Machine
end

section
/-! PROOFS. Taking the stop of a gear C core that is in no tandem (O47). -/

namespace Sys2Proof.Machine

/-! ### Updates of one core -/

theorem State.coreC_modC_self (s : State) (g : Nat) (f : CoreC → CoreC) : (s.modC g f).coreC g = f (s.coreC g) := by
  rw [State.coreC_modC, if_pos rfl]

/-- An update that finds its fields as it leaves them may be left out behind another of the same core. -/
theorem State.modC_modC_of_eq {s : State} {g : Nat} {f h : CoreC → CoreC} (e : h (f (s.coreC g)) = f (s.coreC g)) :
    (s.modC g f).modC g h = s.modC g f := by
  rw [State.modC_modC]
  exact congrArg (s.setC g) e

/-! ### A core that is in no tandem -/

section
variable {s : State} {g : Nat}

theorem State.leader_alone (h : (s.coreC g).group = []) : s.leader g = g := if_neg (by simp [CoreC.locked, h])

theorem State.members_alone (h : (s.coreC g).group = []) : s.members g = [g] := if_neg (by simp [CoreC.locked, h])

theorem State.standing_alone (h : (s.coreC g).group = []) : s.standing g = [] := by
  unfold State.standing
  rw [h]
  rfl

/-- With no window store on its way, and no member that waits for one, nothing lands (R152). -/
theorem State.landBefore_nothing (hg : (s.coreC g).group = []) (hw : (s.coreC g).wnd = []) (clk : Nat) :
    s.landBefore g clk = s.modC g (fun c => c) := by
  have none : ({ s.coreC g with wnd := (s.coreC g).wnd.filter (fun w => decide (clk ≤ w.1)) } : CoreC) = s.coreC g := by
    rw [hw, List.filter_nil, ← hw]
  unfold State.landBefore
  dsimp only
  rw [hg, hw]
  exact congrArg (s.setC g) none

theorem State.finishWindow_nothing (hg : (s.coreC g).group = []) (hw : (s.coreC g).wnd = []) :
    s.finishWindow g = s.modC g (fun c => c) := by
  unfold State.finishWindow
  rw [State.standing_alone hg]
  exact State.landBefore_nothing hg hw _

/-! ### Quiescence (R195) -/

/-- Without a sequence there is no step of one to complete. -/
theorem State.settleSeq_idle (h : (s.coreC g).eng.seq = none) : s.settleSeq g = s := by
  unfold State.settleSeq
  dsimp only
  rw [h]

/-- With no command in flight and no `me.sqs` pending, the engine has nothing to complete. -/
theorem State.settleEngine_idle (hc : (s.coreC g).eng.cur = none) (hs : (s.coreC g).eng.sqs = []) (n : Nat) :
    s.settleEngine g n = s := by
  cases n with
  | zero => rfl
  | succ n =>
    unfold State.settleEngine
    dsimp only
    rw [hc, hs]

theorem CoreC.landMe_nothing {c : CoreC} (h : c.infl = []) : c.landMe = c := by
  have same : ({ c with infl := [] } : CoreC) = c := by rw [← h]
  unfold CoreC.landMe
  rw [h]
  exact same

/-- A core without results in flight leaves no snapshot. -/
theorem CoreC.snapshot_nothing {c : CoreC} (h : c.infl = []) (frz : Nat → Nat) : c.snapshot frz = { c with snaps := [] } := by
  unfold CoreC.snapshot
  rw [CoreC.landMe_nothing h]
  simp [CoreC.raise, h]

/-- What the stop `r` makes of a core that has nothing in flight: it stands at E with its cause, its slots' lead and its engine quiet, and
every register stays (R173, R195, R223). -/
def CoreC.stood (c : CoreC) (now epc : Nat) (slip cause : Word) : CoreC :=
  { c with
    snaps := [], slots := c.slots.mapIdx (fun k q => { q with frz := (c.slot k).frz }), rst := [], run := .stopped
    epc := BitVec.ofNat 64 epc, slip := slip, cause := cause, mine := none, stall := now - c.issAt
    eng := { c.eng with quiet := true, woken := false } }

/-- The cause that core g records for the stop `r`. -/
def CoreC.causeOf (c : CoreC) (g : Nat) (r : StopReq) : Word := if r.who = some g then r.cause else c.ownStop r

theorem State.standStill_alone (hg : (s.coreC g).group = []) (hi : (s.coreC g).infl = []) (hw : (s.coreC g).wnd = [])
    (hc : (s.coreC g).eng.cur = none) (hs : (s.coreC g).eng.seq = none) (hq : (s.coreC g).eng.sqs = []) (r : StopReq) :
    s.standStill g r = s.modC g (fun c => c.stood s.now ((s.coreC g).addrOf r.idx) (slipWord (s.standsAt g) r.idx)
      ((s.coreC g).causeOf g r)) := by
  unfold State.standStill
  rw [State.members_alone hg]
  dsimp only [List.foldl_cons, List.foldl_nil]
  have snap := CoreC.snapshot_nothing hi (fun k => ((s.coreC g).slot k).frz.getD (s.coreC g).clk)
  have core : (s.modC g (fun c => c.snapshot _)).coreC g = { s.coreC g with snaps := [] } := (s.coreC_modC_self g _).trans snap
  rw [State.finishWindow_nothing (by rw [core, hg]) (by rw [core, hw]), State.modC_modC_of_eq rfl,
    State.settleSeq_idle (by rw [core, hs]), State.settleEngine_idle (by rw [core, hc]) (by rw [core, hq]), State.modC_modC]
  have still : ((s.coreC g).snapshot (fun k => ((s.coreC g).slot k).frz.getD (s.coreC g).clk)).landMe = { s.coreC g with snaps := [] } := by
    rw [snap]
    exact CoreC.landMe_nothing hi
  unfold State.modC
  dsimp only
  rw [still, snap]
  rfl

/-! ### STOP (R173) -/

/-- A stop of a core that is in no tandem: the core stands, publishes what it has staged, and its cause decides what becomes of it. -/
theorem execStop_alone {r : StopReq} (hC : isGearC g = true) (hg : (s.coreC g).group = []) (hr : (s.coreC g).run = .running)
    (hp : (s.coreC g).phase = .start) (hs : (s.coreC g).stop = some r) (hf : (s.coreC g).allFrozen = true)
    (ht : ((s.standStill g (s.breakBeside g r)).coreC g).group = []) :
    let r := s.breakBeside g r
    let u := ((s.standStill g r).modC g (fun c => { c with step1 := false })).publish g
    execStop g s = .next ((u.dispose (r.who.getD g) (u.coreC (r.who.getD g)).cause r.also).idleBlocks (u.groupOf g)) := by
  have still : (((s.standStill g (s.breakBeside g r)).modC g (fun c => { c with step1 := false })).coreC g).group = [] := by
    rw [State.coreC_modC_self, ht]
  dsimp only
  unfold execStop
  dsimp only
  rw [if_pos hC, State.leader_alone hg, hs]
  dsimp only
  rw [if_neg (by simp [hr, hp, hf]), State.members_alone hg]
  dsimp only [State.modAll]
  simp only [State.members_alone still, hg, List.filter_nil, ne_eq, not_true_eq_false, if_false]
  rfl
end

/-- Settles O47: what stands still is the core as it was, at E and with its cause, and the stop is disposed of by that cause. -/
theorem stopEntry : Obligations.StopEntry := by
  intro s g r c hC hg hr hp hs hf hi hw hc hq hsq hm
  have still := State.standStill_alone hg hi hw hc hq hsq (s.breakBeside g r)
  have core := (congrArg (fun t => t.coreC g) still).trans (s.coreC_modC_self g _)
  dsimp only at core ⊢
  refine ⟨?_, ?_, ?_, fun hwho => ?_, ?_, ?_, ?_, ?_, ?_, ?_, ?_, execStop_alone hC hg hr hp hs hf ?_⟩
  case refine_4 =>
    rw [core]
    change (s.coreC g).causeOf g (s.breakBeside g r) = _
    unfold CoreC.causeOf CoreC.ownStop
    obtain hwho | hwho := hwho
    · have hm : (s.coreC g).mine = none := hm
      simp [hm, hwho]
    · rw [if_pos hwho]
  case refine_11 => rw [still]; rfl
  case refine_12 => rw [core]; exact hg
  all_goals rw [core]; rfl

end Sys2Proof.Machine
end

section
/-! PROOFS. The core clock: dispatch, the end of a cycle, the end of a loop pass, a user interrupt that is taken (O43). -/

namespace Sys2Proof.Machine

/-! ### Dispatch (R163) -/

/-- Once the slots that issue are chosen, their moves stand to be made. -/
theorem State.choose_phase (s : State) (lead : Nat) : ((s.choose lead).coreC lead).phase = .issue := by
  unfold State.choose
  dsimp only
  generalize (if (s.interruptDue lead).isSome then [] else s.picks lead) = ks
  split
  · rw [State.coreC_modAll_keeps (part := CoreC.phase) (by intro; rfl), State.coreC_modC_self]
  · split
    · rw [State.coreC_modC_self, State.coreC_modAll_keeps (part := CoreC.phase) (by intro; rfl), State.coreC_modC_self]
    · rw [State.coreC_modAll_keeps (part := CoreC.phase) (by intro; rfl), State.coreC_modC_self,
        State.coreC_modAll_keeps (part := CoreC.phase) (by intro; rfl), State.coreC_modC_self]

theorem execBundleDispatch_running {s : State} {g : Nat} (hr : (s.coreC (s.leader g)).run = .running)
    (hp : (s.coreC (s.leader g)).phase = .start) : execBundleDispatch g s = .next
      (((((s.pollAll (s.members (s.leader g))).freezeAll (s.leader g)).fetchOne (s.leader g)).countStalls (s.leader g)).choose
        (s.leader g)) :=
  if_neg (by simp [hr, hp])

/-! ### Writes at the end of a cycle (R280) -/

/-- What sequences a core: its tandem, its slots, its stop, its clock and cadence, and what it asks of the bundle stream. -/
structure Course where
  group : List Nat
  slots : List SlotSeq
  stop  : Option StopReq
  step1 : Bool
  began : Bool
  clk   : Nat
  cad   : Word
  ctl   : Option Ctl
  split : Option Nat
  wnd   : List (Nat × Nat × Nat × Nat × Nat)

def CoreC.course (c : CoreC) : Course := ⟨c.group, c.slots, c.stop, c.step1, c.began, c.clk, c.cad, c.ctl, c.split, c.wnd⟩

section
variable (s : State) (g j : Nat)

theorem State.course_modC {f : CoreC → CoreC} (hf : ∀ c, (f c).course = c.course) :
    ((s.modC g f).coreC j).course = (s.coreC j).course := by
  rw [State.coreC_modC]
  split
  next h => rw [hf, h]
  · rfl

/-- A write of a k-register sequences nothing (R317). -/
theorem State.course_kwrite (n : Nat) (w : Word) : ((s.kwrite g n w).coreC j).course = (s.coreC j).course := by
  unfold State.kwrite
  dsimp only
  split
  iterate 10 exact s.course_modC g j fun _ => rfl
  all_goals rfl

theorem State.course_commit (w : PendW) : ((s.commit g w).coreC j).course = (s.coreC j).course := by
  unfold State.commit
  split
  case h_7 => exact s.course_kwrite ..
  all_goals exact s.course_modC g j fun _ => rfl

theorem State.course_foldl_commit (l : List PendW) : ((l.foldl (fun s w => s.commit g w) s).coreC j).course = (s.coreC j).course := by
  induction l generalizing s with
  | nil => rfl
  | cons w l ih => rw [List.foldl_cons, ih, State.course_commit]

theorem State.course_commitAll : ((s.commitAll g).coreC j).course = (s.coreC j).course := by
  unfold State.commitAll
  dsimp only
  rw [State.course_modC _ _ _ (by intro; rfl), State.course_foldl_commit]

theorem State.commitAll_pend : ((s.commitAll g).coreC g).pend = [] := by
  unfold State.commitAll
  dsimp only
  rw [State.coreC_modC_self]
end

section
variable {s : State} {g : Nat}

theorem State.commitAll_nothing (h : (s.coreC g).pend = []) : (s.commitAll g).coreC g = s.coreC g := by
  have same : ({ s.coreC g with pend := [] } : CoreC) = s.coreC g := by rw [← h]
  unfold State.commitAll
  dsimp only
  rw [State.coreC_modC_self, h]
  exact same

/-- One write of the cycle is performed. -/
theorem State.commitAll_single {w : PendW} (h : (s.coreC g).pend = [w]) :
    (s.commitAll g).coreC g = { (s.commit g w).coreC g with pend := [] } := by
  have alone : collides [w] = false := by simp [collides]
  unfold State.commitAll
  dsimp only
  rw [State.coreC_modC_self, h, sortBy_single, List.foldl_cons, List.foldl_nil]
  simp only [alone, Bool.false_eq_true, if_false]

/-- One write of a register of g (R280). -/
theorem State.regG_commitAll {n i : Nat} {v : TVal} (h : (s.coreC g).pend = [⟨.g n, v, i⟩]) :
    ((s.commitAll g).coreC g).regG n = v.word := by
  rw [State.commitAll_single h]
  unfold State.commit
  dsimp only
  rw [State.coreC_modC_self]
  simp [CoreC.regG, File.get_put]

/-- One write of a register of v (R280). -/
theorem State.regV_commitAll {n i : Nat} {v : TVal} (h : (s.coreC g).pend = [⟨.v n, v, i⟩]) : ((s.commitAll g).coreC g).regV n = v := by
  rw [State.commitAll_single h]
  unfold State.commit
  dsimp only
  rw [State.coreC_modC_self]
  simp [CoreC.regV, File.get_put]

/-! ### Results that land (R158, R208) -/

/-- A result that lands raises flags and goes into latches; the core is otherwise as it was. -/
theorem CoreC.land_eq (c : CoreC) (r : Infl) : ∃ fl l l2, c.land r = { c with flg := fl, l := l, l2 := l2 } := by
  unfold CoreC.land
  dsimp only
  split
  · exact ⟨_, _, _, rfl⟩
  · split <;> exact ⟨_, _, _, rfl⟩

theorem CoreC.foldl_land_eq (c : CoreC) (rs : List Infl) : ∃ fl l l2, rs.foldl CoreC.land c = { c with flg := fl, l := l, l2 := l2 } := by
  induction rs generalizing c with
  | nil => exact ⟨_, _, _, rfl⟩
  | cons r rs ih =>
    obtain ⟨fl, l, l2, first⟩ := c.land_eq r
    obtain ⟨fl', l', l2', rest⟩ := ih (c.land r)
    exact ⟨fl', l', l2', by rw [List.foldl_cons, rest, first]⟩

theorem CoreC.landAll_eq (c : CoreC) (frz : Nat → Option Nat) :
    ∃ fl l l2 infl col, c.landAll frz = { c with flg := fl, l := l, l2 := l2, infl := infl, col := col } := by
  obtain ⟨now, infl, col, lands⟩ : ∃ (now infl : List Infl) (col : BitVec 9),
      c.landAll frz = { now.foldl CoreC.land c with infl := infl, col := col } := ⟨_, _, _, rfl⟩
  obtain ⟨fl, l, l2, all⟩ := c.foldl_land_eq now
  exact ⟨fl, l, l2, infl, col, by rw [lands, all]⟩

/-- The one result in flight of a slot that is not frozen lands when it is due. -/
theorem CoreC.landAll_single {c : CoreC} {r : Infl} {frz : Nat → Option Nat} (h : c.infl = [r]) (hl : r.land ≤ c.clk)
    (hf : frz r.unit = none) : c.landAll frz = { c.land r with infl := [] } := by
  have few : ∀ u, ¬ 1 < ([r].filter (fun r => decide (r.unit = u) && r.wr)).length := fun u =>
    Nat.not_lt.mpr (List.length_filter_le _ [r])
  simp [CoreC.landAll, h, hl, hf, List.range_succ, few]

/-! ### The end of a cycle (R158, R165, R174, R280) -/

/-- The core once the results that are due have landed and nothing is asked of the bundle stream any more. -/
def CoreC.landed (c : CoreC) : CoreC := { c.landAll (fun k => (c.slot k).frz) with ctl := none }

theorem CoreC.landed_eq (c : CoreC) :
    ∃ fl l l2 infl col, c.landed = { c with flg := fl, l := l, l2 := l2, infl := infl, col := col, ctl := none } := by
  obtain ⟨fl, l, l2, infl, col, lands⟩ := c.landAll_eq (fun k => (c.slot k).frz)
  exact ⟨fl, l, l2, infl, col, by rw [CoreC.landed, lands]⟩

/-- Does a clock that began with no stop fixed, or with one, count in `k.cad` (R165, R174, R243)? -/
def CoreC.countsIf (c : CoreC) (began : Bool) : Bool :=
  (match c.stop with | none => true | some r => began && causeAsync r.cause) || (c.step1 && !c.allFrozen)

/-- Does the clock that ends count in `k.cad`? -/
def CoreC.counts (c : CoreC) : Bool := c.countsIf c.began

theorem CoreC.counts_of_course {c d : CoreC} (h : d.course = c.course) : d.counts = c.counts := congrArg
  (fun x : Course => (match x.stop with | none => true | some r => x.began && causeAsync r.cause) ||
    (x.step1 && !(List.range 8).all (fun k => (x.slots.getD k SlotSeq.reset).frz.isSome))) h

theorem CoreC.counts_iff (c : CoreC) :
    c.counts = true ↔ c.stop.all (fun r => c.began && causeAsync r.cause) = true ∨ (c.step1 = true ∧ c.allFrozen = false) := by
  unfold CoreC.counts CoreC.countsIf
  cases c.stop <;> simp

/-- The core at the start of its next clock. -/
def CoreC.nextClock (c : CoreC) : CoreC :=
  { c with
    clk := c.clk + 1, cad := if c.counts then c.cad + 1 else c.cad, cur := none, phase := .start, bpSkip := false, adv := false
    slots := c.slots.mapIdx (fun k q => { q with kept := q.kept.filter (fun h => decide ((c.slot k).next ≤ h.idx)) }) }

/-- Core `d` is core `c` but for what is counted of it and of its tick (R198, R247). -/
def CoreC.Counted (c d : CoreC) : Prop := ∃ p k o, d = { c with prof := p, tick := k, tickOf := o }

theorem CoreC.Counted.refl (c : CoreC) : c.Counted c := ⟨_, _, _, rfl⟩

theorem CoreC.Counted.trans {c d e : CoreC} (h : c.Counted d) (h' : d.Counted e) : c.Counted e := by
  obtain ⟨_, _, _, rfl⟩ := h
  obtain ⟨p, k, o, rfl⟩ := h'
  exact ⟨p, k, o, rfl⟩

theorem CoreC.Counted.split {c d : CoreC} (h : c.Counted d) : d.split = c.split := by
  obtain ⟨_, _, _, rfl⟩ := h
  rfl

theorem State.counted_countCore (s : State) (g ev k j : Nat) : (s.coreC j).Counted ((s.countCore g ev k).coreC j) := by
  obtain ⟨t, h⟩ := s.coreC_countCore g ev k j
  exact ⟨t, _, _, h⟩

theorem State.counted_noteTick (s : State) (g : Nat) : (s.coreC g).Counted ((s.noteTick g).coreC g) := by
  unfold State.noteTick
  rw [State.coreC_modC_self]
  exact ⟨_, _, _, rfl⟩

/-- Nothing is asked of the bundle stream by a core that is in no tandem: no member disagrees. -/
theorem State.dropCall_alone (hg : (s.coreC g).group = []) : s.dropCall g = s := by
  unfold State.dropCall
  dsimp only
  rw [State.members_alone hg, if_pos (by simp)]

theorem State.applyCtl_nothing (hg : (s.coreC g).group = []) (hc : (s.coreC g).ctl = none) :
    s.applyCtl g = s.modC g (fun c => { c with ctl := none }) := by
  unfold State.applyCtl
  dsimp only
  rw [State.members_alone hg, if_pos (by simp [hc])]
  rfl

/-- What the end of a cycle leaves of a core in no tandem before the clock goes on. -/
theorem State.cycleEnd_alone (hg : (s.coreC g).group = []) (hc : (s.coreC g).ctl = none) (hw : (s.coreC g).wnd = []) :
    (((s.dropCall g).endMembers g [g]).applyCtl g).coreC g = ((s.commitAll g).coreC g).landed := by
  have course := s.course_commitAll g g
  have group : ((s.commitAll g).coreC g).group = [] := (congrArg Course.group course).trans hg
  have wnd : ((s.commitAll g).coreC g).wnd = [] := (congrArg Course.wnd course).trans hw
  have ctl : ((s.commitAll g).coreC g).ctl = none := (congrArg Course.ctl course).trans hc
  have window : ((s.commitAll g).landWindow g).coreC g = (s.commitAll g).coreC g := by
    unfold State.landWindow
    rw [State.standing_alone group, List.foldl_cons, List.foldl_nil, State.landBefore_nothing group wnd, State.coreC_modC_self]
  have member : (s.endMember g g).coreC g = ((s.commitAll g).coreC g).landAll (fun k => (((s.commitAll g).coreC g).slot k).frz) := by
    unfold State.endMember
    dsimp only
    rw [State.coreC_modC_self, window]
  obtain ⟨fl, l, l2, infl, col, lands⟩ := ((s.commitAll g).coreC g).landAll_eq (fun k => (((s.commitAll g).coreC g).slot k).frz)
  rw [State.dropCall_alone hg, State.endMembers, State.endMembers, State.applyCtl_nothing (by rw [member, lands, group])
    (by rw [member, lands, ctl]), State.coreC_modC_self, member]
  rfl

/-- The state once core g's clock has gone on: the bundle that its trailing slot has issued is counted, and the cycle if `go` (R165,
R247). -/
def State.clocked (s : State) (g : Nat) (go : Bool) : State :=
  (if (s.coreC g).adv then s.countCore g 0x0101 1 else s).modC g (fun c => { c with
    clk := c.clk + 1, cad := if go then c.cad + 1 else c.cad, cur := none, phase := .start, bpSkip := false, adv := false
    slots := c.slots.mapIdx (fun k q => { q with kept := q.kept.filter (fun h => decide (((s.coreC g).slot k).next ≤ h.idx)) }) })

/-- The tick of a cycle that counts (R198). -/
def State.tickOver (s : State) (g : Nat) : State :=
  let t := (s.coreC g).tick
  let s := (s.countCore g 0x0102 1).countCore g (0x0201 + t.1) 1
  (if t.2 then s.countCore g 0x0207 1 else s).noteTick g

theorem State.counted_clocked (s : State) (g : Nat) : (s.coreC g).nextClock.Counted ((s.clocked g (s.coreC g).counts).coreC g) := by
  have adv : (s.coreC g).Counted ((if (s.coreC g).adv then s.countCore g 0x0101 1 else s).coreC g) := by
    split
    · exact s.counted_countCore ..
    · exact .refl _
  obtain ⟨p, k, o, adv⟩ := adv
  unfold State.clocked
  rw [State.coreC_modC_self, adv]
  exact ⟨p, k, o, rfl⟩

theorem State.counted_tickOver (s : State) (g : Nat) : (s.coreC g).Counted ((s.tickOver g).coreC g) := by
  have cycles := (s.counted_countCore g 0x0102 1 g).trans (State.counted_countCore _ g (0x0201 + (s.coreC g).tick.1) 1 g)
  unfold State.tickOver
  dsimp only
  refine .trans ?_ (State.counted_noteTick _ g)
  split
  · exact cycles.trans (State.counted_countCore ..)
  · exact cycles

theorem State.splitNow_nothing (h : (s.coreC g).split = none) : s.splitNow g = s := by
  unfold State.splitNow
  dsimp only
  rw [h]

theorem execResultLand_eq (hg : (s.coreC g).group = []) (hr : (s.coreC g).run = .running) (hp : (s.coreC g).phase ≠ .start)
    (ht : (s.coreC g).todo = []) :
    let u := ((s.dropCall g).endMembers g [g]).applyCtl g
    let go := (u.coreC g).countsIf (s.coreC g).began
    execResultLand g s = .next ((if go then (u.clocked g go).tickOver g else u.clocked g go).splitNow g) := by
  unfold execResultLand
  dsimp only
  rw [State.leader_alone hg, if_neg (by simp [hr, hp, ht]), State.members_alone hg]
  generalize ((s.dropCall g).endMembers g [g]).applyCtl g = u
  rfl

/-- RESULT_LAND of a core in no tandem, of which no move asks anything of the bundle stream: the writes are performed, the results land,
and the clock goes on. -/
theorem execResultLand_alone (hg : (s.coreC g).group = []) (hr : (s.coreC g).run = .running) (hp : (s.coreC g).phase ≠ .start)
    (ht : (s.coreC g).todo = []) (hc : (s.coreC g).ctl = none) (hw : (s.coreC g).wnd = []) (hs : (s.coreC g).split = none) :
    ∃ t, execResultLand g s = .next t ∧ ((s.commitAll g).coreC g).landed.nextClock.Counted (t.coreC g) := by
  have core := State.cycleEnd_alone hg hc hw
  have course := s.course_commitAll g g
  obtain ⟨_, _, _, _, _, lands⟩ := ((s.commitAll g).coreC g).landed_eq
  refine ⟨_, execResultLand_eq hg hr hp ht, ?_⟩
  generalize ((s.dropCall g).endMembers g [g]).applyCtl g = u at core ⊢
  have began : (s.coreC g).began = (u.coreC g).began := by
    rw [core, lands]
    exact (congrArg Course.began course).symm
  have go : (u.coreC g).countsIf (s.coreC g).began = (u.coreC g).counts := by rw [began, CoreC.counts]
  rw [go]
  have clock : (u.coreC g).nextClock.Counted ((if (u.coreC g).counts then (u.clocked g (u.coreC g).counts).tickOver g
      else u.clocked g (u.coreC g).counts).coreC g) := by
    split
    · exact (u.counted_clocked g).trans (State.counted_tickOver ..)
    · exact u.counted_clocked g
  have split : ((u.coreC g).nextClock).split = none := by
    rw [core, lands]
    exact (congrArg Course.split course).trans hs
  rw [State.splitNow_nothing (clock.split.trans split), ← core]
  exact clock

/-- What the next clock finds, from what the cycle's writes left: the sequencing as it was one clock before. -/
theorem CoreC.Counted.clock {c d : CoreC} (h : c.landed.nextClock.Counted d) : d.clk = c.clk + 1 ∧ d.phase = .start ∧ d.pend = c.pend ∧
    d.cad = (if c.counts then c.cad + 1 else c.cad) ∧ d.regG = c.regG ∧ d.regV = c.regV := by
  obtain ⟨_, _, _, rfl⟩ := h
  obtain ⟨_, _, _, _, _, lands⟩ := c.landed_eq
  rw [lands]
  exact ⟨rfl, rfl, rfl, rfl, rfl, rfl⟩

end

/-- A result that lands raises its flags, and pushes its unit's latches unless it is kept out of them (R158, R208). -/
theorem CoreC.land_program {c : CoreC} {r : Infl} (h : r.hb = false) : (c.land r).flg = c.flg ||| r.fl ∧
    (c.land r).l = if r.wr then (c.l.put (r.unit + 8) (readLatch c.l 1 r.unit)).put r.unit r.val else c.l := by
  cases hw : r.wr <;> simp [CoreC.land, CoreC.raise, h, hw]

/-- The one result that is due of a slot that is not frozen has landed when the next clock begins. -/
theorem CoreC.Counted.single {c d : CoreC} {r : Infl} (h : c.landed.nextClock.Counted d) (hi : c.infl = [r]) (hl : r.land ≤ c.clk)
    (hf : (c.slot r.unit).frz = none) (hh : r.hb = false) : d.flg = c.flg ||| r.fl ∧ d.infl = [] ∧
      d.l = if r.wr then (c.l.put (r.unit + 8) (readLatch c.l 1 r.unit)).put r.unit r.val else c.l := by
  obtain ⟨flg, l⟩ := CoreC.land_program (c := c) hh
  rw [CoreC.landed, CoreC.landAll_single hi hl hf] at h
  obtain ⟨_, _, _, rfl⟩ := h
  exact ⟨flg, rfl, l⟩

/-! ### The end of a loop pass (R166, R167) -/

theorem LoopSt.atPassEnd_plain {l : LoopSt} (h : l.brk = false) : l.atPassEnd false = (l, false) := by
  have same : ({ l with brk := false } : LoopSt) = l := by rw [← h]
  simp [LoopSt.atPassEnd, h, same]

/-- With no request pending and no `lbrk` in the pass, the next pass begins, or the loop ends and leaves no state (log 87). -/
theorem execLoopPassEnd_plain {s : State} {g : Nat} (hd : s.passEndDue (s.leader g) = true)
    (hq : (s.coreC (s.leader g)).soft = none ∧ (s.coreC (s.leader g)).shift = false) (hb : (s.coreC (s.leader g)).loop.brk = false) :
    let c := s.coreC (s.leader g)
    execLoopPassEnd g s = .next (s.setC (s.leader g) (if c.loop.pass + 1 = c.loop.n + c.loop.nst
      then { c with loop := LoopSt.none, honour := c.drainFor.or c.honour, drainFor := none }
      else { c with loop := { c.loop with pass := c.loop.pass + 1 }, fetch := c.loop.start })) := by
  have noRequest : (s.coreC (s.leader g)).mayHonour = false := by simp [CoreC.mayHonour, hq]
  unfold execLoopPassEnd
  dsimp only
  rw [if_neg (by simp [hd]), noRequest, Bool.false_and, LoopSt.atPassEnd_plain hb]
  split <;> rfl

/-! ### User-level interrupts (R66, R176) -/

theorem State.coreC_modAll_of_notMem {f : CoreC → CoreC} {l : List Nat} {m : Nat} (h : m ∉ l) (s : State) :
    (s.modAll f l).coreC m = s.coreC m := by
  induction l generalizing s with
  | nil => rfl
  | cons x l ih =>
    obtain ⟨hx, hl⟩ := not_or.mp (mt List.mem_cons.mpr h)
    rw [State.modAll, ih hl, State.coreC_modC, if_neg hx]

/-- What an update gives a core of the list from what the update itself keeps, the core has in the end. -/
theorem State.coreC_modAll_gains {f : CoreC → CoreC} {P Q : CoreC → Prop} (keeps : ∀ c, P c → P (f c)) (gains : ∀ c, P c → Q (f c))
    {l : List Nat} {m : Nat} (hm : m ∈ l) (s : State) (h : P (s.coreC m)) : Q ((s.modAll f l).coreC m) := by
  induction l generalizing s with
  | nil => cases hm
  | cons x l ih =>
    rw [State.modAll]
    by_cases hl : m ∈ l
    · refine ih hl _ ?_
      rw [State.coreC_modC]
      split
      next e => rw [← e]; exact keeps _ h
      · exact h
    · obtain rfl : m = x := (List.mem_cons.mp hm).resolve_right hl
      rw [State.coreC_modAll_of_notMem hl, State.coreC_modC_self]
      exact gains _ h

/-- Core `c` has entered the handler from bundle `b`, with `p` as the ports that it saved. -/
def CoreC.Entered (c : CoreC) (b : Bun) (p : File TVal) : Prop := c.inH = true ∧ c.uiepc = BitVec.ofNat 64 b.addr ∧ c.psave = p

theorem CoreC.enterHandler_entered (c : CoreC) (b : Bun) : (c.enterHandler b).Entered b c.ports := by
  unfold CoreC.enterHandler
  dsimp only
  split <;> exact ⟨rfl, rfl, rfl⟩

theorem CoreC.enterHandler_ports (c : CoreC) (b : Bun) : (c.enterHandler b).ports = c.ports := by
  unfold CoreC.enterHandler
  dsimp only
  split <;> rfl

theorem State.counted_foldl_countCore (s : State) (l : List Nat) (ev k j : Nat) :
    (s.coreC j).Counted ((l.foldl (fun s m => s.countCore m ev k) s).coreC j) := by
  induction l generalizing s with
  | nil => exact .refl _
  | cons m l ih => exact (s.counted_countCore ..).trans (ih _)

/-- The leader's bundle stream at the handler of an interrupt that was taken before bundle `b`. -/
def CoreC.toHandler (c : CoreC) (b : Bun) : CoreC :=
  { c with
    fetch := c.uivec.toNat, fidx := b.idx, fbase := 0, loop := b.loop, win := c.win.filter (fun x => x.idx < b.idx)
    stop := if c.step1 then c.stop.map (fun r => { r with idx := b.idx }) else c.stop }

theorem CoreC.Entered.toHandler {c : CoreC} {b : Bun} {p : File TVal} (h : c.Entered b p) : (c.toHandler b).Entered b p := by
  obtain ⟨inH, uiepc, psave⟩ := h
  exact ⟨inH, uiepc, psave⟩

theorem CoreC.Entered.counted {c d : CoreC} {b : Bun} {p : File TVal} (h : c.Entered b p) (e : c.Counted d) : d.Entered b p := by
  obtain ⟨inH, uiepc, psave⟩ := h
  obtain ⟨_, _, _, rfl⟩ := e
  exact ⟨inH, uiepc, psave⟩

section
variable {s : State} {g : Nat} {b : Bun}

theorem execUserInterruptTake_due (h : s.interruptDue (s.leader g) = some b) : execUserInterruptTake g s =
    .next ((s.members (s.leader g)).foldl (fun s m => s.countCore m 0x0120 1)
      ((s.modAll (fun c => c.enterHandler b) (s.members (s.leader g))).modC (s.leader g) (fun c => c.toHandler b))) := by
  unfold execUserInterruptTake
  dsimp only
  rw [h]
  rfl

/-- Every member of a lock-step tandem enters the handler (log 24). -/
theorem execUserInterruptTake_members (h : s.interruptDue (s.leader g) = some b) : ∃ t, execUserInterruptTake g s = .next t ∧
    ∀ m ∈ s.members (s.leader g), (t.coreC m).Entered b (s.coreC m).ports := by
  refine ⟨_, execUserInterruptTake_due h, fun m hm => ?_⟩
  have entered : ((s.modAll (fun c => c.enterHandler b) (s.members (s.leader g))).coreC m).Entered b (s.coreC m).ports :=
    State.coreC_modAll_gains (P := fun c => c.ports = (s.coreC m).ports) (Q := fun c => c.Entered b (s.coreC m).ports)
      (fun c e => (c.enterHandler_ports b).trans e) (fun c e => e ▸ c.enterHandler_entered b) hm s rfl
  refine CoreC.Entered.counted ?_ (State.counted_foldl_countCore ..)
  rw [State.coreC_modC]
  split
  next e => rw [e] at entered ⊢; exact entered.toHandler
  · exact entered

/-- An interrupt is due only where a member has one pending. -/
theorem State.interruptDue_pending (hg : (s.coreC g).group = []) (h : s.interruptDue g = some b) : (s.coreC g).uq ≠ [] := by
  unfold State.interruptDue at h
  dsimp only at h
  split at h
  · cases h
  · split at h
    next due =>
      rw [State.members_alone hg] at due
      simp only [Bool.and_eq_true, List.any_cons, List.any_nil, Bool.or_false, Bool.not_eq_true', List.isEmpty_eq_false_iff] at due
      obtain ⟨⟨⟨⟨⟨-, pending⟩, -⟩, -⟩, -⟩, -⟩ := due
      exact pending
    · cases h

/-- A core that enters the handler takes the cause of its first pending interrupt; a lost one shows in bit 63 (R66). -/
theorem CoreC.enterHandler_pending {c : CoreC} (h : c.uq ≠ []) : c.enterHandler b = { c with
    uiepc := BitVec.ofNat 64 b.addr, psave := c.ports, inH := true, uicause := c.uq.headD 0 ||| if c.uovf then (1 : Word) <<< 63 else 0
    uq := c.uq.drop 1, uovf := false } := by
  obtain ⟨w, t, uq⟩ := List.exists_cons_of_ne_nil h
  unfold CoreC.enterHandler
  dsimp only
  rw [uq]
  rfl

theorem execUserInterruptTake_alone (hg : (s.coreC g).group = []) (h : s.interruptDue g = some b) :
    ∃ t, execUserInterruptTake g s = .next t ∧ (((s.coreC g).enterHandler b).toHandler b).Counted (t.coreC g) := by
  have lead := State.leader_alone hg
  refine ⟨_, execUserInterruptTake_due (lead.symm ▸ h), ?_⟩
  rw [lead, State.members_alone hg]
  have core := State.counted_foldl_countCore ((s.modAll (fun c => c.enterHandler b) [g]).modC g (fun c => c.toHandler b)) [g] 0x0120 1 g
  rw [State.coreC_modC_self, State.modAll, State.modAll, State.coreC_modC_self] at core
  exact core
end

/-- Settles O43: by what each event of the core clock does where its hypotheses let it. -/
theorem cycleEvents : Obligations.CycleEvents := by
  refine ⟨fun s g hr hp => ⟨_, execBundleDispatch_running hr hp, State.choose_phase .., rfl⟩, ?_,
    fun s g hd hq hb => execLoopPassEnd_plain hd hq hb, fun s g b h => execUserInterruptTake_members h, fun s g b hg h => ?_⟩
  · intro s g c hg hr hp ht hc hw hs
    obtain ⟨t, he, counted⟩ := execResultLand_alone hg hr hp ht hc hw hs
    obtain ⟨clk, phase, pend, cad, regG, regV⟩ := counted.clock
    have course := s.course_commitAll g g
    refine ⟨t, he, clk.trans (congrArg (fun x : Course => x.clk + 1) course), phase, pend.trans (s.commitAll_pend g), ?_,
      fun n v i hpend => by rw [regG, State.regG_commitAll hpend], fun n v i hpend => by rw [regV, State.regV_commitAll hpend],
      fun r hpend hi hl hf hh => ?_⟩
    · have same : ((s.commitAll g).coreC g).cad = c.cad := congrArg Course.cad course
      rw [cad, CoreC.counts_of_course course, same]
      exact if_congr c.counts_iff rfl rfl
    · rw [State.commitAll_nothing hpend] at counted
      exact counted.single hi hl hf hh
  · obtain ⟨t, he, _, _, _, core⟩ := execUserInterruptTake_alone hg h
    refine ⟨t, he, ?_⟩
    dsimp only
    rw [core, CoreC.enterHandler_pending (State.interruptDue_pending hg h)]
    exact ⟨rfl, rfl, rfl, rfl, rfl, rfl, rfl, rfl⟩

end Sys2Proof.Machine
end

section
/-! PROOFS. The frame of every native move in its issue (O29).

What a move writes lands at the end of its cycle, and nothing that acts at the issue reaches a register: results in flight, holds, requests
and stops lie beside them, and of the engine only the queue, the counts of `k.tok` and the banks change. As for memory (O8), there is one
lemma for each function that a move calls. -/

namespace Sys2Proof.Machine

/-! ### What an issue leaves as it was -/

/-- What an issue keeps of a core: its registers and ports and, of its engine, what `k.mst`, `k.agv` and `k.agc` show (R191), with nothing
of the rest. -/
def CoreC.kept (c : CoreC) : CoreC :=
  { CoreC.reset with
    g := c.g, o := c.o, v := c.v, p := c.p, l := c.l, l2 := c.l2, h := c.h, ports := c.ports, flg := c.flg, bank := c.bank, epc := c.epc
    cause := c.cause, slip := c.slip, loop := c.loop, cad := c.cad, col := c.col, uivec := c.uivec, uiepc := c.uiepc
    uicause := c.uicause
    eng := { Engine.reset with
      tiles := { Tiles.reset with mst := c.eng.tiles.mst, agv := c.eng.tiles.agv, agc := c.eng.tiles.agc } } }

theorem CoreC.SameRegs.kept {c d : CoreC} (h : c.SameRegs d) : d.kept = c.kept := by
  unfold CoreC.SameRegs at h
  simp only [CoreC.kept, h]

theorem CoreC.ports_of_kept {c d : CoreC} (h : d.kept = c.kept) : d.ports = c.ports := by
  have same := congrArg CoreC.ports h
  exact same

/-- Cores that keep the same keep the same apart from their ports. -/
theorem CoreC.kept_ports {c d : CoreC} (h : d.kept = c.kept) (q : File TVal) :
    ({ d with ports := q } : CoreC).kept = ({ c with ports := q } : CoreC).kept :=
  congrArg (fun e : CoreC => { e with ports := q }) h

/-- From `s` to `t` every core of gear C keeps what an issue keeps. -/
def State.SameAtIssue (s t : State) : Prop := ∀ g, (t.coreC g).kept = (s.coreC g).kept

theorem State.SameAtIssue.refl (s : State) : s.SameAtIssue s := fun _ => rfl

theorem State.SameAtIssue.trans {s t u : State} (h : s.SameAtIssue t) (k : t.SameAtIssue u) : s.SameAtIssue u :=
  fun g => (k g).trans (h g)

theorem State.sameRegsC.atIssue {s t : State} (h : s.sameRegsC t) : s.SameAtIssue t :=
  fun g => ((State.sameRegsC_iff.mp h).2 g).kept

section
variable {s t : State} {g : Nat} (ok : s.SameAtIssue t)
include ok

theorem State.SameAtIssue.of_cores {u : State} (h : u.cores = t.cores) : s.SameAtIssue u := fun g => by
  have core : u.coreC g = t.coreC g := congrArg (fun l => Tab.get CoreC.reset l g) h
  rw [core]
  exact ok g

theorem State.SameAtIssue.modC {f : CoreC → CoreC} (hf : ∀ c : CoreC, (f c).kept = c.kept) : s.SameAtIssue (t.modC g f) := by
  refine ok.trans fun j => ?_
  rw [State.coreC_modC]
  split
  next h => rw [h]; exact hf _
  · rfl

theorem State.SameAtIssue.modAll {f : CoreC → CoreC} (hf : ∀ c : CoreC, (f c).kept = c.kept) (l : List Nat) :
    s.SameAtIssue (t.modAll f l) := by
  induction l generalizing t with
  | nil => exact ok
  | cons g l ih => exact ih (ok.modC hf)

theorem State.SameAtIssue.ite {c : Prop} [Decidable c] {u : State} (h : s.SameAtIssue u) : s.SameAtIssue (if c then t else u) := by
  split
  · exact ok
  · exact h

theorem State.SameAtIssue.foldl {α : Type} {f : State → α → State} {l : List α}
    (hf : ∀ t x, s.SameAtIssue t → s.SameAtIssue (f t x)) : s.SameAtIssue (l.foldl f t) := by
  induction l generalizing t with
  | nil => exact ok
  | cons x l ih => exact ih (hf _ _ ok)

/-! ### Writes and other agents: no core is theirs -/

theorem State.SameAtIssue.write {a x n : Nat} : s.SameAtIssue (t.write a x n) := fun g => by
  rw [State.coreC_write]
  exact ok g

theorem State.SameAtIssue.setDie {d : Nat} {x : Die} : s.SameAtIssue (t.setDie d x) := ok.of_cores rfl

theorem State.SameAtIssue.modP {f : CoreP → CoreP} : s.SameAtIssue (t.modP g f) := ok.of_cores rfl

theorem State.SameAtIssue.advance : s.SameAtIssue (t.advance g) := ok.modP

theorem State.SameAtIssue.setCluster {cl : Nat} {x : Cluster} : s.SameAtIssue (t.setCluster cl x) := ok.of_cores rfl

theorem State.SameAtIssue.devWrite {d a x n : Nat} : s.SameAtIssue (t.devWrite d a x n) := ok.write.of_cores rfl

theorem State.SameAtIssue.traceRec {d kind cls asid : Nat} {name : List Word} {w : Word} :
    s.SameAtIssue (t.traceRec d name kind cls asid w) := .ite ok (.ite ok.setDie ok.devWrite.setDie)

theorem State.SameAtIssue.irq {fn vec : Nat} : s.SameAtIssue (t.irq fn vec) := .ite ok (ok.of_cores rfl)

/-! ### The forms of a move's effect -/

theorem State.SameAtIssue.requestStop {r : StopReq} : s.SameAtIssue (t.requestStop g r) := ok.trans (t.sameRegsC_requestStop ..).atIssue

theorem State.SameAtIssue.trapMove {slot code detail : Nat} {b : Bun} : s.SameAtIssue (t.trapMove g slot b code detail) :=
  ok.trans (t.sameRegsC_trapMove ..).atIssue

theorem State.SameAtIssue.start {unit lat idx : Nat} {v : TVal} {fl : BitVec 7} {k : BitVec 1} :
    s.SameAtIssue (t.modC g (fun c => c.start unit lat idx v fl k)) := ok.modC fun _ => rfl

theorem State.SameAtIssue.modSlot {slot : Nat} {f : CoreC → SlotSeq → SlotSeq} :
    s.SameAtIssue (t.modC g (fun c => c.modSlot slot (f c))) := ok.modC fun _ => rfl

theorem State.SameAtIssue.later {d : Dst} {v : CoreC → TVal} {idx : Nat} : s.SameAtIssue (t.modC g (fun c => c.later d (v c) idx)) :=
  ok.modC fun _ => rfl

variable {x : MoveCtx} {k : BitVec 1}

theorem State.SameAtIssue.trap {e : Trap} : s.SameAtIssue (x.trap t e) := ok.trapMove

theorem State.SameAtIssue.finish {lat : Nat} {r : VRes} : s.SameAtIssue (x.finish t lat k r) := ok.trans (x.sameRegsC_finish ..).atIssue

theorem State.SameAtIssue.hold {op : HoldOp} : s.SameAtIssue (x.hold t op k) := ok.modSlot

theorem State.SameAtIssue.holdWith {op : HoldOp} {st : Nat} {w : Word} {img : List Word} : s.SameAtIssue (x.holdWith t op k st w img) :=
  ok.modSlot

theorem State.SameAtIssue.ask {q : Ctl} : s.SameAtIssue (x.ask t q) := ok.modC fun _ => rfl

/-! ### The scratchpads -/

theorem State.SameAtIssue.lsStore {space o w n : Nat} : s.SameAtIssue (t.lsStore g space o w n) :=
  .ite ok.write (ok.modAll (by intro; rfl) _)

theorem State.SameAtIssue.scatter {space size : Nat} {v : TVal} {l : List (Nat × Nat)} : s.SameAtIssue (t.scatter g space size v l) :=
  ok.foldl fun _ _ ok => ok.lsStore

theorem State.SameAtIssue.maskStore {space size o : Nat} {m v : TVal} : s.SameAtIssue (t.maskStore g space size o m v) :=
  ok.foldl fun _ _ ok => .ite ok.lsStore ok

theorem State.SameAtIssue.cstPut {o : Nat} {v : TVal} : s.SameAtIssue (t.cstPut g o v) := ok.modC fun _ => rfl

theorem State.SameAtIssue.cldDone {slot idx : Nat} {ws : List Word} {b : Bool} : s.SameAtIssue (t.cldDone g slot idx ws b) := ok.start

theorem State.SameAtIssue.aldDone {slot idx : Nat} {d : Word} {b : Bool} : s.SameAtIssue (t.aldDone g slot idx d b) :=
  ok.modC fun _ => rfl

/-- A row is stored into a bank, and a bank is no register. -/
theorem State.SameAtIssue.astDone {d : Word} {v : TVal} : s.SameAtIssue (t.astDone g d v) := ok.modC fun _ => rfl

/-! ### The operations of as -/

theorem State.SameAtIssue.arrive {asid i : Nat} : s.SameAtIssue (t.arrive asid i) := by
  unfold State.arrive
  split
  · exact ok
  · exact .ite ok.setDie ok

theorem State.SameAtIssue.answer {w : Option Word} : s.SameAtIssue (t.answer g w) := by
  unfold State.answer
  split
  · exact ok
  · refine .ite (.modSlot (.modSlot ?_)) ok.modP.advance
    split
    · exact ok.start
    · exact ok

theorem State.SameAtIssue.freeWaiters {i : Nat} : s.SameAtIssue (t.freeWaiters i) := by
  refine ok.foldl fun u p ok => ?_
  split
  · exact .ite ok.answer ok
  · exact ok

theorem State.SameAtIssue.saeDiscard {ops : List (Nat × Nat × Nat)} : s.SameAtIssue (t.saeDiscard g ops) := ok.modC fun _ => rfl

theorem State.SameAtIssue.saePut {w : Word} {ops : List (Nat × Nat × Nat)} : s.SameAtIssue (t.saePut g w ops) := ok.setCluster.saeDiscard

theorem State.SameAtIssue.saeRelease : s.SameAtIssue (t.saeRelease g) := by
  unfold State.saeRelease
  split
  · exact ok
  · split
    · dsimp only
      split
      · exact ok.setCluster.answer
      · exact ok
    · split
      · exact .ite ok.saePut.answer ok
      · exact ok
    · exact ok

theorem State.SameAtIssue.saeWake {cl : Nat} : s.SameAtIssue (t.saeWake cl) := ok.foldl fun _ _ ok => ok.saeRelease

theorem State.SameAtIssue.userInterrupt {w : Word} : s.SameAtIssue (t.userInterrupt g w).2 := by
  unfold State.userInterrupt
  dsimp only
  split
  all_goals exact ok.modC fun _ => rfl

theorem State.SameAtIssue.raiseVec {ch : Nat} : s.SameAtIssue (t.raiseVec ch).2 := by
  unfold State.raiseVec
  split
  · split
    · exact ok
    · exact ok.irq
  · exact ok

theorem State.SameAtIssue.notify {asid : Nat} {w : Word} : s.SameAtIssue (t.notify asid w) :=
  .ite ok.raiseVec (.ite ok.userInterrupt ok)

theorem State.SameAtIssue.draw {u : State} {d : Nat} {w : Word} (e : t.draw d = some (w, u)) : s.SameAtIssue u := by
  unfold State.draw at e
  split at e
  · cases e
  · obtain ⟨-, rfl⟩ := Prod.mk.inj (Option.some.inj e)
    exact ok.setDie

/-! ### Tandems and the engine -/

/-- A member that follows lane 0 holds as it does, or asks for the end. -/
theorem State.SameAtIssue.asLaneZero {off ends : Bool} : s.SameAtIssue (t.asLaneZero g off ends) := by
  unfold State.asLaneZero
  split
  · split
    · exact ok.modC fun _ => rfl
    · exact ok
  · split
    · exact ok.modC fun _ => rfl
    · exact ok

/-- A command enters the FIFO, and of k-registers ISS counts (R187). -/
theorem State.SameAtIssue.meIssue {cmd : Cmd} : s.SameAtIssue (t.meIssue g cmd) := ok.modC fun _ => rfl
end

/-! ### The frames of the units -/

/-- An outcome, if it is a next state, keeps what an issue keeps. -/
def NextSame (s : State) (o : Host.Outcome State Fault Refusal) : Prop := ∀ t, o = .next t → s.SameAtIssue t

section
variable {s : State} {gd : BitVec 3} {src : BitVec 10} {k : BitVec 1}

theorem NextSame.next {t : State} (h : s.SameAtIssue t) : NextSame s (.next t) := by
  rintro _ ⟨⟩
  exact h

theorem NextSame.ite {c : Prop} [Decidable c] {a b : Host.Outcome State Fault Refusal} (ha : NextSame s a) (hb : NextSame s b) :
    NextSame s (if c then a else b) := by
  split
  · exact ha
  · exact hb

theorem KeepsRegs.nextSame {o : Host.Outcome State Fault Refusal} (h : KeepsRegs s o) : NextSame s o := fun t e => (h.same t e).atIssue

theorem runMove_nextSame {unit : Nat} {body : MoveCtx → State} (h : ∀ x, s.SameAtIssue (body x)) :
    NextSame s (runMove unit gd src s body) := by
  intro t e
  obtain off | ⟨k, b, v, trap⟩ | ⟨x, -, acts⟩ := runMove_cases unit gd src s body
  · cases off.symm.trans e; exact .refl s
  · cases trap.symm.trans e; exact (State.SameAtIssue.refl s).trapMove
  · cases acts.symm.trans e; exact h x

section
variable {check : MoveCtx → Option Trap} {act : MoveCtx → State} (h : ∀ x, s.SameAtIssue (act x))
include h

theorem lsMove_nextSame : NextSame s (lsMove gd src s act) := runMove_nextSame h

theorem ctMove_nextSame : NextSame s (ctMove gd src s check act) := by
  refine runMove_nextSame fun x => ?_
  split
  · exact (State.SameAtIssue.refl s).trap
  · exact h x

theorem asMove_nextSame : NextSame s (asMove gd src s check act) := by
  refine runMove_nextSame fun x => ?_
  split
  · exact (State.SameAtIssue.refl s).trap
  · exact h x

theorem meFrame_nextSame : NextSame s (meFrame gd src s check act) := by
  unfold meFrame
  dsimp only
  split
  · split <;> exact .next (State.SameAtIssue.refl s).trap
  · exact runMove_nextSame h

theorem suspMove_nextSame {ends : CoreC → Bun → Bool} : NextSame s (suspMove gd src s ends act) :=
  .ite (runMove_nextSame h) (.ite (.next (State.SameAtIssue.refl s).asLaneZero) (.next (.refl s)))
end

theorem meMove_nextSame {op : MeOp} {check : MoveCtx → EngView → Except Trap Bool} : NextSame s (meMove gd src k s op check) := by
  refine meFrame_nextSame fun x => ?_
  split
  · exact (State.SameAtIssue.refl s).trap
  · exact (State.SameAtIssue.refl s).meIssue

theorem mePush_nextSame {op : MeOp} {rows n p : Nat} : NextSame s (mePush gd src k s op rows n p) := by
  have ok := State.SameAtIssue.refl s
  refine .ite (.ite (.next ok) ?_) (runMove_nextSame fun x => .ite ok.trap ?_)
  · dsimp only
    split
    · exact .next ok.trap
    · split
      · exact .next ok.trap
      · exact .next ok.meIssue
  · split
    · exact ok.trap
    · split
      · exact ok.trap
      · exact ok.meIssue

theorem lsStoreMove_nextSame {n : Nat} : NextSame s (lsStoreMove gd src s n) := by
  refine lsMove_nextSame fun x => ?_
  dsimp only
  split
  · exact (State.SameAtIssue.refl s).trap
  · exact (State.SameAtIssue.refl s).lsStore

theorem execLsVsca_nextSame : NextSame s (execLsVsca gd src k s) := by
  refine lsMove_nextSame fun x => ?_
  dsimp only
  split
  · exact (State.SameAtIssue.refl s).trap
  · exact (State.SameAtIssue.refl s).scatter

theorem execLsMst_nextSame : NextSame s (execLsMst gd src k s) := by
  refine lsMove_nextSame fun x => ?_
  dsimp only
  split
  · exact (State.SameAtIssue.refl s).trap
  · exact (State.SameAtIssue.refl s).maskStore

theorem execLsCld_nextSame : NextSame s (execLsCld gd src k s) := by
  have ok := State.SameAtIssue.refl s
  refine lsMove_nextSame fun x => ?_
  split
  · exact ok.trap
  · split
    · exact ok.cldDone
    · exact ok.holdWith
    · exact ok.holdWith
    · exact ok.hold

theorem execLsCst_nextSame : NextSame s (execLsCst gd src k s) := by
  have ok := State.SameAtIssue.refl s
  refine lsMove_nextSame fun x => ?_
  split
  · exact ok.trap
  · exact .ite ok.cstPut ok.hold

theorem ctBit_nextSame {f : Bool → Bool → Bool} : NextSame s (ctBit gd src k s f) :=
  runMove_nextSame fun _ => (State.SameAtIssue.refl s).finish

/-- A wait takes its tokens from RET, which only `k.tok` shows (R188, R319). -/
theorem execCtTokw_nextSame : NextSame s (execCtTokw gd src k s) := by
  refine ctMove_nextSame fun x => ?_
  dsimp only
  split
  · exact (State.SameAtIssue.refl s).modC fun _ => rfl
  · exact (State.SameAtIssue.refl s).hold

theorem execCtSusp_nextSame : NextSame s (execCtSusp gd src k s) := by
  have ok := State.SameAtIssue.refl s
  refine suspMove_nextSame fun x => .ite ok.trap (.ite ok.hold.ask ?_)
  split
  · exact ok.trap
  · exact ok.modSlot.ask

theorem execAsPost_nextSame : NextSame s (execAsPost gd src k s) := by
  refine runMove_nextSame fun x => ?_
  split
  · exact (State.SameAtIssue.refl s).trap
  · exact .ite (State.SameAtIssue.refl s).holdWith (State.SameAtIssue.refl s).trap

theorem execAsTpost_nextSame : NextSame s (execAsTpost gd src k s) := by
  refine runMove_nextSame fun x => ?_
  split
  · exact (State.SameAtIssue.refl s).trap
  · exact (State.SameAtIssue.refl s).holdWith

theorem execAsSae_nextSame : NextSame s (execAsSae gd src k s) := by
  refine runMove_nextSame fun x => ?_
  split
  · exact (State.SameAtIssue.refl s).trap
  · exact .ite (State.SameAtIssue.refl s).saePut (State.SameAtIssue.refl s).saeDiscard.hold

theorem execAsSaer_nextSame : NextSame s (execAsSaer gd src k s) := by
  refine asMove_nextSame fun x => ?_
  dsimp only
  split
  · exact (State.SameAtIssue.refl s).setCluster.finish.saeWake
  · exact (State.SameAtIssue.refl s).hold

theorem execAsRnd_nextSame : NextSame s (execAsRnd gd src k s) := by
  refine asMove_nextSame fun x => ?_
  split
  · exact (State.SameAtIssue.refl s).hold
  next e => exact (((State.SameAtIssue.refl s).draw e).modC (by intro; rfl)).finish

/-- Of a move to a port only the port shows (R277, R279). -/
theorem execMoveToPort_kept {u : BitVec 4} {p : BitVec 2} {t : State} (e : execMoveToPort gd src u p s = .next t) (g : Nat)
    (q : File TVal) : ({ t.coreC g with ports := q } : CoreC).kept = ({ s.coreC g with ports := q } : CoreC).kept := by
  obtain off | ⟨k, b, v, trap⟩ | ⟨x, -, acts⟩ := runMove_cases (u.toNat - 4) gd src s _
  · cases off.symm.trans e; rfl
  · cases trap.symm.trans e
    exact CoreC.kept_ports ((State.SameAtIssue.refl s).trapMove g) q
  · cases acts.symm.trans e
    rw [State.coreC_modC]
    split
    next h => rw [h]
    · rfl
end

/-! ### Every move -/

/-- The triggers of the engine, ls, ct and as that are no plain loads, and the moves to a register and to the null sink. -/
def issuesOtherwise : Instr → Bool
  | .mePa .. | .mePb .. | .meAcc .. | .meSh .. | .meDr .. | .meClr .. | .meCls .. | .meThr .. | .meSeq .. | .meSqs ..
  | .lsSt .. | .lsVst .. | .lsVsca .. | .lsCld .. | .lsCst .. | .lsMst .. | .lsAld .. | .lsAst ..
  | .ctBr .. | .ctBrc .. | .ctCall .. | .ctRet .. | .ctJr .. | .ctLoop .. | .ctLbrk .. | .ctLend .. | .ctFuse .. | .ctDecouple ..
  | .ctRejoin .. | .ctSusp .. | .ctYield .. | .ctTrap .. | .ctBrk .. | .ctKr .. | .ctKw .. | .ctEret .. | .ctPand .. | .ctPor ..
  | .ctPxor .. | .ctPnot .. | .ctTokw ..
  | .asPost .. | .asTwait .. | .asTstat .. | .asBalloc .. | .asBarr .. | .asBwait .. | .asBfree .. | .asHbind .. | .asHacq ..
  | .asHrel .. | .asHpub .. | .asHobs .. | .asSae .. | .asSaer .. | .asTpost .. | .asNotify .. | .asSortx .. | .asRnd ..
  | .asPmark .. | .asIcinv .. | .moveToRegister .. | .moveToNullSink .. => true
  | _ => false

theorem exec_nextSame {i : Instr} (h : issuesOtherwise i = true) (s : State) : NextSame s (exec i s) := by
  have ok := State.SameAtIssue.refl s
  cases i with dsimp only [exec]
  | mePa | mePb => exact mePush_nextSame
  | meAcc | meSh | meDr | meClr | meCls | meThr | meSeq => exact meMove_nextSame
  | meSqs => exact meFrame_nextSame fun _ => .ite ok.trap (ok.modC fun _ => rfl)
  | lsSt | lsVst => exact lsStoreMove_nextSame
  | lsVsca => exact execLsVsca_nextSame
  | lsMst => exact execLsMst_nextSame
  | lsCld => exact execLsCld_nextSame
  | lsCst => exact execLsCst_nextSame
  | lsAld => exact lsMove_nextSame fun _ => .ite ok.trap (.ite ok.hold ok.aldDone)
  | lsAst => exact lsMove_nextSame fun _ => .ite ok.trap (.ite ok.trap (.ite ok.hold ok.astDone))
  | ctBr | ctRet | ctJr | ctLoop | ctLbrk | ctEret => exact ctMove_nextSame fun _ => ok.ask
  | ctBrc => exact ctMove_nextSame fun _ => .ite ok.ask ok
  | ctCall => exact ctMove_nextSame fun _ => ok.ask.finish
  | ctLend => exact ctMove_nextSame fun _ => .ite ok ok.later
  | ctFuse => exact ctMove_nextSame fun _ => ok.hold
  | ctDecouple => exact ctMove_nextSame fun _ => .ite ok ok.ask
  | ctRejoin => exact ctMove_nextSame fun _ => .ite ok ok.hold
  | ctSusp => exact execCtSusp_nextSame
  | ctYield => exact suspMove_nextSame fun _ => .ite ok.trap (.ite ok.modSlot.ask ok)
  | ctTrap | ctBrk => exact ctMove_nextSame fun _ => ok.requestStop
  | ctKr => exact ctMove_nextSame fun _ => ok.finish
  | ctKw => exact ctMove_nextSame fun _ => .ite ok.hold ok.later
  | ctPand | ctPor | ctPxor | ctPnot => exact ctBit_nextSame
  | ctTokw => exact execCtTokw_nextSame
  | asPost => exact execAsPost_nextSame
  | asTwait | asBalloc | asBwait | asHbind | asHacq | asHrel | asHpub | asHobs | asIcinv => exact asMove_nextSame fun _ => ok.hold
  | asTstat => exact asMove_nextSame fun _ => ok.finish
  | asBarr => exact asMove_nextSame fun _ => .ite ok.arrive (ok.modC fun _ => rfl)
  | asBfree => exact asMove_nextSame fun _ => (State.SameAtIssue.setDie ok).freeWaiters
  | asSae => exact execAsSae_nextSame
  | asSaer => exact execAsSaer_nextSame
  | asTpost => exact execAsTpost_nextSame
  | asNotify => exact asMove_nextSame fun _ => ok.notify
  | asSortx => exact runMove_nextSame fun _ => ok.finish
  | asRnd => exact execAsRnd_nextSame
  | asPmark => exact runMove_nextSame fun _ => ok.traceRec
  | moveToRegister =>
    exact runMove_nextSame fun _ => .ite (.ite ok.later ok.later) (.ite ok.later (.ite (.ite ok.later ok.trap) (.ite ok.later ok)))
  | moveToNullSink => exact .next ok
  | _ => cases h

section
variable {c : BitVec 6} {g : BitVec 3} {src : BitVec 10} {k : BitVec 1} {i : Instr}

theorem decodeMe_issuesOtherwise (h : decodeMe c g src k = some i) : issuesOtherwise i = true := by
  unfold decodeMe at h
  split at h <;> cases h <;> rfl

theorem decodeLs_issues (h : decodeLs c g src k = some i) : startsResult i = true ∨ issuesOtherwise i = true := by
  rw [← Bool.or_eq_true]
  unfold decodeLs at h
  split at h <;> cases h <;> rfl

theorem decodeCt_issuesOtherwise (h : decodeCt c g src k = some i) : issuesOtherwise i = true := by
  unfold decodeCt at h
  split at h <;> cases h <;> rfl

theorem decodeAs_issuesOtherwise (h : decodeAs c g src k = some i) : issuesOtherwise i = true := by
  unfold decodeAs at h
  split at h <;> cases h <;> rfl
end

/-- A trigger starts a result or is one of the other triggers (R288 to R293). -/
theorem decodeTrigger_issues {u3 : BitVec 3} {u : BitVec 1} {c : BitVec 6} {g : BitVec 3} {src : BitVec 10} {k : BitVec 1} {i : Instr}
    (h : decodeTrigger u3 u c g src k = some i) : startsResult i = true ∨ issuesOtherwise i = true := by
  unfold decodeTrigger at h
  split at h
  · exact .inl (decodeIa_startsResult h)
  · exact .inl (decodeVa_startsResult h)
  · split at h
    · exact .inr (decodeMe_issuesOtherwise h)
    · exact decodeLs_issues h
  · split at h
    · exact .inr (decodeCt_issuesOtherwise h)
    · exact .inr (decodeAs_issuesOtherwise h)
  · cases h

/-- What the bits of a move can be (R276 to R278). -/
theorem decodeMove_issues {m : BitVec 24} {i : Instr} (h : decodeMove m = .ok i) :
    startsResult i = true ∨ issuesOtherwise i = true ∨ ∃ gd src u p, i = .moveToPort gd src u p := by
  unfold decodeMove at h
  dsimp only at h
  split at h
  · cases h
  · split at h
    next e =>
      cases h
      exact (decodeTrigger_issues e).imp_right .inl
    · split at h
      · cases h
      · split at h
        · cases h; exact .inr (.inl rfl)
        · split at h
          · cases h; exact .inr (.inl rfl)
          · split at h
            · cases h; exact .inr (.inr ⟨_, _, _, _, rfl⟩)
            · cases h

/-- Every move but one to a port keeps all that an issue keeps. -/
theorem decodeMove_nextSame {m : BitVec 24} {i : Instr} (h : decodeMove m = .ok i) (hp : ∀ gd src u p, i ≠ .moveToPort gd src u p)
    (s : State) : NextSame s (exec i s) := by
  obtain starts | other | ⟨gd, src, u, p, rfl⟩ := decodeMove_issues h
  · exact (exec_keepsRegs starts s).nextSame
  · exact exec_nextSame other s
  · exact absurd rfl (hp gd src u p)

/-- Settles O29: whatever a move does keeps what an issue keeps, but that a move to a port changes a port. -/
theorem moveFrame : Obligations.MoveFrame := by
  intro m i s t hd he g
  have most : ({ t.coreC g with ports := (s.coreC g).ports } : CoreC).kept = (s.coreC g).kept := by
    by_cases hp : ∃ gd src u p, i = .moveToPort gd src u p
    · obtain ⟨gd, src, u, p, rfl⟩ := hp
      exact execMoveToPort_kept he g _
    · push Not at hp
      exact CoreC.kept_ports (decodeMove_nextSame hd hp s t he g) _
  have same {α : Type} (part : CoreC → α) := congrArg part most
  exact ⟨same CoreC.g, same CoreC.o, same CoreC.v, same CoreC.p, same CoreC.l, same CoreC.l2, same CoreC.h, same CoreC.flg,
    same CoreC.bank, same CoreC.epc, same CoreC.cause, same CoreC.slip, same CoreC.loop, same CoreC.cad, same CoreC.col,
    same CoreC.uivec, same CoreC.uiepc, same CoreC.uicause, same (fun c => c.eng.tiles.mst), same (fun c => c.eng.tiles.agv),
    same (fun c => c.eng.tiles.agc), fun hp => CoreC.ports_of_kept (decodeMove_nextSame hd hp s t he g)⟩

end Sys2Proof.Machine
end

section
/-! PROOFS. The commands of the matrix engine as they are issued: those that enter the FIFO and `me.sqs` (O15), and the pushes (O16). -/

namespace Sys2Proof.Machine

/-! ### Commands that enter the FIFO (R178, R345) -/

section
variable {s : State} {gd : BitVec 3} {src : BitVec 10} {k : BitVec 1} {x : MoveCtx} (h : s.issues 4 gd src x)
include h

/-- A command whose check holds stands last in the FIFO. -/
theorem meMove_ok {op : MeOp} {check : MoveCtx → EngView → Except Trap Bool} {tok : Bool} (hc : check x x.c.eng.view = .ok tok) :
    meMove gd src k s op check = .next (s.meIssue x.g (x.cmd op tok k)) := by
  rw [meMove_issues h, hc]

/-- A check that fails traps instead. -/
theorem meMove_error {op : MeOp} {check : MoveCtx → EngView → Except Trap Bool} {c d : Nat}
    (hc : check x x.c.eng.view = .error (c, d)) : meMove gd src k s op check = .next (s.trapMove x.g x.slot x.bun c d) := by
  rw [meMove_issues h, hc]

/-- A command whose check is one condition enters the FIFO where it holds, and is illegal where not. -/
theorem meMove_iff {op : MeOp} {check : MoveCtx → EngView → Except Trap Bool} {tok : Bool} {P : Prop} [Decidable P]
    (ok : P → check x x.c.eng.view = .ok tok) (bad : ¬ P → check x x.c.eng.view = .error (0x01, 0)) :
    if P then meMove gd src k s op check = .next (s.meIssue x.g (x.cmd op tok k))
    else meMove gd src k s op check = .next (s.trapMove x.g x.slot x.bun 0x01 0) := by
  split
  next p => exact meMove_ok h (ok p)
  next p => exact meMove_error h (bad p)
end

/-! ### What the checks grant (R186, R347, R349) -/

/-- The token that a check of R347 grants is the one the trigger asks for. -/
theorem accCheck_tok {t : Word} {v : EngView} {tok : Bool} (h : accCheck t v = .ok tok) : tok = t.getLsbD 2 := by
  unfold accCheck at h
  dsimp only at h
  split at h
  · cases h
  · split at h
    · split at h
      · cases h
      · split at h
        · split at h
          · cases h
          · cases h; rfl
        · cases h; rfl
    · cases h

/-- And so is that of a check of R349. -/
theorem seqCheck_tok {x : MoveCtx} {v : EngView} {tok : Bool} (h : seqCheck x v = .ok tok) : tok = x.val.word.getLsbD 34 := by
  unfold seqCheck at h
  dsimp only at h
  split at h
  · cases h
  · split at h
    · cases h
    · cases h
    · split at h
      · cases h
      · split at h
        · cases h
        · cases h; rfl

/-- The words with no bit but [2] and [0]. -/
theorem and_not_five_eq_zero_iff (t : Word) : t &&& ~~~5 = 0 ↔ t = 0 ∨ t = 1 ∨ t = 4 ∨ t = 5 := by
  constructor
  · intro h
    have cut : t = (t &&& 5) ||| (t &&& ~~~5) := by
      ext i
      simp only [BitVec.getElem_or, BitVec.getElem_and, BitVec.getElem_not, ← Bool.and_or_distrib_left, Bool.or_not_self, Bool.and_true]
    have small : t.toNat < 6 := by
      rw [h] at cut
      rw [cut.trans BitVec.or_zero, BitVec.toNat_and]
      exact Nat.lt_succ_of_le Nat.and_le_right
    have all : ∀ n : Fin 6, BitVec.ofNat 64 n &&& ~~~5 = 0 →
        BitVec.ofNat 64 n = 0 ∨ BitVec.ofNat 64 n = 1 ∨ BitVec.ofNat 64 n = 4 ∨ BitVec.ofNat 64 n = 5 := by decide
    have same : BitVec.ofNat 64 t.toNat = t := by simp
    rw [← same] at h ⊢
    exact all ⟨t.toNat, small⟩ h
  · rintro (rfl | rfl | rfl | rfl) <;> decide

/-! ### `me.sqs` (R187, R194) -/

/-- Does a sequence run that has not been told to stop? -/
def Engine.running (e : Engine) : Bool := match e.seq with | some q => !q.quit | none => false

/-- The engine once a `me.sqs` has issued: it waits for the commands before it, and a running sequence is told to stop. -/
def Engine.askStop (e : Engine) (k hb : Bool) : Engine :=
  { e with
    sqs := e.sqs ++ [⟨e.owed, e.running, if e.seq.isSome then none else some 0, k, hb⟩]
    iss := (e.iss + 1) % 2 ^ 16
    seq := if e.running then e.seq.map (fun q => { q with quit := true }) else e.seq }

/-- A sequence that had been told to stop before still is. -/
theorem Engine.askStop_seq (e : Engine) (k hb : Bool) : (e.askStop k hb).seq = e.seq.map (fun q => { q with quit := true }) := by
  unfold Engine.askStop Engine.running
  cases e.seq with
  | none => rfl
  | some q =>
    obtain ⟨j, row, cg, drain, quit, ph⟩ := q
    cases quit <;> rfl

section
variable {s : State} {gd : BitVec 3} {src : BitVec 10} {k : BitVec 1} {x : MoveCtx} (h : s.issues 4 gd src x)
include h

theorem execMeSqs_illegal (ht : x.val.word ≠ 0) : execMeSqs gd src k s = .next (s.trapMove x.g x.slot x.bun 0x01 0) := by
  unfold execMeSqs
  rw [meFrame_issues h, if_pos ht]
  rfl

/-- With a zero trigger the engine owes a token more, and nothing else changes. -/
theorem execMeSqs_zero (ht : x.val.word = 0) : execMeSqs gd src k s =
    .next (s.modC s.focus (fun c => { c with eng := c.eng.askStop (decide (k = 1)) c.inH })) := by
  unfold execMeSqs
  rw [meFrame_issues h, if_neg (not_not.mpr ht), h.1]
  rfl
end

/-- Settles O15: every command is its check and then the FIFO, and `me.sqs` its own entry. -/
theorem matrixCommands : Obligations.MatrixCommands := by
  intro s gd src k x h
  simp only [exec_meAcc, exec_meSh, exec_meDr, exec_meClr, exec_meCls, exec_meThr, exec_meSeq, exec_meSqs, execMeAcc, execMeSh, execMeDr,
    execMeClr, execMeCls, execMeThr, execMeSeq]
  refine ⟨fun tok hc => ⟨accCheck_tok hc, meMove_ok h hc⟩, fun c d hc => meMove_error h hc,
    meMove_iff h (fun p => if_neg (by omega)) fun p => if_pos (by omega),
    meMove_iff h (fun p => if_pos p) fun p => if_neg p,
    meMove_iff h (fun p => if_neg (by omega)) fun p => if_pos (by omega),
    meMove_iff h (fun p => if_neg (not_not.mpr ((and_not_five_eq_zero_iff _).mpr p)))
      fun p => if_pos (mt (and_not_five_eq_zero_iff _).mp p),
    meMove_iff h (fun p => if_neg (by omega)) fun p => if_pos (by omega),
    fun tok hc => ⟨seqCheck_tok hc, meMove_ok h hc⟩, fun c d hc => meMove_error h hc, fun ht => ?_, execMeSqs_illegal h⟩
  refine ⟨_, execMeSqs_zero h ht, rfl, ?_⟩
  rw [State.coreC_modC_self]
  refine ⟨rfl, rfl, rfl, rfl, rfl, Engine.askStop_seq .., _, rfl, rfl, rfl, rfl, rfl, ?_⟩
  cases (s.coreC s.focus).eng.seq <;> rfl

/-! ### Pushes (R181, R346) -/

section
variable {s : State} {gd : BitVec 3} {src : BitVec 10} {k : BitVec 1} {op : MeOp} {rows n p : Nat}

/-- A push from the cluster scratchpad, whose index, format and slice pass their checks. -/
theorem mePush_slice {x : MoveCtx} {tag : BitVec 5} (h : s.issues 4 gd src x) (hs : src.toNat < 0x60 ∨ 0x80 ≤ src.toNat)
    (ht : x.val.word.toNat < 2 ^ 16) (hf : fmtTag (bitsOf (x.c.port x.slot (p + 1)).word 36 4) = some tag)
    (hc : sliceCheck tag (x.c.port x.slot p).word (x.c.port x.slot (p + 1)).word rows x.val.word.toNat = none) :
    mePush gd src k s op rows n p = .next (s.meIssue x.g (x.cmd op false k)) := by
  unfold mePush
  dsimp only
  rw [if_neg (by omega), runMove_issues h, if_neg (by omega), hf]
  dsimp only
  rw [hc]

/-- A push from registers, which captures them at issue. -/
theorem mePush_regs {y : Nat × Bun} {sl : Slice} (hl : 0x60 ≤ src.toNat) (hu : src.toNat < 0x80)
    (hy : (s.coreC s.focus).context 4 = y) (hg : (s.coreC s.focus).guard y.1 y.2 gd = true)
    (hr : regSlice (s.coreC s.focus) (src.toNat - 0x60) n rows = .ok sl)
    (hc : regScaleCheck sl.tag ((s.coreC s.focus).port y.1 p).word ((s.coreC s.focus).port y.1 (p + 1)).word rows = none) :
    mePush gd src k s op rows n p = .next (s.meIssue s.focus
      { (⟨s.focus, s.coreC s.focus, y.1, y.2, (s.coreC s.focus).regV (src.toNat - 0x60), true⟩ : MoveCtx).cmd op false k with
        regs := some sl, bank := some ((src.toNat - 0x60) / 8) }) := by
  subst hy
  unfold mePush
  dsimp only
  rw [if_pos ⟨hl, hu⟩, hg, if_neg (by decide), hr]
  dsimp only
  rw [hc]
end

/-- Settles O16: both pushes are one, with their own sides, registers and ports. -/
theorem matrixPushes : Obligations.MatrixPushes := by
  refine ⟨fun s gd src k x h hs => ?_, fun s gd src k y sl hl hu hy hg => ?_⟩
  · exact fun tag ht => ⟨mePush_slice h hs ht, mePush_slice h hs ht⟩
  · exact ⟨mePush_regs hl hu hy hg, mePush_regs hl hu hy hg⟩

end Sys2Proof.Machine
end

section
/-! PROOFS. The operations of the as unit that no other statement covers: scatter-accumulate, `notify`, `sortx`, `rnd`, `pmark` and
`icinv` (O26). -/

namespace Sys2Proof.Machine

/-- With a zero trigger, any entry passes the check of `saer` (R377). -/
theorem saerCheck_entry {s : State} {x : MoveCtx} {r : Option Word} (ht : x.val.word = 0)
    (hr : (s.cluster (clusterOf x.g)).nextEntry x.g = some r) :
    ¬ (x.t ≠ 0 ∨ ((s.cluster (clusterOf x.g)).nextEntry x.g).isNone) := by
  rintro (nonzero | absent)
  · exact nonzero ht
  · rw [hr] at absent
    cases absent

section
variable {s : State} {gd : BitVec 3} {src : BitVec 10} {k : BitVec 1} {x : MoveCtx} (h : s.issues 7 gd src x)
include h

/-! ### Checked triggers of slot 7 -/

theorem asMove_acts {check : MoveCtx → Option Trap} {act : MoveCtx → State} (hc : check x = none) :
    asMove gd src s check act = .next (act x) := by
  rw [asMove_issues h, hc]

theorem asMove_illegal {check : MoveCtx → Option Trap} {act : MoveCtx → State} (hc : check x = illegal) :
    asMove gd src s check act = .next (s.trapMove x.g x.slot x.bun 0x01 0) := by
  rw [asMove_issues h, hc]
  rfl

/-! ### `sae` (R374 to R376) -/

/-- Accepted operations enter the queue where they have room, and hold the slot where not. -/
theorem execAsSae_ops {ops : List (Nat × Nat × Nat)} (e : saeOps x.val.word x.pA x.pB x.pC = .ok ops) :
    execAsSae gd src k s = .next (if (s.cluster (clusterOf x.g)).room ops.length (x.val.word.getLsbD 43)
      then s.saePut x.g x.val.word ops else x.hold (s.saeDiscard x.g ops) .sae k) := by
  rw [MoveCtx.pA, MoveCtx.pB, MoveCtx.pC] at e
  rw [execAsSae, runMove_issues h, MoveCtx.t, e]

theorem execAsSae_traps {c d : Nat} (e : saeOps x.val.word x.pA x.pB x.pC = .error (c, d)) :
    execAsSae gd src k s = .next (s.trapMove x.g x.slot x.bun c d) := by
  rw [MoveCtx.pA, MoveCtx.pB, MoveCtx.pC] at e
  rw [execAsSae, runMove_issues h, MoveCtx.t, e]
  rfl

/-! ### `saer` (R377) -/

/-- The check of `saer` refuses a trigger that is not zero and a core that has no entry. -/
theorem execAsSaer_illegal (bad : x.val.word ≠ 0 ∨ (s.cluster (clusterOf x.g)).nextEntry x.g = none) :
    execAsSaer gd src k s = .next (s.trapMove x.g x.slot x.bun 0x01 0) :=
  asMove_illegal h (if_pos (bad.imp_right Option.isNone_iff_eq_none.mpr))

section
variable (ht : x.val.word = 0)
include ht

/-- A filled entry is taken, which may release the holds of its cluster. -/
theorem execAsSaer_filled {w : Word} (hr : (s.cluster (clusterOf x.g)).nextEntry x.g = some (some w)) : execAsSaer gd src k s =
    .next (((s.setCluster (clusterOf x.g) ((s.cluster (clusterOf x.g)).take x.g)).modC x.g
      (fun c => c.start x.slot 2 x.bun.idx (TVal.ofWord w) 0 k)).saeWake (clusterOf x.g)) := by
  rw [execAsSaer, asMove_acts h (if_neg (saerCheck_entry ht hr))]
  simp only [hr, MoveCtx.finish]

/-- A reserved entry is waited for. -/
theorem execAsSaer_reserved (hr : (s.cluster (clusterOf x.g)).nextEntry x.g = some none) :
    execAsSaer gd src k s = .next (x.holds s .saer k 0 0 []) := by
  rw [execAsSaer, asMove_acts h (if_neg (saerCheck_entry ht hr)), ← hold_eq h]
  simp only [hr]

/-! ### `rnd` (R380) -/

theorem execAsRnd_draw {w : Word} {l : List Word} (hd : (s.die (dieOf x.g)).draws = w :: l) : execAsRnd gd src k s =
    .next (((s.setDie (dieOf x.g) { s.die (dieOf x.g) with draws := l }).modC x.g (fun c => { c with drawn := c.drawn + 1 })).modC x.g
      (fun c => c.start x.slot 2 x.bun.idx (TVal.ofWord w) 0 k)) := by
  rw [execAsRnd, asMove_acts h (if_neg (not_not.mpr ht)), State.draw, hd]
  rfl

theorem execAsRnd_empty (hd : (s.die (dieOf x.g)).draws = []) : execAsRnd gd src k s = .next (x.holds s .rnd k 0 0 []) := by
  rw [execAsRnd, asMove_acts h (if_neg (not_not.mpr ht)), State.draw, hd, ← hold_eq h]
end

theorem execAsRnd_illegal (ht : x.val.word ≠ 0) : execAsRnd gd src k s = .next (s.trapMove x.g x.slot x.bun 0x01 0) :=
  asMove_illegal h (if_pos ht)

/-! ### `notify`, `sortx`, `pmark`, `icinv` (R379, R216, R381, R382) -/

theorem execAsNotify_acts (hc : s.notifyCheck x.c.asid x.val.word = none) :
    execAsNotify gd src k s = .next (s.notify x.c.asid x.val.word) := asMove_acts h hc

theorem execAsSortx_lands {v : TVal} {fl : Flags} (e : opSortx x.val.word x.pA x.pB = .ok v fl) :
    execAsSortx gd src k s = .next (x.lands s 2 k v fl) := by
  rw [MoveCtx.pA, MoveCtx.pB] at e
  rw [execAsSortx, runMove_issues h, MoveCtx.t, e, finish_ok h]

theorem execAsPmark_records : execAsPmark gd src k s =
    .next (s.traceRec (dieOf x.g) (s.nameAt x.g x.bun.addr) 2 0 x.c.asid x.val.word) := runMove_issues h _

theorem execAsIcinv_holds (ha : x.pA.word.toNat < 2 ^ 54) (ht : x.val.word.toNat < 2 ^ 32) :
    execAsIcinv gd src k s = .next (x.holds s .icinv k 0 0 []) := by
  rw [← hold_eq h]
  exact asMove_acts h (if_neg (not_or.mpr ⟨Nat.not_le.mpr ha, Nat.not_le.mpr ht⟩))
end

/-- Settles O26: by what each trigger does with operands that its check accepts, and with those that it refuses. -/
theorem asOther : Obligations.AsOther := by
  intro s gd src k x h
  exact ⟨fun ops => execAsSae_ops h, fun c e => execAsSae_traps h, fun w ht => execAsSaer_filled h ht, execAsSaer_reserved h,
    fun hr => execAsSaer_illegal h (.inr hr), execAsNotify_acts (k := k) h, fun v fl => execAsSortx_lands h,
    fun w l ht => execAsRnd_draw h ht, execAsRnd_empty h, fun ht => ⟨execAsRnd_illegal h ht, execAsSaer_illegal h (.inl ht)⟩,
    execAsPmark_records (k := k) h, execAsIcinv_holds h⟩

end Sys2Proof.Machine
end

section
/-! PROOFS. The debugger's commands on a context of one core (O58). -/

namespace Sys2Proof.Machine

section
variable {s : State} {g : Nat}

/-! ### The frame of a command (R240, R241) -/

/-- What an accepted command on one core acts on: ERR is clear. -/
abbrev State.cleared (s : State) (g : Nat) : State := s.modBlock g (fun b => { b with err := false })

/-- A command at a busy block is refused, whatever it asks. -/
theorem State.command_busy (hb : (s.block g).busy = true) (ok : Bool) (act : State → List Nat → State) :
    s.command g ok act = .next (s.modBlock g (fun b => { b with err := true })) := if_neg (by simp [hb])

/-- Each of the debugger's commands is a use of the frame. -/
theorem exec_debug_eq_command {i : Instr} (hi : i = .halt g ∨ i = .runHalted g ∨ i = .stepHalted g ∨ i = .shut g ∨ i = .openShutter g ∨
    i = .imgout g ∨ i = .imgin g ∨ i = .evict g) : ∃ ok act, exec i s = s.command g ok act := by
  rcases hi with rfl | rfl | rfl | rfl | rfl | rfl | rfl | rfl
  · exact ⟨_, _, exec_halt⟩
  · exact ⟨_, _, exec_runHalted⟩
  · exact ⟨_, _, exec_stepHalted⟩
  · exact ⟨_, _, exec_shut⟩
  · exact ⟨_, _, exec_openShutter⟩
  · exact ⟨_, _, exec_imgout⟩
  · exact ⟨_, _, by rw [exec_imgin, execImgin]⟩
  · exact ⟨_, _, exec_evict⟩

/-- A debug block is nothing that an image of the scratchpads reads (R228). -/
theorem State.badPad_modBlock (f : Block → Block) (grp : List Nat) : (s.modBlock g f).badPad true grp = s.badPad true grp := by
  unfold State.badPad
  simp only [if_true, State.coreC_modBlock, State.coreP_modBlock, State.modBlock_bad]

/-! ### The images of one core: one, at the block's address (R241) -/

theorem foldl_image_alone (f : State → Nat → Nat → State) (s : State) (g a n : Nat) :
    ([g].zip (List.range [g].length)).foldl (fun s x => f s x.1 (a + n * x.2)) s = f s g a := rfl

theorem all_image_alone (p : Nat → Nat → Bool) (g a n : Nat) :
    ([g].zip (List.range [g].length)).all (fun x => p x.1 (a + n * x.2)) = p g a := Bool.and_true _

variable (alone : s.groupOf g = [g]) (idle : (s.block g).busy = false)
include alone idle

/-- An accepted command clears ERR and acts on the one core. -/
theorem State.command_accepted {ok : Bool} (hk : ok = true) (act : State → List Nat → State) :
    s.command g ok act = .next (act (s.cleared g) [g]) := by
  unfold State.command
  rw [if_pos (by simp [hk, idle]), alone]
  rfl

/-! ### HALT and OPEN (R241, R246) -/

theorem execHalt_running (hr : s.runOf g = .running) (ha : s.attached (s.asidOf g) = true) : execHalt g s =
    .next (((s.cleared g).modBlock g (fun b => { b with busy := true })).asyncStop g 0x31 0) :=
  State.command_accepted alone idle (by simp [hr, ha]) _

theorem execOpenShutter_shut (hs : (s.block g).shut = true) :
    execOpenShutter g s = .next ((s.cleared g).open_ [g]) :=
  State.command_accepted alone idle hs _

/-! ### The commands that act on a halted context (R241 to R243) -/

section
variable (halted : s.halted g = true)
include halted

theorem execRunHalted_halted : execRunHalted g s =
    .next ((((s.cleared g).open_ [g]).markHeld g false).runResident g [g]) :=
  State.command_accepted alone idle halted _

theorem execStepHalted_portable (hg : isGearC g = false) : execStepHalted g s =
    .next ((((s.cleared g).runResident g [g]).modBlock g (fun b => { b with busy := true })).modP g
      (fun c => { c with step1 := true })) := by
  unfold execStepHalted
  rw [State.command_accepted alone idle halted]
  simp only [List.filter_cons, hg, Bool.false_eq_true, if_false, List.filter_nil, State.modAll, List.foldl_cons, List.foldl_nil]

/-- The stop of the step is fixed one bundle after the one at which the context stood. -/
theorem execStepHalted_native (hg : isGearC g = true) {r : StopReq} (hr : (s.coreC g).stop = some r) : execStepHalted g s =
    .next ((((s.cleared g).runResident g [g]).modC g (fun c => { c with step1 := true })).modBlock g
      (fun b => { b with busy := true }) |>.requestStop g ⟨r.idx + 1, r.addr, causeWord true 0 0x31 0, none, none⟩) := by
  unfold execStepHalted
  rw [State.command_accepted alone idle halted]
  simp only [List.filter_cons, hg, if_true, List.filter_nil, State.modAll, List.foldl_cons, List.foldl_nil, List.map_cons, List.map_nil,
    State.coreC_modBlock, hr, List.zip_cons_cons, List.zip_nil_left]

theorem execShut_open (hs : (s.block g).shut = false) : execShut g s =
    .next ((s.cleared g).modBlock g (fun b => { b with shut := true, shack := false })) :=
  State.command_accepted alone idle (by simp [halted, hs]) _

theorem execImgout_writes (hb : s.badPad true [g] = none) :
    execImgout g s = .next ((s.cleared g).contextOut true g (s.block g).dpa).1 := by
  unfold execImgout
  rw [State.command_accepted alone idle halted]
  simp only [State.badPad_modBlock, hb, State.block_modBlock, if_true]
  rw [foldl_image_alone (fun s m a => (s.contextOut true m a).1)]

theorem execImgout_spoiled {x : Nat × BadWord} (hb : s.badPad true [g] = some x) :
    execImgout g s = .next ((s.cleared g).spoiled x) := by
  unfold execImgout
  rw [State.command_accepted alone idle halted]
  simp only [State.badPad_modBlock, hb]

theorem execImgin_fits (hf : s.imageFits g (s.block g).dpa = true) :
    execImgin g s = .next ((s.cleared g).imageIn g (s.block g).dpa) := by
  unfold execImgin
  dsimp only
  rw [alone, all_image_alone s.imageFits, State.command_accepted alone idle (by rw [halted, hf, Bool.and_self]),
    foldl_image_alone State.imageIn]

theorem execEvict_halted : execEvict g s =
    .next (((s.cleared g).modBlock g (fun b => { b with halted := false })).saveOrSpoil g) :=
  State.command_accepted alone idle halted _
end
end

/-- Settles O58: at an idle block each command that its guard accepts acts on the one core; at a busy one the guard refuses all. -/
theorem debugCommands : Obligations.DebugCommands := by
  intro s g alone
  refine ⟨fun idle => ⟨execHalt_running alone idle, fun halted => ⟨execRunHalted_halted alone idle halted,
    execStepHalted_portable alone idle halted, fun hg r => execStepHalted_native alone idle halted hg,
    execShut_open alone idle halted, execImgout_writes alone idle halted, fun x => execImgout_spoiled alone idle halted,
    execImgin_fits alone idle halted, execEvict_halted alone idle halted⟩, execOpenShutter_shut alone idle⟩, fun busy i hi => ?_⟩
  obtain ⟨ok, act, he⟩ := exec_debug_eq_command hi
  rw [he, State.command_busy busy]

end Sys2Proof.Machine
end

section
/-! PROOFS. Profiling words, samples, recording and replay (O59). -/

namespace Sys2Proof.Machine

/-! ### Profiling words (R248, R250) -/

/-- A field in which a mask has every bit set passes it. -/
theorem bitsOf_and_ones {w m : Word} {lo len : Nat} (h : ∀ j < len, m.getLsbD (lo + j) = true) :
    bitsOf (w &&& m) lo len = bitsOf w lo len :=
  bitsOf_congr fun j hj => by rw [BitVec.getLsbD_and, h j hj, Bool.and_true]

section
variable {s : State} {asid i : Nat} {w : BitVec 64} (ha : asid < 1024)
include ha

theorem execProfileSessionWrite_control :
    execProfileSessionWrite asid 0 w s = .next { s with prof := Tab.put s.prof (16 * asid) (w &&& 0x8000FFFFFFFFFFC0) } := by
  unfold execProfileSessionWrite
  dsimp only
  rw [if_neg (by omega), if_pos rfl]
  rfl

variable (h1 : 1 ≤ i) (h8 : i ≤ 8)
include h1 h8

theorem execProfileSessionWrite_slot : execProfileSessionWrite asid i w s = .next { s with
    prof := Tab.put s.prof (16 * asid + i) ((if eventKnown (bitsOf w 0 16) then w else setBits w 62 2 2) &&& 0xC00000000000FFFF) } := by
  unfold execProfileSessionWrite
  dsimp only
  rw [if_neg (by omega), if_neg (by omega)]

/-- ST says that the event is unavailable, and the identifier stands. -/
theorem execProfileSessionWrite_unknown (he : eventKnown (bitsOf w 0 16) = false) : ∃ v, execProfileSessionWrite asid i w s =
    .next { s with prof := Tab.put s.prof (16 * asid + i) v } ∧ bitsOf v 62 2 = 2 ∧ bitsOf v 0 16 = bitsOf w 0 16 := by
  refine ⟨_, execProfileSessionWrite_slot ha h1 h8, ?_⟩
  rw [if_neg (by simp [he]), bitsOf_and_ones (by decide), bitsOf_and_ones (by decide)]
  exact ⟨bitsOf_setBits_same w 2 (by decide), bitsOf_setBits_beside w 2 (by decide) (.inl (by decide))⟩
end

/-! ### Samples (R251, R252) -/

section
variable {s : State} {g : Nat}

theorem execBundleSample_due (hd : s.sampleDue g 0 = true) : execBundleSample g s =
    .next ((s.traceRec (dieOf g) (s.nameAt g (s.nextAddr g)) 3 0 (s.asidOf g) 0).markSample g) := if_pos hd

theorem execEngineSample_due (hg : isGearC g = true) (hd : s.sampleDue g 1 = true) : execEngineSample g s =
    .next (match (s.coreC g).tickOf with
      | some m => (s.markSample g).traceRec (dieOf g) (bundleName m.1 (coordOf g) m.2) 4 (s.coreC g).tick.1 ((s.markSample g).asidOf g) 0
      | none => (s.markSample g).modC g (fun c => { c with unnamed := c.unnamed + 1 })) := by
  unfold execEngineSample
  rw [if_pos (by rw [hg, hd]; rfl)]
  dsimp only
  cases (s.coreC g).tickOf <;> rfl

theorem State.sampleNow_alone (hd : s.sampleDue g 0 = true) : s.sampleNow [g] = some (execBundleSample g s) := by
  unfold State.sampleNow
  rw [List.find?_cons_of_pos (by rw [hd, Bool.true_or])]
  exact congrArg some (if_pos hd)

theorem State.ahead_alone (h : isGearC g = true → (s.coreC g).group = []) : s.ahead g = false := by
  cases hg : isGearC g with
  | false => simp [State.ahead, hg]
  | true => simp [State.ahead, h hg]

theorem State.runCore_portable (hg : isGearC g = false) (hr : s.runOf g = .running) (hp : s.paused g = false)
    (ha : s.ahead g = false) : s.runCore g = s.runP g := by
  unfold State.runCore
  rw [if_neg (by simp [hr, hp, ha]), if_neg (by simp [hg])]

/-- At the start of its cycle, a core in no tandem takes its sample first. -/
theorem State.actionC_sample (hg : isGearC g = true) (hd : s.sampleDue g 0 = true) (hr : s.runOf g = .running)
    (alone : (s.coreC g).group = []) (start : (s.coreC g).phase = .start) : s.actionC g = some (execBundleSample g s) := by
  rw [State.runOf, if_pos hg] at hr
  unfold State.actionC
  dsimp only
  rw [if_neg (by simp [hr]), if_pos start, State.members_alone alone, State.sampleNow_alone hd]

theorem State.actionP_sample (hd : s.sampleDue g 0 = true) : s.actionP g = some (execBundleSample g s) := by
  unfold State.actionP
  dsimp only
  rw [State.sampleNow_alone hd]

theorem State.runCore_sample (hd : s.sampleDue g 0 = true) (hr : s.runOf g = .running) (hp : s.paused g = false)
    (hc : isGearC g = true → (s.coreC g).group = [] ∧ (s.coreC g).phase = .start) : s.runCore g = execBundleSample g s := by
  have ha := State.ahead_alone fun hg => (hc hg).1
  cases hg : isGearC g with
  | false =>
    rw [State.runCore_portable hg hr hp ha, State.runP, State.actionP_sample hd]
  | true =>
    obtain ⟨alone, start⟩ := hc hg
    rw [State.runCore_native hg hr hp ha, State.runC, State.leader_alone alone, State.actionC_sample hg hd hr alone start]
end

/-! ### The record's buffer and region, and divergence (R254, R255) -/

section
variable {s : State} {d : Nat}

theorem execReplayDivergence_replay (g : Nat) (hm : s.boot.mode = 2) : execReplayDivergence g s =
    .next ((s.traceRec (dieOf g) (s.nameAt g (s.nextAddr g)) 7 0 (s.asidOf g) 0).stopAll31) := if_pos hm

theorem execRecordBufferFull_pauses (hd : d < 4) (hr : s.recording = true) :
    ∃ t, execRecordBufferFull d s = .next t ∧ (t.die d).recFull = true :=
  ⟨_, if_pos ⟨hr, hd⟩, by rw [State.die_setDie, if_pos rfl]⟩

theorem execRecordBufferDrained_goesOn (hd : d < 4) : ∃ t, execRecordBufferDrained d s = .next t ∧ (t.die d).recFull = false :=
  ⟨_, if_pos hd, by rw [State.die_setDie, if_pos rfl]⟩

theorem execRecordRegionFull_replay (hm : s.boot.mode = 2) : execRecordRegionFull s = .next s.stopAll31 := if_pos hm

theorem execRecordRegionFull_records (hm : s.boot.mode ≠ 2) (hr : s.recording = true) :
    ∃ t, execRecordRegionFull s = .next t ∧ t.recording = false := ⟨_, (if_neg hm).trans (if_pos hr), rfl⟩
end

/-! ### A recorded turn (R253) -/

section
variable {s : State} {t : Turn}

theorem State.replaying_of_mode_ne (hm : s.boot.mode ≠ 2) : s.replaying = false := by simp [State.replaying, hm]

theorem State.take_of_noRequester (hn : s.noRequester t = true) : s.take t = s.turn t := by
  unfold State.take
  rw [if_neg (by simp [hn])]

theorem State.take_of_recording (hr : s.recording = true) (hn : s.noRequester t = false) {u : State}
    (hu : ({ s with record := s.record ++ [s.recorded t] } : State).turn t = .next u) :
    s.take t = .next ((s.streamsOf u t).foldl State.putStream u) := by
  have recorded : s.recordTurn t = { s with record := s.record ++ [s.recorded t] } := if_pos hr
  unfold State.take
  rw [if_pos (by rw [hr, hn]; rfl), recorded, hu]

/-- Outside a replay, a module that serves takes the agenda's next turn. -/
theorem State.oneStep_takes {rest : List Turn} (ha : s.alive) (hn : s.replaying = false) (h : s.agenda = t :: rest) :
    s.oneStep = ({ s with agenda := rest } : State).take t := by
  obtain ⟨hp, hf⟩ := ha
  unfold State.oneStep
  rw [h]
  simp only [hp, hf, hn, Option.isSome_none, Bool.false_eq_true, Bool.true_eq_false, false_and, and_false, if_false, Bool.false_and]

theorem State.putStream_fits {x : Stream} (hr : s.recording = true)
    (hf : s.recAt + (Config.streamBytes s.fresh).length ≤ s.boot.region.2) : (s.putStream x).streams = s.streams ++ [x] ∧
      (s.putStream x).recAt = s.recAt + (Config.streamBytes s.fresh).length := by
  unfold State.putStream
  dsimp only
  rw [if_neg (by simp [hr]), if_neg (by omega)]
  exact ⟨rfl, rfl⟩
end

/-! ### A turn of a replay (R254, R255) -/

section
variable {s : State} {r : Recorded} {rest : List Recorded}

/-- With an empty agenda, a replay takes its turn from the record. -/
theorem State.oneStep_replays (ha : s.alive) (hm : s.boot.mode = 2) (h : s.agenda = []) (hr : s.record ≠ []) :
    s.oneStep = s.replayStep := by
  obtain ⟨hp, hf⟩ := ha
  have replays : s.replaying = true := decide_eq_true ⟨hm, hr⟩
  unfold State.oneStep
  rw [h]
  simp only [hp, hf, replays, Bool.true_eq_false, Option.isSome_none, Bool.false_eq_true, if_false, if_true]

section
variable (hr : s.record = r :: rest)
include hr

theorem State.replayStep_held (hb : s.blocks.any (fun b => b.2.halted) = true) : s.replayStep = .next s := by
  unfold State.replayStep
  rw [hr]
  exact if_pos hb

variable (hb : s.blocks.any (fun b => b.2.halted) = false)
include hb

theorem State.replayStep_forces (hl : rest ≠ []) (hc : s.cadenceOf (r.turn.agent s.focus) = r.cad) (hp : s.absent r = false)
    (hf : s.affected r.turn = false) : s.replayStep = ({ s with record := rest } : State).forced r := by
  unfold State.replayStep
  rw [hr]
  simp only [hb, hc, hp, hf, Nat.lt_irrefl, Bool.false_eq_true, or_self, and_false, if_false, if_true, hl]

theorem State.replayStep_diverges (hc : s.cadenceOf (r.turn.agent s.focus) = r.cad) (hd : s.absent r = true ∨ s.affected r.turn = true) :
    s.replayStep = s.diverge (r.turn.agent s.focus) := by
  unfold State.replayStep
  rw [hr]
  simp only [hb, hc, hd, Nat.lt_irrefl, Bool.false_eq_true, and_self, if_false, if_true]

variable (hc : (s.cadenceOf (r.turn.agent s.focus)).toNat < r.cad.toNat)
include hc

theorem State.replayStep_waits (hw : s.runOf (r.turn.agent s.focus) = .running) (hp : s.paused (r.turn.agent s.focus) = false) :
    s.replayStep = ({ s with focus := r.turn.agent s.focus } : State).runCore (r.turn.agent s.focus) := by
  unfold State.replayStep
  rw [hr]
  simp only [hb, hc, hw, hp, Bool.false_eq_true, and_self, if_false, if_true]

/-- A core that does not run cannot reach the turn's cadence. -/
theorem State.replayStep_unreachable (hw : s.runOf (r.turn.agent s.focus) ≠ .running) :
    s.replayStep = s.diverge (r.turn.agent s.focus) := by
  unfold State.replayStep
  rw [hr]
  simp only [hb, hc, hw, Bool.false_eq_true, false_and, if_false, if_true]
end

/-- The recorded winner matters only to a pop that would go to another. -/
theorem State.forced_asRecorded (h : r.won = none ∨ (s.withAnswers r.host).popped r.turn = r.won) :
    s.forced r = (s.withAnswers r.host).turn r.turn := by
  unfold State.forced
  dsimp only
  split
  case h_3 => rfl
  all_goals
    next w _ hw =>
    rw [hw] at h
    exact if_pos (h.resolve_left (Option.some_ne_none w))
end

/-- Settles O59: profiling words by their bits, samples and the record's limits by the branch taken, recording by what `take` does, and
replay by the branch of `replayStep`. -/
theorem tracingEvents : Obligations.TracingEvents := by
  intro s
  refine ⟨fun asid w ha => execProfileSessionWrite_control ha, fun asid i w ha h1 h8 he => ?_,
    fun asid i w ha h1 h8 => execProfileSessionWrite_unknown ha h1 h8, fun g => execBundleSample_due, fun g => execEngineSample_due,
    fun g => State.runCore_sample, fun g => execReplayDivergence_replay g, fun d => execRecordBufferFull_pauses,
    fun d => execRecordBufferDrained_goesOn, execRecordRegionFull_replay, execRecordRegionFull_records,
    fun t rest ha hr hm h => ?_, fun x => State.putStream_fits, fun r u rest ha hm h hr => ?_, fun r => State.forced_asRecorded⟩
  · rw [exec_profileSessionWrite, execProfileSessionWrite_slot ha h1 h8, if_pos he]
  · have taken := State.oneStep_takes ha (State.replaying_of_mode_ne hm) h
    refine ⟨fun hn => ?_, fun hn u hu => ?_⟩
    · rw [step, taken, State.take_of_noRequester hn]
    · rw [step, taken, State.take_of_recording (s := { s with agenda := rest }) hr hn hu]
  · have replayed : step s = settled s.replayStep := by rw [step, State.oneStep_replays ha hm h (by simp [hr])]
    dsimp only
    rw [replayed]
    refine ⟨fun hb => congrArg _ (State.replayStep_held hr hb), fun hb => ⟨fun hc hp hf => ?_, fun hc hd => ?_, fun hc hw hp => ?_,
      fun hc hw => ?_⟩⟩
    · rw [State.replayStep_forces hr hb (List.cons_ne_nil _ _) hc hp hf]
    · rw [State.replayStep_diverges hr hb hc hd, State.diverge, exec_replayDivergence]
    · rw [State.replayStep_waits hr hb hc hw hp]
    · rw [State.replayStep_unreachable hr hb hc hw, State.diverge, exec_replayDivergence]

end Sys2Proof.Machine
end

section
/-! PROOFS. What is encoded decodes to the instruction (O1). -/

namespace Sys2Proof.Laws.Encodes

/-- Every row of the opcode table, by its own lemma. -/
theorem statement (i : Instr) : Statement i :=
  Instr.rec (motive := Statement)
    iaAdd iaSub iaAnd iaOr iaXor iaAndn iaShl iaShr iaSra iaRol iaMin iaMax iaMinn iaMaxn iaMul iaMulh iaMulhn iaDiv iaDivn iaRem iaRemn
    iaCmpeq iaCmpne iaCmplt iaCmpltn iaCmple iaCmplen iaSel iaLea iaBfx iaBfi iaClz iaCtz iaPopc iaMov iaSext iaZext vadd vsub vmul vfma
    vmax vmin vabs vneg vcmpeq vcmplt vcmple vsel vcvt vsplat vperm vshuf vredadd vredmax vexp2 vlog2 vrcp vrsq vdot2 vscl vpln vupl vand
    vor vxor vshl vshr vidx vext vins vclmp vtag mePa mePb meAcc meSh meDr meClr meCls meThr meSeq meSqs lsLd lsSt lsVld lsVst lsVlds
    lsVgat lsVsca lsCld lsCst lsMst lsPld lsTld lsAld lsAst ctBr ctBrc ctCall ctRet ctJr ctLoop ctLbrk ctLend ctFuse ctDecouple ctRejoin
    ctSusp ctYield ctTrap ctBrk ctKr ctKw ctEret ctPand ctPor ctPxor ctPnot ctTokw asPost asTwait asTstat asBalloc asBarr asBwait asBfree
    asHbind asHacq asHrel asHpub asHobs asSae asSaer asTpost asNotify asSortx asRnd asPmark asIcinv moveToRegister moveToPort
    moveToNullSink qadd qsub qmul qfma qmax qmin qabs qneg qclmp qcmpeq qcmplt qcmple qsel qand qor qxor qshl qshr qidx qext qins qperm
    qshuf qredadd qredmax qexp2 qlog2 qrcp qrsq qdot2 qscl qpln qupl qcvtx qsortx qsplat qcvt qtag qld qst qlds qgat qsca qmst mclr mcls
    mthr mmac mdr mrd mwr qpost twait tstat hbind hacq hrel hpub hobs tpost cend csusp cyield notify pmark qrnd portableLoad portableStore
    fence fenceI ecall ebreak portableDivide portableBranchJump csrAccess portableIntegerOp bundleDispatch resultLand loopPassEnd
    engineConsume sequencerStep tokenReturn engineWakeAdmit clusterGrant writeStagingDrain readStagingExpire userInterruptTake
    twaitRelease hacqRelease hrelDone hpubDone hbindDone bwaitRelease ballocDone postClaim tpostDone rejoinRelease fuseRelease
    entropyReady saeApply stop resume watchdog preemptionDeadline softPreemption teardown sramError handOver shiftRequest
    derailleurReevaluate recordWake dispatch level7Preempt gatherStart gatherPreempt taskSlotGranted launchGroupComplete queueCreate
    queueClose queueAbort channelBind takePacket packetCrcTimeout nullPacket copy fill gather scatter atom send promote demote launch
    signal waittl icinv sendAcknowledged sendAckTimeout packetComplete pageWalk faultResolved faultUnrecoverable faultTimeout invalidateVa
    invalidateAsid invalidateVm invalidateAll invalidateComplete homeMapChange hostBar2Write hostBar2Read hostAtomic registerWrite
    flitReceive flitReplay portRetrain frequencyChange thermalSample throttleStep fatalThermalFault powerLimit bringUp journalClear
    driverMeasurementExtend dumpSlotRelease releaseHeld debuggerDetach halt runHalted stepHalted shut shutterAck openShutter imgout imgin
    evict breakpoint cadenceBreakpoint profileSessionWrite bundleSample engineSample replayDivergence recordBufferFull recordRegionFull
    loadCodeObject unloadCodeObject bundlePublish attestationReport addressSpaceCreate addressSpaceDelete modulePowerDown
    commandInFlightComplete icacheDiscardDone recordBufferDrained i

/-- Settles O1: row by row, from the lemma of each instruction. -/
theorem encodeDecode : Obligations.EncodeDecode := statement

end Sys2Proof.Laws.Encodes
end

section
/-! PROOFS. A move that is guarded off (O28). The guard is the first thing that every frame of a move asks for. -/

namespace Sys2Proof.Machine

/-- In the core in focus, a move of guard `gd` is off, whichever its slot is outside an issue. -/
def State.Off (s : State) (gd : BitVec 3) : Prop :=
  ∀ unit, let y := (s.coreC s.focus).context unit; (s.coreC s.focus).guard y.1 y.2 gd = false

/-- In an issue the slot and bundle are those of the issue. -/
theorem State.off_of_cur {s : State} {p : Nat × Bun} {gd : BitVec 3} (hp : (s.coreC s.focus).cur = some p)
    (h : (s.coreC s.focus).guard p.1 p.2 gd = false) : s.Off gd := by
  intro unit
  simpa only [CoreC.context, hp, Option.getD_some] using h

/-! ### The frames -/

section
variable {s : State} {gd : BitVec 3} {src : BitVec 10}

/-- A `susp` or `yield` that is off does nothing, in lane 0 and in the other members (R311). -/
theorem suspMove_off {ends : CoreC → Bun → Bool} {act : MoveCtx → State}
    (h : (s.coreC s.focus).guard ((s.coreC s.focus).context 6).1 ((s.coreC s.focus).context 6).2 gd = false) :
    suspMove gd src s ends act = .next s := by
  unfold suspMove
  dsimp only
  split
  · exact runMove_off act h
  · exact if_neg (by simp [h])

section
variable {u k : BitVec 1} (off : s.Off gd)
include off

theorem runMove_of_off {unit : Nat} {body : MoveCtx → State} : runMove unit gd src s body = .next s := runMove_off body (off unit)

theorem iaMove_of_off {lat : Nat} {f : CoreC → Word → Word → Word → Option (Word × Flags)} : iaMove gd src u k s lat f = .next s :=
  runMove_of_off off

theorem iaPlain_of_off {lat : Nat} {f : Word → Word → Word} : iaPlain gd src u k s lat f = .next s := iaMove_of_off off

theorem iaDivide_of_off {signed quot : Bool} : iaDivide gd src u k s signed quot = .next s := runMove_of_off off

theorem vaMove_of_off {lat : Nat} {f : TVal → TVal → TVal → VRes} : vaMove gd src u k s lat f = .next s := runMove_of_off off

theorem lsMove_of_off {body : MoveCtx → State} : lsMove gd src s body = .next s := runMove_of_off off

theorem lsLoad_of_off {n : Nat} {tagOf : MoveCtx → Except Trap (BitVec 5)} : lsLoad gd src k s n tagOf = .next s := lsMove_of_off off

theorem lsStoreMove_of_off {n : Nat} : lsStoreMove gd src s n = .next s := lsMove_of_off off

section
variable {check : MoveCtx → Option Trap} {act : MoveCtx → State}

theorem ctMove_of_off : ctMove gd src s check act = .next s := runMove_of_off off

theorem asMove_of_off : asMove gd src s check act = .next s := runMove_of_off off

/-- The checks that slot 4 makes before a refused source traps are those of a move that runs (R344). -/
theorem meFrame_of_off : meFrame gd src s check act = .next s := by
  unfold meFrame
  simp only [off 4]
  exact runMove_of_off off
end

theorem meMove_of_off {op : MeOp} {check : MoveCtx → EngView → Except Trap Bool} : meMove gd src k s op check = .next s :=
  meFrame_of_off off

theorem mePush_of_off {op : MeOp} {rows n p : Nat} : mePush gd src k s op rows n p = .next s := by
  unfold mePush
  dsimp only
  split
  · exact if_pos (off 4)
  · exact runMove_of_off off

theorem ctBit_of_off {f : Bool → Bool → Bool} : ctBit gd src k s f = .next s := runMove_of_off off
end

/-! ### Every move -/

/-- The guard of a move (R271). -/
def guardOf : Instr → Option (BitVec 3)
  | .iaAdd gd .. | .iaSub gd .. | .iaAnd gd .. | .iaOr gd .. | .iaXor gd .. | .iaAndn gd .. | .iaShl gd .. | .iaShr gd .. | .iaSra gd ..
  | .iaRol gd .. | .iaMin gd .. | .iaMax gd .. | .iaMinn gd .. | .iaMaxn gd .. | .iaMul gd .. | .iaMulh gd .. | .iaMulhn gd ..
  | .iaDiv gd .. | .iaDivn gd .. | .iaRem gd .. | .iaRemn gd .. | .iaCmpeq gd .. | .iaCmpne gd .. | .iaCmplt gd .. | .iaCmpltn gd ..
  | .iaCmple gd .. | .iaCmplen gd .. | .iaSel gd .. | .iaLea gd .. | .iaBfx gd .. | .iaBfi gd .. | .iaClz gd .. | .iaCtz gd ..
  | .iaPopc gd .. | .iaMov gd .. | .iaSext gd .. | .iaZext gd .. | .vadd gd .. | .vsub gd .. | .vmul gd .. | .vfma gd .. | .vmax gd ..
  | .vmin gd .. | .vabs gd .. | .vneg gd .. | .vcmpeq gd .. | .vcmplt gd .. | .vcmple gd .. | .vsel gd .. | .vcvt gd .. | .vsplat gd ..
  | .vperm gd .. | .vshuf gd .. | .vredadd gd .. | .vredmax gd .. | .vexp2 gd .. | .vlog2 gd .. | .vrcp gd .. | .vrsq gd ..
  | .vdot2 gd .. | .vscl gd .. | .vpln gd .. | .vupl gd .. | .vand gd .. | .vor gd .. | .vxor gd .. | .vshl gd .. | .vshr gd ..
  | .vidx gd .. | .vext gd .. | .vins gd .. | .vclmp gd .. | .vtag gd .. | .mePa gd .. | .mePb gd .. | .meAcc gd .. | .meSh gd ..
  | .meDr gd .. | .meClr gd .. | .meCls gd .. | .meThr gd .. | .meSeq gd .. | .meSqs gd .. | .lsLd gd .. | .lsSt gd .. | .lsVld gd ..
  | .lsVst gd .. | .lsVlds gd .. | .lsVgat gd .. | .lsVsca gd .. | .lsCld gd .. | .lsCst gd .. | .lsMst gd .. | .lsPld gd ..
  | .lsTld gd .. | .lsAld gd .. | .lsAst gd .. | .ctBr gd .. | .ctBrc gd .. | .ctCall gd .. | .ctRet gd .. | .ctJr gd .. | .ctLoop gd ..
  | .ctLbrk gd .. | .ctLend gd .. | .ctFuse gd .. | .ctDecouple gd .. | .ctRejoin gd .. | .ctSusp gd .. | .ctYield gd .. | .ctTrap gd ..
  | .ctBrk gd .. | .ctKr gd .. | .ctKw gd .. | .ctEret gd .. | .ctPand gd .. | .ctPor gd .. | .ctPxor gd .. | .ctPnot gd ..
  | .ctTokw gd .. | .asPost gd .. | .asTwait gd .. | .asTstat gd .. | .asBalloc gd .. | .asBarr gd .. | .asBwait gd .. | .asBfree gd ..
  | .asHbind gd .. | .asHacq gd .. | .asHrel gd .. | .asHpub gd .. | .asHobs gd .. | .asSae gd .. | .asSaer gd .. | .asTpost gd ..
  | .asNotify gd .. | .asSortx gd .. | .asRnd gd .. | .asPmark gd .. | .asIcinv gd .. | .moveToRegister gd .. | .moveToPort gd ..
  | .moveToNullSink gd .. => some gd
  | _ => none

/-- Instruction by instruction, by the frame of its meaning. -/
theorem exec_of_off {i : Instr} (h : guardOf i = some gd) (off : s.Off gd) : exec i s = .next s := by
  cases i with dsimp only [exec]
  | iaAdd | iaSub | iaAnd | iaOr | iaXor | iaAndn | iaShl | iaShr | iaSra | iaRol | iaMin | iaMax | iaMinn | iaMaxn | iaMul | iaMulh
  | iaMulhn | iaCmpeq | iaCmpne | iaCmplt | iaCmpltn | iaCmple | iaCmplen | iaClz | iaCtz | iaPopc | iaMov =>
    cases h
    exact iaPlain_of_off off
  | iaDiv | iaDivn | iaRem | iaRemn => cases h; exact iaDivide_of_off off
  | iaSel | iaLea | iaBfx | iaBfi | iaSext | iaZext => cases h; exact iaMove_of_off off
  | vadd | vsub | vmul | vfma | vmax | vmin | vabs | vneg | vcmpeq | vcmplt | vcmple | vsel | vcvt | vsplat | vperm | vshuf | vredadd
  | vredmax | vexp2 | vlog2 | vrcp | vrsq | vdot2 | vscl | vpln | vupl | vand | vor | vxor | vshl | vshr | vidx | vext | vins | vclmp
  | vtag => cases h; exact vaMove_of_off off
  | mePa | mePb => cases h; exact mePush_of_off off
  | meAcc | meSh | meDr | meClr | meCls | meThr | meSeq => cases h; exact meMove_of_off off
  | meSqs => cases h; exact meFrame_of_off off
  | lsLd | lsVld | lsTld => cases h; exact lsLoad_of_off off
  | lsSt | lsVst => cases h; exact lsStoreMove_of_off off
  | lsVlds | lsVgat | lsVsca | lsCld | lsCst | lsMst | lsPld | lsAld | lsAst => cases h; exact lsMove_of_off off
  | ctSusp | ctYield => cases h; exact suspMove_off (off 6)
  | ctPand | ctPor | ctPxor | ctPnot => cases h; exact ctBit_of_off off
  | ctBr | ctBrc | ctCall | ctRet | ctJr | ctLoop | ctLbrk | ctLend | ctFuse | ctDecouple | ctRejoin | ctTrap | ctBrk | ctKr | ctKw
  | ctEret | ctTokw => cases h; exact ctMove_of_off off
  | asTwait | asTstat | asBalloc | asBarr | asBwait | asBfree | asHbind | asHacq | asHrel | asHpub | asHobs | asSaer | asNotify | asRnd
  | asIcinv => cases h; exact asMove_of_off off
  | asPost | asTpost | asSae | asSortx | asPmark | moveToRegister | moveToPort => cases h; exact runMove_of_off off
  | moveToNullSink => rfl
  | _ => cases h

section
variable {c : BitVec 6} {u k : BitVec 1} {i : Instr}

theorem decodeIa_guard (h : decodeIa c gd src u k = some i) : guardOf i = some gd := by
  unfold decodeIa at h
  split at h <;> cases h <;> rfl

theorem decodeVa_guard (h : decodeVa c gd src u k = some i) : guardOf i = some gd := by
  unfold decodeVa at h
  split at h <;> cases h <;> rfl

theorem decodeMe_guard (h : decodeMe c gd src k = some i) : guardOf i = some gd := by
  unfold decodeMe at h
  split at h <;> cases h <;> rfl

theorem decodeLs_guard (h : decodeLs c gd src k = some i) : guardOf i = some gd := by
  unfold decodeLs at h
  split at h <;> cases h <;> rfl

theorem decodeCt_guard (h : decodeCt c gd src k = some i) : guardOf i = some gd := by
  unfold decodeCt at h
  split at h <;> cases h <;> rfl

theorem decodeAs_guard (h : decodeAs c gd src k = some i) : guardOf i = some gd := by
  unfold decodeAs at h
  split at h <;> cases h <;> rfl

theorem decodeTrigger_guard {u3 : BitVec 3} (h : decodeTrigger u3 u c gd src k = some i) : guardOf i = some gd := by
  unfold decodeTrigger at h
  split at h
  · exact decodeIa_guard h
  · exact decodeVa_guard h
  · split at h
    · exact decodeMe_guard h
    · exact decodeLs_guard h
  · split at h
    · exact decodeCt_guard h
    · exact decodeAs_guard h
  · cases h
end

/-- The guard stands in bits [23:21] of the move, whatever its destination (R271, R272). -/
theorem decodeMove_guard {m : BitVec 24} {i : Instr} (h : decodeMove m = .ok i) : guardOf i = some (m.extractLsb' 21 3) := by
  unfold decodeMove at h
  dsimp only at h
  split at h
  · cases h
  · split at h
    next trigger =>
      cases h
      exact decodeTrigger_guard trigger
    · split at h
      · cases h
      · split at h
        · cases h; rfl
        · split at h
          · cases h; rfl
          · split at h
            · cases h; rfl
            · cases h
end

/-- Settles O28: the guard of the bits is the instruction's, and off it is the first thing that every frame asks for. -/
theorem guardedOff : Obligations.GuardedOff :=
  fun _ _ _ _ hd hp hg => exec_of_off (decodeMove_guard hd) (State.off_of_cur hp hg)

end Sys2Proof.Machine
end

section
/-! PROOFS. Moves to registers, ports and the null sink (O27). -/

namespace Sys2Proof.Machine

@[simp] theorem TVal.word_ofWord (w : Word) : (TVal.ofWord w).word = w := by
  simp [TVal.word, TVal.ofWord]

section
variable {s : State} {gd : BitVec 3} {src dst : BitVec 10} {x : MoveCtx}

/-! ### Registers (R276) -/

section
variable (h : s.issues 0 gd src x)
include h

/-- Destinations below 0x40 are g, of which a handler's first eight are its own (R175). -/
theorem execMoveToRegister_g (hn : dst.toNat < 0x40) : execMoveToRegister gd src dst s = .next
    (x.writes s (if x.c.inH = true ∧ dst.toNat < 8 then .h dst.toNat else .g dst.toNat) (TVal.ofWord x.val.word)) := by
  rw [execMoveToRegister, runMove_issues h]
  dsimp only
  rw [if_pos hn]
  simp only [later_eq h]
  split <;> rfl

theorem execMoveToRegister_o (hl : 0x40 ≤ dst.toNat) (hu : dst.toNat < 0x50) :
    execMoveToRegister gd src dst s = .next (x.writes s (.o (dst.toNat - 0x40)) (TVal.ofWord x.val.word)) := by
  rw [execMoveToRegister, runMove_issues h]
  dsimp only
  rw [if_neg (by omega), if_pos hu, later_eq h]

/-- A vector register is written whole, by the slot that owns its bank (R162, R282). -/
theorem execMoveToRegister_v (hl : 0x60 ≤ dst.toNat) (hu : dst.toNat < 0x80) : execMoveToRegister gd src dst s = .next
    (if x.c.mayWrite x.slot (dst.toNat - 0x60) = true then x.writes s (.v (dst.toNat - 0x60)) x.val
      else s.trapMove x.g x.slot x.bun 0x04 (dst.toNat - 0x60)) := by
  rw [execMoveToRegister, runMove_issues h]
  dsimp only
  rw [if_neg (by omega), if_neg (by omega), if_pos ⟨hl, hu⟩, later_eq h]
  rfl

theorem execMoveToRegister_p (hl : 0x81 ≤ dst.toNat) (hu : dst.toNat < 0x88) :
    execMoveToRegister gd src dst s = .next (x.writes s (.p (dst.toNat - 0x80)) (TVal.ofWord x.val.word)) := by
  rw [execMoveToRegister, runMove_issues h]
  dsimp only
  rw [if_neg (by omega), if_neg (by omega), if_neg (by omega), if_pos ⟨hl, hu⟩, later_eq h]
end

/-! ### Ports (R277) -/

/-- A value as port p of unit u holds it (R286). -/
def portVal (u : Nat) (v : TVal) : TVal := if widePort u then v else TVal.ofWord v.word

theorem portVal_portVal (u : Nat) (v : TVal) : portVal u (portVal u v) = portVal u v := by
  unfold portVal
  split <;> simp

/-- Outside an issue a port reads as its file holds it. -/
theorem CoreC.port_idle {c : CoreC} (h : c.cur = none) (u p : Nat) :
    c.port u p = portVal u (c.ports.get ⟨0, 0⟩ (fun e n => freeTVal e (300 + n)) (4 * u + p)) := by
  rw [CoreC.port, h]
  rfl

theorem CoreC.port_put (c : CoreC) {u p v q : Nat} (hp : p < 4) (hq : q < 4) (w : TVal) :
    ({ c with ports := c.ports.put (4 * u + p) (portVal u w), cur := none } : CoreC).port v q =
      if v = u ∧ q = p then portVal v w else ({ c with cur := none } : CoreC).port v q := by
  simp only [CoreC.port_idle, File.get_put]
  by_cases e : v = u ∧ q = p
  · obtain ⟨rfl, rfl⟩ := e
    rw [if_pos rfl, if_pos ⟨rfl, rfl⟩, portVal_portVal]
  · rw [if_neg (by omega), if_neg e]

theorem execMoveToPort_issues {u : BitVec 4} {p : BitVec 2} (h : s.issues (u.toNat - 4) gd src x) :
    execMoveToPort gd src u p s = .next (s.setC x.g { x.c with
      ports := x.c.ports.put (4 * (u.toNat - 4) + p.toNat) (portVal (u.toNat - 4) x.val) }) := by
  rw [execMoveToPort, runMove_issues h, State.modC, issues_core h]
  rfl
end

/-- Settles O27: by the registers that each range of destinations names, and what a port reads after a write of one. -/
theorem plainMoves : Obligations.PlainMoves := by
  refine ⟨fun s gd src dst x h => ⟨fun hn outside => ?_, fun hn handler => ?_, execMoveToRegister_o h, fun hl hu may => ?_,
    fun hl hu may => ?_, execMoveToRegister_p h⟩, fun s gd src u p x h _ _ => ?_, fun _ _ _ => rfl⟩
  · rw [exec_moveToRegister, execMoveToRegister_g h hn, if_neg]
    rintro ⟨handler, low⟩
    obtain outside | high := outside
    · rw [handler] at outside
      cases outside
    · omega
  · rw [exec_moveToRegister, execMoveToRegister_g h (by omega), if_pos ⟨handler, hn⟩]
  · rw [exec_moveToRegister, execMoveToRegister_v h hl hu, if_pos may]
  · rw [exec_moveToRegister, execMoveToRegister_v h hl hu, if_neg (by simp [may])]
  · refine ⟨_, execMoveToPort_issues h, ?_⟩
    rw [State.coreC_setC, if_pos rfl]
    exact ⟨rfl, fun v q _ hq => x.c.port_put p.isLt hq x.val⟩

end Sys2Proof.Machine
end

section
/-! PROOFS. `susp` and `yield` in lane 0 and in the other members of a lock-step tandem, and members that disagree (O23). -/

namespace Sys2Proof.Machine

/-! ### A member that follows lane 0 (R311) -/

section
variable {s : State} {gd : BitVec 3} {src : BitVec 10} {ends : CoreC → Bun → Bool} {act : MoveCtx → State}

/-- Another member than lane 0, where its guard is on, goes by what lane 0 did. -/
theorem suspMove_follows {y : Nat × Bun} (hl : s.leader s.focus ≠ s.focus) (hy : (s.coreC s.focus).context 6 = y)
    (hg : (s.coreC s.focus).guard y.1 y.2 gd = true) : suspMove gd src s ends act =
    .next (s.asLaneZero s.focus (!(s.coreC (s.leader s.focus)).guard y.1 y.2 gd) (ends (s.coreC s.focus) y.2)) := by
  subst hy
  rw [suspMove, if_neg hl]
  exact if_pos hg

theorem suspMove_leads {x : MoveCtx} (h : s.issues 6 gd src x) (hl : s.leader x.g = x.g) : suspMove gd src s ends act = .next (act x) := by
  rw [h.1] at hl
  rw [suspMove, if_pos hl, runMove_issues h]

variable {g : Nat}

/-- A member holds with what lane 0 holds. -/
theorem State.asLaneZero_holds {off e : Bool} {h : Hold} (hh : ((s.coreC (s.leader g)).slot 6).hold = some h) (hop : h.op = .susp) :
    s.asLaneZero g off e = s.setC g { s.coreC g with
      slots := (s.coreC g).slots.modify 6 (fun q => { q with hold := some h }), ctl := some .susp } := by
  rw [State.asLaneZero, hh]
  exact if_pos hop

/-- Where lane 0 does not hold, a member alone asks for the end, if it ends anything. -/
theorem State.asLaneZero_alone {e : Bool} (hh : ((s.coreC (s.leader g)).slot 6).hold = none) :
    s.asLaneZero g true e = if e = true then s.setC g { s.coreC g with ctl := some .susp } else s := by
  rw [State.asLaneZero, hh]
  rfl
end

theorem CoreC.yields_iff {c : CoreC} {b : Bun} : c.yields b = true ↔ c.mayHonour = true ∧ b.loop.act = false := by
  simp [CoreC.yields]

/-! ### Members that disagree (R311, R322) -/

/-- The next bundle of slot k, once it is set. -/
theorem CoreC.slot_modSlot_next (c : CoreC) (k n : Nat) :
    ((c.modSlot k (fun q => { q with next := n })).slot k).next = if k < c.slots.length then n else 0 := by
  simp only [CoreC.slot, CoreC.modSlot, List.getD_eq_getElem?_getD, List.getElem?_modify_eq]
  split
  next h => simp [h]
  next h => simp [h, SlotSeq.reset]

/-- Requests of which one is made and another is not are not all the same, and not all none. -/
theorem asks_disagree {l : List (Option Ctl)} {q : Ctl} (hs : some q ∈ l) (hn : none ∈ l) :
    l.all Option.isNone = false ∧ l.all (fun a => decide (a = l.headD none)) = false := by
  simp only [← Bool.not_eq_true, List.all_eq_true, decide_eq_true_eq]
  refine ⟨fun all => ?_, fun same => ?_⟩
  · cases all _ hs
  · cases (same _ hs).trans (same _ hn).symm

theorem State.coreC_requestStop_of_none {s : State} {g : Nat} {r : StopReq} (hr : r.who = none) (hs : (s.coreC g).stop = none) :
    (s.requestStop g r).coreC g = { s.coreC g with stop := some r } := by
  unfold State.requestStop
  rw [hr]
  dsimp only
  rw [State.coreC_modC_self, hs]

/-- The stop of a tandem whose members disagree, at bundle `idx`. -/
def disagreeStop (c : CoreC) (idx : Nat) : StopReq := ⟨idx, c.addrOf idx, causeWord false 6 0x01 0, none, none⟩

section
variable {s : State} {g m n : Nat} {q : Ctl}

/-- Members that disagree hold nothing in slot 6, and are stopped at the bundle that it has just issued. -/
theorem State.applyCtl_disagree (hm : m ∈ s.members g) (hn : n ∈ s.members g) (ask : (s.coreC m).ctl = some q)
    (no : (s.coreC n).ctl = none) : s.applyCtl g =
    (((s.modAll (fun c => { c with ctl := none }) (s.members g)).modAll
      (fun c => c.modSlot 6 (fun q => { q with hold := none })) (s.members g)).modC g
      (fun c => c.modSlot 6 (fun q => { q with next := ((s.coreC g).slot 6).next - 1 }))).requestStop g
      (disagreeStop (s.coreC g) (((s.coreC g).slot 6).next - 1)) := by
  have made : some q ∈ (s.members g).map (fun g => (s.coreC g).ctl) := List.mem_map.mpr ⟨m, hm, ask⟩
  have notMade : none ∈ (s.members g).map (fun g => (s.coreC g).ctl) := List.mem_map.mpr ⟨n, hn, no⟩
  obtain ⟨notNone, differ⟩ := asks_disagree made notMade
  have slot := State.coreC_modAll_keeps (f := fun c => { c with ctl := none }) (part := fun c => (c.slot 6).next) (fun _ => rfl)
    (s.members g) s g
  have addr := State.coreC_modAll_keeps (f := fun c => { c with ctl := none }) (part := CoreC.addrOf) (fun _ => rfl) (s.members g) s g
  unfold State.applyCtl
  dsimp only at slot ⊢
  rw [notNone, differ, Bool.false_and, if_neg Bool.false_ne_true, if_neg Bool.false_ne_true, slot, addr]
  rfl

theorem State.coreC_applyCtl_disagree (hm : m ∈ s.members g) (hn : n ∈ s.members g) (ask : (s.coreC m).ctl = some q)
    (no : (s.coreC n).ctl = none) (free : (s.coreC g).stop = none) :
    ((s.applyCtl g).coreC g).stop = some (disagreeStop (s.coreC g) (((s.coreC g).slot 6).next - 1)) ∧
      (((s.applyCtl g).coreC g).slot 6).next = if 6 < (s.coreC g).slots.length then ((s.coreC g).slot 6).next - 1 else 0 := by
  have stays {α : Type} {part : CoreC → α} (h1 : ∀ c : CoreC, part { c with ctl := none } = part c)
      (h2 : ∀ c : CoreC, part (c.modSlot 6 (fun q => { q with hold := none })) = part c) :=
    (State.coreC_modAll_keeps h2 (s.members g) _ g).trans (State.coreC_modAll_keeps h1 (s.members g) s g)
  have stop := stays (part := CoreC.stop) (fun _ => rfl) (fun _ => rfl)
  have size := stays (part := fun c => c.slots.length) (fun _ => rfl) (fun _ => List.length_modify ..)
  rw [State.applyCtl_disagree hm hn ask no, State.coreC_requestStop_of_none rfl (by rw [State.coreC_modC_self]; exact stop.trans free),
    State.coreC_modC_self]
  refine ⟨rfl, (CoreC.slot_modSlot_next ..).trans ?_⟩
  rw [size]
end

/-! ### Lane 0 (R312, R313) -/

/-- The operands that `susp` accepts: nothing, or an image's address, in lock-step and outside a handler. -/
theorem suspCheck_passes {c : CoreC} {t : Word} (lock : c.group = [] ∨ c.dec = false) (out : c.inH = false)
    (hz : bitsOf t 32 31 = 0) (ht : t = 0 ∨ t.getLsbD 63 = true) :
    ¬((c.group ≠ [] ∧ c.dec = true) ∨ c.inH = true ∨ bitsOf t 32 31 ≠ 0 ∨ (t.getLsbD 63 = false ∧ t ≠ 0)) := by
  rintro (⟨tandem, decoupled⟩ | handler | reserved | ⟨noImage, nonzero⟩)
  · exact lock.elim tandem fun no => Bool.eq_false_iff.mp no decoupled
  · rw [out] at handler
    cases handler
  · exact reserved hz
  · exact ht.elim nonzero (Bool.eq_false_iff.mp noImage)

section
variable {s : State} {gd : BitVec 3} {src : BitVec 10} {k : BitVec 1} {x : MoveCtx} (h : s.issues 6 gd src x) (hl : s.leader x.g = x.g)
include h

/-- `s` once the move holds slot 6 for the end of the continuation and has asked for it. -/
theorem ask_holdWith {st : Nat} {val : Word} {img : List Word} : x.ask (x.holdWith s .susp k st val img) .susp =
    (x.holds s .susp k st val img).modC x.g (fun c => { c with ctl := some .susp }) := by
  rw [holdWith_eq h]
  rfl

include hl

section
variable (lock : x.c.group = [] ∨ x.c.dec = false) (out : x.c.inH = false)
include lock out

theorem execCtSusp_retires (ht : x.val.word = 0) : execCtSusp gd src k s =
    .next ((x.holds s .susp k 0 0 []).modC x.g (fun c => { c with ctl := some .susp })) := by
  rw [execCtSusp, suspMove_leads h hl, ← ask_holdWith h]
  dsimp only
  rw [if_neg (suspCheck_passes lock out (by rw [ht]; rfl) (.inl ht)), if_pos ht]
  rfl

variable (hb : x.val.word.getLsbD 63 = true) (hz : bitsOf x.val.word 32 31 = 0)
include hb hz

theorem execCtSusp_writesBack {img : List Word} (e : s.suspImage x.g x.c.asid x.c.sys x.val.word = .ok img) : execCtSusp gd src k s =
    .next ((x.holds s .susp k 0 0 img).modC x.g (fun c => { c with ctl := some .susp })) := by
  rw [execCtSusp, suspMove_leads h hl, ← ask_holdWith h]
  dsimp only
  rw [if_neg (suspCheck_passes lock out hz (.inr hb)), if_neg (fun z => by simp [z] at hb), e]
  rfl

theorem execCtSusp_traps {c d : Nat} (e : s.suspImage x.g x.c.asid x.c.sys x.val.word = .error (c, d)) :
    execCtSusp gd src k s = .next (s.trapMove x.g x.slot x.bun c d) := by
  rw [execCtSusp, suspMove_leads h hl]
  dsimp only
  rw [if_neg (suspCheck_passes lock out hz (.inr hb)), if_neg (fun z => by simp [z] at hb), e]
  rfl
end

theorem execCtYield_honours (ht : x.val.word.toNat < 2 ^ 32) : execCtYield gd src k s =
    .next (if x.c.mayHonour = true ∧ x.bun.loop.act = false then
      (x.holds s .susp k 2 x.val.word []).modC x.g (fun c => { c with ctl := some .susp }) else s) := by
  rw [execCtYield, suspMove_leads h hl, ← ask_holdWith h]
  dsimp only
  rw [if_neg (by omega)]
  simp only [CoreC.yields_iff]
  rfl

theorem execCtYield_illegal (ht : 2 ^ 32 ≤ x.val.word.toNat) :
    execCtYield gd src k s = .next (s.trapMove x.g x.slot x.bun 0x01 0) := by
  rw [execCtYield, suspMove_leads h hl]
  dsimp only
  rw [if_pos ht]
  rfl
end

/-- Settles O23: by what a member does beside a lane 0 that holds or is off, what the end of a cycle does where members disagree, and
what lane 0 itself does. -/
theorem suspAndYield : Obligations.SuspAndYield := by
  refine ⟨fun s gd src k y hl hy => ⟨fun off => ?_, fun on h hh hop => ?_, fun on off hh => ?_⟩,
    fun s g m n _ hm hn ask no free => State.coreC_applyCtl_disagree hm hn ask no free, fun s gd src k x h hl => ?_⟩
  · subst hy
    rw [exec_ctSusp, exec_ctYield, execCtSusp, execCtYield, suspMove_off off, suspMove_off off]
    exact ⟨rfl, rfl⟩
  · rw [exec_ctSusp, exec_ctYield, execCtSusp, execCtYield, suspMove_follows hl hy on, suspMove_follows hl hy on,
      State.asLaneZero_holds hh hop, State.asLaneZero_holds hh hop]
    exact ⟨rfl, rfl⟩
  · rw [exec_ctSusp, exec_ctYield, execCtSusp, execCtYield, suspMove_follows hl hy on, suspMove_follows hl hy on, off, Bool.not_false,
      State.asLaneZero_alone hh, State.asLaneZero_alone hh]
    refine ⟨rfl, ?_⟩
    simp only [CoreC.yields_iff]
  · exact ⟨fun lock out => ⟨execCtSusp_retires h hl lock out, fun hb hz => ⟨fun img => execCtSusp_writesBack h hl lock out hb hz,
      fun c d => execCtSusp_traps h hl lock out hb hz⟩⟩, execCtYield_honours h hl, execCtYield_illegal (k := k) h hl⟩

end Sys2Proof.Machine
end

section
/-! PROOFS. The triggers of the vector units (O13). -/

namespace Sys2Proof.Machine

variable {s : State} {gd : BitVec 3} {src : BitVec 10} {u k : BitVec 1} {x : MoveCtx}

/-- How a vector trigger ends: what its operation answers starts as a result in the unit, or its trap is taken (R289, R323). -/
def MoveCtx.endsWith (x : MoveCtx) (s : State) (k : BitVec 1) (lat : Nat) (r : VRes) (o : Host.Outcome State Fault Refusal) : Prop :=
  (∀ v fl, r = .ok v fl → o = .next (x.lands s lat k v fl)) ∧
  (∀ c d, r = .trap c d → o = .next (s.trapMove x.g x.slot x.bun c d))

/-- A vector trigger that issues runs its operation on the trigger value and ports a and b, and ends with the answer. -/
theorem vaMove_endsWith (h : s.issues (2 + u.toNat) gd src x) (lat : Nat) (f : TVal → TVal → TVal → VRes) :
    x.endsWith s k lat (f x.val x.pA x.pB) (vaMove gd src u k s lat f) := by
  have runs : vaMove gd src u k s lat f = .next (x.finish s lat k (f x.val x.pA x.pB)) := runMove_issues h _
  refine ⟨fun v fl e => ?_, fun c d e => ?_⟩
  · rw [runs, e, finish_ok h]
  · rw [runs, e, finish_trap]

/-- Settles O13: every operation is the one frame of the vector units, with its own latency and function of the operands. -/
theorem vectorOps : Obligations.VectorOps := by
  intro s gd src u k x h
  have op := vaMove_endsWith (k := k) h
  exact ⟨op 2 fun t a _ => opVadd t a, op 2 fun t a _ => opVsub t a, op 4 fun t a _ => opVmul t a, op 4 opVfma,
    op 2 fun t a _ => opVmax t a, op 2 fun t a _ => opVmin t a, op 2 fun t _ _ => opVabs t, op 2 fun t _ _ => opVneg t,
    op 2 fun t a _ => opVcmpeq t a, op 2 fun t a _ => opVcmplt t a, op 2 fun t a _ => opVcmple t a, op 2 opVsel,
    op 2 fun t a _ => opVcvt t a, op 2 fun t a _ => opVsplat t a, op 2 fun t a _ => opVperm t a, op 2 fun t a _ => opVshuf t a,
    op 5 fun t _ _ => opVredadd t, op 5 fun t _ _ => opVredmax t, op 6 fun t _ _ => opVexp2 t, op 6 fun t _ _ => opVlog2 t,
    op 6 fun t _ _ => opVrcp t, op 6 fun t _ _ => opVrsq t, op 4 opVdot2, op 4 fun t a _ => opVscl t a,
    op 2 fun t a _ => opVpln t a, op 2 fun t a _ => opVupl t a, op 2 fun t a _ => opVand t a, op 2 fun t a _ => opVor t a,
    op 2 fun t a _ => opVxor t a, op 2 fun t a _ => opVshl t a, op 2 fun t a _ => opVshr t a, op 2 fun t _ _ => opVidx t,
    op 2 fun t a _ => opVext t a, op 2 opVins, op 2 opVclmp, op 2 fun t a _ => opVtag t a⟩

end Sys2Proof.Machine
end

section
/-! PROOFS. The integer units: plain results, divides, and the operations that check an operand (O10, O11, O12). -/

namespace Sys2Proof.Machine

/-! ### Values (R297 to R300) -/

section
variable (a t : Word)

theorem signedMin_eq : (if a.toInt ≤ t.toInt then a else t) = if a.slt t then a else t := by
  simp only [BitVec.slt_iff_toInt_lt]
  by_cases e : a.toInt = t.toInt
  · rw [BitVec.toInt_inj.mp e, ite_self, ite_self]
  · simp only [Int.lt_iff_le_and_ne, e, ne_eq, not_false_eq_true, and_true]

theorem signedMax_eq : (if a.toInt ≤ t.toInt then t else a) = if a.slt t then t else a := by
  simp only [BitVec.slt_iff_toInt_lt]
  by_cases e : a.toInt = t.toInt
  · rw [BitVec.toInt_inj.mp e, ite_self, ite_self]
  · simp only [Int.lt_iff_le_and_ne, e, ne_eq, not_false_eq_true, and_true]

theorem unsignedMin_eq : (if a.toNat ≤ t.toNat then a else t) = if a.ult t then a else t := by
  simp only [BitVec.ult_iff_lt, BitVec.lt_def]
  by_cases e : a.toNat = t.toNat
  · rw [BitVec.toNat_inj.mp e, ite_self, ite_self]
  · simp only [Nat.lt_iff_le_and_ne, e, ne_eq, not_false_eq_true, and_true]

theorem unsignedMax_eq : (if a.toNat ≤ t.toNat then t else a) = if a.ult t then t else a := by
  simp only [BitVec.ult_iff_lt, BitVec.lt_def]
  by_cases e : a.toNat = t.toNat
  · rw [BitVec.toNat_inj.mp e, ite_self, ite_self]
  · simp only [Nat.lt_iff_le_and_ne, e, ne_eq, not_false_eq_true, and_true]

/-- A truth value as a word (R300). -/
theorem ofBool_decide (p : Prop) [Decidable p] : ofBool (decide p) = if p then 1 else 0 := by
  by_cases h : p <;> simp [ofBool, h]

end

theorem rotateLeft_eq (a : Word) (n : Nat) : a.rotateLeft (n % 64) = a <<< (n % 64) ||| a >>> (64 - n % 64) :=
  BitVec.rotateLeft_eq_rotateLeftAux_of_lt (Nat.mod_lt _ (by decide))

theorem leadZeros_le (x n : Nat) : leadZeros x n ≤ n := by
  induction n with
  | zero => exact Nat.le_refl 0
  | succ n ih => rw [leadZeros]; split <;> omega

/-- The bits above the first one from the top are zero. -/
theorem testBit_above_leadZeros (x n i : Nat) (h : i < leadZeros x n) : x.testBit (n - 1 - i) = false := by
  induction n generalizing i with
  | zero => exact absurd h (Nat.not_lt_zero i)
  | succ n ih =>
    rw [leadZeros] at h
    split at h
    next => exact absurd h (Nat.not_lt_zero i)
    next zero =>
      cases i with
      | zero => exact Bool.eq_false_iff.mpr zero
      | succ i => rw [show n + 1 - 1 - (i + 1) = n - 1 - i by omega]; exact ih i (by omega)

theorem testBit_at_leadZeros (x n : Nat) (h : leadZeros x n < n) : x.testBit (n - 1 - leadZeros x n) = true := by
  induction n with
  | zero => exact absurd h (Nat.not_lt_zero _)
  | succ n ih =>
    rw [leadZeros] at h ⊢
    split
    next one => exact one
    next zero =>
      rw [if_neg zero] at h
      rw [show n + 1 - 1 - (1 + leadZeros x n) = n - 1 - leadZeros x n by omega]
      exact ih (by omega)

theorem trailZeros_le (x i n : Nat) : trailZeros x i n ≤ n := by
  induction n generalizing i with
  | zero => exact Nat.le_refl 0
  | succ n ih => have := ih (i + 1); rw [trailZeros]; split <;> omega

/-- The bits from `i` up to the first one are zero. -/
theorem testBit_below_trailZeros (x i n j : Nat) (h : j < trailZeros x i n) : x.testBit (i + j) = false := by
  induction n generalizing i j with
  | zero => exact absurd h (Nat.not_lt_zero j)
  | succ n ih =>
    rw [trailZeros] at h
    split at h
    next => exact absurd h (Nat.not_lt_zero j)
    next zero =>
      cases j with
      | zero => exact Bool.eq_false_iff.mpr zero
      | succ j => rw [show i + (j + 1) = i + 1 + j by omega]; exact ih (i + 1) j (by omega)

theorem testBit_at_trailZeros (x i n : Nat) (h : trailZeros x i n < n) : x.testBit (i + trailZeros x i n) = true := by
  induction n generalizing i with
  | zero => exact absurd h (Nat.not_lt_zero _)
  | succ n ih =>
    rw [trailZeros] at h ⊢
    split
    next one => exact one
    next zero =>
      rw [if_neg zero] at h
      rw [show i + (1 + trailZeros x (i + 1) n) = i + 1 + trailZeros x (i + 1) n by omega]
      exact ih (i + 1) (by omega)

theorem oneBits_eq_countP (x n : Nat) : oneBits x n = (List.range n).countP x.testBit := by
  induction n with
  | zero => rfl
  | succ n ih =>
    rw [oneBits, ih, List.range_succ, List.countP_append, List.countP_singleton, Nat.add_comm]
    cases x.testBit n <;> rfl

/-! ### The moves -/

section
variable {s : State} {gd : BitVec 3} {src : BitVec 10} {u k : BitVec 1} {x : MoveCtx} (h : s.issues u.toNat gd src x)
include h

/-- An operation that accepts its operands starts its result. -/
theorem iaMove_lands {lat : Nat} {f : CoreC → Word → Word → Word → Option (Word × Flags)} {r : Word} {fl : Flags}
    (e : f x.c x.pA.word x.pB.word x.val.word = some (r, fl)) :
    iaMove gd src u k s lat f = .next (x.lands s lat k (TVal.ofWord r) fl) := by
  change f x.c (x.c.port x.slot 0).word (x.c.port x.slot 1).word x.val.word = _ at e
  rw [iaMove, runMove_issues h, e, finish_ok h]

theorem iaMove_illegal {lat : Nat} {f : CoreC → Word → Word → Word → Option (Word × Flags)}
    (e : f x.c x.pA.word x.pB.word x.val.word = none) :
    iaMove gd src u k s lat f = .next (s.trapMove x.g x.slot x.bun 0x01 0) := by
  change f x.c (x.c.port x.slot 0).word (x.c.port x.slot 1).word x.val.word = _ at e
  rw [iaMove, runMove_issues h, e, finish_trap]

/-- A plain operation starts its result, with no flag. -/
theorem iaPlain_lands {lat : Nat} {f : Word → Word → Word} {r : Word} (e : f x.pA.word x.val.word = r) :
    iaPlain gd src u k s lat f = .next (x.lands s lat k (TVal.ofWord r) 0) :=
  iaMove_lands h (congrArg (fun w => some (w, (0 : Flags))) e)

end

/-- Settles O10: every operation is the one frame of the plain integer triggers; what is left is each value as the statement writes it. -/
theorem integerResults : Obligations.IntegerResults := by
  intro s gd src u k x h
  have op (lat) (f : Word → Word → Word) {r} (e : f x.pA.word x.val.word = r) := iaPlain_lands (k := k) h (lat := lat) e
  refine ⟨op 1 (fun a t => a + t) rfl, op 1 (fun a t => a - t) rfl, op 1 (fun a t => a &&& t) rfl, op 1 (fun a t => a ||| t) rfl,
    op 1 (fun a t => a ^^^ t) rfl, op 1 (fun a t => a &&& ~~~t) rfl, op 1 (fun a t => a <<< (t.toNat % 64)) rfl,
    op 1 (fun a t => a >>> (t.toNat % 64)) rfl, op 1 (fun a t => a.sshiftRight (t.toNat % 64)) rfl,
    op 1 (fun a t => a.rotateLeft (t.toNat % 64)) (rotateLeft_eq ..), op 1 (fun a t => if a.toInt ≤ t.toInt then a else t) (signedMin_eq ..),
    op 1 (fun a t => if a.toInt ≤ t.toInt then t else a) (signedMax_eq ..),
    op 1 (fun a t => if a.toNat ≤ t.toNat then a else t) (unsignedMin_eq ..),
    op 1 (fun a t => if a.toNat ≤ t.toNat then t else a) (unsignedMax_eq ..), op 3 (fun a t => a * t) rfl,
    op 3 (fun a t => BitVec.ofInt 64 (a.toInt * t.toInt / 2 ^ 64)) rfl,
    op 3 (fun a t => BitVec.ofNat 64 (a.toNat * t.toNat / 2 ^ 64)) rfl, op 1 (fun a t => ofBool (decide (a = t))) (ofBool_decide _),
    op 1 (fun a t => ofBool (decide (a ≠ t))) ?_, op 1 (fun a t => ofBool (decide (a.toInt < t.toInt))) ?_,
    op 1 (fun a t => ofBool (decide (a.toNat < t.toNat))) ?_, op 1 (fun a t => ofBool (decide (a.toInt ≤ t.toInt))) ?_,
    op 1 (fun a t => ofBool (decide (a.toNat ≤ t.toNat))) ?_, op 1 (fun _ t => t) rfl,
    ⟨_, op 1 (fun _ t => BitVec.ofNat 64 (leadZeros t.toNat 64)) rfl, leadZeros_le .., testBit_above_leadZeros _ 64,
      testBit_at_leadZeros _ 64⟩,
    ⟨_, op 1 (fun _ t => BitVec.ofNat 64 (trailZeros t.toNat 0 64)) rfl, trailZeros_le .., fun i hi => ?_, fun hi => ?_⟩,
    op 1 (fun _ t => BitVec.ofNat 64 (oneBits t.toNat 64)) (congrArg _ (oneBits_eq_countP ..))⟩
  · simp only [ofBool_decide, ne_eq, ite_not]
  · simp only [ofBool_decide, BitVec.slt_iff_toInt_lt]
  · simp only [ofBool_decide, BitVec.ult_iff_lt, BitVec.lt_def]
  · simp only [ofBool_decide, BitVec.slt_iff_toInt_lt, ← Int.not_lt, ite_not]
  · simp only [ofBool_decide, BitVec.ult_iff_lt, BitVec.lt_def, ← Nat.not_lt, ite_not]
  · simpa only [Nat.zero_add, BitVec.testBit_toNat] using testBit_below_trailZeros _ 0 64 i hi
  · simpa only [Nat.zero_add, BitVec.testBit_toNat] using testBit_at_trailZeros _ 0 64 hi

/-! ### Divides (R299) -/

section
variable (signed : Bool) (a t : Word)

theorem divide_quot : (divide signed a t).1 = if t = 0 then BitVec.allOnes 64
    else if signed then BitVec.ofInt 64 (a.toInt.tdiv t.toInt) else BitVec.ofNat 64 (a.toNat / t.toNat) := by
  rw [divide, apply_ite Prod.fst, apply_ite Prod.fst]

theorem divide_rem : (divide signed a t).2.1 = if t = 0 then a
    else if signed then BitVec.ofInt 64 (a.toInt.tmod t.toInt) else BitVec.ofNat 64 (a.toNat % t.toNat) := by
  rw [divide, apply_ite Prod.snd, apply_ite Prod.snd, apply_ite Prod.fst, apply_ite Prod.fst]

/-- IDZ is raised by a zero divisor, and by nothing else. -/
theorem divide_flags : (divide signed a t).2.2 = if t = 0 then fIDZ else 0 := by
  rw [divide, apply_ite Prod.snd, apply_ite Prod.snd, apply_ite Prod.snd, apply_ite Prod.snd, ite_self]
end

/-- A divide starts its result and occupies its unit. -/
theorem iaDivide_lands {s : State} {gd : BitVec 3} {src : BitVec 10} {u k : BitVec 1} {x : MoveCtx} (h : s.issues u.toNat gd src x)
    (signed quot : Bool) {r : Word}
    (e : (if quot then (divide signed x.pA.word x.val.word).1 else (divide signed x.pA.word x.val.word).2.1) = r) :
    iaDivide gd src u k s signed quot =
      .next ((x.lands s 20 k (TVal.ofWord r) (if x.val.word = 0 then fIDZ else 0)).modC x.g
        (fun c => { c with slots := c.slots.modify x.slot (fun q => { q with div := c.clk + 20 }) })) := by
  rw [← e, ← divide_flags signed x.pA.word, ← finish_ok h]
  exact runMove_issues h _

/-- Settles O11: the four divides are one frame; it is left which of the quotient and the remainder each gives. -/
theorem integerDivides : Obligations.IntegerDivides := fun _ _ _ _ _ _ h =>
  ⟨iaDivide_lands h true true (divide_quot ..), iaDivide_lands h false true (divide_quot ..),
    iaDivide_lands h true false (divide_rem ..), iaDivide_lands h false false (divide_rem ..)⟩

/-! ### Extensions and bit fields (R302) -/

theorem toSigned_eq_toInt (n a : Nat) : toSigned n a = (BitVec.ofNat n a).toInt := by
  rw [toSigned, BitVec.toInt_eq_toNat_cond, BitVec.toNat_ofNat]
  push_cast
  rfl

/-- Bits n and above of an extended number are copies of bit n − 1. -/
theorem getLsbD_ofInt_toSigned {n i : Nat} (a : Nat) (hn : 1 ≤ n) (hi : i < 64) :
    (BitVec.ofInt 64 (toSigned n a)).getLsbD i = a.testBit (min i (n - 1)) := by
  rw [toSigned_eq_toInt]
  change ((BitVec.ofNat n a).signExtend 64).getLsbD i = _
  rw [BitVec.getLsbD_signExtend, BitVec.msb_eq_getLsbD_last]
  simp only [hi, decide_true, Bool.true_and, BitVec.getLsbD_ofNat]
  by_cases inside : i < n
  · rw [if_pos inside, Nat.min_eq_left (by omega), decide_eq_true inside, Bool.true_and]
  · rw [if_neg inside, Nat.min_eq_right (by omega), decide_eq_true (by omega), Bool.true_and]

section
variable {a b t : Word}

theorem extWord_accepts (signed : Bool) (ok : 1 ≤ t.toNat ∧ t.toNat ≤ 64) : extWord signed a t =
    some (if signed then BitVec.ofInt 64 (toSigned t.toNat a.toNat) else BitVec.ofNat 64 (a.toNat % 2 ^ t.toNat)) :=
  if_neg (by omega)

theorem extWord_refuses (signed : Bool) (bad : t.toNat = 0 ∨ 64 < t.toNat) : extWord signed a t = none :=
  if_pos (by omega)

theorem bitsOf_pos (t : Word) : bitsOf t 0 6 = t.toNat % 64 := rfl

theorem bitsOf_len (t : Word) : bitsOf t 6 7 = t.toNat / 64 % 128 := by
  rw [bitsOf, Nat.shiftRight_eq_div_pow]
  rfl

theorem fieldOk_iff : fieldOk t = true ↔ t.toNat < 2 ^ 14 ∧ 1 ≤ t.toNat / 64 % 128 ∧ t.toNat / 64 % 128 ≤ 64 := by
  rw [fieldOk, decide_eq_true_iff, bitsOf_len]

/-- A field read from `a` is taken as a signed number where SX is set. -/
theorem bfxWord_accepts (ok : fieldOk t = true) : bfxWord a t = some (if t.getLsbD 13 = true
    then BitVec.ofInt 64 (toSigned (bitsOf t 6 7) (a.toNat >>> bitsOf t 0 6)) else BitVec.ofNat 64 (bitField a t)) := by
  have len := (fieldOk_iff.mp ok).2.1
  rw [← bitsOf_len] at len
  rw [bfxWord, ok, if_neg (by decide)]
  dsimp only
  cases t.getLsbD 13 with
  | false => rfl
  | true =>
    have half : 2 ^ bitsOf t 6 7 = 2 * 2 ^ (bitsOf t 6 7 - 1) := by rw [← Nat.pow_succ']; congr 1; omega
    simp only [true_and, if_true]
    rw [toSigned]
    change some (if 2 ^ (bitsOf t 6 7 - 1) ≤ bitField a t then _ else _) = some (BitVec.ofInt 64 (if 2 * bitField a t < _ then _ else _))
    by_cases neg : 2 ^ (bitsOf t 6 7 - 1) ≤ bitField a t
    · rw [if_pos neg, if_neg (by omega)]
      rfl
    · rw [if_neg neg, if_pos (by omega)]
      rfl

theorem getLsbD_bfx (ok : fieldOk t = true) {i : Nat} (hi : i < 64) : (if t.getLsbD 13 = true
    then BitVec.ofInt 64 (toSigned (bitsOf t 6 7) (a.toNat >>> bitsOf t 0 6)) else BitVec.ofNat 64 (bitField a t)).getLsbD i =
      if i < bitsOf t 6 7 then a.getLsbD (bitsOf t 0 6 + i) else
        (t.getLsbD 13 && a.getLsbD (bitsOf t 0 6 + bitsOf t 6 7 - 1)) := by
  have len := (fieldOk_iff.mp ok).2.1
  rw [← bitsOf_len] at len
  cases t.getLsbD 13 with
  | true =>
    rw [if_pos rfl, getLsbD_ofInt_toSigned _ len hi, Nat.testBit_shiftRight, BitVec.testBit_toNat, Bool.true_and]
    by_cases inside : i < bitsOf t 6 7
    · rw [if_pos inside, Nat.min_eq_left (by omega)]
    · rw [if_neg inside, Nat.min_eq_right (by omega), Nat.add_sub_assoc len]
  | false =>
    rw [if_neg (by decide), Bool.false_and, bitField, BitVec.getLsbD_ofNat, decide_eq_true hi, Bool.true_and,
      Nat.testBit_mod_two_pow, Nat.testBit_shiftRight, BitVec.testBit_toNat]
    by_cases inside : i < bitsOf t 6 7
    · rw [if_pos inside, decide_eq_true inside, Bool.true_and]
    · rw [if_neg inside, decide_eq_false inside, Bool.false_and]

/-- A mask of `len` ones from bit `pos` up. -/
theorem getLsbD_fieldMask {pos len i : Nat} (hi : i < 64) :
    (BitVec.ofNat 64 ((2 ^ len - 1) <<< pos)).getLsbD i = decide (pos ≤ i ∧ i < pos + len) := by
  rw [BitVec.getLsbD_ofNat, decide_eq_true hi, Bool.true_and, Nat.testBit_shiftLeft, Nat.testBit_two_pow_sub_one, ← Bool.decide_and]
  exact decide_eq_decide.mpr (by omega)

theorem getLsbD_bfi {pos len i : Nat} (hi : i < 64) :
    ((a &&& ~~~BitVec.ofNat 64 ((2 ^ len - 1) <<< pos)) ||| ((b <<< pos) &&& BitVec.ofNat 64 ((2 ^ len - 1) <<< pos))).getLsbD i =
      if pos ≤ i ∧ i < pos + len then b.getLsbD (i - pos) else a.getLsbD i := by
  rw [BitVec.getLsbD_or, BitVec.getLsbD_and, BitVec.getLsbD_and, BitVec.getLsbD_not, getLsbD_fieldMask hi, BitVec.getLsbD_shiftLeft,
    decide_eq_true hi]
  by_cases inside : pos ≤ i ∧ i < pos + len
  · rw [if_pos inside, decide_eq_true inside, decide_eq_false (by omega : ¬i < pos)]
    simp
  · rw [if_neg inside, decide_eq_false inside]
    simp

theorem bfiWord_accepts (ok : fieldOk t = true) (noSx : t.getLsbD 13 = false) : bfiWord a b t =
    some ((a &&& ~~~BitVec.ofNat 64 ((2 ^ bitsOf t 6 7 - 1) <<< bitsOf t 0 6)) |||
      ((b <<< bitsOf t 0 6) &&& BitVec.ofNat 64 ((2 ^ bitsOf t 6 7 - 1) <<< bitsOf t 0 6))) := by
  rw [bfiWord, ok, noSx, if_neg (by decide)]

theorem bfxWord_refuses (bad : fieldOk t = false) : bfxWord a t = none := if_pos bad

theorem bfiWord_refuses (bad : fieldOk t = false ∨ t.getLsbD 13 = true) : bfiWord a b t = none := if_pos bad

theorem fieldOk_eq_false (bad : 2 ^ 14 ≤ t.toNat ∨ t.toNat / 64 % 128 = 0 ∨ 64 < t.toNat / 64 % 128) : fieldOk t = false := by
  rw [← Bool.not_eq_true, fieldOk_iff]
  omega
end

/-- Settles O12: an operation starts its result where its function accepts the operands and traps where it refuses; the bits of the
fields and extensions are those of the lemmas above. -/
theorem integerChecked : Obligations.IntegerChecked := by
  intro s gd src u k x h
  have lands {f r} := iaMove_lands (k := k) h (lat := 1) (f := f) (r := r) (fl := 0)
  have illegal {f} := iaMove_illegal (k := k) h (lat := 1) (f := f)
  simp only [exec_iaSel, exec_iaLea, exec_iaZext, exec_iaSext, exec_iaBfx, exec_iaBfi, execIaSel, execIaLea, execIaZext, execIaSext,
    execIaBfx, execIaBfi]
  refine ⟨fun ok => ?_, fun bad => ?_, ?_, fun ok => ?_, fun bad => ?_, fun ⟨small, one, le⟩ => ?_, fun bad => ?_, fun sx => ?_⟩
  · exact lands (if_neg (by omega))
  · exact illegal (if_pos bad)
  · exact lands rfl
  · exact ⟨lands (congrArg _ (extWord_accepts false ok)), _, lands (congrArg _ (extWord_accepts true ok)),
      fun i hi => getLsbD_ofInt_toSigned x.pA.word.toNat ok.1 hi⟩
  · exact ⟨illegal (congrArg _ (extWord_refuses false bad)), illegal (congrArg _ (extWord_refuses true bad))⟩
  · have ok := fieldOk_iff.mpr ⟨small, one, le⟩
    rw [← bitsOf_pos, ← bitsOf_len]
    exact ⟨⟨_, lands (congrArg _ (bfxWord_accepts ok)), fun i => getLsbD_bfx ok⟩,
      fun noSx => ⟨_, lands (congrArg _ (bfiWord_accepts ok noSx)), fun i => getLsbD_bfi⟩⟩
  · have no := fieldOk_eq_false bad
    exact ⟨illegal (congrArg _ (bfxWord_refuses no)), illegal (congrArg _ (bfiWord_refuses (.inl no)))⟩
  · exact illegal (congrArg _ (bfiWord_refuses (.inr sx)))

end Sys2Proof.Machine
end

section
/-! PROOFS. The ends of the other held operations: barriers, posts, entropy, tandems, the SAE, instruction caches (O46). -/

namespace Sys2Proof.Machine

/-! ### Barriers (R367, R368) -/

/-- An answer is a matter of cores alone. -/
@[simp] theorem State.die_answer (s : State) (g j : Nat) (w : Option Word) : (s.answer g w).die j = s.die j := by
  unfold State.answer
  split
  · rfl
  · split
    · cases w <;> rfl
    · rfl

section
variable {s : State} {g : Nat} {h : Hold} (hh : s.heldAs g = some h)
include hh

theorem execBwaitRelease_tests (ho : h.op = .bwait) {b : Barrier} (hb : s.barrierAt (h.t.word.toNat % 2 ^ 32) = some b) :
    execBwaitRelease g s = .next (if (b.gen - h.t.word.extractLsb' 32 32).toNat < 2 ^ 31
      then (s.observe g b.sc).answer g none else s) := by
  refine (onHold_acts hh (decide_eq_true ho) _).trans (congrArg _ ?_)
  rw [show bitsOf h.t.word 0 32 = h.t.word.toNat % 2 ^ 32 from rfl, hb]

section
variable (ho : h.op = .balloc)
include ho

theorem execBallocDone_full (free : lowestFree (s.die (dieOf g)).barriers 4096 = none) :
    execBallocDone g s = .next (s.answer g (some 0)) := by
  refine (onHold_acts hh (decide_eq_true ho) _).trans (congrArg _ ?_)
  dsimp only
  rw [free]

/-- The barrier takes its participants and scope from the operand, and begins with no arrival in generation 0. -/
theorem execBallocDone_creates {i : Nat} (free : lowestFree (s.die (dieOf g)).barriers 4096 = some i) :
    ∃ b t', execBallocDone g s = .next t' ∧ b.n = h.t.word.toNat % 2 ^ 16 ∧ b.arr = 0 ∧ b.gen = 0 ∧ b.sc = bitsOf h.t.word 16 3 ∧
      b.asid = s.asidOf g ∧ Tab.find (t'.die (dieOf g)).barriers i = some b := by
  refine ⟨⟨bitsOf h.t.word 0 16, 0, 0, bitsOf h.t.word 16 3, s.asidOf g⟩, _, onHold_acts hh (decide_eq_true ho) _, rfl, rfl, rfl, rfl,
    rfl, ?_⟩
  dsimp only
  rw [free]
  simp only [State.die_answer, State.die_setDie, if_true, Tab.find_put]
end

/-! ### Claims and posts (R363, R378) -/

section
variable (ho : h.op = .post)
include ho

/-- A claim that has faulted waits until its fault is resolved. -/
theorem execPostClaim_waits (hs : h.st ≠ 0) : execPostClaim g s = .next s :=
  (onHold_acts hh (decide_eq_true ho) _).trans (congrArg _ (if_pos (.inl hs)))

variable (hs : h.st = 0) (landed : isGearC g = true → s.windowPending g = []) {s' : State}
include hs landed

omit hh ho in
/-- Nothing keeps a fresh claim back once the core's window stores have landed (R148). -/
theorem claim_not_held : ¬(h.st ≠ 0 ∨ (isGearC g && !(s.windowPending g).isEmpty) = true) := by
  rintro (fault | pending)
  · exact fault hs
  · obtain ⟨gearC, waiting⟩ := Bool.and_eq_true_iff.mp pending
    rw [landed gearC] at waiting
    cases waiting

theorem execPostClaim_faults {f : Nat} (he : s.engPieces (engOf h.val.toNat) (s.chan h.val.toNat).asid (s.chan h.val.toNat).widx 8 .write =
    (.error f, s')) : execPostClaim g s = .next (s'.claimFault g h.val.toNat f) := by
  refine (onHold_acts hh (decide_eq_true ho) _).trans (congrArg _ ?_)
  dsimp only
  rw [if_neg (claim_not_held hs landed), he]

theorem execPostClaim_claims {l : List (Nat × Nat)} (he : s.engPieces (engOf h.val.toNat) (s.chan h.val.toNat).asid
    (s.chan h.val.toNat).widx 8 .write = (.ok l, s')) :
    let ch := h.val.toNat
    let i := s'.readLocs l
    let u := s'.pieceWrite (engOf ch / 8) ((i + 1) % 2 ^ 64) l
    execPostClaim g s = .next (((if (u.chan ch).valid then
        (u.modChan ch (fun c => { c with claims := c.claims ++ [⟨i, h.img, g, ((u.taskOf g).bind u.task).map Task.grp⟩] })).fillSlots ch 1
      else if (u.chan ch).aborted then u.modChan ch (fun c => { c with closing := c.closing.map (fun w => max w (i + 1)) })
      else u).answer g (some (BitVec.ofNat 64 (i + 1)))).settleClose ch) := by
  refine (onHold_acts hh (decide_eq_true ho) _).trans (congrArg _ ?_)
  dsimp only
  rw [if_neg (claim_not_held hs landed), he]
end

theorem execTpostDone_inserts (ho : h.op = .tpost) : let r := s.postRec g (Rec.ofWords h.img)
    execTpostDone g s = .next (if r.1 = 2 ∧ h.st = 0 then r.2.holdSt g 1
      else r.2.answer g (some (if r.1 = 0 then 1 else BitVec.ofNat 64 (r.1 <<< 8)))) :=
  onHold_acts hh (decide_eq_true ho) _

theorem execIcacheDiscardDone_discards (ho : h.op = .icinv) : execIcacheDiscardDone g s = .next
    (((s.discardCode (dieOf g) (s.asidOf g) h.a.word.toNat h.t.word.toNat).refetch g h.idx).answer g none) :=
  onHold_acts hh (decide_eq_true ho) _
end

/-! ### Entropy (R380) -/

theorem execEntropyReady_pools {s : State} {d : Nat} (w : Word) (none_wants : s.wantsDraw d = []) : execEntropyReady d w s =
    .next (s.setDie d { s.die d with draws := (s.die d).draws ++ [w] }) := by
  rw [execEntropyReady, none_wants]

theorem execEntropyReady_answers {s : State} {d g : Nat} {l : List Nat} (w : Word) (wants : s.wantsDraw d = g :: l)
    (gearC : isGearC g = true) : execEntropyReady d w s = .next ((s.modC g (fun c => { c with drawn := c.drawn + 1 })).answer g (some w)) := by
  rw [execEntropyReady, wants]
  exact congrArg (fun t : State => Host.Outcome.next (t.answer g (some w))) (if_pos gearC)

/-! ### Tandems (R309, R310) -/

theorem State.coreC_arriveAll (l : List Word) (s : State) (asid m : Nat) : (s.arriveAll asid l).coreC m = s.coreC m := by
  induction l generalizing s with
  | nil => rfl
  | cons i l ih =>
    rw [State.arriveAll, ih, State.arrive]
    split
    · rfl
    · split <;> rfl

/-- Core `d` is core `c` but for its window stores and its arrivals on barriers. -/
def CoreC.SameButStores (c d : CoreC) : Prop := ∃ wnd arr, d = { c with wnd := wnd, arr := arr }

theorem CoreC.SameButStores.refl (c : CoreC) : c.SameButStores c := ⟨c.wnd, c.arr, rfl⟩

theorem CoreC.SameButStores.trans {c d e : CoreC} (h : c.SameButStores d) (h' : d.SameButStores e) : c.SameButStores e := by
  obtain ⟨wnd, arr, rfl⟩ := h
  obtain ⟨wnd', arr', rfl⟩ := h'
  exact ⟨wnd', arr', rfl⟩

theorem State.coreC_settle_same (s : State) (g m : Nat) : (s.coreC m).SameButStores ((s.settle g).coreC m) := by
  unfold State.settle
  dsimp only
  rw [State.coreC_arriveAll, State.coreC_modC]
  split
  next e => rw [e]; exact ⟨_, _, rfl⟩
  · exact .refl _

/-- Steps that each keep every core but its stores keep it together. -/
theorem State.coreC_foldl_same {α : Type} {f : State → α → State}
    (hf : ∀ (s : State) (a : α) (m : Nat), (s.coreC m).SameButStores ((f s a).coreC m)) (l : List α) (s : State) (m : Nat) :
    (s.coreC m).SameButStores ((l.foldl f s).coreC m) := by
  induction l generalizing s with
  | nil => exact .refl _
  | cons a l ih => exact (hf s a m).trans (ih _)

theorem State.coreC_landBefore_same (s : State) (g clk m : Nat) : (s.coreC m).SameButStores ((s.landBefore g clk).coreC m) := by
  refine .trans ?_ (State.coreC_foldl_same State.coreC_settle_same _ _ m)
  rw [State.coreC_modC]
  split
  next e =>
    rw [e]
    refine .trans (State.coreC_foldl_same (fun s w m => ?_) _ s g) ⟨_, _, rfl⟩
    rw [State.coreC_write]
    exact .refl _
  · refine State.coreC_foldl_same (fun s w m => ?_) _ s m
    rw [State.coreC_write]
    exact .refl _

/-- A core as it leaves a `rejoin` at address `addr`, with the vector registers and general registers of `c`. -/
def CoreC.Rejoined (c d : CoreC) (addr : Nat) : Prop :=
  d.dec = false ∧ d.fetch = (addr + 32) % 2 ^ 48 ∧ d.win = [] ∧ d.g = c.g ∧ d.v = c.v

theorem CoreC.Rejoined.of_same {c d e : CoreC} {addr : Nat} (h : c.Rejoined d addr) (same : d.SameButStores e) : c.Rejoined e addr := by
  obtain ⟨wnd, arr, rfl⟩ := same
  exact h

section
variable {s : State} {g : Nat} (tandem : (s.coreC g).group ≠ []) (decoupled : (s.coreC g).dec = true)
  (waits : ∀ m ∈ (s.coreC g).group, (s.coreC m).waitsAt .rejoin = true)
include tandem decoupled waits

theorem rejoin_ready : ¬((s.coreC g).group = [] ∨ (s.coreC g).dec = false ∨
    (s.coreC g).group.all (fun m => (s.coreC m).waitsAt .rejoin) = false) := by
  rintro (none | locked | late)
  · exact tandem none
  · rw [decoupled] at locked
    cases locked
  · rw [List.all_eq_true.mpr waits] at late
    cases late

theorem execRejoinRelease_traps (bad : (s.coreC g).group.filter
      (fun m => decide (rejoinAddr (s.coreC m) ≠ rejoinAddr (s.coreC (s.coreC g).lead))) ≠ []) : execRejoinRelease g s =
    .next (((s.coreC g).group.filter (fun m => decide (rejoinAddr (s.coreC m) ≠ rejoinAddr (s.coreC (s.coreC g).lead)))).foldl
      State.rejoinTrap s) :=
  (if_neg (rejoin_ready tandem decoupled waits)).trans (if_pos bad)

theorem execRejoinRelease_resumes
    (agree : ∀ m ∈ (s.coreC g).group, rejoinAddr (s.coreC m) = rejoinAddr (s.coreC (s.coreC g).lead)) :
    ∃ t, execRejoinRelease g s = .next t ∧
      ∀ m ∈ (s.coreC g).group, (s.coreC m).Rejoined (t.coreC m) (rejoinAddr (s.coreC (s.coreC g).lead)) := by
  have good : ¬(s.coreC g).group.filter (fun m => decide (rejoinAddr (s.coreC m) ≠ rejoinAddr (s.coreC (s.coreC g).lead))) ≠ [] := by
    simpa [List.filter_eq_nil_iff] using agree
  refine ⟨_, (if_neg (rejoin_ready tandem decoupled waits)).trans (if_neg good), fun m hm => ?_⟩
  refine .of_same ?_ (State.coreC_foldl_same (fun s x m => s.coreC_landBefore_same x _ m) _ _ m)
  refine State.coreC_modAll_gains (P := fun c => c.g = (s.coreC m).g ∧ c.v = (s.coreC m).v)
    (Q := fun d => (s.coreC m).Rejoined d _) ?_ ?_ hm s ⟨rfl, rfl⟩
  · exact fun _ keeps => keeps
  · exact fun c keeps => ⟨rfl, rfl, rfl, keeps⟩
end

theorem State.coreC_setTask (s : State) (n m : Nat) (t : Task) : (s.setTask n t).coreC m = s.coreC m := rfl

/-- Of updates of single cores, each by its own number, what the update of core `m` gives holds of it in the end. -/
theorem State.coreC_foldl_modC_gains {f : Nat → CoreC → CoreC} {Q : CoreC → Prop} {l : List Nat} {m : Nat} (hm : m ∈ l)
    (gains : ∀ c, Q (f m c)) (s : State) : Q ((l.foldl (fun s m => s.modC m (f m)) s).coreC m) := by
  induction l using List.reverseRecOn generalizing s with
  | nil => cases hm
  | append_singleton l x ih =>
    rw [List.foldl_append, List.foldl_cons, List.foldl_nil, State.coreC_modC]
    by_cases e : m = x
    · rw [if_pos e, ← e]
      exact gains _
    · rw [if_neg e]
      exact ih ((List.mem_append.mp hm).resolve_right (fun h => e (List.mem_singleton.mp h))) s

/-- A core as a `fuse` starts it: lane `lane` of the tandem that core `lead` leads, at address `addr`. -/
def CoreC.FusedAt (c : CoreC) (lane lead addr : Nat) : Prop :=
  c.run = .running ∧ c.lane = lane ∧ c.cad = 0 ∧ c.prof = [] ∧ c.uq = [] ∧ c.lead = lead ∧ c.fetch = addr

theorem execFuseRelease_starts {s : State} {g : Nat} {h : Hold} (hh : ((s.coreC g).slot 6).hold = some h)
    (waits : (s.coreC g).waitsAt .fuse = true) (single : (s.coreC g).group = [])
    (vacant : ∀ m, g / 2 ^ h.t.word.toNat * 2 ^ h.t.word.toNat ≤ m →
      m < g / 2 ^ h.t.word.toNat * 2 ^ h.t.word.toNat + 2 ^ h.t.word.toNat → m ≠ g → s.vacant m = true) :
    ∃ t, execFuseRelease g s = .next t ∧ ∀ i, i < 2 ^ h.t.word.toNat →
      (t.coreC (g / 2 ^ h.t.word.toNat * 2 ^ h.t.word.toNat + i)).FusedAt i (g / 2 ^ h.t.word.toNat * 2 ^ h.t.word.toNat)
        (((s.coreC g).addrOf h.idx + 32) % 2 ^ 48) := by
  generalize hw : 2 ^ h.t.word.toNat = w at vacant ⊢
  generalize hbase : g / w * w = base at vacant ⊢
  have wpos : 0 < w := hw ▸ Nat.two_pow_pos _
  have ready : ¬((s.coreC g).waitsAt .fuse = false ∨ (s.coreC g).group ≠ [] ∨
      ((List.range w).map (fun i => base + i)).any (fun m => decide (m ≠ g) && !s.vacant m) = true) := by
    rintro (late | tandem | busy)
    · rw [waits] at late
      cases late
    · exact tandem single
    · obtain ⟨m, hm, taken⟩ := List.any_eq_true.mp busy
      obtain ⟨i, hi, rfl⟩ := List.mem_map.mp hm
      obtain ⟨other, notVacant⟩ := Bool.and_eq_true_iff.mp taken
      have inside := List.mem_range.mp hi
      rw [vacant (base + i) (by omega) (by omega) (of_decide_eq_true other)] at notVacant
      cases notVacant
  have head : ((List.range w).map (fun i => base + i)).headD 0 = base := by
    obtain ⟨n, rfl⟩ := Nat.exists_eq_succ_of_ne_zero (Nat.pos_iff_ne_zero.mp wpos)
    rw [List.range_succ_eq_map]
    rfl
  subst hbase hw
  refine ⟨_, by rw [execFuseRelease, hh]; exact if_neg ready, fun i hi => ?_⟩
  have mem : g / 2 ^ h.t.word.toNat * 2 ^ h.t.word.toNat + i ∈
      (List.range (2 ^ h.t.word.toNat)).map (fun i => g / 2 ^ h.t.word.toNat * 2 ^ h.t.word.toNat + i) :=
    List.mem_map.mpr ⟨i, List.mem_range.mpr hi, rfl⟩
  dsimp only
  split
  on_goal 1 => rw [State.coreC_setTask]
  all_goals
    refine State.coreC_foldl_modC_gains (Q := fun c => c.FusedAt _ _ _) mem ?_ _
    exact fun c => ⟨rfl, Nat.add_sub_cancel_left .., rfl, rfl, rfl, head, rfl⟩

/-! ### The SAE (R374, R375) -/

section
variable {s : State} {c n : Nat} (some_ : (s.cluster c).queue.take n ≠ []) (there : n ≤ (s.cluster c).queue.length)
  (fits : (((s.cluster c).queue.take n).map (fun t => t.ops.length)).sum ≤ 64)
  (performed : ∀ t ∈ (s.cluster c).queue.take n, ∀ l ∈ (s.coreC t.core).wst, t.at_ < l.at_)
  (first : s.cldFirst c srcSae (saeLines (saeWindow ((s.cluster c).queue.take n))) = false)
include some_ there fits performed first

theorem execSaeApply_applies : execSaeApply c n s =
    .next ((((((s.cluster c).queue.take n).map SaeTrig.core).dedup).foldl State.settleAny
      ((saeWindow ((s.cluster c).queue.take n)).foldl (fun s x => s.saeOne c x)
        (s.setCluster c { s.cluster c with queue := (s.cluster c).queue.drop n }))).saeWake c) := by
  refine if_neg ?_
  rintro (none | short | big | wait | later)
  · exact some_ none
  · omega
  · exact of_decide_eq_false big fits
  · obtain ⟨t, ht, staged⟩ := List.any_eq_true.mp wait
    obtain ⟨l, hl, before⟩ := List.any_eq_true.mp staged
    exact Nat.not_lt.mpr (of_decide_eq_true before) (performed t ht l hl)
  · rw [first] at later
    cases later
end

/-- Settles O46: each event by what it does where its condition holds. -/
theorem moreReleaseEvents : Obligations.MoreReleaseEvents := by
  refine ⟨fun s g h hh => ⟨fun ho b => execBwaitRelease_tests hh ho, execBallocDone_full hh, fun ho i => execBallocDone_creates hh ho,
      fun ho hs landed l s' he => ?_, fun ho hs landed f s' => execPostClaim_faults hh ho hs landed, execPostClaim_waits hh,
      execTpostDone_inserts hh, execIcacheDiscardDone_discards hh⟩,
    fun s d w => ⟨execEntropyReady_pools w, fun g l => execEntropyReady_answers w⟩,
    fun s g tandem decoupled waits => ⟨execRejoinRelease_resumes tandem decoupled waits, execRejoinRelease_traps tandem decoupled waits⟩,
    fun s g h hh waits single vacant => execFuseRelease_starts hh waits single vacant,
    fun s c n => execSaeApply_applies⟩
  have claim := execPostClaim_claims hh ho hs landed he
  refine ⟨fun valid => ?_, fun invalid aborted => ?_, fun invalid closing => ?_⟩
  · exact claim.trans (by rw [if_pos valid])
  · exact claim.trans (by rw [if_neg (by rw [invalid]; decide), if_pos aborted])
  · exact claim.trans (by rw [if_neg (by rw [invalid]; decide), if_neg (by rw [closing]; decide)])

end Sys2Proof.Machine
end

section
/-! PROOFS. The control unit: transfers, loops, tandems, lending, predicates, tokens (O20, O21). -/

namespace Sys2Proof.Machine

/-! ### The checks of a transfer (R303) -/

section
variable {x : MoveCtx}

section
variable (outside : x.bun.inKernel = false) (lo : -(2 ^ 47) ≤ x.val.word.toInt) (hi : x.val.word.toInt < 2 ^ 47)
  (low : 0 ≤ (x.bun.addr : Int) + x.val.word.toInt) (high : (x.bun.addr : Int) + x.val.word.toInt < 2 ^ 48)
include outside lo hi low high

/-- An offset and a target in range, outside a kernel, leave the alignment to be checked. -/
theorem relCheck_inRange : relCheck x = if ((x.bun.addr : Int) + x.val.word.toInt) % 32 ≠ 0 then some (0x0A, bitsOf x.val.word 0 32)
    else none := by
  unfold relCheck
  refine if_neg ?_
  rintro (inside | range)
  · rw [outside] at inside
    cases inside
  · omega

theorem relCheck_aligned (al : ((x.bun.addr : Int) + x.val.word.toInt) % 32 = 0) : relCheck x = none :=
  (relCheck_inRange outside lo hi low high).trans (if_neg (not_not.mpr al))

theorem relCheck_misaligned (mis : ((x.bun.addr : Int) + x.val.word.toInt) % 32 ≠ 0) :
    relCheck x = some (0x0A, x.val.word.toNat % 2 ^ 32) :=
  (relCheck_inRange outside lo hi low high).trans (if_pos mis)
end

theorem relCheck_outOfRange (bad : x.val.word.toInt < -(2 ^ 47) ∨ 2 ^ 47 ≤ x.val.word.toInt ∨
    (x.bun.addr : Int) + x.val.word.toInt < 0 ∨ 2 ^ 48 ≤ (x.bun.addr : Int) + x.val.word.toInt) : relCheck x = illegal :=
  if_pos (.inr bad)

theorem relCheck_inKernel (inside : x.bun.inKernel = true) : relCheck x = illegal := if_pos (.inl inside)

theorem absCheck_inRange (outside : x.bun.inKernel = false) (range : x.val.word.toNat < 2 ^ 48) :
    absCheck x = if x.val.word.toNat % 32 ≠ 0 then some (0x0A, x.val.word.toNat % 2 ^ 32) else none := by
  unfold absCheck
  refine if_neg ?_
  rintro (inside | big)
  · rw [outside] at inside
    cases inside
  · omega

theorem absCheck_outOfRange (big : 2 ^ 48 ≤ x.val.word.toNat) : absCheck x = illegal := if_pos (.inr big)

theorem absCheck_inKernel (inside : x.bun.inKernel = true) : absCheck x = illegal := if_pos (.inl inside)
end

/-! ### The frames -/

section
variable {s : State} {gd : BitVec 3} {src : BitVec 10} {k : BitVec 1} {x : MoveCtx} (h : s.issues 6 gd src x)
include h

section
variable {check : MoveCtx → Option Trap} {act : MoveCtx → State}

theorem ctMove_acts (hc : check x = none) : ctMove gd src s check act = .next (act x) := by rw [ctMove_issues h, hc]

theorem ctMove_traps {c d : Nat} (hc : check x = some (c, d)) :
    ctMove gd src s check act = .next (s.trapMove x.g x.slot x.bun c d) := by rw [ctMove_issues h, hc]

/-- A trigger whose only trap is that of an illegal operand acts where the operand is legal, and traps where it is not. -/
theorem ctMove_guarded {bad good : Prop} [Decidable bad] [Decidable good] {t : State}
    (hc : check x = if bad then illegal else none) (hb : bad ↔ ¬good) (ha : act x = t) :
    if good then ctMove gd src s check act = .next t
    else ctMove gd src s check act = .next (s.trapMove x.g x.slot x.bun 0x01 0) := by
  by_cases legal : good
  · have passes : check x = none := by rw [hc, if_neg fun no => hb.mp no legal]
    rw [if_pos legal, ctMove_acts h passes, ha]
  · have refused : check x = illegal := by rw [hc, if_pos (hb.mpr legal)]
    rw [if_neg legal, ctMove_issues h, refused]
    rfl
end

/-! ### Transfers (R303 to R305) -/

theorem execCtBr_jumps (hc : relCheck x = none) :
    execCtBr gd src k s = .next (x.asks s (.jump ((x.bun.addr : Int) + x.val.word.toInt).toNat)) :=
  (ctMove_acts h hc).trans (congrArg _ (ask_eq h _))

theorem execCtBr_traps {c d : Nat} (hc : relCheck x = some (c, d)) :
    execCtBr gd src k s = .next (s.trapMove x.g x.slot x.bun c d) := ctMove_traps h hc

theorem execCtCall_jumps (hc : relCheck x = none) : execCtCall gd src k s =
    .next ((x.asks s (.jump ((x.bun.addr : Int) + x.val.word.toInt).toNat)).modC x.g
      (fun c => c.start x.slot 1 x.bun.idx (TVal.ofWord (BitVec.ofNat 64 (x.bun.addr + 32))) 0 k)) := by
  rw [execCtCall, ctMove_acts h hc, ask_eq h]
  rfl

theorem execCtCall_traps {c d : Nat} (hc : relCheck x = some (c, d)) :
    execCtCall gd src k s = .next (s.trapMove x.g x.slot x.bun c d) := ctMove_traps h hc

omit h in
/-- PRED and INV are the low four bits of port a. -/
theorem inv_eq {a : Word} (ha : a.toNat < 16) : a.getLsbD 3 = decide (8 ≤ a.toNat) := by
  rw [← BitVec.testBit_toNat, Nat.testBit_eq_decide_div_mod_eq]
  exact decide_eq_decide.mpr (by omega)

theorem execCtBrc_small (ha : x.pA.word.toNat < 16) : execCtBrc gd src k s = .next (match relCheck x with
    | some t => s.trapMove x.g x.slot x.bun t.1 t.2
    | none => if x.c.pred (x.pA.word.toNat % 8) != decide (8 ≤ x.pA.word.toNat) then
        x.asks s (.jump ((x.bun.addr : Int) + x.val.word.toInt).toNat) else s) := by
  rw [← inv_eq ha, ← ask_eq h]
  cases hc : relCheck x with
  | none => exact ctMove_acts h ((if_neg (by change ¬16 ≤ x.pA.word.toNat; omega)).trans hc)
  | some t => exact ctMove_traps h ((if_neg (by change ¬16 ≤ x.pA.word.toNat; omega)).trans hc)

theorem execCtBrc_illegal (bad : 16 ≤ x.pA.word.toNat ∨ relCheck x = illegal) :
    execCtBrc gd src k s = .next (s.trapMove x.g x.slot x.bun 0x01 0) := by
  refine ctMove_traps h ?_
  obtain big | hc := bad
  · exact if_pos big
  · exact (congrArg _ hc).trans (ite_self _)

theorem execCtRet_jumps (hc : absCheck x = none) : execCtRet gd src k s = .next (x.asks s (.jump x.val.word.toNat)) ∧
    execCtJr gd src k s = .next (x.asks s (.jump x.val.word.toNat)) := by
  have jumps := (ctMove_acts h hc (act := fun x => x.ask s (.jump x.val.word.toNat))).trans (congrArg _ (ask_eq h _))
  exact ⟨jumps, jumps⟩

theorem execCtRet_traps {c d : Nat} (hc : absCheck x = some (c, d)) : execCtRet gd src k s = .next (s.trapMove x.g x.slot x.bun c d) ∧
    execCtJr gd src k s = .next (s.trapMove x.g x.slot x.bun c d) := ⟨ctMove_traps h hc, ctMove_traps h hc⟩

end

/-- Settles O20: transfers by the outcome of their check; the other triggers by the operand that makes them legal. -/
theorem controlTransfers : Obligations.ControlTransfers := by
  intro s gd src k x h
  simp only [exec_ctBr, exec_ctBrc, exec_ctCall, exec_ctRet, exec_ctJr, exec_ctLoop, exec_ctLbrk, exec_ctEret, exec_ctDecouple]
  refine ⟨fun out lo hi low high al => ?_, fun out lo hi low high mis => ?_, fun bad => ?_, fun big => execCtBrc_illegal h (.inl big),
    rfl, fun out range al => ?_, fun out range mis => ?_, fun big => ?_, fun inside => ?_, ?_, ?_, ?_, ?_⟩
  · have ok := relCheck_aligned out lo hi low high al
    refine ⟨execCtBr_jumps h ok, fun small => ?_, execCtCall_jumps h ok⟩
    have runs := execCtBrc_small (k := k) h small
    rw [ok] at runs
    dsimp only at runs ⊢
    split
    next taken => rwa [if_pos taken] at runs
    next not => rwa [if_neg not] at runs
  · have bad := relCheck_misaligned out lo hi low high mis
    exact ⟨execCtBr_traps h bad, execCtCall_traps h bad, fun small => (execCtBrc_small h small).trans (by rw [bad])⟩
  · have no := relCheck_outOfRange bad
    exact ⟨execCtBr_traps h no, execCtCall_traps h no, execCtBrc_illegal h (.inr no)⟩
  · exact execCtRet_jumps h ((absCheck_inRange out range).trans (if_neg (not_not.mpr al)))
  · exact execCtRet_traps h ((absCheck_inRange out range).trans (if_pos mis))
  · exact execCtRet_traps h (absCheck_outOfRange big)
  · have no := relCheck_inKernel inside
    obtain ⟨ret, jr⟩ := execCtRet_traps (k := k) h (absCheck_inKernel inside)
    exact ⟨execCtBr_traps h no, execCtBrc_illegal h (.inr no), execCtCall_traps h no, ret, jr⟩
  · refine ctMove_guarded h rfl ?_ (ask_eq h _)
    simp only [not_and_or, not_or, not_lt, ne_eq, Bool.not_eq_false, Bool.not_eq_true]
    rfl
  · refine ctMove_guarded h rfl ?_ (ask_eq h _)
    simp only [not_and_or, ne_eq, Bool.not_eq_true]
  · refine ctMove_guarded h rfl ?_ (ask_eq h _)
    simp only [not_and_or, ne_eq, Bool.not_eq_true, Bool.not_eq_false]
  · refine ctMove_guarded h rfl ?_ (if_congr Iff.rfl rfl (ask_eq h _))
    simp only [not_and_or, not_or, ne_eq, Bool.not_eq_false]

/-! ### Lending, tandems (R308 to R310) -/

section
variable {s : State} {gd : BitVec 3} {src : BitVec 10} {k : BitVec 1} {x : MoveCtx} (h : s.issues 6 gd src x)
include h

theorem execCtLend_busy (ht : x.val.word.toNat < 16) (out : x.c.inH = false) (busy : x.c.bankBusy (x.val.word.toNat % 4) = true) :
    execCtLend gd src k s = .next (s.trapMove x.g x.slot x.bun 0x05 (x.val.word.toNat % 4)) := by
  refine ctMove_traps h ?_
  dsimp only
  rw [if_neg (not_or.mpr ⟨by omega, by rw [out]; decide⟩)]
  exact if_pos busy

/-- TO 3 names the bank's default owner. -/
theorem execCtLend_lends (ht : x.val.word.toNat < 16) (out : x.c.inH = false) (free : x.c.bankBusy (x.val.word.toNat % 4) = false) :
    execCtLend gd src k s = .next (if x.c.owner (x.val.word.toNat % 4) = lendTo (x.val.word.toNat % 4) (x.val.word.toNat / 4) then s
      else x.writes s (.bank (x.val.word.toNat % 4)) (TVal.ofWord (BitVec.ofNat 64 (x.val.word.toNat / 4)))) := by
  have bank : bitsOf x.val.word 0 2 = x.val.word.toNat % 4 := rfl
  have to_ : bitsOf x.val.word 2 2 = x.val.word.toNat / 4 := by
    rw [bitsOf, Nat.shiftRight_eq_div_pow]
    omega
  have passes : (if 16 ≤ x.val.word.toNat ∨ x.c.inH = true then illegal else if x.c.bankBusy (bitsOf x.val.word 0 2) = true
      then some (0x05, bitsOf x.val.word 0 2) else none) = none := by
    rw [if_neg (not_or.mpr ⟨by omega, by rw [out]; decide⟩), bank, free]
    rfl
  rw [execCtLend, ctMove_acts h passes]
  dsimp only
  rw [later_eq h, bank, to_]

theorem execCtFuse_holds (one : 1 ≤ x.val.word.toNat) (four : x.val.word.toNat ≤ 4) (priv : x.c.priv = true) (single : x.c.tw = 0)
    (alone : x.c.group = []) : execCtFuse gd src k s = .next (x.holds s .fuse k 0 0 []) := by
  rw [← hold_eq h]
  refine ctMove_acts h ?_
  dsimp only
  rw [priv, if_neg (by decide), if_neg]
  rintro (low | high | tandem | group)
  · omega
  · omega
  · exact tandem single
  · exact group alone

theorem execCtFuse_unprivileged (user : x.c.priv = false) : execCtFuse gd src k s = .next (s.trapMove x.g x.slot x.bun 0x08 0xFF) :=
  ctMove_traps h (if_pos user)

theorem execCtRejoin_holds (ht : x.val.word = 0) (out : x.c.inH = false) : execCtRejoin gd src k s =
    .next (if x.c.group ≠ [] ∧ x.c.dec = true then x.holds s .rejoin k 0 0 [] else s) := by
  have passes : (if x.val.word ≠ 0 ∨ x.c.inH = true then illegal else none) = none := by rw [ht, out]; rfl
  rw [execCtRejoin, ctMove_acts h passes, hold_eq h, ← ite_not]
  exact congrArg _ (if_congr (by simp only [not_or, ne_eq, Bool.not_eq_false]) rfl rfl)

/-! ### Predicates and tokens (R318, R319) -/

theorem ctBit_lands (f : Bool → Bool → Bool) : ctBit gd src k s f = .next (x.lands s 1 k
    (TVal.ofWord (if f (x.pA.word.getLsbD 0) (x.val.word.getLsbD 0) then 1 else 0)) 0) := by
  rw [ctBit, runMove_issues h, finish_ok h]
  rfl

theorem execCtTokw_owed (range : x.val.word.toNat < 2 ^ 16) (owed : x.val.word.toNat ≤ x.c.eng.iss + x.c.eng.ret) :
    execCtTokw gd src k s = .next (if x.val.word.toNat ≤ x.c.eng.ret
      then s.modEng x.g (fun e => { e with ret := e.ret - x.val.word.toNat }) else x.holds s .tokw k 0 0 []) := by
  have passes : (if 2 ^ 16 ≤ x.val.word.toNat then illegal else if x.c.eng.iss + x.c.eng.ret < x.val.word.toNat
      then some (0x0B, x.val.word.toNat) else none) = none := by rw [if_neg (by omega), if_neg (by omega)]
  rw [execCtTokw, ctMove_acts h passes, hold_eq h]
  rfl

theorem execCtTokw_short (range : x.val.word.toNat < 2 ^ 16) (short : x.c.eng.iss + x.c.eng.ret < x.val.word.toNat) :
    execCtTokw gd src k s = .next (s.trapMove x.g x.slot x.bun 0x0B x.val.word.toNat) :=
  ctMove_traps h ((if_neg (by omega)).trans (if_pos short))

end

/-- Settles O21: by what each trigger does where its check passes, and where it fails. -/
theorem controlOther : Obligations.ControlOther := by
  intro s gd src k x h
  simp only [exec_ctLend, exec_ctFuse, exec_ctRejoin, exec_ctPand, exec_ctPor, exec_ctPxor, exec_ctPnot, exec_ctTokw]
  refine ⟨fun ht out free => execCtLend_lends h ht out free, fun ht out busy => execCtLend_busy h ht out busy,
    fun one four priv single alone => execCtFuse_holds h one four priv single alone, fun user => execCtFuse_unprivileged h user,
    fun ht out => execCtRejoin_holds h ht out, ctBit_lands h _, ctBit_lands h _, ?_, ctBit_lands h _, fun range le => ?_,
    fun range lt le => ?_, fun range short => execCtTokw_short h range short⟩
  · exact (ctBit_lands h _).trans (by simp only [Bool.bne_eq_xor])
  · exact (execCtTokw_owed h range (by omega)).trans (by rw [if_pos le])
  · exact (execCtTokw_owed h range le).trans (by rw [if_neg (by omega)])

end Sys2Proof.Machine
end

section
/-! PROOFS. Packets, timelines, barriers and hasps of the as unit (O24, O25). -/

namespace Sys2Proof.Machine

section
variable {s : State} {gd : BitVec 3} {src : BitVec 10} {k : BitVec 1} {x : MoveCtx} (h : s.issues 7 gd src x)
include h

/-- A trigger that holds slot 7 once its check passes. -/
theorem asMove_holds {check : MoveCtx → Option Trap} {op : HoldOp} (hc : check x = none) :
    asMove gd src s check (fun x => x.hold s op k) = .next (x.holds s op k 0 0 []) := by rw [asMove_acts h hc, hold_eq h]

/-! ### Packets and timelines (R363 to R365, R378) -/

section
variable {img : List Word} (hi : s.image x.g x.val.word = .ok img)
include hi

theorem execAsTpost_holds : execAsTpost gd src k s = .next (x.holds s .tpost k 0 0 img) := by
  rw [execAsTpost, runMove_issues h, MoveCtx.t, hi]
  exact congrArg _ (holdWith_eq h ..)

/-- A `post` goes by the image that it captures, rewritten where its slot stands for a `qpost`. -/
theorem execAsPost_checked {img' : List Word} (hm : (if s.markAt x.g x.slot x.bun = some 8 then portImage x.g img else img) = img') :
    execAsPost gd src k s = .next (if s.postCheck x.c.asid x.c.priv img' = true
      then x.holds s .post k 0 (BitVec.ofNat 64 (bitsOf (img'.getD 7 0) 0 16)) img' else s.trapMove x.g x.slot x.bun 0x01 0) := by
  rw [execAsPost, runMove_issues h, MoveCtx.t, hi]
  dsimp only
  rw [hm, holdWith_eq h]
  rfl
end

theorem execAsPost_refused {c d : Nat} (hi : s.image x.g x.val.word = .error (c, d)) :
    execAsTpost gd src k s = .next (s.trapMove x.g x.slot x.bun c d) ∧
      execAsPost gd src k s = .next (s.trapMove x.g x.slot x.bun c d) := by
  rw [execAsTpost, execAsPost, runMove_issues h, runMove_issues h, MoveCtx.t, hi]
  exact ⟨rfl, rfl⟩

theorem execAsTwait_holds (ha : x.pA.word.toNat < 2 ^ 16) (own : s.chanOf x.pA.word.toNat x.c.asid = true)
    (ht : x.val.word.toNat < 2 ^ 48) : execAsTwait gd src k s = .next (x.holds s .twait k 0 0 []) := by
  refine asMove_holds h (if_neg ?_)
  rintro (big | late | other)
  · exact Nat.not_le.mpr ha big
  · exact Nat.not_le.mpr ht late
  · rw [show x.a = x.pA.word from rfl, own] at other
    cases other

theorem execAsTwait_illegal (no : ¬(x.pA.word.toNat < 2 ^ 16 ∧ s.chanOf x.pA.word.toNat x.c.asid = true)) :
    execAsTwait gd src k s = .next (s.trapMove x.g x.slot x.bun 0x01 0) := by
  refine asMove_illegal h (if_pos ?_)
  rw [not_and_or, not_lt, Bool.not_eq_true] at no
  exact no.imp_right .inr

theorem execAsTstat_lands (ht : x.val.word.toNat < 2 ^ 16) (own : s.chanOf x.val.word.toNat x.c.asid = true) :
    execAsTstat gd src k s = .next (x.lands s 4 k (TVal.ofWord (BitVec.ofNat 64 (s.chan x.val.word.toNat).tl)) 0) := by
  refine (asMove_acts h (if_neg ?_)).trans (congrArg _ (finish_ok h ..))
  rintro (big | other)
  · exact Nat.not_le.mpr ht big
  · rw [show x.t = x.val.word from rfl, own] at other
    cases other

theorem execAsTstat_illegal (no : ¬(x.val.word.toNat < 2 ^ 16 ∧ s.chanOf x.val.word.toNat x.c.asid = true)) :
    execAsTstat gd src k s = .next (s.trapMove x.g x.slot x.bun 0x01 0) := by
  refine asMove_illegal h (if_pos ?_)
  rw [not_and_or, not_lt, Bool.not_eq_true] at no
  exact no

/-! ### Barriers (R366 to R368) -/

theorem execAsBalloc_holds (range : x.val.word.toNat < 2 ^ 19) (scope : x.val.word.toNat / 2 ^ 16 < 5)
    (some_ : x.val.word.toNat % 2 ^ 16 ≠ 0) : execAsBalloc gd src k s = .next (x.holds s .balloc k 0 0 []) := by
  refine asMove_holds h (if_neg ?_)
  rw [show x.t = x.val.word from rfl]
  rintro (big | wide | none)
  · exact Nat.not_le.mpr range big
  · rw [bitsOf, Nat.shiftRight_eq_div_pow] at wide
    exact Nat.not_le.mpr scope (wide.trans (Nat.mod_le _ _))
  · exact some_ none

theorem execAsBalloc_illegal (none : x.val.word.toNat % 2 ^ 16 = 0) :
    execAsBalloc gd src k s = .next (s.trapMove x.g x.slot x.bun 0x01 0) := asMove_illegal h (if_pos (.inr (.inr none)))

section
omit h in
/-- An index that names a barrier of the ASID. -/
theorem State.barrierOf_of_at {i asid : Nat} {b : Barrier} (hb : s.barrierAt i = some b) (own : b.asid = asid) :
    s.barrierOf asid i = true := by
  rw [State.barrierOf, hb]
  exact decide_eq_true own

variable {b : Barrier} (hb : s.barrierAt x.val.word.toNat = some b) (own : b.asid = x.c.asid)
include hb own

theorem execAsBarr_arrives : execAsBarr gd src k s = .next (if s.published x.g b.sc = true then
    s.setDie ((x.val.word.toNat >>> 12) % 4) { s.die ((x.val.word.toNat >>> 12) % 4) with
      barriers := Tab.put (s.die ((x.val.word.toNat >>> 12) % 4)).barriers (x.val.word.toNat % 4096) (countArrival b) }
    else s.setC x.g { x.c with arr := x.c.arr ++ [x.val.word] }) := by
  have named := State.barrierOf_of_at hb own
  have counted : s.arrive x.c.asid x.val.word.toNat = s.setDie ((x.val.word.toNat >>> 12) % 4)
      { s.die ((x.val.word.toNat >>> 12) % 4) with
        barriers := Tab.put (s.die ((x.val.word.toNat >>> 12) % 4)).barriers (x.val.word.toNat % 4096) (countArrival b) } := by
    rw [State.arrive, hb]
    exact if_pos own
  have may : s.mayArrive x.g x.val.word.toNat = s.published x.g b.sc := by rw [State.mayArrive, hb]
  have waits : s.modC x.g (fun c => { c with arr := c.arr ++ [x.val.word] }) = s.setC x.g { x.c with arr := x.c.arr ++ [x.val.word] } := by
    rw [State.modC, issues_core h]
  rw [← counted, ← may, ← waits]
  exact asMove_acts h (if_neg (by rw [show x.t = x.val.word from rfl, named]; decide))

theorem execAsBfree_frees : execAsBfree gd src k s = .next ((s.freeBarrier x.val.word.toNat).freeWaiters x.val.word.toNat) := by
  have named := State.barrierOf_of_at hb own
  exact asMove_acts h (if_neg (by rw [show x.t = x.val.word from rfl, named]; decide))
end

theorem execAsBwait_holds {b : Barrier} (hb : s.barrierAt (x.val.word.toNat % 2 ^ 32) = some b) (own : b.asid = x.c.asid) :
    execAsBwait gd src k s = .next (x.holds s .bwait k 0 0 []) := by
  have named : s.barrierOf x.c.asid (bitsOf x.val.word 0 32) = true := State.barrierOf_of_at hb own
  exact asMove_holds h (if_neg (by rw [show x.t = x.val.word from rfl, named]; decide))

theorem execAsBarr_illegal (none : s.barrierAt x.val.word.toNat = none) :
    execAsBarr gd src k s = .next (s.trapMove x.g x.slot x.bun 0x01 0) ∧
      execAsBfree gd src k s = .next (s.trapMove x.g x.slot x.bun 0x01 0) := by
  have named : s.barrierOf x.c.asid x.val.word.toNat = false := by rw [State.barrierOf, none]
  exact ⟨asMove_illegal h (if_pos named), asMove_illegal h (if_pos named)⟩

/-! ### Hasps (R370 to R373) -/

/-- The scopes of `hpub` and `hobs` are five. -/
theorem execAsHpub_scopes : if x.val.word.toNat < 5
    then execAsHpub gd src k s = .next (x.holds s .hpub k 0 0 []) ∧ execAsHobs gd src k s = .next (x.holds s .hobs k 0 0 [])
    else execAsHpub gd src k s = .next (s.trapMove x.g x.slot x.bun 0x01 0) ∧
      execAsHobs gd src k s = .next (s.trapMove x.g x.slot x.bun 0x01 0) := by
  split
  next scope => exact ⟨asMove_holds h (if_neg (Nat.not_le.mpr scope)), asMove_holds h (if_neg (Nat.not_le.mpr scope))⟩
  next none => exact ⟨asMove_illegal h (if_pos (Nat.not_lt.mp none)), asMove_illegal h (if_pos (Nat.not_lt.mp none))⟩
end

/-- Settles O24: by what each operation does with an image or channel that its check accepts, and with others. -/
theorem asPackets : Obligations.AsPackets := by
  intro s gd src k x h
  simp only [exec_asTpost, exec_asPost, exec_asTwait, exec_asTstat]
  refine ⟨fun img hi => ⟨execAsTpost_holds h hi, fun ok => ?_, fun bad => ?_⟩, fun c d hi => execAsPost_refused h hi,
    fun ⟨ha, own⟩ ht => execAsTwait_holds h ha own ht, fun ⟨ht, own⟩ => execAsTstat_lands h ht own, fun no => execAsTwait_illegal h no,
    fun no => execAsTstat_illegal h no⟩
  · exact (execAsPost_checked h hi rfl).trans (by rw [if_pos ok])
  · exact (execAsPost_checked h hi rfl).trans (by rw [if_neg (by rw [bad]; decide)])

/-- Settles O25: by what each operation does where its check accepts the operands, and where a barrier or scope is none. -/
theorem asBarriersAndHasps : Obligations.AsBarriersAndHasps := by
  intro s gd src k x h
  simp only [exec_asBalloc, exec_asBarr, exec_asBfree, exec_asBwait, exec_asHbind, exec_asHacq, exec_asHrel, exec_asHpub, exec_asHobs]
  exact ⟨fun range scope some_ => execAsBalloc_holds h range scope some_, fun none => execAsBalloc_illegal h none,
    fun b hb own => ⟨execAsBarr_arrives h hb own, execAsBfree_frees h hb own⟩, fun b hb own => execAsBwait_holds h hb own,
    fun none => execAsBarr_illegal h none, fun hc => asMove_holds h hc, fun hc => asMove_holds h hc, fun hc => asMove_holds h hc,
    execAsHpub_scopes h⟩

end Sys2Proof.Machine
end

section
/-! PROOFS. Stores into the scratchpad or local buffer of a core: what they read back, and what they leave. The rules that the statements
on stores share. -/

namespace Sys2Proof.Machine

/-! ### One write (R254, R351) -/

theorem locCore_add (g o i : Nat) : locCore g o + i = locCore g (o + i) := Nat.add_assoc ..

theorem locCore_le (g o : Nat) : locCore 0 0 ≤ locCore g o := by unfold locCore; omega

theorem State.read_lt (s : State) (a n : Nat) : s.read a n < 2 ^ (8 * n) := memRead_lt ..

theorem vlane_lt (v : TVal) (w i : Nat) : vlane v w i < 2 ^ w := Nat.mod_lt _ (Nat.two_pow_pos w)

section
variable {s : State} {a x n : Nat}

/-- A replay discards no write to a core. -/
theorem State.mem_write (h : locCore 0 0 ≤ a) : (s.write a x n).mem = memWrite s.mem a x n := by
  rw [State.write, if_neg (by omega)]

theorem State.read_write (ok : s.MemOk) (h : locCore 0 0 ≤ a) : (s.write a x n).read a n = x % 2 ^ (8 * n) := by
  rw [State.read, State.mem_write h, memRead_memWrite _ _ _ ok]

theorem State.sameBut_write (ok : s.MemOk) (h : locCore 0 0 ≤ a) : s.sameBut (s.write a x n) a n := by
  intro y hy
  rw [State.mem_write h, memGet_memWrite _ _ _ _ ok hy]

/-- Bytes that a change leaves read as before. -/
theorem State.read_of_sameBut {t : State} {b m : Nat} (h : s.sameBut t a n) (apart : b + m ≤ a ∨ a + n ≤ b) : t.read b m = s.read b m :=
  memRead_congr b m fun i hi => h _ (by omega)
end

/-! ### Several writes (R353, R354) -/

/-- The first `k` of some writes of `n` bytes each: the value `v i` to `p i`, where `c i` is set, the later ones on top. -/
def State.writeEach (s : State) (c : Nat → Bool) (p v : Nat → Nat) (n : Nat) : Nat → State
  | 0 => s
  | k + 1 => if c k then (s.writeEach c p v n k).write (p k) (v k) n else s.writeEach c p v n k

section
variable {s : State} {c : Nat → Bool} {p v : Nat → Nat} {n : Nat}

theorem State.foldl_write_eq (s : State) (c : Nat → Bool) (p v : Nat → Nat) (n k : Nat) :
    (List.range k).foldl (fun s i => if c i then s.write (p i) (v i) n else s) s = s.writeEach c p v n k := by
  induction k with
  | zero => rfl
  | succ k ih => rw [List.range_succ, List.foldl_append, ih]; rfl

/-- Writes after a change of memory change no more than memory. -/
theorem State.write_onlyMem {u : State} (h : u = { s with mem := u.mem }) (a x n : Nat) :
    u.write a x n = { s with mem := (u.write a x n).mem } := by
  have keeps (m) : { u with mem := m } = { s with mem := m } := by rw [h]
  exact (State.write_mem ..).trans (keeps _)

theorem State.writeEach_onlyMem (s : State) (c : Nat → Bool) (p v : Nat → Nat) (n k : Nat) :
    s.writeEach c p v n k = { s with mem := (s.writeEach c p v n k).mem } := by
  induction k with
  | zero => rfl
  | succ k ih =>
    rw [State.writeEach]
    split
    · exact State.write_onlyMem ih ..
    · exact ih

theorem State.writeEach_memOk (ok : s.MemOk) (k : Nat) : (s.writeEach c p v n k).MemOk := by
  induction k with
  | zero => exact ok
  | succ k ih =>
    rw [State.writeEach]
    split
    · exact State.write_memOk _ _ _ ih
    · exact ih

section
variable (ok : s.MemOk) (inCore : ∀ i, locCore 0 0 ≤ p i)
include ok inCore

/-- A byte that no write covers stays. -/
theorem State.memGet_writeEach {k y : Nat} (out : ∀ i, i < k → c i = true → y < p i ∨ p i + n ≤ y) :
    memGet (s.writeEach c p v n k).mem y = memGet s.mem y := by
  induction k with
  | zero => rfl
  | succ k ih =>
    have below := ih fun i hi => out i (by omega)
    rw [State.writeEach]
    split
    next on => exact (State.sameBut_write (State.writeEach_memOk ok k) (inCore k) y (out k (by omega) on)).trans below
    next => exact below

/-- Bytes that no write meets read as before. -/
theorem State.read_writeEach_apart {k b m : Nat} (apart : ∀ i, i < k → c i = true → b + m ≤ p i ∨ p i + n ≤ b) :
    (s.writeEach c p v n k).read b m = s.read b m :=
  memRead_congr b m fun j hj => State.memGet_writeEach ok inCore fun i hi on => by have := apart i hi on; omega

/-- What a write leaves stands where no later one meets it. -/
theorem State.read_writeEach_last {k i : Nat} (hi : i < k) (on : c i = true)
    (later : ∀ j, i < j → j < k → c j = true → p i + n ≤ p j ∨ p j + n ≤ p i) :
    (s.writeEach c p v n k).read (p i) n = v i % 2 ^ (8 * n) := by
  induction k with
  | zero => exact absurd hi (Nat.not_lt_zero i)
  | succ k ih =>
    have stays : i < k → (s.writeEach c p v n k).read (p i) n = v i % 2 ^ (8 * n) :=
      fun h => ih h fun j hj hk => later j hj (by omega)
    rw [State.writeEach]
    by_cases e : i = k
    · subst e
      rw [if_pos on, State.read_write (State.writeEach_memOk ok i) (inCore i)]
    · split
      next onk =>
        exact (State.read_of_sameBut (State.sameBut_write (State.writeEach_memOk ok k) (inCore k))
          (later k (by omega) (by omega) onk)).trans (stays (by omega))
      next => exact stays (by omega)
end
end

/-! ### Addresses (R344, R351 to R354) -/

/-- Space 0 of a core lies at its scratchpad. -/
theorem coreSpace_zero {g n : Nat} {off : Int} {l : Nat × Nat} (h : coreSpace g 0 off n = .ok l) : l = (locCore g off.toNat, off.toNat) ∧
    0 ≤ off ∧ off + n ≤ 0x80000 := by
  rw [coreSpace, if_pos rfl] at h
  split at h
  next inside => cases h; exact ⟨rfl, inside⟩
  next => cases h

theorem plainAddr_zero {g n : Nat} {a : Word} {l : Nat × Nat} (space : bitsOf a 28 4 = 0) (h : plainAddr g a n = .ok l) :
    l = (locCore g (bitsOf a 0 28), bitsOf a 0 28) ∧ a.toNat < 2 ^ 32 := by
  rw [plainAddr] at h
  split at h
  next => cases h
  next small =>
    refine ⟨?_, Nat.not_le.mp small⟩
    rw [space] at h
    split at h
    next => cases h
    next q hq =>
      obtain ⟨rfl, -⟩ := coreSpace_zero hq
      split at h
      · cases h; rfl
      · cases h

/-- An element in space 0 lies at its offset, which is aligned. -/
theorem elemLoc_zero {g n : Nat} {d : Word} {off : Int} {q : Nat × Nat} (space : bitsOf d 28 4 = 0) (h : elemLoc g d n off = .ok q) :
    q.1 = locCore g q.2 ∧ q.2 % n = 0 := by
  rw [elemLoc, space] at h
  split at h
  next => cases h
  next l hl =>
    obtain ⟨rfl, pos, -⟩ := coreSpace_zero hl
    split at h
    next al =>
      cases h
      refine ⟨rfl, ?_⟩
      have := Int.toNat_of_nonneg pos
      zify
      rw [this]
      exact al
    next => cases h

/-- Every element of a set in space 0 lies at its offset, which is aligned. -/
theorem elemSet_zero {g n : Nat} {d : Word} {off : Nat → Int} {k : Nat} {l : List (Nat × Nat)} (space : bitsOf d 28 4 = 0)
    (h : elemSet g d n off k = .ok l) : ∀ q ∈ l, q.1 = locCore g q.2 ∧ q.2 % n = 0 := by
  induction k generalizing l with
  | zero => cases h; exact fun q hq => nomatch hq
  | succ k ih =>
    rw [elemSet] at h
    split at h
    next => cases h
    next l' hl' =>
      split at h
      next => cases h
      next p hp =>
        cases h
        intro q hq
        obtain before | last := List.mem_append.mp hq
        · exact ih hl' q before
        · rw [List.mem_singleton.mp last]
          exact elemLoc_zero space hp

theorem indexSet_zero {g : Nat} {d : Word} {idx : TVal} {l : List (Nat × Nat)} (space : bitsOf d 28 4 = 0)
    (h : indexSet g d idx = .ok l) : ∀ q ∈ l, q.1 = locCore g q.2 ∧ q.2 % szBytes (bitsOf d 32 2) = 0 := by
  rw [indexSet] at h
  split at h
  next => cases h
  next =>
    split at h
    next => cases h
    next => exact elemSet_zero space h

/-! ### Scatter (R353) -/

theorem State.lsStore_zero (s : State) (g o x n : Nat) : s.lsStore g 0 o x n = s.write (locCore g o) x n := if_pos rfl

section
variable {s : State} {g n : Nat} {l : List (Nat × Nat)} (val : TVal)

/-- A scatter into the core's own scratchpad, as writes of its lanes in ascending order. -/
theorem State.scatter_eq (s : State) (g n : Nat) (l : List (Nat × Nat)) : s.scatter g 0 n val l =
    s.writeEach (fun _ => true) (fun i => locCore g (l.getD i (0, 0)).2) (fun i => vlane val (8 * n) i) n l.length := by
  rw [← State.foldl_write_eq, State.scatter]
  simp only [State.lsStore_zero, if_true]

variable (ok : s.MemOk) (own : ∀ q ∈ l, q.1 = locCore g q.2 ∧ q.2 % n = 0)
include ok own

/-- Of two lanes at one address the higher one's value stands. -/
theorem State.read_scatter {i : Nat} (hi : i < l.length) (last : ∀ j, i < j → j < l.length → l[j]? ≠ l[i]?) :
    (s.scatter g 0 n val l).read (l.getD i (0, 0)).1 n = vlane val (8 * n) i := by
  have at_ {j : Nat} (hj : j < l.length) : l.getD j (0, 0) = l[j] := by rw [List.getD_eq_getElem?_getD, List.getElem?_eq_getElem hj]; rfl
  rw [at_ hi, (own _ (List.getElem_mem hi)).1, ← at_ hi, State.scatter_eq]
  refine (State.read_writeEach_last ok (fun _ => locCore_le ..) hi rfl fun j hij hj _ => ?_).trans (Nat.mod_eq_of_lt (vlane_lt ..))
  obtain ⟨locI, alI⟩ := own _ (List.getElem_mem hi)
  obtain ⟨locJ, alJ⟩ := own _ (List.getElem_mem hj)
  have differ : l[j].2 ≠ l[i].2 := by
    intro e
    refine last j hij hj ?_
    rw [List.getElem?_eq_getElem hj, List.getElem?_eq_getElem hi, Option.some.injEq]
    exact Prod.ext (by rw [locJ, locI, e]) e
  have apart : l[i].2 + n ≤ l[j].2 ∨ l[j].2 + n ≤ l[i].2 := by
    obtain ⟨a, ha⟩ := Nat.dvd_of_mod_eq_zero alI
    obtain ⟨b, hb⟩ := Nat.dvd_of_mod_eq_zero alJ
    rw [ha, hb] at differ ⊢
    obtain lt | lt := Nat.lt_or_gt_of_ne (fun e : a = b => differ (by rw [e]))
    · exact .inl (by have := Nat.mul_le_mul_left n lt; rwa [Nat.mul_succ] at this)
    · exact .inr (by have := Nat.mul_le_mul_left n lt; rwa [Nat.mul_succ] at this)
  rw [at_ hi, at_ hj]
  exact apart.imp (by unfold locCore; omega) (by unfold locCore; omega)

theorem State.memGet_scatter {y : Nat} (out : ∀ e ∈ l, y < e.1 ∨ e.1 + n ≤ y) :
    memGet (s.scatter g 0 n val l).mem y = memGet s.mem y := by
  rw [State.scatter_eq]
  refine State.memGet_writeEach ok (fun _ => locCore_le ..) fun i hi _ => ?_
  rw [List.getD_eq_getElem?_getD, List.getElem?_eq_getElem hi, Option.getD_some, ← (own _ (List.getElem_mem hi)).1]
  exact out _ (List.getElem_mem hi)
end

/-! ### Masked stores (R354) -/

/-- SPACE lies in the low 32 bits. -/
theorem bitsOf_low32 {a : Word} {lo len : Nat} (h : lo + len ≤ 32) : bitsOf (a &&& 0xFFFFFFFF) lo len = bitsOf a lo len :=
  bitsOf_congr fun j hj => by
    rw [BitVec.getLsbD_and]
    have ones : (0xFFFFFFFF : Word).getLsbD (lo + j) = true := by
      have := show (0xFFFFFFFF : Word).toNat = 2 ^ 32 - 1 from rfl
      rw [← BitVec.testBit_toNat, this, Nat.testBit_two_pow_sub_one]
      exact decide_eq_true (by omega)
    rw [ones, Bool.and_true]

theorem maskAddr_zero {g : Nat} {a : Word} {m : TVal} {l : Nat × Nat} (space : bitsOf a 28 4 = 0) (h : maskAddr g a m = .ok l) :
    l = (locCore g (bitsOf a 0 28), bitsOf a 0 28) := by
  rw [maskAddr] at h
  split at h
  next => cases h
  next =>
    split at h
    next => cases h
    next =>
      have := (plainAddr_zero ((bitsOf_low32 (by decide)).trans space) h).1
      rwa [bitsOf_low32 (by decide)] at this

/-- The lanes of a mask fill 128 bytes. -/
theorem maskSize_mul_lt {a : Word} {i : Nat} (hi : i < 128 / maskSize a) : maskSize a * i + maskSize a ≤ 128 := by
  rw [← Nat.mul_succ]
  exact (Nat.mul_le_mul_left _ hi).trans (Nat.mul_div_le 128 _)

section
variable {s : State} (g n o : Nat) (m val : TVal)

theorem State.maskStore_eq (s : State) : s.maskStore g 0 n o m val =
    s.writeEach (fun i => m.bits.getLsbD i) (fun i => locCore g (o + n * i)) (fun i => vlane val (8 * n) i) n (128 / n) := by
  rw [← State.foldl_write_eq, State.maskStore]
  simp only [State.lsStore_zero]

variable (ok : s.MemOk)
include ok

/-- Lanes whose mask bit is set take the value's; the others stay. -/
theorem State.read_maskStore {i : Nat} (hi : i < 128 / n) : (s.maskStore g 0 n o m val).read (locCore g o + n * i) n =
    if m.bits.getLsbD i then vlane val (8 * n) i else s.read (locCore g o + n * i) n := by
  rw [locCore_add]
  have apart {i j : Nat} (lt : i < j) : locCore g (o + n * i) + n ≤ locCore g (o + n * j) := by
    have := Nat.mul_le_mul_left n (Nat.succ_le_of_lt lt)
    rw [Nat.mul_succ] at this
    unfold locCore
    omega
  rw [State.maskStore_eq]
  split
  next on =>
    exact (State.read_writeEach_last ok (fun _ => locCore_le ..) hi on fun j lt _ _ => .inl (apart (i := i) (j := j) lt)).trans
      (Nat.mod_eq_of_lt (vlane_lt ..))
  next off =>
    refine State.read_writeEach_apart ok (fun _ => locCore_le ..) fun j _ on => ?_
    obtain lt | rfl | lt := Nat.lt_trichotomy i j
    · exact .inl (apart lt)
    · exact absurd on off
    · exact .inr (apart lt)

theorem State.sameBut_maskStore (a : Word) (hn : n = maskSize a) : s.sameBut (s.maskStore g 0 n o m val) (locCore g o) 128 := by
  intro y hy
  rw [State.maskStore_eq]
  refine State.memGet_writeEach ok (fun _ => locCore_le ..) fun i hi _ => ?_
  subst hn
  have := maskSize_mul_lt hi
  unfold locCore at hy ⊢
  omega
end

end Sys2Proof.Machine
end

section
/-! PROOFS. Loads and stores of the ls unit, and the portable vector loads and stores (O17, O18, O39). -/

namespace Sys2Proof.Machine

/-- A wide value fills 128 bytes. -/
theorem bits_mod_all (v : TVal) : v.bits.toNat % 2 ^ (8 * 128) = v.bits.toNat := by
  rw [show 8 * 128 = 1024 from rfl, BitVec.toNat_mod_cancel]

section
variable {s : State} {gd : BitVec 3} {src : BitVec 10} {k : BitVec 1} {x : MoveCtx}

/-! ### Stores into the core's own scratchpad (R351, R353, R354) -/

/-- Window stores apart, R152 refuses no store. -/
theorem windowBad_zero (c : CoreC) : c.windowBad 0 = false := rfl

theorem State.scatter_onlyMem (s : State) (g n : Nat) (v : TVal) (l : List (Nat × Nat)) :
    s.scatter g 0 n v l = { s with mem := (s.scatter g 0 n v l).mem } := by
  rw [State.scatter_eq]; exact State.writeEach_onlyMem ..

theorem State.maskStore_onlyMem (s : State) (g n o : Nat) (m v : TVal) :
    s.maskStore g 0 n o m v = { s with mem := (s.maskStore g 0 n o m v).mem } := by
  rw [State.maskStore_eq]; exact State.writeEach_onlyMem ..

section
variable (h : s.issues 5 gd src x) (space : bitsOf x.pA.word 28 4 = 0)
include h space

theorem lsStoreMove_writes {n : Nat} {l : Nat × Nat} (e : plainAddr x.g x.pA.word n = .ok l) :
    lsStoreMove gd src s n = .next (s.write l.1 (x.val.bits.toNat % 2 ^ (8 * n)) n) := by
  rw [lsStoreMove, lsMove_issues h]
  simp only [show x.c.port x.slot 0 = x.pA from rfl, windowBad_zero, e, Bool.false_eq_true, and_false, if_false, space,
    State.lsStore_zero, (plainAddr_zero space e).1]

/-- A plain store of `n` bytes leaves the value's low ones at the address and changes nothing else. -/
theorem lsStoreMove_stores {n : Nat} {l : Nat × Nat} (ok : s.MemOk) (e : plainAddr x.g x.pA.word n = .ok l) :
    ∃ t, lsStoreMove gd src s n = .next t ∧ t = { s with mem := t.mem } ∧ t.read l.1 n = x.val.bits.toNat % 2 ^ (8 * n) ∧
      s.sameBut t l.1 n := by
  have inCore : locCore 0 0 ≤ l.1 := by rw [(plainAddr_zero space e).1]; exact locCore_le ..
  exact ⟨_, lsStoreMove_writes h space e, State.write_mem .., (State.read_write ok inCore).trans (Nat.mod_mod ..),
    State.sameBut_write ok inCore⟩

theorem execLsVsca_scatters {l : List (Nat × Nat)} (e : indexSet x.g x.pA.word x.pB = .ok l) :
    execLsVsca gd src k s = .next (s.scatter x.g 0 (szBytes (bitsOf x.pA.word 32 2)) x.val l) := by
  rw [execLsVsca, lsMove_issues h]
  simp only [show x.c.port x.slot 0 = x.pA from rfl, show x.c.port x.slot 1 = x.pB from rfl, windowBad_zero, e,
    Bool.false_eq_true, and_false, if_false, space]

theorem execLsMst_stores {l : Nat × Nat} (e : maskAddr x.g x.pA.word x.pB = .ok l) :
    execLsMst gd src k s = .next (s.maskStore x.g 0 (maskSize x.pA.word) l.2 x.pB x.val) := by
  rw [execLsMst, lsMove_issues h]
  simp only [show x.c.port x.slot 0 = x.pA from rfl, show x.c.port x.slot 1 = x.pB from rfl, windowBad_zero, e,
    Bool.false_eq_true, and_false, if_false, space]
end

/-- Settles O18: an accepted store is one write, or the writes of its lanes in ascending order. -/
theorem storeResults : Obligations.StoreResults := by
  intro s gd src k x h
  simp only [exec_lsSt, exec_lsVst, exec_lsVsca, exec_lsMst]
  intro ok space
  refine ⟨fun l e => ?_, fun l e => ?_, fun l e => ?_, fun l e => ?_⟩
  · obtain ⟨t, runs, only_, reads, same⟩ := lsStoreMove_stores h space ok e
    exact ⟨t, runs, only_, reads.trans (BitVec.toNat_setWidth ..).symm, same⟩
  · obtain ⟨t, runs, only_, reads, same⟩ := lsStoreMove_stores h space ok e
    exact ⟨t, runs, only_, reads.trans (bits_mod_all ..), same⟩
  · have own := indexSet_zero space e
    refine ⟨_, execLsVsca_scatters h space e, State.scatter_onlyMem .., ?_, ?_⟩
    · exact fun i => State.read_scatter _ ok own
    · exact fun y => State.memGet_scatter _ ok own
  · have at_ := maskAddr_zero space e
    refine ⟨_, execLsMst_stores h space e, State.maskStore_onlyMem .., fun i hi => ?_, ?_⟩
    · subst at_; exact State.read_maskStore _ _ _ _ _ ok hi
    · subst at_; exact State.sameBut_maskStore _ _ _ _ _ ok _ rfl

/-! ### Loads (R351 to R355) -/

section
variable (h : s.issues 5 gd src x)
include h

/-- A plain load, its tag accepted, lands the bytes at an accepted address. -/
theorem lsLoad_lands {n : Nat} {tag : BitVec 5} {tagOf : MoveCtx → Except Trap (BitVec 5)} {l : Nat × Nat}
    (tagged : tagOf x = .ok tag) (e : plainAddr x.g x.val.word n = .ok l) :
    lsLoad gd src k s n tagOf = .next (x.lands s 4 k ⟨BitVec.ofNat 1024 (s.read l.1 n), tag⟩ 0) := by
  have small : ¬ 2 ^ 32 ≤ x.val.word.toNat := by
    intro large
    rw [plainAddr, if_pos large] at e
    cases e
  rw [lsLoad, lsMove_issues h, if_neg small, tagged, ← finish_ok h]
  simp only [e]

theorem lsLoad_traps {n c d : Nat} (e : plainAddr x.g x.val.word n = .error (c, d)) :
    lsLoad gd src k s n rawTag = .next (s.trapMove x.g x.slot x.bun c d) := by
  rw [lsLoad, lsMove_issues h]
  by_cases large : 2 ^ 32 ≤ x.val.word.toNat
  · rw [plainAddr, if_pos large] at e
    cases e
    rw [if_pos large]
    rfl
  · rw [if_neg large]
    simp only [rawTag, e]
    rfl

omit h in
/-- A word that is a tag has no other bit. -/
theorem ushiftRight_five {w : Word} (small : w.toNat < 32) : w >>> 5 = 0 := by
  apply BitVec.eq_of_toNat_eq
  rw [BitVec.toNat_ushiftRight, Nat.shiftRight_eq_div_pow, Nat.div_eq_of_lt small]
  rfl

/-- The tag of a `tld` is in port a. -/
theorem execLsTld_lands {l : Nat × Nat} (e : plainAddr x.g x.val.word 128 = .ok l) (small : x.pA.word.toNat < 32)
    (tag : badTag (x.pA.word.setWidth 5) = false) :
    execLsTld gd src k s = .next (x.lands s 4 k ⟨BitVec.ofNat 1024 (s.read l.1 128), x.pA.word.setWidth 5⟩ 0) := by
  refine lsLoad_lands h ?_ e
  simp only [show x.c.port x.slot 0 = x.pA from rfl, ushiftRight_five small, tag, ne_eq, not_true_eq_false, if_false, Bool.false_eq_true]

theorem execLsVlds_lands {l : List (Nat × Nat)} (e : strideSet x.g x.val.word x.pA.word = .ok l) :
    execLsVlds gd src k s = .next (x.lands s 4 k ⟨BitVec.ofNat 1024 (s.gather (szBytes (bitsOf x.val.word 32 2)) l), 0⟩ 0) := by
  rw [execLsVlds, lsMove_issues h, ← finish_ok h]
  simp only [show x.c.port x.slot 0 = x.pA from rfl, e]
  rfl

theorem execLsVgat_lands {l : List (Nat × Nat)} (e : indexSet x.g x.pA.word x.val = .ok l) :
    execLsVgat gd src k s = .next (x.lands s 8 k ⟨BitVec.ofNat 1024 (s.gather (szBytes (bitsOf x.pA.word 32 2)) l), 0⟩ 0) := by
  rw [execLsVgat, lsMove_issues h, ← finish_ok h]
  simp only [show x.c.port x.slot 0 = x.pA from rfl, e]
  rfl

theorem execLsPld_lands {l : Nat × Nat} (fields : pldOk x.pA.word x.val.word = true) (aligned : bitsOf x.pA.word 0 32 % 16 = 0)
    (e : coreSpace x.g (bitsOf x.pA.word 28 4) (bitsOf x.pA.word 0 28)
      ((bitsOf x.pA.word 52 4 - 1) * bitsOf x.pA.word 32 16 + (x.val.word.toNat + 64 * bniK (bitsOf x.pA.word 52 4) - 1) / 8 + 1) = .ok l) :
    execLsPld gd src k s = .next (x.lands s 6 k
      ⟨BitVec.ofNat 1024 (pldBits (bitsOf x.pA.word 52 4) (bitsOf x.pA.word 32 16) x.val.word.toNat (fun o => s.read (l.1 + o) 1)),
        BitVec.ofNat 5 (0x0A + (bitsOf x.pA.word 52 4 - 2))⟩ 0) := by
  rw [execLsPld, lsMove_issues h, ← finish_ok h]
  simp only [show x.c.port x.slot 0 = x.pA from rfl, fields, e, aligned, Bool.true_eq_false, if_false, ne_eq, not_true_eq_false]
  rfl
end
end

/-- Settles O17: each load reads the bytes of the address that its checks accept, and a plain one traps with the check that fails. -/
theorem loadResults : Obligations.LoadResults := by
  intro s gd src k x h
  simp only [exec_lsLd, exec_lsVld, exec_lsTld, exec_lsVlds, exec_lsVgat, exec_lsPld]
  exact ⟨fun l => lsLoad_lands h rfl, fun l => lsLoad_lands h rfl, fun l => execLsTld_lands h, fun l => execLsVlds_lands h,
    fun l => execLsVgat_lands h, fun l => execLsPld_lands h, fun c d => lsLoad_traps h, fun c d => lsLoad_traps h⟩

/-! ### The portable vector loads and stores (R393) -/

section
variable {s : State}

/-- A core goes on after a change of memory. -/
theorem State.onlyMem_putNone {u : State} (h : u = { s with mem := u.mem }) : s.putNone (u.advance s.focus) := by
  have core (g : Nat) : u.coreP g = s.coreP g := by rw [h]; rfl
  obtain ⟨h1, h2, h3, h4, h5, h6, h7, h8, h9, -⟩ := u.goTo_spec s.focus ((u.coreP s.focus).pc + 4)
  rw [core] at h1
  simp only [core] at h2 h3 h4 h5 h6 h7 h8 h9
  have keeps (p) : { u with pcores := p } = { s with pcores := p, mem := u.mem } := by rw [h]
  rw [State.advance, core]
  exact ⟨h1.trans (keeps _), h2, h3, h4, h5, h6, h7, h8, h9⟩

/-! #### The check of an address in the local buffer (R385) -/

theorem localCheck_outside {a : Nat} (n : Nat) (h : 0x80000 ≤ a) : localCheck a n = some (0x09, a % 2 ^ 32) := if_pos h

theorem localCheck_misaligned {a n : Nat} (h : a < 0x80000) (off : a % n ≠ 0) : localCheck a n = some (0x0A, a % 2 ^ 32) := by
  rw [localCheck, if_neg (by omega), if_pos off]

theorem localCheck_none {a n : Nat} (h : a < 0x80000) (al : a % n = 0) : localCheck a n = none := by
  rw [localCheck, if_neg (by omega), if_neg (not_not_intro al)]

theorem spaceBad_zero {d : Word} (off : Int) (space : bitsOf d 28 4 = 0) : spaceBad d off = none := if_neg (not_not_intro space)

section
variable {h : BitVec 3} (hh : h.toNat < 5) {tag b a d : BitVec 5} {o : BitVec 4}
include hh

/-! #### `qld` and `qst` -/

theorem execQld_badTag (bad : badTag tag = true) : execQld h tag o a d s = .next (s.trapP s.focus 0x06 tag.toNat) := by
  rw [execQld, xpolOp_ok _ hh]
  simp only [bad, if_true]

section
variable (good : badTag tag = false)
include good

theorem execQld_fails {c e : Nat} (check : localCheck (vecAddr ((s.coreP s.focus).xr a.toNat) o) 128 = some (c, e)) :
    execQld h tag o a d s = .next (s.trapP s.focus c e) := by
  rw [execQld, xpolOp_ok _ hh]
  simp only [good, Bool.false_eq_true, if_false, check]
  rfl

theorem execQld_puts (check : localCheck (vecAddr ((s.coreP s.focus).xr a.toNat) o) 128 = none) :
    ∃ t, execQld h tag o a d s = .next t ∧
      s.putQ t d ⟨BitVec.ofNat 1024 (s.read (locCore s.focus (vecAddr ((s.coreP s.focus).xr a.toNat) o)) 128), tag⟩ 0 := by
  rw [execQld, xpolOp_ok _ hh]
  simp only [good, Bool.false_eq_true, if_false, check]
  exact ⟨_, rfl, s.doneQ_putQ d _ 0⟩
end

theorem execQst_fails {c e : Nat} (check : localCheck (vecAddr ((s.coreP s.focus).xr a.toNat) o) 128 = some (c, e)) :
    execQst h o a d s = .next (s.trapP s.focus c e) := by
  rw [execQst, xpolOp_ok _ hh]
  simp only [check]
  rfl

theorem execQst_writes (check : localCheck (vecAddr ((s.coreP s.focus).xr a.toNat) o) 128 = none) :
    execQst h o a d s = .next ((s.write (locCore s.focus (vecAddr ((s.coreP s.focus).xr a.toNat) o))
      ((s.coreP s.focus).qr d.toNat).bits.toNat 128).advance s.focus) := by
  rw [execQst, xpolOp_ok _ hh]
  simp only [check]

theorem execQst_stores (ok : s.MemOk) (check : localCheck (vecAddr ((s.coreP s.focus).xr a.toNat) o) 128 = none) :
    let A := vecAddr ((s.coreP s.focus).xr a.toNat) o
    ∃ t, execQst h o a d s = .next t ∧ s.putNone t ∧ t.read (locCore s.focus A) 128 = ((s.coreP s.focus).qr d.toNat).bits.toNat ∧
      s.sameBut t (locCore s.focus A) 128 :=
  ⟨_, execQst_writes hh check, s.write_putNone .., (State.read_write ok (locCore_le ..)).trans (bits_mod_all ..),
    State.sameBut_write ok (locCore_le ..)⟩

/-! #### Strided, indexed and masked accesses -/

theorem execQlds_puts {l : List (Nat × Nat)} (space : bitsOf ((s.coreP s.focus).xr a.toNat) 28 4 = 0)
    (e : strideSet s.focus ((s.coreP s.focus).xr a.toNat) ((s.coreP s.focus).xr b.toNat) = .ok l) :
    ∃ t, execQlds h b a d s = .next t ∧
      s.putQ t d ⟨BitVec.ofNat 1024 (s.gather (szBytes (bitsOf ((s.coreP s.focus).xr a.toNat) 32 2)) l), 0⟩ 0 := by
  rw [execQlds, xpolOp_ok _ hh]
  simp only [spaceBad_zero _ space, ite_self, e]
  exact ⟨_, rfl, s.doneQ_putQ d _ 0⟩

section
variable (space : bitsOf ((s.coreP s.focus).xr b.toNat) 28 4 = 0)
include space

theorem execQgat_puts {l : List (Nat × Nat)}
    (e : indexSet s.focus ((s.coreP s.focus).xr b.toNat) ((s.coreP s.focus).qr a.toNat) = .ok l) :
    ∃ t, execQgat h b a d s = .next t ∧
      s.putQ t d ⟨BitVec.ofNat 1024 (s.gather (szBytes (bitsOf ((s.coreP s.focus).xr b.toNat) 32 2)) l), 0⟩ 0 := by
  rw [execQgat, xpolOp_ok _ hh]
  simp only [spaceBad_zero _ space, ite_self, e]
  exact ⟨_, rfl, s.doneQ_putQ d _ 0⟩

theorem execQsca_scatters {l : List (Nat × Nat)}
    (e : indexSet s.focus ((s.coreP s.focus).xr b.toNat) ((s.coreP s.focus).qr a.toNat) = .ok l) :
    execQsca h b a d s = .next ((s.scatter s.focus 0 (szBytes (bitsOf ((s.coreP s.focus).xr b.toNat) 32 2))
      ((s.coreP s.focus).qr d.toNat) l).advance s.focus) := by
  rw [execQsca, xpolOp_ok _ hh]
  simp only [spaceBad_zero _ space, ite_self, e]

theorem execQmst_stores {l : Nat × Nat}
    (e : maskAddr s.focus ((s.coreP s.focus).xr b.toNat) ((s.coreP s.focus).qr a.toNat) = .ok l) :
    execQmst h b a d s = .next ((s.maskStore s.focus 0 (maskSize ((s.coreP s.focus).xr b.toNat)) l.2
      ((s.coreP s.focus).qr a.toNat) ((s.coreP s.focus).qr d.toNat)).advance s.focus) := by
  rw [execQmst, xpolOp_ok _ hh]
  simp only [spaceBad_zero _ space, ite_self, e]
end
end
end

/-- Settles O39: the checks of an address are those of `localCheck`, or those of the native loads and stores with space 0; what is
stored are the same writes. -/
theorem portableVectorMemory : Obligations.PortableVectorMemory := by
  intro s h tag b a d o hh ok
  simp only [exec_qld, exec_qst, exec_qlds, exec_qgat, exec_qsca, exec_qmst]
  refine ⟨fun good lo al => execQld_puts hh good (localCheck_none lo al), fun lo al => execQst_stores hh ok (localCheck_none lo al),
    fun l space e => execQlds_puts hh space e,
    fun l space e => ⟨execQgat_puts hh space e, _, execQsca_scatters hh space e, State.onlyMem_putNone (State.scatter_onlyMem ..), ?_, ?_⟩,
    fun l space e => ⟨_, execQmst_stores hh space e, State.onlyMem_putNone (State.maskStore_onlyMem ..), ?_, ?_⟩,
    fun bad => execQld_badTag hh bad, fun good out => execQld_fails hh good (localCheck_outside 128 out),
    fun good lo off => execQld_fails hh good (localCheck_misaligned lo off), fun out => execQst_fails hh (localCheck_outside 128 out),
    fun lo off => execQst_fails hh (localCheck_misaligned lo off)⟩
  · exact fun i => State.read_scatter _ ok (indexSet_zero space e)
  · exact fun y => State.memGet_scatter _ ok (indexSet_zero space e)
  · intro i hi
    have at_ := maskAddr_zero space e
    subst at_
    exact State.read_maskStore _ _ _ _ _ ok hi
  · have at_ := maskAddr_zero space e
    subst at_
    exact State.sameBut_maskStore _ _ _ _ _ ok _ rfl

end Sys2Proof.Machine
end

section
/-! PROOFS. The RV64 base of the portable layer: computations and divides (O31, O32). -/

namespace Sys2Proof.Machine

/-! ### Computations (R384) -/

theorem ofBool_slt (a b : Word) : ofBool (decide (a.toInt < b.toInt)) = if a.slt b then 1 else 0 := by
  simp only [ofBool_decide, BitVec.slt_iff_toInt_lt]

theorem ofBool_ult (a b : Word) : ofBool (decide (a.toNat < b.toNat)) = if a.ult b then 1 else 0 := by
  simp only [ofBool_decide, BitVec.ult_iff_lt, BitVec.lt_def]

theorem setWidth_sub_low (x y : Word) : (x - y).setWidth 32 = x.setWidth 32 - y.setWidth 32 := by
  apply BitVec.eq_of_toNat_eq
  simp only [BitVec.toNat_setWidth, BitVec.toNat_sub]
  omega

/-- The shift amount of an immediate shift is its six low bits. -/
theorem shamt_toNat (imm : BitVec 12) : ((imm.setWidth 6).setWidth 64).toNat % 64 = imm.toNat % 64 := by
  simp only [BitVec.toNat_setWidth]
  omega

/-- The five low bits of an immediate are those of its extension. -/
theorem toNat_signExtend_mod (imm : BitVec 12) : (imm.signExtend 64).toNat % 32 = imm.toNat % 32 := by
  rw [BitVec.toNat_signExtend, BitVec.toNat_setWidth]
  split <;> omega

section
variable (s : State)

/-- An integer instruction writes its result to its destination. -/
theorem portableIntegerOp_putX {op : IntOp} {rd : BitVec 5} {w : Word} (e : intResult (s.coreP s.focus) op = (rd, w)) :
    ∃ t, exec (.portableIntegerOp op) s = .next t ∧ s.putX t rd w := by
  refine ⟨_, rfl, ?_⟩
  dsimp only
  rw [e]
  exact s.doneX_putX rd w

variable (rd a b : BitVec 5)

theorem op_putX {f7 : BitVec 7} {f3 : BitVec 3} {w : Word}
    (e : (if f7 = 1 then mulWord f3 ((s.coreP s.focus).xr a.toNat) ((s.coreP s.focus).xr b.toNat)
      else alu f3 (decide (f7 = 0x20)) ((s.coreP s.focus).xr a.toNat) ((s.coreP s.focus).xr b.toNat)) = w) :
    ∃ t, exec (.portableIntegerOp (.op f7 f3 rd a b)) s = .next t ∧ s.putX t rd w :=
  portableIntegerOp_putX s (congrArg (rd, ·) e)

theorem op32_putX {f7 : BitVec 7} {f3 : BitVec 3} {w : Word}
    (e : (if f7 = 1 then sextW ((s.coreP s.focus).xr a.toNat * (s.coreP s.focus).xr b.toNat)
      else aluW f3 (decide (f7 = 0x20)) ((s.coreP s.focus).xr a.toNat) ((s.coreP s.focus).xr b.toNat)) = w) :
    ∃ t, exec (.portableIntegerOp (.op32 f7 f3 rd a b)) s = .next t ∧ s.putX t rd w :=
  portableIntegerOp_putX s (congrArg (rd, ·) e)

theorem opImm_putX {f3 : BitVec 3} {imm : BitVec 12} {w : Word}
    (e : alu f3 (decide (f3 = 5) && imm.getLsbD 10) ((s.coreP s.focus).xr a.toNat)
      (if f3 = 1 ∨ f3 = 5 then (imm.setWidth 6).setWidth 64 else imm.signExtend 64) = w) :
    ∃ t, exec (.portableIntegerOp (.opImm f3 rd a imm)) s = .next t ∧ s.putX t rd w :=
  portableIntegerOp_putX s (congrArg (rd, ·) e)

theorem opImm32_putX {f3 : BitVec 3} {imm : BitVec 12} {w : Word}
    (e : aluW f3 (decide (f3 = 5) && imm.getLsbD 10) ((s.coreP s.focus).xr a.toNat) (imm.signExtend 64) = w) :
    ∃ t, exec (.portableIntegerOp (.opImm32 f3 rd a imm)) s = .next t ∧ s.putX t rd w :=
  portableIntegerOp_putX s (congrArg (rd, ·) e)
end

/-- Settles O31: each instruction by the value that its row of the ALU gives. -/
theorem portableInteger : Obligations.PortableInteger := by
  intro s rd a b imm up
  refine ⟨portableIntegerOp_putX s rfl, portableIntegerOp_putX s rfl, opImm_putX s rd a rfl, opImm_putX s rd a (ofBool_slt ..),
    opImm_putX s rd a (ofBool_ult ..), opImm_putX s rd a rfl, opImm_putX s rd a rfl, opImm_putX s rd a rfl, opImm_putX s rd a ?_,
    fun low => opImm_putX s rd a ?_, fun high => opImm_putX s rd a ?_, opImm32_putX s rd a ?_, opImm32_putX s rd a ?_,
    fun low => opImm32_putX s rd a ?_, fun high => opImm32_putX s rd a ?_, op_putX s rd a b rfl, op_putX s rd a b rfl,
    op_putX s rd a b rfl, op_putX s rd a b (ofBool_slt ..), op_putX s rd a b (ofBool_ult ..), op_putX s rd a b rfl,
    op_putX s rd a b rfl, op_putX s rd a b rfl, op_putX s rd a b rfl, op_putX s rd a b rfl, op_putX s rd a b rfl, op_putX s rd a b rfl,
    op_putX s rd a b rfl, op_putX s rd a b rfl, op32_putX s rd a b ?_, op32_putX s rd a b ?_, op32_putX s rd a b rfl,
    op32_putX s rd a b rfl, op32_putX s rd a b rfl, op32_putX s rd a b rfl⟩
  · exact congrArg ((s.coreP s.focus).xr a.toNat <<< ·) (shamt_toNat imm)
  · rw [low]
    exact congrArg ((s.coreP s.focus).xr a.toNat >>> ·) (shamt_toNat imm)
  · rw [high]
    exact congrArg ((s.coreP s.focus).xr a.toNat).sshiftRight (shamt_toNat imm)
  · dsimp only
    rw [BitVec.setWidth_add _ _ (by decide : 32 ≤ 64)]
    rfl
  · rw [← toNat_signExtend_mod]
    rfl
  · rw [low, ← toNat_signExtend_mod]
    rfl
  · rw [high, ← toNat_signExtend_mod]
    rfl
  · dsimp only
    rw [BitVec.setWidth_add _ _ (by decide : 32 ≤ 64)]
    rfl
  · dsimp only
    rw [setWidth_sub_low]
    rfl

/-! ### Divides (R384) -/

section
variable (a b : Word)

theorem toInt_sextW : (sextW a).toInt = (a.setWidth 32).toInt := BitVec.toInt_signExtend_of_le (by decide)

theorem sextW_eq_zero : sextW a = 0 ↔ a.setWidth 32 = 0 := by
  rw [← BitVec.toInt_inj, toInt_sextW, ← BitVec.toInt_inj]
  rfl

theorem zextW_eq_zero : (a.setWidth 32).setWidth 64 = 0 ↔ a.setWidth 32 = 0 := by
  rw [← BitVec.toNat_inj, BitVec.toNat_setWidth_of_le (by decide), ← BitVec.toNat_inj]
  rfl

theorem setWidth_ofInt_low (z : Int) : (BitVec.ofInt 64 z).setWidth 32 = BitVec.ofInt 32 z := by
  apply BitVec.eq_of_toNat_eq
  simp only [BitVec.toNat_setWidth, BitVec.toNat_ofInt]
  omega

theorem setWidth_signExtend_low (x : BitVec 32) : (x.signExtend 64).setWidth 32 = x := by
  ext i hi
  rw [BitVec.getElem_setWidth, BitVec.getLsbD_signExtend, if_pos hi, decide_eq_true (by omega), Bool.true_and, BitVec.getLsbD_eq_getElem hi]

/-- A signed divide of sign-extended halves is that of the halves. -/
theorem divide_sextW : ((divide true (sextW a) (sextW b)).1).setWidth 32 =
      (if b.setWidth 32 = 0 then BitVec.allOnes 32 else BitVec.ofInt 32 ((a.setWidth 32).toInt.tdiv (b.setWidth 32).toInt)) ∧
    ((divide true (sextW a) (sextW b)).2.1).setWidth 32 =
      (if b.setWidth 32 = 0 then a.setWidth 32 else BitVec.ofInt 32 ((a.setWidth 32).toInt.tmod (b.setWidth 32).toInt)) := by
  rw [divide_quot, divide_rem]
  simp only [sextW_eq_zero, toInt_sextW]
  split
  · exact ⟨rfl, setWidth_signExtend_low _⟩
  · exact ⟨setWidth_ofInt_low _, setWidth_ofInt_low _⟩

/-- An unsigned divide of zero-extended halves is that of the halves. -/
theorem divide_zextW : ((divide false ((a.setWidth 32).setWidth 64) ((b.setWidth 32).setWidth 64)).1).setWidth 32 =
      (if b.setWidth 32 = 0 then BitVec.allOnes 32 else BitVec.ofNat 32 ((a.setWidth 32).toNat / (b.setWidth 32).toNat)) ∧
    ((divide false ((a.setWidth 32).setWidth 64) ((b.setWidth 32).setWidth 64)).2.1).setWidth 32 =
      (if b.setWidth 32 = 0 then a.setWidth 32 else BitVec.ofNat 32 ((a.setWidth 32).toNat % (b.setWidth 32).toNat)) := by
  have low (w : BitVec 32) : (w.setWidth 64).toNat = w.toNat := BitVec.toNat_setWidth_of_le (by decide)
  have cut (w : BitVec 32) : (w.setWidth 64).setWidth 32 = w := BitVec.setWidth_setWidth_of_le _ (by decide)
  rw [divide_quot, divide_rem]
  simp only [zextW_eq_zero, low]
  split
  · exact ⟨rfl, cut _⟩
  · exact ⟨BitVec.setWidth_ofNat_of_le (by decide) _, BitVec.setWidth_ofNat_of_le (by decide) _⟩
end

theorem CoreP.setX_raise (c : CoreP) (rd : Nat) (w : Word) (fl : Flags) : (c.setX rd w).raise fl = (c.raise fl).setX rd w := by
  unfold CoreP.setX
  split <;> rfl

/-- A divide writes its result from a state in which its flag is raised. -/
theorem execPortableDivide_putX (s : State) {W : BitVec 1} {f3 : BitVec 3} {rd a b : BitVec 5} {w : Word} {fl : Flags}
    (e : portDivide (decide (W = 1)) f3 ((s.coreP s.focus).xr a.toNat) ((s.coreP s.focus).xr b.toNat) = (w, fl)) :
    ∃ t, exec (.portableDivide W f3 rd a b) s = .next t ∧ (t.coreP s.focus).flg = (s.coreP s.focus).flg ||| fl ∧
      ({ s with pcores := Tab.put s.pcores s.focus { s.coreP s.focus with flg := (t.coreP s.focus).flg } } : State).putX t rd w := by
  let raised := s.modP s.focus (fun c => c.raise fl)
  have runs : exec (.portableDivide W f3 rd a b) s = .next (raised.doneX s.focus rd.toNat w) := by
    simp only [exec_portableDivide, execPortableDivide, baseOp_eq, e, CoreP.setX_raise]
    rw [State.doneX, State.modP_modP]
  have put := raised.doneX_putX rd w
  have flags : ((raised.doneX s.focus rd.toNat w).coreP s.focus).flg = (s.coreP s.focus).flg ||| fl := by
    obtain ⟨-, -, -, -, -, -, flg, -⟩ := put
    exact flg.trans (by rw [State.coreP_modP]; exact congrArg CoreP.flg (if_pos rfl))
  refine ⟨_, runs, flags, ?_⟩
  rw [flags]
  exact put

/-- Settles O32: by the quotient and remainder of R299 on the operands, or on their halves extended. -/
theorem portableDivides : Obligations.PortableDivides := by
  intro s rd a b
  refine ⟨?_, ?_, ?_, ?_, ?_, ?_, ?_, ?_⟩
  · exact execPortableDivide_putX s (Prod.ext (divide_quot true _ _) (divide_flags ..))
  · exact execPortableDivide_putX s (Prod.ext (divide_quot false _ _) (divide_flags ..))
  · exact execPortableDivide_putX s (Prod.ext (divide_rem true _ _) (divide_flags ..))
  · exact execPortableDivide_putX s (Prod.ext (divide_rem false _ _) (divide_flags ..))
  · exact execPortableDivide_putX s (Prod.ext (congrArg (BitVec.signExtend 64) (divide_sextW _ _).1)
      ((divide_flags ..).trans (if_congr (sextW_eq_zero _) rfl rfl)))
  · exact execPortableDivide_putX s (Prod.ext (congrArg (BitVec.signExtend 64) (divide_zextW _ _).1)
      ((divide_flags ..).trans (if_congr (zextW_eq_zero _) rfl rfl)))
  · exact execPortableDivide_putX s (Prod.ext (congrArg (BitVec.signExtend 64) (divide_sextW _ _).2)
      ((divide_flags ..).trans (if_congr (sextW_eq_zero _) rfl rfl)))
  · exact execPortableDivide_putX s (Prod.ext (congrArg (BitVec.signExtend 64) (divide_zextW _ _).2)
      ((divide_flags ..).trans (if_congr (zextW_eq_zero _) rfl rfl)))

end Sys2Proof.Machine
end

section
/-! PROOFS. The RV64 base of the portable layer: loads, stores, jumps and CSRs (O33 to O36). -/

namespace Sys2Proof.Machine

/-! ### Loads and stores of the local buffer (R384, R385) -/

section
variable (s : State)

theorem toSigned_of_lt {w v : Nat} (h : v < 2 ^ w) : toSigned w v = if 2 * v < 2 ^ w then (v : Int) else v - 2 ^ w := by
  rw [toSigned, Nat.mod_eq_of_lt h]

theorem loadValue_read (f3 : BitVec 3) (a : Nat) : loadValue f3 (s.read a (memBytes f3)) =
    if f3.toNat < 4 then
      BitVec.ofInt 64 (if 2 * s.read a (memBytes f3) < 2 ^ (8 * memBytes f3) then (s.read a (memBytes f3) : Int)
        else s.read a (memBytes f3) - 2 ^ (8 * memBytes f3))
    else BitVec.ofNat 64 (s.read a (memBytes f3)) := by
  rw [loadValue, toSigned_of_lt (s.read_lt a (memBytes f3))]

theorem memBytes_store {f3 : BitVec 3} (h : f3.toNat < 4) : memBytes f3 = 2 ^ f3.toNat := by rw [memBytes, Nat.mod_eq_of_lt h]

section
variable {s : State} {f3 : BitVec 3} {rd a b : BitVec 5} {imm : BitVec 12} {c d : Nat}

theorem execPortableLoad_fails (check : localCheck (effAddr ((s.coreP s.focus).xr a.toNat) imm) (memBytes f3) = some (c, d)) :
    execPortableLoad f3 rd a imm s = .next (s.trapP s.focus c d) := by
  rw [execPortableLoad, baseOp_eq]
  simp only [check]
  rfl

theorem execPortableLoad_puts (check : localCheck (effAddr ((s.coreP s.focus).xr a.toNat) imm) (memBytes f3) = none) :
    ∃ t, execPortableLoad f3 rd a imm s = .next t ∧
      s.putX t rd (loadValue f3 (s.read (locCore s.focus (effAddr ((s.coreP s.focus).xr a.toNat) imm)) (memBytes f3))) := by
  rw [execPortableLoad, baseOp_eq]
  simp only [check]
  exact ⟨_, rfl, s.doneX_putX rd _⟩

theorem execPortableStore_fails (check : localCheck (effAddr ((s.coreP s.focus).xr a.toNat) imm) (memBytes f3) = some (c, d)) :
    execPortableStore f3 a b imm s = .next (s.trapP s.focus c d) := by
  rw [execPortableStore, baseOp_eq]
  simp only [check]
  rfl

theorem execPortableStore_writes (check : localCheck (effAddr ((s.coreP s.focus).xr a.toNat) imm) (memBytes f3) = none) :
    execPortableStore f3 a b imm s = .next ((s.write (locCore s.focus (effAddr ((s.coreP s.focus).xr a.toNat) imm))
      ((s.coreP s.focus).xr b.toNat).toNat (memBytes f3)).advance s.focus) := by
  rw [execPortableStore, baseOp_eq]
  simp only [check]

theorem execPortableStore_stores (ok : s.MemOk)
    (check : localCheck (effAddr ((s.coreP s.focus).xr a.toNat) imm) (memBytes f3) = none) :
    let A := effAddr ((s.coreP s.focus).xr a.toNat) imm
    ∃ t, execPortableStore f3 a b imm s = .next t ∧ s.putNone t ∧
      t.read (locCore s.focus A) (memBytes f3) = ((s.coreP s.focus).xr b.toNat).toNat % 2 ^ (8 * memBytes f3) ∧
      s.sameBut t (locCore s.focus A) (memBytes f3) :=
  ⟨_, execPortableStore_writes check, s.write_putNone .., State.read_write ok (locCore_le ..), State.sameBut_write ok (locCore_le ..)⟩
end
end

/-- Settles O33: by the check of the address, and a load's value as the integer that its bytes hold. -/
theorem portableLoads : Obligations.PortableLoads := by
  intro s f3 rd a imm _
  simp only [exec_portableLoad]
  refine ⟨fun lo al => ?_, fun out => execPortableLoad_fails (localCheck_outside _ out),
    fun lo off => execPortableLoad_fails (localCheck_misaligned lo off)⟩
  obtain ⟨t, runs, put⟩ := execPortableLoad_puts (rd := rd) (localCheck_none (a := effAddr _ imm) (n := memBytes f3) lo al)
  exact ⟨t, runs, loadValue_read s f3 _ ▸ put⟩

/-- Settles O34: a store is one write of the low bytes, after the check of its address. -/
theorem portableStores : Obligations.PortableStores := by
  intro s f3 a b imm ok small
  simp only [exec_portableStore, ← memBytes_store small]
  exact ⟨fun lo al => execPortableStore_stores ok (localCheck_none lo al), fun out => execPortableStore_fails (localCheck_outside _ out),
    fun lo off => execPortableStore_fails (localCheck_misaligned lo off)⟩

/-! ### Jumps and branches (R384) -/

section
variable {s : State} {j : JumpOp}

theorem execPortableBranchJump_falls {rd : Nat} (e : jumpTarget (s.coreP s.focus) j = (none, rd)) :
    execPortableBranchJump j s = .next (s.advance s.focus) := by
  rw [execPortableBranchJump, baseOp_eq]
  simp only [e]

section
variable {to_ : Word} {rd : Nat} (e : jumpTarget (s.coreP s.focus) j = (some to_, rd))
include e

theorem execPortableBranchJump_traps (off : to_.toNat % 4 ≠ 0) :
    execPortableBranchJump j s = .next (s.trapP s.focus 0x0A (to_.toNat % 2 ^ 32)) := by
  rw [execPortableBranchJump, baseOp_eq]
  simp only [e, off, ne_eq, not_false_eq_true, if_true]

theorem execPortableBranchJump_jumps (al : ¬ to_.toNat % 4 ≠ 0) : execPortableBranchJump j s =
    .next ((s.modP s.focus (fun x => x.setX rd (BitVec.ofNat 64 (s.coreP s.focus).pc + 4))).goTo s.focus to_.toNat) := by
  rw [execPortableBranchJump, baseOp_eq]
  simp only [e, al, if_false]
end

/-- Writing x[rd] and going to an address. -/
theorem State.setX_goTo_spec (s : State) (g rd : Nat) (w to_ : Word) :
    let t := (s.modP g (fun x => x.setX rd w)).goTo g to_.toNat
    (t.coreP g).pc = to_.toNat ∧ t = { s with pcores := t.pcores } ∧
      (∀ n, (t.coreP g).xr n = if n = rd ∧ n ≠ 0 then w else (s.coreP g).xr n) ∧ (t.coreP g).q = (s.coreP g).q ∧
      (t.coreP g).flg = (s.coreP g).flg ∧ (t.coreP g).retired = (s.coreP g).retired + 1 := by
  obtain ⟨rest, -, pc, retired, x, q, flg, -⟩ := (s.modP g (fun x => x.setX rd w)).goTo_spec g to_.toNat
  rw [State.coreP_modP, if_pos rfl] at retired x q flg
  refine ⟨pc.trans (Nat.mod_eq_of_lt to_.isLt), rest, fun n => ?_, q.trans (CoreP.setX_q ..), flg.trans (CoreP.setX_flg ..),
    retired.trans (congrArg (· + 1) (CoreP.setX_retired ..))⟩
  rw [← CoreP.xr_setX, CoreP.xr, x]
  rfl

/-- A transfer whose target and link register are known goes on, traps or jumps. -/
theorem execPortableBranchJump_goes {taken : Bool} {to_ : Word} {rd : Nat}
    (e : jumpTarget (s.coreP s.focus) j = (if taken then some to_ else none, rd)) :
    if taken = false then exec (.portableBranchJump j) s = .next (s.advance s.focus)
    else if to_.toNat % 4 ≠ 0 then exec (.portableBranchJump j) s = .next (s.trapP s.focus 0x0A (to_.toNat % 2 ^ 32))
    else ∃ t, exec (.portableBranchJump j) s = .next t ∧ (t.coreP s.focus).pc = to_.toNat ∧ t = { s with pcores := t.pcores } ∧
      (∀ n, (t.coreP s.focus).xr n = if n = rd ∧ n ≠ 0 then BitVec.ofNat 64 (s.coreP s.focus).pc + 4 else (s.coreP s.focus).xr n) ∧
      (t.coreP s.focus).q = (s.coreP s.focus).q ∧ (t.coreP s.focus).flg = (s.coreP s.focus).flg ∧
      (t.coreP s.focus).retired = (s.coreP s.focus).retired + 1 := by
  rw [exec_portableBranchJump]
  cases taken with
  | false => exact execPortableBranchJump_falls e
  | true =>
    rw [if_neg Bool.true_eq_false.mp]
    split
    next off => exact execPortableBranchJump_traps e off
    next al => exact ⟨_, execPortableBranchJump_jumps e al, s.setX_goTo_spec ..⟩

/-- A branch, with the condition of its funct3. -/
theorem jumpTarget_branch {c : CoreP} {f3 : BitVec 3} {a b : BitVec 5} {imm : BitVec 12} {taken : Bool}
    (e : branchTaken f3 (c.xr a.toNat) (c.xr b.toNat) = taken) : jumpTarget c (.branch f3 a b imm) =
      (if taken then some (BitVec.ofNat 64 c.pc + imm.signExtend 64 <<< 1) else none, 0) := by rw [jumpTarget, e]; rfl
end

/-- Settles O35: by the target, the link register and the condition of each transfer. -/
theorem portableJumps : Obligations.PortableJumps := by
  intro s j
  cases j with
  | jal rd imm => exact execPortableBranchJump_goes (taken := true) rfl
  | jalr rd a imm => exact execPortableBranchJump_goes (taken := true) rfl
  | branch f3 a b imm =>
    refine ⟨?_, ?_, ?_, ?_, ?_, ?_⟩ <;> (intro e; subst e; refine execPortableBranchJump_goes (jumpTarget_branch ?_))
    · rfl
    · rfl
    · rfl
    · exact (decide_eq_decide.mpr not_lt.symm).trans (decide_not ..)
    · rfl
    · exact (decide_eq_decide.mpr not_lt.symm).trans (decide_not ..)

/-! ### CSRs (R384, R387) -/

/-- What a CSR takes by funct3: the source, its bits set in the old value, or cleared. -/
def csrValue (f3 : BitVec 3) (old src : Word) : Word :=
  if f3.toNat % 4 = 1 then src else if f3.toNat % 4 = 2 then old ||| src else old &&& ~~~src

theorem csrKnown_iff {n : BitVec 12} :
    csrKnown n = true ↔ (0x800 ≤ n.toNat ∧ n.toNat ≤ 0x803) ∨ (0xCC0 ≤ n.toNat ∧ n.toNat ≤ 0xCC6) := by
  rw [csrKnown, decide_eq_true_eq]
  simp only [List.mem_cons, List.not_mem_nil, or_false]
  omega

theorem funct3_reads {f3 : BitVec 3} : (f3 ≠ 1 ∧ f3 ≠ 5) ↔ f3.toNat % 4 ≠ 1 := by revert f3; decide

section
variable {csr : BitVec 12} {f3 : BitVec 3} {rd a : BitVec 5} (h0 : f3 ≠ 0) (h4 : f3 ≠ 4)
include h0 h4

theorem csrLegal_iff : csrLegal csr f3 a = true ↔
    csrKnown csr = true ∧ (csr.toNat < 0xC00 ∨ ¬ (f3.toNat % 4 = 1 ∨ a ≠ 0)) := by
  simp only [csrLegal, Bool.and_eq_true, Bool.or_eq_true, decide_eq_true_eq, funct3_reads, not_or, ne_eq, not_not, h0, h4,
    not_false_eq_true, and_true]
end

section
variable {s : State} {csr : BitVec 12} {f3 : BitVec 3} {rd a : BitVec 5}

theorem execCsrAccess_illegal (h : csrLegal csr f3 a = false) : execCsrAccess csr f3 rd a s = .next (s.trapP s.focus 0x01 0) := by
  rw [execCsrAccess, baseOp_eq, if_pos h]

section
variable (h : csrLegal csr f3 a = true)
include h

/-- A set or clear whose source field is zero only reads. -/
theorem execCsrAccess_reads (reads : f3.toNat % 4 ≠ 1) (zero : a = 0) :
    execCsrAccess csr f3 rd a s = .next (s.doneX s.focus rd.toNat (s.csrRead s.focus csr.toNat)) := by
  rw [execCsrAccess, baseOp_eq, if_neg (by rw [h]; decide)]
  dsimp only
  split
  next one => exact absurd one reads
  next => rw [if_pos zero]; rfl
  next => rw [if_pos zero]; rfl

theorem execCsrAccess_writes (writes : f3.toNat % 4 = 1 ∨ a ≠ 0) :
    execCsrAccess csr f3 rd a s = .next ((s.setP s.focus (((s.coreP s.focus).csrWrite csr.toNat
      (csrValue f3 (s.csrRead s.focus csr.toNat) (if f3.toNat < 4 then (s.coreP s.focus).xr a.toNat else a.setWidth 64))).setX rd.toNat
        (s.csrRead s.focus csr.toNat))).advance s.focus) := by
  rw [execCsrAccess, baseOp_eq, if_neg (by rw [h]; decide), csrValue]
  dsimp only
  split
  next one => rw [if_pos one]
  next two =>
    have not1 : f3.toNat % 4 ≠ 1 := two.symm ▸ by decide
    rw [if_neg not1, if_pos two, if_neg (writes.resolve_left not1)]
  next not1 not2 => rw [if_neg not1, if_neg not2, if_neg (writes.resolve_left not1)]
end
end

section
variable (c : CoreP) (n : Nat) (w : Word)
theorem CoreP.csrWrite_x : (c.csrWrite n w).x = c.x := by unfold CoreP.csrWrite; split <;> rfl
theorem CoreP.csrWrite_pc : (c.csrWrite n w).pc = c.pc := by unfold CoreP.csrWrite; split <;> rfl
theorem CoreP.csrWrite_flg (h : n ≠ 0x800) : (c.csrWrite n w).flg = c.flg := by
  unfold CoreP.csrWrite
  split
  next => exact absurd rfl h
  all_goals rfl
end

/-- A core that takes a CSR write and x[rd], and goes on. -/
theorem State.csrWrite_advance_spec (s : State) (g n rd : Nat) (v old : Word) :
    let c := (s.coreP g).csrWrite n v
    let t := (s.setP g (c.setX rd old)).advance g
    t = { s with pcores := t.pcores } ∧ (∀ m, (t.coreP g).xr m = if m = rd ∧ m ≠ 0 then old else (s.coreP g).xr m) ∧
      (t.coreP g).pc = ((s.coreP g).pc + 4) % 2 ^ 64 ∧ (t.coreP g).flg = c.flg ∧ (t.coreP g).tiles = c.tiles := by
  intro c
  have core : (s.setP g (c.setX rd old)).coreP g = c.setX rd old := by rw [State.coreP_setP, if_pos rfl]
  obtain ⟨rest, -, pc, -, x, -, flg, tiles, -⟩ := (s.setP g (c.setX rd old)).goTo_spec g (((s.setP g (c.setX rd old)).coreP g).pc + 4)
  rw [core] at rest pc x flg tiles
  rw [State.advance, core]
  refine ⟨rest, fun m => ?_, ?_, flg.trans (CoreP.setX_flg ..), tiles.trans (CoreP.setX_tiles ..)⟩
  · have same : c.xr m = (s.coreP g).xr m := by unfold CoreP.xr; rw [CoreP.csrWrite_x]
    rw [← same, ← CoreP.xr_setX]
    exact congrArg (fun y => if m = 0 then 0 else y.get 0 Config.freeWord m) x
  · exact pc.trans (by rw [CoreP.setX_pc, CoreP.csrWrite_pc])

/-- Settles O36: whether an access is legal, and then whether it writes. -/
theorem csrAccess : Obligations.CsrAccess := by
  intro s csr f3 rd a h0 h4
  simp only [exec_csrAccess]
  have legal := csrLegal_iff (csr := csr) (a := a) h0 h4
  refine ⟨fun reads known => ?_, fun writes known => ?_, fun writes lo hi => ?_, fun unknown => ?_⟩
  · obtain ⟨not1, zero⟩ := not_or.mp reads
    exact ⟨_, execCsrAccess_reads (legal.mpr ⟨csrKnown_iff.mpr (by omega), .inr reads⟩) not1 (not_not.mp zero), s.doneX_putX ..⟩
  · refine ⟨_, execCsrAccess_writes (legal.mpr ⟨csrKnown_iff.mpr (by omega), .inl (by omega)⟩) writes, ?_⟩
    obtain ⟨rest, x, pc, flg, tiles⟩ := s.csrWrite_advance_spec s.focus csr.toNat rd.toNat
      (csrValue f3 (s.csrRead s.focus csr.toNat) (if f3.toNat < 4 then (s.coreP s.focus).xr a.toNat else a.setWidth 64))
      (s.csrRead s.focus csr.toNat)
    refine ⟨rest, x, pc, fun e => flg.trans ?_, fun e => flg.trans (CoreP.csrWrite_flg _ _ _ e), fun e => tiles.trans ?_,
      fun e => tiles.trans ?_, fun e => tiles.trans ?_⟩ <;> (rw [e]; rfl)
  · refine execCsrAccess_illegal (Bool.eq_false_iff.mpr fun ok => ?_)
    obtain ⟨-, low | reads⟩ := legal.mp ok
    · omega
    · exact reads writes
  · refine execCsrAccess_illegal (Bool.eq_false_iff.mpr fun ok => ?_)
    have := csrKnown_iff.mp (legal.mp ok).1
    omega

end Sys2Proof.Machine
end

section
/-! PROOFS. The portable synchronisation and system instructions, and the ends of a portable continuation (O41, O42). -/

namespace Sys2Proof.Machine

section
variable {s : State} {h : BitVec 3} (hh : h.toNat < 5)
include hh

/-! ### The frame of a checked instruction (R396 to R400) -/

theorem sysOp_acts {check : Nat → CoreP → Option Trap} (act : Nat → CoreP → State) (c : check s.focus (s.coreP s.focus) = none) :
    sysOp h s check act = .next (act s.focus (s.coreP s.focus)) := by
  rw [sysOp, xpolOp_ok _ hh]
  simp only [c]

theorem sysOp_traps {check : Nat → CoreP → Option Trap} (act : Nat → CoreP → State) {c d : Nat}
    (e : check s.focus (s.coreP s.focus) = some (c, d)) : sysOp h s check act = .next (s.trapP s.focus c d) := by
  rw [sysOp, xpolOp_ok _ hh]
  simp only [e]
  rfl

/-! ### Posts (R363, R378, R398) -/

variable {a d : BitVec 5}

theorem execTpost_holds {img : List Word} (e : s.localImage s.focus ((s.coreP s.focus).xr a.toNat) = .ok img) :
    execTpost h a d s = .next (s.heldP .tpost d.toNat 0 0 0 0 img) := by
  rw [execTpost, xpolOp_ok _ hh]
  simp only [e]
  rfl

theorem execQpost_holds {img : List Word} (e : s.localImage s.focus ((s.coreP s.focus).xr a.toNat) = .ok img)
    (check : s.postCheck (s.coreP s.focus).asid false img = true) :
    execQpost h a d s = .next (s.heldP .post d.toNat 0 0 0 (BitVec.ofNat 64 (bitsOf (img.getD 7 0) 0 16)) img) := by
  rw [execQpost, xpolOp_ok _ hh]
  simp only [e, check, if_true]
  rfl

/-- An image outside the local buffer (R385). -/
theorem execQpost_outside (out : 0x80000 ≤ ((s.coreP s.focus).xr a.toNat).toNat) :
    execQpost h a d s = .next (s.trapP s.focus 0x09 (((s.coreP s.focus).xr a.toNat).toNat % 2 ^ 32)) := by
  rw [execQpost, xpolOp_ok _ hh]
  simp only [State.localImage, localCheck_outside 64 out]
  rfl

/-! ### Entropy (R380) -/

theorem execQrnd_holds (none_ : (s.die (dieOf s.focus)).draws = []) : execQrnd h d s = .next (s.heldP .rnd d.toNat 0 0 0 0 []) := by
  rw [execQrnd, xpolOp_ok _ hh]
  simp only [State.draw, none_]
  rfl

theorem execQrnd_draws {w : Word} {l : List Word} (e : (s.die (dieOf s.focus)).draws = w :: l) : execQrnd h d s =
    .next (((s.setDie (dieOf s.focus) { s.die (dieOf s.focus) with draws := l }).modP s.focus
      (fun c => { c with drawn := c.drawn + 1 })).doneX s.focus d.toNat w) := by
  rw [execQrnd, xpolOp_ok _ hh]
  simp only [State.draw, e]
end

theorem State.doneX_drawn (s : State) (g rd : Nat) (w : Word) : ((s.doneX g rd w).coreP g).drawn = (s.coreP g).drawn := by
  obtain ⟨-, -, -, -, -, -, -, -, -, drawn⟩ := (s.modP g (fun c => c.setX rd w)).goTo_spec g (((s.modP g (fun c => c.setX rd w)).coreP g).pc + 4)
  exact drawn.trans (by rw [State.coreP_modP, if_pos rfl, CoreP.setX_drawn])

/-- A draw takes the first word of the die's pool and counts it. -/
theorem execQrnd_spec {s : State} {h : BitVec 3} (hh : h.toNat < 5) {d : BitVec 5} {w : Word} {l : List Word}
    (e : (s.die (dieOf s.focus)).draws = w :: l) : ∃ t, execQrnd h d s = .next t ∧ (t.die (dieOf s.focus)).draws = l ∧
      (∀ n, (t.coreP s.focus).xr n = if n = d.toNat ∧ n ≠ 0 then w else (s.coreP s.focus).xr n) ∧
      (t.coreP s.focus).drawn = (s.coreP s.focus).drawn + 1 := by
  let u := (s.setDie (dieOf s.focus) { s.die (dieOf s.focus) with draws := l }).modP s.focus (fun c => { c with drawn := c.drawn + 1 })
  have core : u.coreP s.focus = { s.coreP s.focus with drawn := (s.coreP s.focus).drawn + 1 } := by
    rw [State.coreP_modP, if_pos rfl, State.coreP_setDie]
  obtain ⟨-, -, x, -⟩ := u.doneX_putX d w
  refine ⟨_, execQrnd_draws hh e, ?_, fun n => (x n).trans ?_, ?_⟩
  · exact congrArg Die.draws ((State.die_setDie ..).trans (if_pos rfl))
  · have stays : (u.coreP s.focus).xr n = (s.coreP s.focus).xr n := by rw [core]; rfl
    exact congrArg (if n = d.toNat ∧ n ≠ 0 then w else ·) stays
  · exact (u.doneX_drawn s.focus d.toNat w).trans (congrArg CoreP.drawn core)

/-- Settles O41: each instruction by its check, which traps, or by what it holds or does. -/
theorem portableSync : Obligations.PortableSync := by
  intro s h b a d cond sc hh
  simp only [exec_tpost, exec_qpost, exec_twait, exec_tstat, exec_hbind, exec_hacq, exec_hrel, exec_hpub, exec_hobs, exec_notify,
    exec_pmark, exec_qrnd]
  refine ⟨fun img e => ⟨execTpost_holds hh e, execQpost_holds hh e⟩, execQpost_outside hh,
    fun small chan => ⟨fun target => sysOp_acts hh _ (if_neg ?_), _, sysOp_acts hh _ (if_neg ?_), s.doneX_putX d _⟩,
    fun check => sysOp_acts hh _ check, fun check => sysOp_acts hh _ check, fun check => sysOp_acts hh _ check,
    fun scope => ⟨sysOp_acts hh _ (if_neg (Nat.not_le.mpr scope)), sysOp_acts hh _ (if_neg (Nat.not_le.mpr scope))⟩,
    fun scope => ⟨sysOp_traps hh _ (if_pos scope), sysOp_traps hh _ (if_pos scope)⟩, fun check => sysOp_acts hh _ check,
    xpolOp_ok _ hh, execQrnd_holds hh, fun w l e => execQrnd_spec hh e⟩
  · rw [chan]
    simp only [Nat.not_le.mpr small, Nat.not_le.mpr target, Bool.true_eq_false, or_self, not_false_eq_true]
  · rw [chan]
    simp only [Nat.not_le.mpr small, Bool.true_eq_false, or_self, not_false_eq_true]

/-! ### The ends of a continuation (R312, R313, R400) -/

section
variable {s : State} {h : BitVec 3} (hh : h.toNat < 5) {a : BitVec 5}
include hh

theorem execCsusp_writes {img : List Word} (check : localCheck ((s.coreP s.focus).xr a.toNat).toNat 64 = none)
    (e : s.suspImage s.focus (s.coreP s.focus).asid false ((s.coreP s.focus).xr a.toNat) = .ok img) :
    execCsusp h a s = .next (s.finishCont s.focus (.back (Rec.ofWords img))) := by
  rw [execCsusp, xpolOp_ok _ hh]
  simp only [check, e]

section
variable (small : ((s.coreP s.focus).xr a.toNat).toNat < 2 ^ 32)
include small

theorem execCyield_eq : execCyield h a s = .next
    (if (s.coreP s.focus).mayHonour && !s.inSpan s.focus then s.finishCont s.focus (.hand 0xFFFF ((s.coreP s.focus).xr a.toNat).toNat)
     else s.advance s.focus) := sysOp_acts hh _ (if_neg (Nat.not_le.mpr small))

theorem execCyield_hands (may : (s.coreP s.focus).mayHonour = true) (out : s.inSpan s.focus = false) :
    execCyield h a s = .next (s.finishCont s.focus (.hand 0xFFFF ((s.coreP s.focus).xr a.toNat).toNat)) := by
  rw [execCyield_eq hh small, may, out]
  rfl

theorem execCyield_stays (not_ : (s.coreP s.focus).mayHonour = false ∨ s.inSpan s.focus = true) :
    execCyield h a s = .next (s.advance s.focus) := by
  rw [execCyield_eq hh small, if_neg]
  obtain no | in_ := not_
  · rw [no]; exact Bool.false_ne_true
  · rw [in_, Bool.not_true, Bool.and_false]; exact Bool.false_ne_true
end
end

/-- A portable core is a group of its own. -/
theorem State.groupOf_portable (s : State) {g : Nat} (hg : isGearC g = false) : s.groupOf g = [g] := by
  rw [State.groupOf, hg]; rfl

theorem State.loseStaging_portable (s : State) (r : Rec) {g : Nat} (hg : isGearC g = false) : s.loseStaging r [g] = s := by
  rw [State.loseStaging]
  simp only [List.headD_cons, hg, Bool.false_and, Bool.false_eq_true, if_false]

/-- Where a portable continuation retires, its core ends as a freed one. -/
theorem State.finishCont_retire (s : State) {g : Nat} (hg : isGearC g = false) :
    ∃ u : State, s.finishCont g .retire = u.modP g CoreP.freed := by
  rw [State.finishCont, s.groupOf_portable hg]
  simp only [Bool.false_and, Bool.false_eq_true, if_false, State.loseStaging_portable _ _ hg, List.foldl_cons, List.foldl_nil,
    State.freeCore, hg]
  exact ⟨_, rfl⟩

/-- Settles O42: by each instruction's check, and a core that a continuation leaves. -/
theorem portableEnds : Obligations.PortableEnds := by
  intro s h a hh
  simp only [exec_cend, exec_csusp, exec_cyield]
  refine ⟨xpolOp_ok _ hh, fun img lo al e => execCsusp_writes hh (localCheck_none lo al) e, fun small => execCyield_hands hh small,
    fun small not_ => ⟨_, execCyield_stays hh small not_, s.advance_putNone⟩, fun large => sysOp_traps hh _ (if_pos large),
    fun portable s' e => ?_⟩
  obtain ⟨u, hu⟩ := s.finishCont_retire portable
  have core : s'.coreP s.focus = (u.coreP s.focus).freed := by rw [← e, hu, State.coreP_modP, if_pos rfl]
  rw [core]
  exact ⟨rfl, rfl, rfl, rfl⟩

end Sys2Proof.Machine
end

section
/-! PROOFS. The other portable instructions: vector operations, tiles, and the system instructions and hints (O37, O38, O40). -/

namespace Sys2Proof.Machine

/-! ### Vector operations (R388 to R392) -/

/-- An instruction that is a vector operation writes its result, or traps with it. -/
theorem vecOp_spec {s : State} {h : BitVec 3} (hh : h.toNat < 5) {d : BitVec 5} {i : Instr} {f : CoreP → VRes} {r : VRes}
    (runs : exec i s = vecOp h d s f) (e : f (s.coreP s.focus) = r) :
    (∀ v fl, r = .ok v fl → ∃ t, exec i s = .next t ∧ s.putQ t d v fl) ∧
    (∀ cause detail, r = .trap cause detail → exec i s = .next (s.trapP s.focus cause detail)) := by
  rw [runs, vecOp, xpolOp_ok _ hh, e]
  refine ⟨?_, ?_⟩
  · rintro v fl rfl
    exact ⟨_, rfl, s.doneQ_putQ d v fl⟩
  · rintro cause detail rfl
    rfl

/-! #### Operand values that are checked before tags (R389) -/

section
variable {q v : TVal} {w : Word} {fl : Flags}

/-- A result that completes has passed its checks. -/
theorem ok_of_trap_ite {p : Prop} [Decidable p] {c d : Nat} {k : VRes} (e : (if p then VRes.trap c d else k) = .ok v fl) :
    ¬ p ∧ k = .ok v fl := by
  split at e
  next => cases e
  next no => exact ⟨no, e⟩

theorem ok_of_ite_trap {p : Prop} [Decidable p] {c d : Nat} {k : VRes} (e : (if p then k else VRes.trap c d) = .ok v fl) :
    p ∧ k = .ok v fl := by
  split at e
  next yes => exact ⟨yes, e⟩
  next => cases e

theorem blockBad_of_blkOk {tag : BitVec 5} (ok : blkOk tag (w.toNat >>> 8 % 4) = true) : blockBad tag w = false := by
  rw [blockBad, show bitsOf w 8 2 = w.toNat >>> 8 % 4 from rfl, ok, Bool.not_true, Bool.and_false]

theorem firstField_false {r : VRes} {bad : Bool} (h : bad = false) : firstField bad r = r := by rw [h]; rfl

/-- `qpln` passes its block where the native operation does. -/
theorem firstField_vpln (e : opVpln q (TVal.ofWord w) = .ok v fl) :
    firstField (blockBad (w.setWidth 5) w) (opVpln q (TVal.ofWord w)) = .ok v fl := by
  refine (firstField_false (blockBad_of_blkOk ?_)).trans e
  rw [opVpln, TVal.word_ofWord] at e
  obtain ⟨-, e⟩ := ok_of_trap_ite e
  obtain ⟨-, e⟩ := ok_of_ite_trap e
  obtain ⟨-, e⟩ := ok_of_trap_ite e
  exact (ok_of_ite_trap e).1

/-- And `qupl`. -/
theorem firstField_vupl (e : opVupl q (TVal.ofWord w) = .ok v fl) :
    firstField (blockBad q.tag w) (opVupl q (TVal.ofWord w)) = .ok v fl := by
  refine (firstField_false (blockBad_of_blkOk ?_)).trans e
  rw [opVupl, TVal.word_ofWord] at e
  obtain ⟨-, e⟩ := ok_of_trap_ite e
  obtain ⟨-, e⟩ := ok_of_ite_trap e
  obtain ⟨-, e⟩ := ok_of_trap_ite e
  exact (ok_of_ite_trap e).1

/-- A conversion that completes has its offsets in range. -/
theorem convOp_offsets {d : BitVec 5} {so d0 : Nat} (e : convOp q d so d0 = .ok v fl) : so < elemN q.tag ∧ d0 < elemN d := by
  obtain ⟨-, e⟩ := ok_of_trap_ite e
  obtain ⟨-, e⟩ := ok_of_trap_ite e
  obtain ⟨-, e⟩ := ok_of_trap_ite e
  obtain ⟨inside, -⟩ := ok_of_trap_ite e
  omega

/-- And `qcvtx` its offsets. -/
theorem firstField_vcvt (e : opVcvt q (TVal.ofWord w) = .ok v fl) :
    firstField (cvtOffsetsBad q w) (opVcvt q (TVal.ofWord w)) = .ok v fl := by
  refine (firstField_false ?_).trans e
  rw [opVcvt, TVal.word_ofWord] at e
  obtain ⟨src, dst⟩ := convOp_offsets (ok_of_trap_ite e).2
  have so : ¬ elemN q.tag ≤ bitsOf w 10 10 := Nat.not_le.mpr src
  have d0 : ¬ elemN (w.setWidth 5) ≤ bitsOf w 20 10 := Nat.not_le.mpr dst
  simp only [cvtOffsetsBad, so, d0, decide_false, Bool.and_false, Bool.or_false]
end

/-- `qext` writes the low word of the lane to x[rd]. -/
theorem execQext_puts {s : State} {h : BitVec 3} (hh : h.toNat < 5) {b a d : BitVec 5} {v : TVal}
    (e : opVext ((s.coreP s.focus).qr a.toNat) (TVal.ofWord ((s.coreP s.focus).xr b.toNat)) = .ok v 0) :
    ∃ t, exec (.qext h b a d) s = .next t ∧ s.putX t d v.word := by
  rw [exec_qext, execQext, xpolOp_ok _ hh]
  simp only [CoreP.vq, CoreP.vx, e]
  exact ⟨_, rfl, s.doneX_putX d _⟩

/-- Settles O38: each instruction is a vector operation on the operands that R390 binds. -/
theorem portableVectors : Obligations.PortableVectors := by
  intro s h tag b a d hh
  exact ⟨vecOp_spec hh exec_qadd rfl, vecOp_spec hh exec_qsub rfl, vecOp_spec hh exec_qmul rfl, vecOp_spec hh exec_qfma rfl,
    vecOp_spec hh exec_qmax rfl, vecOp_spec hh exec_qmin rfl, vecOp_spec hh exec_qabs rfl, vecOp_spec hh exec_qneg rfl,
    vecOp_spec hh exec_qclmp rfl, vecOp_spec hh exec_qcmpeq rfl, vecOp_spec hh exec_qcmplt rfl, vecOp_spec hh exec_qcmple rfl,
    vecOp_spec hh exec_qsel rfl, vecOp_spec hh exec_qand rfl, vecOp_spec hh exec_qor rfl, vecOp_spec hh exec_qxor rfl,
    vecOp_spec hh exec_qshl rfl, vecOp_spec hh exec_qshr rfl,
    fun base step => vecOp_spec hh exec_qidx (by rw [idxOperand, if_pos ⟨base, step⟩]),
    fun v e => execQext_puts hh e, vecOp_spec hh exec_qins rfl, vecOp_spec hh exec_qperm rfl, vecOp_spec hh exec_qshuf rfl,
    fun tree => vecOp_spec hh exec_qredadd (if_neg tree), fun up => vecOp_spec hh exec_qredadd (if_pos up),
    vecOp_spec hh exec_qredmax rfl, vecOp_spec hh exec_qexp2 rfl, vecOp_spec hh exec_qlog2 rfl, vecOp_spec hh exec_qrcp rfl,
    vecOp_spec hh exec_qrsq rfl, vecOp_spec hh exec_qdot2 rfl, vecOp_spec hh exec_qscl rfl,
    fun v fl e => vecOp_spec hh exec_qpln (firstField_vpln e), fun v fl e => vecOp_spec hh exec_qupl (firstField_vupl e),
    fun v fl e => vecOp_spec hh exec_qcvtx (firstField_vcvt e), vecOp_spec hh exec_qsortx rfl, vecOp_spec hh exec_qsplat rfl,
    vecOp_spec hh exec_qcvt rfl, vecOp_spec hh exec_qtag rfl⟩

/-! ### Tiles (R394, R395) -/

/-- An update of a core's registers that keeps its pc, and then going on. -/
theorem State.modP_advance_spec (s : State) (g : Nat) {f : CoreP → CoreP} (pc : (f (s.coreP g)).pc = (s.coreP g).pc) :
    let t := (s.modP g f).advance g
    t = { s with pcores := t.pcores } ∧ (t.coreP g).x = (f (s.coreP g)).x ∧ (t.coreP g).q = (f (s.coreP g)).q ∧
      (t.coreP g).flg = (f (s.coreP g)).flg ∧ (t.coreP g).tiles = (f (s.coreP g)).tiles ∧
      (t.coreP g).mmac = (f (s.coreP g)).mmac ∧ (t.coreP g).pc = ((s.coreP g).pc + 4) % 2 ^ 64 := by
  have core : (s.modP g f).coreP g = f (s.coreP g) := by rw [State.coreP_modP, if_pos rfl]
  obtain ⟨rest, -, at_, -, x, q, flg, tiles, -⟩ := (s.modP g f).goTo_spec g ((s.coreP g).pc + 4)
  have mmac : (((s.modP g f).goTo g ((s.coreP g).pc + 4)).coreP g).mmac = ((s.modP g f).coreP g).mmac := by simp [State.goTo]
  rw [core] at x q flg tiles mmac
  dsimp only
  rw [State.advance, core, pc]
  exact ⟨rest, x, q, flg, tiles, mmac, at_⟩

/-- A core that takes tiles and goes on. -/
theorem State.doneT_spec (s : State) (g : Nat) (T : Tiles) :
    let t := s.doneT g T
    (t.coreP g).tiles = T ∧ t = { s with pcores := t.pcores } ∧ (t.coreP g).x = (s.coreP g).x ∧ (t.coreP g).q = (s.coreP g).q ∧
      (t.coreP g).flg = (s.coreP g).flg ∧ (t.coreP g).pc = ((s.coreP g).pc + 4) % 2 ^ 64 := by
  obtain ⟨rest, x, q, flg, tiles, -, pc⟩ := s.modP_advance_spec g (f := fun c => { c with tiles := T }) rfl
  exact ⟨tiles, rest, x, q, flg, pc⟩

section
variable {s : State} {h : BitVec 3} (hh : h.toNat < 5) {b a d : BitVec 5}
include hh

theorem execMthr_acts (v : ((s.coreP s.focus).xr a.toNat).toNat < 2 ^ 32) (n : ((s.coreP s.focus).xr b.toNat).toNat < 2 ^ 16) :
    execMthr h b a s = .next (s.doneT s.focus { (s.coreP s.focus).tiles with
      agv := ((s.coreP s.focus).xr a.toNat).setWidth 32, agc := ((s.coreP s.focus).xr b.toNat).setWidth 16 }) := by
  rw [execMthr, xpolOp_ok _ hh]
  simp only [Nat.not_le.mpr v, Nat.not_le.mpr n, or_self, if_false]

section
variable (bank : bitsOf ((s.coreP s.focus).xr b.toNat) 10 2 = 0)
include bank

section
variable (row : rowDescOk ((s.coreP s.focus).xr b.toNat) = true)
include row

theorem execMrd_puts : execMrd h b a d s = .next (s.doneQ s.focus d.toNat
    (.ok ((s.coreP s.focus).tiles.loadRow a.toNat ((s.coreP s.focus).xr b.toNat)) 0)) := by
  rw [execMrd, xpolOp_ok _ hh]
  simp only [bank, row, ne_eq, not_true_eq_false, Bool.true_eq_false, or_self, if_false]

theorem execMwr_acts (tag : ((s.coreP s.focus).qr a.toNat).tag = if ((s.coreP s.focus).xr b.toNat).getLsbD 12 then 0x07 else 0x01) :
    execMwr h b a d s = .next (s.doneT s.focus
      ((s.coreP s.focus).tiles.storeRow d.toNat ((s.coreP s.focus).xr b.toNat) ((s.coreP s.focus).qr a.toNat))) := by
  rw [execMwr, xpolOp_ok _ hh]
  simp only [bank, row, tag, ne_eq, not_true_eq_false, Bool.true_eq_false, or_self, if_false]
end

/-- A drain writes the row to q[rd] and the overflow bits of its tile. -/
theorem execMdr_spec (check : drCheck (tileDesc ((s.coreP s.focus).xr b.toNat) a.toNat) (s.coreP s.focus).tiles.view = true) :
    let c := s.coreP s.focus
    let y := tileDesc (c.xr b.toNat) a.toNat
    let r := c.tiles.drain a.toNat (bitsOf y 12 2) (bitsOf y 0 7) (bitsOf y 7 3) (bitsOf y 14 2) (y.extractLsb' 32 32)
    ∃ t, execMdr h b a d s = .next t ∧ (t.coreP s.focus).qr d.toNat = r.1 ∧ (t.coreP s.focus).tiles = c.tiles.setRov a.toNat r.2 ∧
      t = { s with pcores := t.pcores } ∧ (t.coreP s.focus).x = c.x := by
  intro c y r
  obtain ⟨rest, x, q, -, tiles, -, -⟩ := s.modP_advance_spec s.focus
    (f := fun c => { c.setQ d.toNat r.1 with tiles := c.tiles.setRov a.toNat r.2 }) rfl
  refine ⟨_, ?_, ?_, tiles, rest, x⟩
  · rw [execMdr, xpolOp_ok _ hh]
    simp only [bank, check, ne_eq, not_true_eq_false, Bool.true_eq_false, or_self, if_false]
    rfl
  · rw [CoreP.qr, q]
    exact (CoreP.qr_setQ c d.toNat d.toNat r.1).trans (if_pos rfl)
end

/-! #### `mmac` (R395) -/

theorem execMmac_traps {e : Trap} (check : mmacCheck (s.coreP s.focus).tiles d.toNat ((s.coreP s.focus).xr a.toNat)
    ((s.coreP s.focus).xr b.toNat) = .error e) : execMmac h b a d s = .next (s.trapP s.focus e.1 e.2) := by
  rw [execMmac, xpolOp_ok _ hh]
  simp only [check]
  rfl

/-- One slice: the tile takes it, and the instruction ends with the last one. -/
theorem execMmac_spec {tag : BitVec 5} (check : mmacCheck (s.coreP s.focus).tiles d.toNat ((s.coreP s.focus).xr a.toNat)
    ((s.coreP s.focus).xr b.toNat) = .ok tag) (runs : (s.coreP s.focus).step1 = false) :
    let c := s.coreP s.focus
    let x := c.xr a.toNat
    let w := c.xr b.toNat
    let nk := bitsOf x 32 16
    let j := c.slice
    ∃ t, execMmac h b a d s = .next t ∧ t = { s with pcores := t.pcores } ∧
      (t.coreP s.focus).tiles = c.tiles.beat d.toNat (s.mmacSlice s.focus (bitsOf x 0 32) 96 tag nk j)
        (s.mmacSlice s.focus (bitsOf w 0 32) 160 tag nk j)
        (isBni tag && (decide ((j + 1) * depth tag % 128 = 0) || decide (j + 1 = nk))) ∧
      (t.coreP s.focus).mmac = (if j + 1 < nk then some ⟨d.toNat, j + 1, nk⟩ else none) ∧
      (t.coreP s.focus).pc = (if j + 1 = nk then (c.pc + 4) % 2 ^ 64 else c.pc) ∧ (t.coreP s.focus).x = c.x := by
  intro c x w nk j
  let f : CoreP → CoreP := fun c => { c with
    tiles := c.tiles.beat d.toNat (s.mmacSlice s.focus (bitsOf x 0 32) 96 tag nk j) (s.mmacSlice s.focus (bitsOf w 0 32) 160 tag nk j)
      (isBni tag && (decide ((j + 1) * depth tag % 128 = 0) || decide (j + 1 = nk)))
    mmac := if j + 1 < nk then some ⟨d.toNat, j + 1, nk⟩ else none }
  have slice : execMmac h b a d s = .next (if j + 1 = nk then (s.modP s.focus f).advance s.focus else s.modP s.focus f) := by
    rw [execMmac, xpolOp_ok _ hh]
    simp only [check, runs, Bool.false_eq_true, if_false]
    rfl
  refine ⟨_, slice, ?_⟩
  by_cases last : j + 1 = nk
  · obtain ⟨rest, sameX, -, -, tiles, mmac, pc⟩ := s.modP_advance_spec s.focus (f := f) rfl
    rw [if_pos last, if_pos last]
    exact ⟨rest, tiles, mmac, pc, sameX⟩
  · have core : (s.modP s.focus f).coreP s.focus = f c := by rw [State.coreP_modP, if_pos rfl]
    rw [if_neg last, if_neg last, core]
    exact ⟨rfl, rfl, rfl, rfl, rfl⟩
end

/-- Settles O40: each instruction by its check and what the tiles take. -/
theorem portableTiles : Obligations.PortableTiles := by
  intro s h b a d hh
  simp only [exec_mclr, exec_mcls, exec_mthr, exec_mrd, exec_mwr, exec_mdr, exec_mmac]
  exact ⟨⟨_, xpolOp_ok _ hh, s.doneT_spec _ _⟩, ⟨_, xpolOp_ok _ hh, s.doneT_spec _ _⟩,
    fun v n => ⟨_, execMthr_acts hh v n, s.doneT_spec _ _⟩,
    fun bank row => ⟨⟨_, execMrd_puts hh bank row, s.doneQ_putQ d _ 0⟩, fun tag => ⟨_, execMwr_acts hh bank row tag, s.doneT_spec _ _⟩⟩,
    fun bank check => execMdr_spec hh bank check, fun tag check runs => execMmac_spec hh check runs, fun e check => execMmac_traps hh check⟩

/-! ### System instructions and hints (R384, R389, R391) -/

/-- A hint of 5 to 7 traps on whatever a decoder of Xpol instructions gives. -/
def HintTraps (s : State) (h : BitVec 3) (o : Option Instr) : Prop :=
  ∀ i, o = some i → exec i s = .next (s.trapP s.focus 0x07 h.toNat)

section
variable {s : State} {h : BitVec 3} (hh : 5 ≤ h.toNat) (b a d : BitVec 5)
include hh

/-- An instruction in the frame of Xpol. -/
theorem trapP_of_xpol {i : Instr} {t : State}
    (frame : exec i s = .next (if 5 ≤ h.toNat then s.trapP s.focus 0x07 h.toNat else t)) :
    exec i s = .next (s.trapP s.focus 0x07 h.toNat) := frame.trans (congrArg _ (if_pos hh))

theorem decodeVec_hintTraps (F : Nat) : HintTraps s h (decodeVec F h b a d) := by
  intro i e
  unfold decodeVec at e
  repeat' split at e
  all_goals cases e
  all_goals exact trapP_of_xpol hh rfl

theorem decodeMemQ_hintTraps (f4 : Nat) : HintTraps s h (decodeMemQ f4 h b a d) := by
  intro i e
  unfold decodeMemQ at e
  split at e
  all_goals cases e
  all_goals exact trapP_of_xpol hh rfl

theorem decodeTile_hintTraps (F : Nat) : HintTraps s h (decodeTile F h b a d) := by
  intro i e
  unfold decodeTile at e
  repeat' split at e
  all_goals cases e
  all_goals exact trapP_of_xpol hh rfl

theorem decodeSys_hintTraps (F : Nat) (c : BitVec 2) (sc : BitVec 3) : HintTraps s h (decodeSys F h b a d c sc) := by
  intro i e
  unfold decodeSys at e
  repeat' split at e
  all_goals cases e
  all_goals exact trapP_of_xpol hh rfl

end

theorem decodeMem_hintTraps {s : State} {h : BitVec 3} (hh : 5 ≤ h.toNat) (f3 f4 : Nat) (t b a d : BitVec 5) (o : BitVec 4) :
    HintTraps s h (match f3 with
      | 0 => some (.qld h t o a d)
      | 1 => if t = 0 then some (.qst h o a d) else none
      | 2 => decodeMemQ f4 h b a d
      | _ => none) := by
  intro i e
  split at e
  next => cases e; exact trapP_of_xpol hh rfl
  next =>
    split at e
    · cases e; exact trapP_of_xpol hh rfl
    · cases e
  next => exact decodeMemQ_hintTraps hh b a d f4 i e
  next => cases e

theorem HintTraps.of_word {s : State} {h : BitVec 3} {o : Option Instr} (traps : HintTraps s h o) : HintTraps s h
    (match o with | some i => Except.ok i | none => .error DecodeErr.illegalInstruction).toOption := by
  cases o with
  | none => exact fun i e => nomatch e
  | some i => exact traps

/-- Whatever a word of the four major opcodes of Xpol decodes to, its hint is [31:29]. -/
theorem decodeWord_hintTraps {s : State} {w : BitVec 32} (hh : 5 ≤ (w.extractLsb' 29 3).toNat)
    (op : w.extractLsb' 0 7 = 0x0B ∨ w.extractLsb' 0 7 = 0x2B ∨ w.extractLsb' 0 7 = 0x5B ∨ w.extractLsb' 0 7 = 0x7B) :
    HintTraps s (w.extractLsb' 29 3) (decodeWord w).toOption := by
  unfold decodeWord
  obtain op | op | op | op := op <;> rw [op]
  · exact .of_word (decodeVec_hintTraps hh _ _ _ _)
  · exact .of_word (decodeMem_hintTraps hh (w.extractLsb' 12 3).toNat (w.extractLsb' 25 4).toNat (w.extractLsb' 24 5)
      (w.extractLsb' 20 5) (w.extractLsb' 15 5) (w.extractLsb' 7 5) (w.extractLsb' 20 4))
  · exact .of_word (decodeTile_hintTraps hh _ _ _ _)
  · exact .of_word (decodeSys_hintTraps hh _ _ _ _ _ _)

/-- Settles O37: a fence only goes on, a call or break stops, and a hint is refused before its instruction acts. -/
theorem portableSystem : Obligations.PortableSystem := by
  intro s
  refine ⟨fun _ _ _ _ _ => ⟨_, rfl, s.advance_putNone, rfl⟩, fun _ _ _ => ⟨_, rfl, s.advance_putNone, rfl⟩, ?_, rfl, ?_⟩
  · rw [exec_ecall, execEcall, baseOp_eq]
    rfl
  · rintro w h i e rfl hh op
    exact decodeWord_hintTraps hh op i (by rw [e]; rfl)

end Sys2Proof.Machine
end

section
/-! PROOFS. The words of the encodings, the step of a portable core, and memory at reset (O2, O3, O7). -/

namespace Sys2Proof.Machine

/-- Settles O2: the decoder on each word. -/
theorem decodeWords : Obligations.DecodeWords := by
  unfold Obligations.DecodeWords
  decide

/-- Settles O7: memory at reset lists no byte. -/
theorem resetMemOk : Obligations.ResetMemOk := rfl

section
variable {s : State} {g : Nat}

/-- No gear S or M core belongs to a tandem, so none stands ahead of one (R152). -/
theorem State.ahead_portable (hg : isGearC g = false) : s.ahead g = false := by
  rw [State.ahead, hg]
  rfl

theorem State.runP_instr {i : Instr} {u : State} (action : s.actionP g = none) (held : (s.coreP g).hold = none)
    (fetch : s.fetchP g = (some (.ok i), u)) : s.runP g = exec i { u with focus := g } := by
  unfold State.runP
  rw [action, held, fetch]
  rfl
end

/-- Settles O3: the turn of the core in focus is the instruction that it fetches. -/
theorem stepRunsPortable : Obligations.StepRunsPortable := by
  intro s u i alive quiet agenda served portable running paused action held fetch
  rw [step, State.oneStep_of_served alive quiet agenda served, State.runCore_portable portable running paused (State.ahead_portable portable),
    State.runP_instr action held fetch]

end Sys2Proof.Machine
end

section
/-! PROOFS. What the lanes of a vector result hold (O14). -/

namespace Sys2Proof.Machine

/-! ### Lanes put together (R199, R323) -/

section
variable (w : Nat) (f : Nat → Nat) (n : Nat)

theorem packLanes_lt : packLanes w f n < 2 ^ (w * n) := by
  induction n with
  | zero => exact Nat.one_pos
  | succ n ih =>
    have top : f n % 2 ^ w + 1 ≤ 2 ^ w := Nat.mod_lt _ (Nat.two_pow_pos w)
    rw [packLanes, Nat.shiftLeft_eq, Nat.mul_succ, Nat.pow_add, Nat.mul_comm (2 ^ (w * n))]
    calc packLanes w f n + f n % 2 ^ w * 2 ^ (w * n) < (f n % 2 ^ w + 1) * 2 ^ (w * n) := by rw [Nat.succ_mul]; omega
      _ ≤ 2 ^ w * 2 ^ (w * n) := Nat.mul_le_mul_right _ top

variable {n}

/-- Lane i of lanes put together is the i-th value, cut to the lane. -/
theorem lane_packLanes {i : Nat} (h : i < n) : lane w (packLanes w f n) i = f i % 2 ^ w := by
  induction n with
  | zero => exact absurd h (Nat.not_lt_zero i)
  | succ n ih =>
    rw [lane, packLanes, Nat.shiftRight_eq_div_pow, Nat.shiftLeft_eq]
    obtain lt | rfl := Nat.lt_succ_iff_lt_or_eq.mp h
    · have above : 2 ^ (w * n) = 2 ^ (w * i) * (2 ^ w * 2 ^ (w * (n - 1 - i))) := by
        rw [← Nat.pow_add, ← Nat.pow_add, Nat.add_comm w, ← Nat.mul_succ, ← Nat.mul_add]
        congr 2
        omega
      rw [above, Nat.mul_left_comm, Nat.add_mul_div_left _ _ (Nat.two_pow_pos _), Nat.mul_left_comm, Nat.add_mul_mod_self_left,
        ← Nat.shiftRight_eq_div_pow]
      exact ih lt
    · rw [Nat.add_mul_div_right _ _ (Nat.two_pow_pos _), Nat.div_eq_of_lt (packLanes_lt w f i), Nat.zero_add, Nat.mod_mod]

variable (n)

/-- Lanes whose flags are clear raise none. -/
theorem packLanesF_plain : packLanesF w (fun i => (f i, 0)) n = (packLanes w f n, 0) := by
  induction n with
  | zero => rfl
  | succ n ih =>
    rw [packLanesF]
    rw [ih]
    exact Prod.ext rfl BitVec.or_zero

variable {n}

/-- The same of a wide value that the lanes fit. -/
theorem vlane_packLanes {tag : BitVec 5} {i : Nat} (fits : w * n ≤ 1024) (h : i < n) :
    vlane ⟨BitVec.ofNat 1024 (packLanes w f n), tag⟩ w i = f i % 2 ^ w := by
  rw [vlane, BitVec.toNat_ofNat, Nat.mod_eq_of_lt ((packLanes_lt w f n).trans_le (Nat.pow_le_pow_right (by decide) fits))]
  exact lane_packLanes w f h
end

theorem laneW_mul_laneN (tag : BitVec 5) : laneW tag * laneN tag ≤ 1024 := Nat.mul_div_le 1024 _

theorem laneW_le (tag : BitVec 5) : laneW tag ≤ 1024 := by revert tag; decide

theorem vlane_mod (v : TVal) (w i : Nat) : vlane v w i % 2 ^ w = vlane v w i := Nat.mod_mod ..

/-! ### Integer lanes (R325) -/

section
variable {tag : BitVec 5} (h : isINX tag = true)
include h

theorem isF_of_isINX : isF tag = false := by revert tag; decide
theorem isFINX_of_isINX : isFINX tag = true := by revert tag; decide

theorem addElem_integer (x y : Nat) : addElem tag x y = (x + y, 0) := by
  rw [addElem, isF_of_isINX h]
  rfl

theorem subElem_integer (x y : Nat) : subElem tag x y = (x + (2 ^ laneW tag - y % 2 ^ laneW tag), 0) := by
  rw [subElem, isF_of_isINX h]
  rfl
end

theorem lanes2_plain (tag : BitVec 5) (f : Nat → Nat → Nat) (a t : TVal) : lanes2 tag (fun x y => (f x y, 0)) a t =
    .plain tag (packLanes (laneW tag) (fun i => f (vlane a (laneW tag) i) (vlane t (laneW tag) i)) (laneN tag)) := by
  rw [lanes2, packLanesF_plain]
  rfl

section
variable {t a : TVal} (h : isINX t.tag = true) (same : a.tag = t.tag)
include h same

theorem opVadd_integer : opVadd t a = .plain t.tag (packLanes (laneW t.tag)
    (fun i => vlane a (laneW t.tag) i + vlane t (laneW t.tag) i) (laneN t.tag)) := by
  rw [opVadd, needTag, if_pos (isFINX_of_isINX h), sameTag, if_pos same, ← lanes2_plain]
  exact congrArg (lanes2 t.tag · a t) (funext₂ (addElem_integer h))

theorem opVsub_integer : opVsub t a = .plain t.tag (packLanes (laneW t.tag)
    (fun i => vlane a (laneW t.tag) i + (2 ^ laneW t.tag - vlane t (laneW t.tag) i % 2 ^ laneW t.tag)) (laneN t.tag)) := by
  rw [opVsub, needTag, if_pos (isFINX_of_isINX h), sameTag, if_pos same,
    ← lanes2_plain t.tag (fun x y => x + (2 ^ laneW t.tag - y % 2 ^ laneW t.tag))]
  exact congrArg (lanes2 t.tag · a t) (funext₂ (subElem_integer h))
end

/-- A difference modulo M, and what was taken from it. -/
theorem sub_add_mod {x y M : Nat} (hx : x < M) (hy : y < M) : ((x + (M - y % M)) % M + y) % M = x := by
  rw [Nat.mod_eq_of_lt hy, Nat.mod_add_mod, show x + (M - y) + y = x + M by omega, Nat.add_mod_right, Nat.mod_eq_of_lt hx]

/-! ### Bits and lane moves (R329 to R332, R340) -/

section
variable {t a b : TVal}

theorem opBits_ok (f : BitVec 1024 → BitVec 1024 → BitVec 1024) (good : badTag t.tag = false) (same : a.tag = t.tag) :
    opBits f t a = .ok ⟨f a.bits t.bits, a.tag⟩ 0 := by
  rw [opBits, needTag, anyTag, good, Bool.not_false, if_pos rfl, if_pos (.inl same)]

section
variable (good : badTag t.tag = false) (inside : a.word.toNat < laneN t.tag)
include good inside

theorem opVins_ok : opVins t a b = .plain t.tag (packLanes (laneW t.tag)
    (fun i => if i = a.word.toNat then b.bits.toNat else vlane t (laneW t.tag) i) (laneN t.tag)) := by
  rw [opVins, needTag, anyTag, good, if_pos inside]
  rfl

theorem opVext_ok : opVext t a = .plain t.tag (vlane t (laneW t.tag) a.word.toNat) := by
  rw [opVext, needTag, anyTag, good, if_pos inside]
  rfl
end

theorem vlane_ofNat (w i : Nat) (h : w ≤ 1024) : (BitVec.ofNat 1024 (vlane t w i)).toNat = vlane t w i := by
  rw [BitVec.toNat_ofNat, Nat.mod_eq_of_lt ((vlane_lt t w i).trans_le (Nat.pow_le_pow_right (by decide) h))]

theorem opVperm_ok (good : badTag t.tag = false) (raw : a.tag = 0) : opVperm t a = .plain t.tag (packLanes 8
    (fun m => if 128 ≤ vlane a 8 m then 0 else vlane t 8 (vlane a 8 m)) 128) := by
  rw [opVperm, needTag, needTag, anyTag, good, raw]
  rfl

section
variable (small : a.word.toNat < 32)
include small

theorem opVtag_ok (good : badTag (a.word.setWidth 5) = false) : opVtag t a = .ok ⟨t.bits, a.word.setWidth 5⟩ 0 := by
  rw [opVtag, ushiftRight_five small]
  simp only [good, ne_eq, not_true_eq_false, Bool.false_eq_true, if_false]

theorem opVtag_traps (bad : badTag (a.word.setWidth 5) = true) : opVtag t a = .trap 0x06 a.word.toNat := by
  rw [opVtag, ushiftRight_five small]
  simp only [bad, ne_eq, not_true_eq_false, if_false, if_true, VRes.tagTrap, BitVec.toNat_setWidth, Nat.mod_eq_of_lt small]
end
end

/-- Settles O14: each result is lanes put together, read back by `vlane_packLanes`. -/
theorem vectorLanes : Obligations.VectorLanes := by
  refine ⟨fun t a h same => ⟨_, _, opVadd_integer h same, opVsub_integer h same, rfl, rfl, fun i hi => ⟨?_, ?_⟩⟩,
    fun t a good same => ⟨opBits_ok _ good same, opBits_ok _ good same, opBits_ok _ good same⟩,
    fun t => ⟨_, rfl, rfl, fun i hi => vlane_packLanes 32 _ (by decide) hi⟩,
    fun t a b good inside => ⟨⟨_, opVins_ok good inside, rfl, fun i hi => ?_⟩,
      _, opVext_ok good inside, rfl, vlane_ofNat _ _ (laneW_le t.tag)⟩,
    fun t a good raw => ⟨_, opVperm_ok good raw, rfl, fun m hm => ?_⟩, fun t a small good => opVtag_ok small good,
    fun t a small bad => opVtag_traps small bad⟩
  · exact vlane_packLanes _ _ (laneW_mul_laneN _) hi
  · rw [vlane_packLanes _ _ (laneW_mul_laneN _) hi]
    exact sub_add_mod (vlane_lt ..) (vlane_lt ..)
  · rw [vlane_packLanes _ _ (laneW_mul_laneN _) hi, apply_ite (· % 2 ^ laneW t.tag), vlane_mod]
  · rw [vlane_packLanes 8 _ (by decide) hm, apply_ite (· % 2 ^ 8), vlane_mod, Nat.zero_mod]

end Sys2Proof.Machine
end
